-- ==== Sys2Proof/Word.lean ====
section
/-! DEFINITION. The word types of the JD-9400 and their plainest arithmetic (R4, R36, R40, R105). -/

namespace Sys2Proof

/-- A 64-bit scalar, register word or table word (R18, R36). -/
abbrev Word := BitVec 64

/-- One 32-bit lane of an instruction line (R40). -/
abbrev Lane := BitVec 32

/-- One 8 KiB slot of the vector register file, byte 0 in the least significant byte (R105, R231). -/
abbrev VReg := BitVec 65536

/-- A vector mask of 2048 bits, bit j for lane j (R152). -/
abbrev KMask := BitVec 2048

/-- Bits hi..lo of a natural number, x[hi:lo] of R4. -/
def bits (x hi lo : Nat) : Nat := (x >>> lo) % 2 ^ (hi + 1 - lo)

/-- One bit of a natural number. -/
def bit (x i : Nat) : Bool := (x >>> i) % 2 == 1

/-- The 64-bit word of a natural number, modulo 2^64. -/
def word (n : Nat) : Word := BitVec.ofNat 64 n

/-- A number of n bits read as two's complement. -/
def signedOf (n x : Nat) : Int :=
  let y := x % 2 ^ n
  if 2 * y < 2 ^ n then (y : Int) else (y : Int) - (2 ^ n : Nat)

/-- An integer modulo 2^n as a natural number. -/
def wrapTo (n : Nat) (x : Int) : Nat := (x % (2 ^ n : Nat)).toNat

/-- Ceiling division. -/
def ceilDiv (a b : Nat) : Nat := (a + b - 1) / b

end Sys2Proof
end

