-- ==== Sys2Proof/Syntax.lean ====
section
/-! DEFINITION. The operations and events of the JD-9400 as syntax: the operand types of R46, the operand
blocks of the formats of R48 to R60, the payloads that events carry, and `Instr`, one constructor per row of
the opcode table. An instruction's fields hold field values only; what a field may not hold is in WellFormed. -/

namespace Sys2Proof

/-- Format tags 0 to 10 (R9). Tags 11 to 15 are reserved and no writer can produce them (R10). -/
inductive Fmt where
  | untyped | fp32 | fp16 | bf16 | fp8e4 | fp8e5 | int32 | int8 | nat8 | g4 | pl
deriving DecidableEq, Repr

/-- The five rounding modes (R11). -/
inductive RMode where
  | rne | rtz | rdn | rup | rna
deriving DecidableEq, Repr

/-- Scopes of SC (R46, R257). -/
inductive Scope where
  | core | cluster | die | device | domain | system
deriving DecidableEq, Repr

/-- Orderings of ORD (R46). -/
inductive Ord where
  | relaxed | acquire | release | acqrel
deriving DecidableEq, Repr

/-- The orderings that acquire (R259). -/
def Ord.acquires : Ord → Bool
  | .acquire | .acqrel => true
  | _ => false

/-- The orderings that release (R259). -/
def Ord.releases : Ord → Bool
  | .release | .acqrel => true
  | _ => false

/-- Atomic operators of AOP (R46). -/
inductive AOp where
  | add | and | or | xor | min | max | swap
deriving DecidableEq, Repr

/-- Tile and collective operators of OPR (R46). -/
inductive Opr where
  | copy | addF32 | addBf16 | maxF32
deriving DecidableEq, Repr

/-- Grid faces of FACE (R46). -/
inductive Face where
  | xm | xp | ym | yp | zm | zp
deriving DecidableEq, Repr

/-- Face rules of RULE (R46). -/
inductive Rule where
  | periodic | fixed | reflect | copy | zero
deriving DecidableEq, Repr

/-- Peer kinds of KIND (R46). -/
inductive Kind where
  | die | otherDie | device
deriving DecidableEq, Repr

/-- Element widths of gather and scatter (R181). -/
inductive Width where
  | w4 | h2 | b1
deriving DecidableEq, Repr

/-- Ring collective operations (R466). -/
inductive RingOp where
  | rs | ag | ar
deriving DecidableEq, Repr

/-- Group collective operations (R468), in OP order. -/
inductive CollOp where
  | ar | ag | rs | a2a | bc
deriving DecidableEq, Repr

/-- The engines of a core, in MASK bit order (R46, R126). -/
inductive Engine where
  | vector | matrix | pump | halo | signature | fabric
deriving DecidableEq, Repr

/-- A VR operand (R46): a plain register, a queue register popped or pushed, or a queue register peeked. -/
inductive VR where
  | v (n : BitVec 7) | q (n : BitVec 5) | pk (n : BitVec 5)
deriving DecidableEq, Repr

/-- Skews of loopb, MASK bit order (R48 CLB). -/
structure Skews where
  vec : BitVec 8
  mat : BitVec 8
  pump : BitVec 8
  halo : BitVec 8
  sig : BitVec 8
  fab : BitVec 8
deriving DecidableEq, Repr

/-- Operands of the VS and VL forms (R50): unused fields hold v0, 0, none or false. -/
structure VOp where
  d : VR
  a : VR
  b : VR
  c : VR
  k : BitVec 3
  dp : BitVec 3
  rm : Option RMode
  sat : Bool
deriving DecidableEq, Repr

/-- Operands of VM (R50); a third lane carries the expected sequence tag. -/
structure MOp where
  x : VR
  h : BitVec 6
  a : BitVec 5
  i : BitVec 22
  k : BitVec 3
  dp : BitVec 3
  tag : Option (BitVec 16)
deriving DecidableEq, Repr

/-- Operands of VG (R50). -/
structure GOp where
  x : VR
  h : BitVec 6
  a : BitVec 5
  ix : VR
  k : BitVec 3
  dp : BitVec 3
deriving DecidableEq, Repr

/-- Operands of MH (R52). -/
structure MHOp where
  h : BitVec 6
  s : BitVec 5
  mct : BitVec 6
  dp : BitVec 3
  pc : BitVec 3
  tr : Bool
  ac : Bool
  zs : Bool
  i : BitVec 19
deriving DecidableEq, Repr

/-- Operands of MDH (R52). -/
structure MDOp where
  h : BitVec 6
  s : BitVec 5
  dp : BitVec 3
  rm : Option RMode
  sat : Bool
  rows : BitVec 8
  i : BitVec 12
deriving DecidableEq, Repr

/-- Operands of PC (R54). -/
structure POp where
  hd : BitVec 6
  hs : BitVec 6
  od : BitVec 5
  tab : BitVec 4
  dp : BitVec 3
  os : BitVec 5
  t : BitVec 5
  n : BitVec 5
  th : BitVec 5
  ni : Bool
  seq : BitVec 16
  ew : BitVec 6
  ei : BitVec 6
  nimm : BitVec 24
  cid : BitVec 4
deriving DecidableEq, Repr

/-- Operands of GM (R56). -/
structure GMOp where
  x : VR
  h : BitVec 6
  a : BitVec 5
  k : BitVec 3
  dp : BitVec 3
  g : BitVec 4
  i : BitVec 18
  st : BitVec 5
deriving DecidableEq, Repr

/-- Operands of FM (R60). -/
structure FMOp where
  x : VR
  h : BitVec 6
  a : BitVec 5
  k : BitVec 3
  dp : BitVec 3
  pr : BitVec 5
  i : BitVec 17
deriving DecidableEq, Repr

/-- Operands of FA (R60). -/
structure FAOp where
  h : BitVec 6
  a : BitVec 5
  pr : BitVec 5
  b : BitVec 5
  dp : BitVec 3
  sc : Scope
  ord : Ord
  ei : BitVec 6
deriving DecidableEq, Repr

/-- Operands of FK (R60). -/
structure FKOp where
  hs : BitVec 6
  hr : BitVec 6
  grp : BitVec 8
  dp : BitVec 3
  fmt : Fmt
  opr : Opr
  ei : BitVec 6
  ew : BitVec 6
  n : BitVec 5
  th : BitVec 5
deriving DecidableEq, Repr

/-- Operands of FB (R60). -/
structure FBOp where
  hd : BitVec 6
  hs : BitVec 6
  pr : BitVec 5
  dp : BitVec 3
  n : BitVec 5
  od : BitVec 5
  os : BitVec 5
  ei : BitVec 6
  ew : BitVec 6
  th : BitVec 5
deriving DecidableEq, Repr

/-- A counter increment on its way to a strand (R270, R271): target, counter, amount and arrival cycle. -/
structure Incr where
  gang : Nat
  strand : Nat
  ctr : BitVec 6
  amt : BitVec 32
  due : Nat
deriving DecidableEq, Repr

/-- A halo layer on its way to a face (R322, R324): `revoked` where the sender's record was revoked as it was sent, `gen` its generation
and `world` its world, `ruled` for the local writes of a ruled face (R323). -/
structure LayerMsg where
  srcDev : BitVec 9
  srcGang : Nat
  srcStrand : Nat
  dev : BitVec 9
  gang : Nat
  strand : Nat
  g : BitVec 4
  face : Face
  step : BitVec 32
  w : Nat
  ew : Nat
  ex : Nat
  ey : Nat
  ez : Nat
  revoked : Bool
  gen : BitVec 32
  world : BitVec 8
  ruled : Bool
  data : Nat
  due : Nat
deriving DecidableEq, Repr

/-- What a remote message does at its peer (the OP of R447 that address a strand's memory or counters). -/
inductive MsgOp where
  | write | tile (opr : Opr) | read | atomic (cas dw : Bool) (op : AOp) (b c : Word) | incr
deriving DecidableEq, Repr

/-- A remote message (R447): destination, slot and offset, data segments (offset from off, bytes, value),
sender and transaction, the world it carries, the data bytes of its transfer up to its end (R473), whether the counter of the peer's record is raised once its bytes
are in place (R464), the cycle at which its bytes are due (R446), and the virtual address at which it waits for an invalidation
(R369). -/
structure Msg where
  dev : BitVec 9
  gang : BitVec 16
  strand : BitVec 16
  slot : BitVec 6
  op : MsgOp
  off : BitVec 48
  ctr : BitVec 6
  fmt : Fmt
  world : BitVec 8
  segs : List (Nat × Nat × Nat)
  len : Nat
  srcDev : BitVec 9
  srcGang : BitVec 16
  srcStrand : BitVec 16
  txn : Nat
  sync : Bool
  flags : Nat
  due : Nat
  wait : Option Nat
deriving DecidableEq, Repr

/-- An acknowledgement or response to a sender (R446, R455, R457): the sender's device, gang, strand and transaction;
whether the access was made, or the reason and place of its refusal by a device; what it brings; when it is due. -/
structure Ack where
  dst : BitVec 9
  gang : BitVec 16
  strand : BitVec 16
  txn : Nat
  ok : Bool
  reason : BitVec 4
  dev : BitVec 9
  off : BitVec 48
  wrote : Bool
  fmt : Fmt
  data : Nat
  due : Nat
deriving DecidableEq, Repr

/-- An item of data that a launch's source places in a strand's partition (R361, R504): the launch by its world and the address
of its record, the strand, the offset, and the bytes. [DESIGN CHOICE, log 52] -/
structure Item where
  world : Nat
  va : Nat
  strand : Nat
  off : Nat
  n : Nat
  v : Nat
deriving DecidableEq, Repr

/-- A doorbell (R218): the position written, and the data that the sources of the launches submitted with it place in partitions, which no queue
entry or record holds (R361, R504). [DESIGN CHOICE, log 52] -/
structure Doorbell where
  pos : BitVec 16
  items : List Item
deriving DecidableEq, Repr

/-- What a write to a function's MSI-X masks does (R480): a vector is unmasked, or the function mask changes. -/
inductive MsixMask where
  | vector (v : Nat)
  | function (m : Bool)
deriving DecidableEq, Repr

/-- A write to a function's MSI-X masks, with the port through which it comes (R477, R480). -/
structure MsixWrite where
  port : Nat
  mask : MsixMask
deriving DecidableEq, Repr

/-- MIGCTL with a command: WORLD and PORT (R476). -/
structure MigCtl where
  world : Nat
  port : BitVec 4
deriving DecidableEq, Repr

/-- Power-up (R491): power comes, or the next step ends, completed or not. -/
inductive PowerUp where
  | on
  | step (ok : Bool)
deriving DecidableEq, Repr

/-- A strand of a sealed context (R488): its slot, and the bytes of its snapshot image and its partition, by their offsets. -/
structure SealedStrand where
  key : Nat
  strand : Nat
  stage : BitVec 8
  pbase : Nat
  image : List (Nat × BitVec 8)
  part : List (Nat × BitVec 8)
deriving DecidableEq, Repr

/-- A gang of a sealed context (R488): its id, launch tag, queue and launch record, and its strands. -/
structure SealedGang where
  id : Nat
  tag : BitVec 16
  sq : BitVec 2
  va : Nat
  strands : List SealedStrand
deriving DecidableEq, Repr

/-- A sealed context (R488): the gangs, regions, revocation state and register page of a world; the page by its registers, regions by number
with base and limit, and the bytes in them by address. No rule lays it out. [DESIGN CHOICE, log 69] -/
structure Sealed where
  gangs : List SealedGang
  regions : List (Nat × Nat × Nat)
  bytes : List (Nat × BitVec 8)
  revoked : List (BitVec 32)
  gmin : BitVec 32
  page : List (Nat × BitVec 64)
deriving DecidableEq, Repr

/-- A campus frame as received: the header of R438, its data and whether its GCM tag verified (R440). -/
structure Frame where
  world : BitVec 8
  keyidx : Bool
  ackonly : Bool
  seq : BitVec 48
  stream : BitVec 16
  ack : BitVec 48
  ncnt : BitVec 16
  nseq : BitVec 48
  dest : BitVec 64
  len : Nat
  data : Nat
  verified : Bool
deriving DecidableEq, Repr

/-- A flit: the header fields of R420 and its payload. -/
structure Flit where
  world : BitVec 8
  keyidx : Bool
  tagv : Bool
  empty : Bool
  rpl : Bool
  nakv : Bool
  slip : Bool
  nakcyc : BitVec 16
  ent : BitVec 12
  fidx : BitVec 12
  payload : BitVec 1024
deriving DecidableEq, Repr

/-- The register page a register access names (R475). -/
inductive RegPage where
  | dev | world (w : Nat) | briwen (p : Nat) | campus (q : Nat)
deriving DecidableEq, Repr

/-- The operations and events of the JD-9400, one constructor per row of the opcode table. Rows that are
instructions carry their operand fields; rows that are events carry what tells one occurrence from another. -/
inductive Instr where
  /-- ADD (R67): Sets s[D] to a + b modulo 2^64. -/
  | add (d a b : BitVec 5)
  /-- SUB (R67): Sets s[D] to a - b modulo 2^64. -/
  | sub (d a b : BitVec 5)
  /-- MUL (R67): Sets s[D] to bits 63:0 of a × b. -/
  | mul (d a b : BitVec 5)
  /-- MULH (R67): Sets s[D] to bits 127:64 of the signed product. -/
  | mulh (d a b : BitVec 5)
  /-- DIV (R67): Signed division truncated toward zero, with defined results for zero divisor and overflow. -/
  | div (d a b : BitVec 5)
  /-- DIVU (R67): Unsigned division, all ones for a zero divisor. -/
  | divu (d a b : BitVec 5)
  /-- REM (R67): Signed remainder with defined results for zero divisor and overflow. -/
  | rem (d a b : BitVec 5)
  /-- AND (R67): Bitwise AND of two scalars. -/
  | and (d a b : BitVec 5)
  /-- OR (R67): Bitwise OR of two scalars. -/
  | or (d a b : BitVec 5)
  /-- XOR (R67): Bitwise XOR of two scalars. -/
  | xor (d a b : BitVec 5)
  /-- SLL (R67): Shift left by b[5:0]. -/
  | sll (d a b : BitVec 5)
  /-- SRL (R67): Logical shift right by b[5:0]. -/
  | srl (d a b : BitVec 5)
  /-- SRA (R67): Arithmetic shift right by b[5:0]. -/
  | sra (d a b : BitVec 5)
  /-- MIN (R67): Signed minimum of two scalars. -/
  | min (d a b : BitVec 5)
  /-- MAX (R67): Signed maximum of two scalars. -/
  | max (d a b : BitVec 5)
  /-- CLZ (R68): Counts leading zero bits of a. -/
  | clz (d a : BitVec 5)
  /-- POPC (R68): Counts one bits of a. -/
  | popc (d a : BitVec 5)
  /-- ADDI (R69): Adds a sign-extended 11-bit immediate. -/
  | addi (d a : BitVec 5) (i : BitVec 11)
  /-- SUBI (R69): Subtracts a sign-extended 11-bit immediate. -/
  | subi (d a : BitVec 5) (i : BitVec 11)
  /-- ANDI (R69): ANDs a sign-extended immediate. -/
  | andi (d a : BitVec 5) (i : BitVec 11)
  /-- ORI (R69): ORs a sign-extended immediate. -/
  | ori (d a : BitVec 5) (i : BitVec 11)
  /-- XORI (R69): XORs a sign-extended immediate. -/
  | xori (d a : BitVec 5) (i : BitVec 11)
  /-- SLLI (R69): Shift left by an immediate 0-63. -/
  | slli (d a : BitVec 5) (i : BitVec 11)
  /-- SRLI (R69): Logical shift right by an immediate 0-63. -/
  | srli (d a : BitVec 5) (i : BitVec 11)
  /-- SRAI (R69): Arithmetic shift right by an immediate 0-63. -/
  | srai (d a : BitVec 5) (i : BitVec 11)
  /-- LI (R70): One-lane form: loads a sign-extended 16-bit immediate. -/
  | li (d : BitVec 5) (i : BitVec 16)
  /-- LI_LONG (R70): Three-lane form: loads a full 64-bit immediate. -/
  | liLong (d : BitVec 5) (i : BitVec 64)
  /-- CMPEQ (R71): Sets p[PD] to a = b. -/
  | cmpeq (p : BitVec 3) (a b : BitVec 5)
  /-- CMPNE (R71): Sets p[PD] to a != b. -/
  | cmpne (p : BitVec 3) (a b : BitVec 5)
  /-- CMPLT (R71): Sets p[PD] to signed a < b. -/
  | cmplt (p : BitVec 3) (a b : BitVec 5)
  /-- CMPLE (R71): Sets p[PD] to signed a <= b. -/
  | cmple (p : BitVec 3) (a b : BitVec 5)
  /-- CMPLTU (R71): Sets p[PD] to unsigned a < b. -/
  | cmpltu (p : BitVec 3) (a b : BitVec 5)
  /-- CMPLEU (R71): Sets p[PD] to unsigned a <= b. -/
  | cmpleu (p : BitVec 3) (a b : BitVec 5)
  /-- CMPEQ_IMM (R71): Compares a with a 13-bit immediate for equality. -/
  | cmpeqImm (p : BitVec 3) (a : BitVec 5) (i : BitVec 13)
  /-- CMPNE_IMM (R71): Compares a with an immediate for inequality. -/
  | cmpneImm (p : BitVec 3) (a : BitVec 5) (i : BitVec 13)
  /-- CMPLT_IMM (R71): Signed less-than against an immediate. -/
  | cmpltImm (p : BitVec 3) (a : BitVec 5) (i : BitVec 13)
  /-- CMPLE_IMM (R71): Signed less-or-equal against an immediate. -/
  | cmpleImm (p : BitVec 3) (a : BitVec 5) (i : BitVec 13)
  /-- CMPLTU_IMM (R71): Unsigned less-than against a sign-extended immediate. -/
  | cmpltuImm (p : BitVec 3) (a : BitVec 5) (i : BitVec 13)
  /-- CMPLEU_IMM (R71): Unsigned less-or-equal against a sign-extended immediate. -/
  | cmpleuImm (p : BitVec 3) (a : BitVec 5) (i : BitVec 13)
  /-- ANDP (R72): Predicate AND. -/
  | andp (d a b : BitVec 3)
  /-- ORP (R72): Predicate OR. -/
  | orp (d a b : BitVec 3)
  /-- XORP (R72): Predicate XOR. -/
  | xorp (d a b : BitVec 3)
  /-- NOTP (R72): Predicate NOT. -/
  | notp (d a : BitVec 3)
  /-- LDB (R73): One-lane load of a sign-extended byte through a handle. -/
  | ldb (d : BitVec 5) (h : BitVec 6) (a u : BitVec 5)
  /-- LDBU (R73): One-lane load of a zero-extended byte. -/
  | ldbu (d : BitVec 5) (h : BitVec 6) (a u : BitVec 5)
  /-- LDH (R73): One-lane load of a sign-extended halfword. -/
  | ldh (d : BitVec 5) (h : BitVec 6) (a u : BitVec 5)
  /-- LDHU (R73): One-lane load of a zero-extended halfword. -/
  | ldhu (d : BitVec 5) (h : BitVec 6) (a u : BitVec 5)
  /-- LDW (R73): One-lane load of a sign-extended word. -/
  | ldw (d : BitVec 5) (h : BitVec 6) (a u : BitVec 5)
  /-- LDWU (R73): One-lane load of a zero-extended word. -/
  | ldwu (d : BitVec 5) (h : BitVec 6) (a u : BitVec 5)
  /-- LDD (R73): One-lane load of a doubleword. -/
  | ldd (d : BitVec 5) (h : BitVec 6) (a u : BitVec 5)
  /-- STB (R73): One-lane posted store of a byte. -/
  | stb (d : BitVec 5) (h : BitVec 6) (a u : BitVec 5)
  /-- STH (R73): One-lane posted store of a halfword. -/
  | sth (d : BitVec 5) (h : BitVec 6) (a u : BitVec 5)
  /-- STW (R73): One-lane posted store of a word. -/
  | stw (d : BitVec 5) (h : BitVec 6) (a u : BitVec 5)
  /-- STD (R73): One-lane posted store of a doubleword. -/
  | std (d : BitVec 5) (h : BitVec 6) (a u : BitVec 5)
  /-- LDB_LONG (R73): Two-lane byte load with a 28-bit signed offset. -/
  | ldbLong (d : BitVec 5) (h : BitVec 6) (a : BitVec 5) (i : BitVec 28)
  /-- LDBU_LONG (R73): Two-lane zero-extended byte load. -/
  | ldbuLong (d : BitVec 5) (h : BitVec 6) (a : BitVec 5) (i : BitVec 28)
  /-- LDH_LONG (R73): Two-lane halfword load. -/
  | ldhLong (d : BitVec 5) (h : BitVec 6) (a : BitVec 5) (i : BitVec 28)
  /-- LDHU_LONG (R73): Two-lane zero-extended halfword load. -/
  | ldhuLong (d : BitVec 5) (h : BitVec 6) (a : BitVec 5) (i : BitVec 28)
  /-- LDW_LONG (R73): Two-lane word load. -/
  | ldwLong (d : BitVec 5) (h : BitVec 6) (a : BitVec 5) (i : BitVec 28)
  /-- LDWU_LONG (R73): Two-lane zero-extended word load. -/
  | ldwuLong (d : BitVec 5) (h : BitVec 6) (a : BitVec 5) (i : BitVec 28)
  /-- LDD_LONG (R73): Two-lane doubleword load. -/
  | lddLong (d : BitVec 5) (h : BitVec 6) (a : BitVec 5) (i : BitVec 28)
  /-- STB_LONG (R73): Two-lane byte store. -/
  | stbLong (d : BitVec 5) (h : BitVec 6) (a : BitVec 5) (i : BitVec 28)
  /-- STH_LONG (R73): Two-lane halfword store. -/
  | sthLong (d : BitVec 5) (h : BitVec 6) (a : BitVec 5) (i : BitVec 28)
  /-- STW_LONG (R73): Two-lane word store. -/
  | stwLong (d : BitVec 5) (h : BitVec 6) (a : BitVec 5) (i : BitVec 28)
  /-- STD_LONG (R73): Two-lane doubleword store. -/
  | stdLong (d : BitVec 5) (h : BitVec 6) (a : BitVec 5) (i : BitVec 28)
  /-- AMO (R277): Atomic read-modify-write of 4 or 8 bytes with optional acquire/release. -/
  | amo (dw : Bool) (d : BitVec 5) (h : BitVec 6) (a : BitVec 5) (op : AOp) (sc : Scope) (ord : Ord) (b : BitVec 5)
  /-- ACAS (R277): Atomic compare-and-swap of 4 or 8 bytes. -/
  | acas (dw : Bool) (d : BitVec 5) (h : BitVec 6) (a : BitVec 5) (sc : Scope) (ord : Ord) (b c : BitVec 5)
  /-- HQ (R77): Returns one property of a handle slot. -/
  | hq (d : BitVec 5) (h : BitVec 6) (sel : BitVec 4)
  /-- HDERIVE (R78): Writes a narrowed, resealed copy of a handle into a slot. -/
  | hderive (hd ha : BitVec 6) (a b keep : BitVec 5)
  /-- HOFF (R79): Writes a handle advanced by an offset into a slot. -/
  | hoff (hd ha : BitVec 6) (a : BitVec 5)
  /-- HCLEAR (R80): Empties a handle slot. -/
  | hclear (hd : BitVec 6)
  /-- B (R83): Unconditional branch to a line. -/
  | b (line : BitVec 13)
  /-- BC (R83): Branch when a predicate is true. -/
  | bc (p : BitVec 3) (line : BitVec 13)
  /-- BCN (R83): Branch when a predicate is false. -/
  | bcn (p : BitVec 3) (line : BitVec 13)
  /-- CALL (R83): Branch and link the next line offset. -/
  | call (d : BitVec 5) (line : BitVec 13)
  /-- CALLR (R84): Call to a line offset held in a scalar. -/
  | callr (d a : BitVec 5)
  /-- RET (R84): Transfer to a line offset held in a scalar. -/
  | ret (a : BitVec 5)
  /-- LOOPB (R86): Pushes loop markers and opens loop delivery over the following lines. -/
  | loopb (mask : BitVec 6) (lm1 : BitVec 5) (nm1 : BitVec 16) (skews : Skews)
  /-- CSRR (R91): Reads a control and status register. -/
  | csrr (r : BitVec 5) (num : BitVec 12)
  /-- CSRW (R91): Writes a control and status register by field access codes. -/
  | csrw (r : BitVec 5) (num : BitVec 12)
  /-- CSRS (R91): Sets bits of a control and status register. -/
  | csrs (r : BitVec 5) (num : BitVec 12)
  /-- CSRC (R91): Clears bits of a control and status register. -/
  | csrc (r : BitVec 5) (num : BitVec 12)
  /-- RDDCC (R92): Reads the domain cycle count. -/
  | rddcc (r : BitVec 5)
  /-- DCCWAIT (R92): Holds control until the DCC reaches s[S]. -/
  | dccwait (r : BitVec 5)
  /-- EVINC (R271): Adds 1 to a counter of a gang strand, optionally as a release. -/
  | evinc (e : BitVec 6) (a : BitVec 5) (sc : Scope) (rel : Bool)
  /-- EVINC_N (R271): Adds s[B] to a counter of a gang strand, optionally as a release. -/
  | evincN (e : BitVec 6) (a : BitVec 5) (sc : Scope) (rel : Bool) (b : BitVec 5)
  /-- EVWAIT (R272): Waits for a counter to meet an immediate threshold, optionally acquiring. -/
  | evwait (e : BitVec 6) (acq : Bool) (t : BitVec 11)
  /-- EVWAIT_REG (R272): Waits for a counter to meet a scalar threshold. -/
  | evwaitReg (e : BitVec 6) (acq : Bool) (t : BitVec 5)
  /-- EVREAD (R273): Reads an event counter. -/
  | evread (d : BitVec 5) (e : BitVec 6)
  /-- FENCEM (R274): Pushes fence markers to engines and holds until they leave their heads. -/
  | fencem (mask : BitVec 6)
  /-- FENCE (R275): Release fence over every write of the strand. -/
  | fence (sc : Scope)
  /-- BANKLEND (R144): Lends a vector bank to the matrix engine as an accumulator group. -/
  | banklend (bank : BitVec 2) (grp : BitVec 1)
  /-- BANKRET (R145): Returns a lent bank to the vector engine. -/
  | bankret (grp : BitVec 1)
  /-- TBAR (R226): Arrives at a team barrier and holds until every member has arrived. -/
  | tbar (team : BitVec 8) (a : BitVec 5)
  /-- SVC (R93): Sends a service call to the scheduler core and holds for the reply. -/
  | svc (code : BitVec 16)
  /-- TRAP (R94): Raises SWTRAP with the code in TINFO. -/
  | trap (code : BitVec 16)
  /-- TRET (R34): Returns from a trap handler and releases a frozen engine. -/
  | tret
  /-- HALT (R32): Stops fetch; the strand retires once its work drains. -/
  | halt
  /-- NOP (R96): Takes one cycle with no effect. -/
  | nop
  /-- VADD (R158): Elementwise addition in the suffix format. -/
  | vadd (f : Fmt) (o : VOp)
  /-- VSUB (R158): Elementwise subtraction. -/
  | vsub (f : Fmt) (o : VOp)
  /-- VMUL (R158): Elementwise multiplication. -/
  | vmul (f : Fmt) (o : VOp)
  /-- VFMA (R158): Fused multiply-add rounded once. -/
  | vfma (f : Fmt) (o : VOp)
  /-- VMIN (R158): Elementwise minimum. -/
  | vmin (f : Fmt) (o : VOp)
  /-- VMAX (R158): Elementwise maximum. -/
  | vmax (f : Fmt) (o : VOp)
  /-- VABS (R158): Elementwise absolute value. -/
  | vabs (f : Fmt) (o : VOp)
  /-- VNEG (R158): Elementwise negation. -/
  | vneg (f : Fmt) (o : VOp)
  /-- VDIV (R158): FP32 elementwise division rounded once. -/
  | vdiv (o : VOp)
  /-- VSQRT (R158): FP32 elementwise square root. -/
  | vsqrt (o : VOp)
  /-- VCMPEQ (R159): Sets a mask from elementwise equality. -/
  | vcmpeq (f : Fmt) (kd : BitVec 3) (o : VOp)
  /-- VCMPLT (R159): Sets a mask from elementwise less-than. -/
  | vcmplt (f : Fmt) (kd : BitVec 3) (o : VOp)
  /-- VCMPLE (R159): Sets a mask from elementwise less-or-equal. -/
  | vcmple (f : Fmt) (kd : BitVec 3) (o : VOp)
  /-- VKAND (R160): Mask AND. -/
  | vkand (kd ka kb dp : BitVec 3)
  /-- VKOR (R160): Mask OR. -/
  | vkor (kd ka kb dp : BitVec 3)
  /-- VKXOR (R160): Mask XOR. -/
  | vkxor (kd ka kb dp : BitVec 3)
  /-- VKNOT (R160): Mask NOT. -/
  | vknot (kd ka dp : BitVec 3)
  /-- VKSET (R160): Sets the first n bits of a mask. -/
  | vkset (kd : BitVec 3) (n : BitVec 12) (dp : BitVec 3)
  /-- VKCNT (R161): Broadcasts the population count of a mask. -/
  | vkcnt (ka : BitVec 3) (o : VOp)
  /-- VSEL (R162): Selects lanes of A or B by a mask. -/
  | vsel (o : VOp)
  /-- VAND (R163): Lanewise bitwise AND. -/
  | vand (o : VOp)
  /-- VOR (R163): Lanewise bitwise OR. -/
  | vor (o : VOp)
  /-- VXOR (R163): Lanewise bitwise XOR. -/
  | vxor (o : VOp)
  /-- VNOT (R163): Lanewise bitwise NOT. -/
  | vnot (o : VOp)
  /-- VSHL (R163): Lanewise shift left. -/
  | vshl (o : VOp)
  /-- VSHR (R163): Lanewise logical shift right. -/
  | vshr (o : VOp)
  /-- VSRA (R163): Lanewise arithmetic shift right. -/
  | vsra (o : VOp)
  /-- VCVT (R167): Converts a register from its tag to the suffix format. -/
  | vcvt (f : Fmt) (o : VOp)
  /-- VTAG (R168): Copies lanes and sets the tag. -/
  | vtag (f : Fmt) (o : VOp)
  /-- VEXP (R169): FP32 exponential. -/
  | vexp (o : VOp)
  /-- VLOG (R169): FP32 natural logarithm. -/
  | vlog (o : VOp)
  /-- VRCP (R169): FP32 reciprocal. -/
  | vrcp (o : VOp)
  /-- VRSQRT (R169): FP32 reciprocal square root. -/
  | vrsqrt (o : VOp)
  /-- VTANH (R169): FP32 hyperbolic tangent. -/
  | vtanh (o : VOp)
  /-- VSIG (R169): FP32 logistic sigmoid. -/
  | vsig (o : VOp)
  /-- VREDSUM (R170): Pairwise-tree sum reduction into element 0. -/
  | vredsum (f : Fmt) (o : VOp)
  /-- VREDMAX (R170): Tree maximum reduction. -/
  | vredmax (f : Fmt) (o : VOp)
  /-- VREDMIN (R170): Tree minimum reduction. -/
  | vredmin (f : Fmt) (o : VOp)
  /-- VSCAN (R171): Inclusive prefix sums. -/
  | vscan (f : Fmt) (o : VOp)
  /-- VPERM (R172): Permutes lanes of A by indices in B. -/
  | vperm (o : VOp)
  /-- VBCST (R173): Broadcasts a 32-bit immediate. -/
  | vbcst (f : Fmt) (d : VR) (i : BitVec 32) (k dp : BitVec 3)
  /-- VGATHER (R181): Gathers elements from memory by indices. -/
  | vgather (w : Width) (o : GOp)
  /-- VSCATTER (R181): Scatters elements to memory by indices. -/
  | vscatter (w : Width) (o : GOp)
  /-- VLD (R174): Loads a vector register through a handle, with optional tag check. -/
  | vld (f : Fmt) (o : MOp)
  /-- VST (R174): Stores a vector register through a handle. -/
  | vst (f : Fmt) (o : MOp)
  /-- VPSPLIT (R179): Converts FP32 to plane-nested form with k planes. -/
  | vpsplit (pc : BitVec 3) (o : VOp)
  /-- VPMERGE (R179): Converts plane-nested data to FP32 with k planes. -/
  | vpmerge (pc : BitVec 3) (o : VOp)
  /-- VBSCALE (R180): Divides FP32 elements by given group scales into FP8 or PL. -/
  | vbscale (f : Fmt) (pc : BitVec 3) (o : VOp)
  /-- VMOV (R164): Copies lanes and tag, moving queue entries. -/
  | vmov (o : VOp)
  /-- VRND (R182): Sets the vector engine's current rounding mode. -/
  | vrnd (rm : RMode) (dp : BitVec 3)
  /-- VCLAMP (R166): Clamps elements between low and high. -/
  | vclamp (f : Fmt) (o : VOp)
  /-- VIOTA (R165): Writes the lane index into each lane. -/
  | viota (o : VOp)
  /-- MLDW (R191): Loads the weight buffer from memory. -/
  | mldw (f : Fmt) (o : MHOp)
  /-- MMUL (R195): Streams an activation tile through the array into an accumulator. -/
  | mmul (f : Fmt) (a : BitVec 4) (o : MHOp)
  /-- MMULQ (R196): Pass taking activation rows from a queue entry. -/
  | mmulq (f : Fmt) (a : BitVec 4) (q : BitVec 5) (pk : Bool) (dp : BitVec 3)
  /-- MLDWQ (R193): Loads weights from queue entries. -/
  | mldwq (f : Fmt) (q : BitVec 5) (dp : BitVec 3)
  /-- MLDG (R192): Loads weights from an FP32 tile rounded to BF16. -/
  | mldg (o : MHOp)
  /-- MLDACC (R211): Loads or accumulates an FP32 tile into an accumulator. -/
  | mldacc (a : BitVec 4) (o : MHOp)
  /-- MPRE (R212): Hints staging of bytes near the array. -/
  | mpre (o : MHOp)
  /-- MDRAIN (R200): Drains accumulator rows into a queue register. -/
  | mdrain (f : Fmt) (a : BitVec 4) (q : BitVec 5) (rows : BitVec 8) (dp : BitVec 3)
  /-- MDRAINC (R201): Drains accumulator rows to a cistern. -/
  | mdrainc (f : Fmt) (a : BitVec 4) (o : MDOp)
  /-- MDRAINS (R203): Drains rows to the streaming port as remote writes. -/
  | mdrains (f : Fmt) (a : BitVec 4) (pr : BitVec 5) (o : MDOp)
  /-- MDRAINP (R202): Drains rows as a plane-nested tensor. -/
  | mdrainp (a : BitVec 4) (o : MDOp)
  /-- MZERO (R204): Zeroes an accumulator. -/
  | mzero (a : BitVec 4) (dp : BitVec 3)
  /-- MACCMOV (R204): Copies one accumulator to another. -/
  | maccmov (a b : BitVec 4) (dp : BitVec 3)
  /-- MSCALE (R204): Scales accumulator columns by a vector. -/
  | mscale (a : BitVec 4) (x : VR) (dp : BitVec 3)
  /-- MBIAS (R204): Adds a vector bias to accumulator columns. -/
  | mbias (a : BitVec 4) (x : VR) (dp : BitVec 3)
  /-- MSWAP (R204): Exchanges two accumulators. -/
  | mswap (a b : BitVec 4) (dp : BitVec 3)
  /-- MCFG (R205): Sets the tile dimensions TM, TK and TN. -/
  | mcfg (m k n : BitVec 7) (dp : BitVec 3)
  /-- MRND (R205): Sets the matrix rounding mode. -/
  | mrnd (rm : RMode) (dp : BitVec 3)
  /-- PCOPY (R299): Issues a timed or best-effort copy into the time-sorted buffer. -/
  | pcopy (be : Bool) (o : POp)
  /-- PCOPY2D (R299): Issues a two-dimensional timed copy. -/
  | pcopy2d (be : Bool) (rows : BitVec 10) (o : POp)
  /-- PCOPYD (R311): Issues a decoding copy through a code table. -/
  | pcopyd (be : Bool) (o : POp)
  /-- PCOPYH_IN (R300): Copies from host memory. -/
  | pcopyhIn (o : POp)
  /-- PCOPYH_OUT (R300): Copies to host memory. -/
  | pcopyhOut (o : POp)
  /-- POVER (R301): Copies an overlay into instruction memory. -/
  | pover (o : POp)
  /-- PCMD (R301): Copies into the engine command store. -/
  | pcmd (o : POp)
  /-- PFILL (R302): Fills a span with a 64-bit pattern. -/
  | pfill (o : POp)
  /-- PTAGSET (R302): Writes sequence tags over a span. -/
  | ptagset (o : POp)
  /-- PTAGCHK (R303): Checks tile tags and increments a counter on match. -/
  | ptagchk (o : POp)
  /-- PPREFETCH (R304): Walks translations of a span into the cache. -/
  | pprefetch (o : POp)
  /-- PEVENT (R305): Raises a counter at a stated cycle as a release. -/
  | pevent (e : BitVec 6) (t a : BitVec 5) (dp : BitVec 3)
  /-- PTAB (R310): Creates a new generation of a code table slot. -/
  | ptab (h : BitVec 6) (t : BitVec 4) (dp : BitVec 3)
  /-- PCANCEL (R306): Cancels the live command holding a cancel handle. -/
  | pcancel (c : BitVec 4) (dp : BitVec 3)
  /-- PFLUSH (R307): Removes every unstarted command from the buffer. -/
  | pflush (dp : BitVec 3)
  /-- GDECL (R329): Declares a grid from a handle. -/
  | gdecl (g : BitVec 4) (h : BitVec 6) (dp : BitVec 3)
  /-- GBIND (R329): Binds a counter raised at each completed exchange. -/
  | gbind (g : BitVec 4) (e : BitVec 6) (dp : BitVec 3)
  /-- GBOUND (R329): Rules a face of a grid. -/
  | gbound (g : BitVec 4) (face : Face) (rule : Rule) (dp : BitVec 3)
  /-- GDEPTH (R329): Sets stencil radius and temporal-blocking depth. -/
  | gdepth (g : BitVec 4) (bm1 : BitVec 2) (a : BitVec 5) (dp : BitVec 3)
  /-- GFACE (R329): Connects a face to a peer. -/
  | gface (g : BitVec 4) (face : Face) (kind : Kind) (a : BitVec 5) (dp : BitVec 3)
  /-- GSTEP (R332): Advances the grid's step. -/
  | gstep (g : BitVec 4) (dp : BitVec 3)
  /-- GXCHG (R332): Starts a halo exchange of the grid. -/
  | gxchg (g : BitVec 4) (dp : BitVec 3)
  /-- GWAIT (R333): Holds the halo queue until every face holds a step, then raises a counter. -/
  | gwait (g : BitVec 4) (st : BitVec 5) (e : BitVec 6) (dp : BitVec 3)
  /-- GRESET (R331): Resets a grid's steps after its exchanges complete. -/
  | greset (g : BitVec 4) (dp : BitVec 3)
  /-- GFREE (R331): Undeclares a grid after its exchanges complete. -/
  | gfree (g : BitVec 4) (dp : BitVec 3)
  /-- GLD (R335): Step-tagged grid load. -/
  | gld (f : Fmt) (o : GMOp)
  /-- GST (R335): Step-tagged grid store. -/
  | gst (f : Fmt) (o : GMOp)
  /-- SIGCFG (R347): Configures dimension and depth and clears the accumulator. -/
  | sigcfg (dim : BitVec 4) (dep : BitVec 2) (dp : BitVec 3)
  /-- SIGZERO (R347): Clears levels and sets an empty segment at a step. -/
  | sigzero (a : BitVec 5) (dp : BitVec 3)
  /-- SIGSEG (R347): Sets the segment range. -/
  | sigseg (a b : BitVec 5) (dp : BitVec 3)
  /-- SIGINC (R348): Applies one increment to the signature. -/
  | siginc (f : Fmt) (x : VR) (dp : BitVec 3)
  /-- SIGINCB (R349): Applies c increments read from memory. -/
  | sigincb (f : Fmt) (h : BitVec 6) (a b : BitVec 5) (dp : BitVec 3)
  /-- SIGJOIN (R350): Joins a stored signature on the right or left by Chen's identity. -/
  | sigjoin (left : Bool) (h : BitVec 6) (a : BitVec 5) (dp : BitVec 3)
  /-- SIGLOG (R351): Replaces the levels by the log-signature. -/
  | siglog (dp : BitVec 3)
  /-- SIGEXP (R351): Replaces a log-signature by its exponential. -/
  | sigexp (dp : BitVec 3)
  /-- SIGLD (R352): Loads a stored signature. -/
  | sigld (h : BitVec 6) (a : BitVec 5) (dp : BitVec 3)
  /-- SIGST (R352): Stores the accumulator as a stored signature. -/
  | sigst (f : Fmt) (h : BitVec 6) (a : BitVec 5) (dp : BitVec 3)
  /-- SIGDRAIN (R354): Pushes one level into a queue register. -/
  | sigdrain (q : BitVec 5) (lvl : BitVec 2) (dp : BitVec 3)
  /-- XST (R451): Posted remote write of a vector register to a peer. -/
  | xst (f : Fmt) (o : FMOp)
  /-- XLD (R455): Remote read of a peer's bytes into a register. -/
  | xld (f : Fmt) (o : FMOp) (ei : BitVec 6)
  /-- XAMO (R457): Remote atomic read-modify-write. -/
  | xamo (dw : Bool) (op : AOp) (o : FAOp)
  /-- XACAS (R457): Remote atomic compare-and-swap. -/
  | xacas (dw : Bool) (c : BitVec 5) (o : FAOp)
  /-- XEVINC (R458): Increments a peer strand's counter, optionally as a release. -/
  | xevinc (e : BitVec 6) (pr : BitVec 5) (sc : Scope) (rel : Bool) (dp : BitVec 3)
  /-- XTRIG (R460): Arms a trigger on a command-store entry. -/
  | xtrig (ew : BitVec 6) (th : BitVec 5) (slot : BitVec 6) (dp : BitVec 3)
  /-- XTILE (R461): Fills a tile table entry. -/
  | xtile (ti : BitVec 5) (h : BitVec 6) (pr : BitVec 5) (opr : Opr) (a : BitVec 5) (dp : BitVec 3)
  /-- XREADY (R462): Fires a tile table entry. -/
  | xready (ti : BitVec 5) (dp : BitVec 3)
  /-- XRING (R466): Runs one ring collective step along a torus dimension. -/
  | xring (op : RingOp) (ring : BitVec 4) (h : BitVec 6) (a b : BitVec 5) (ei ew : BitVec 6) (th : BitVec 5) (dp : BitVec 3)
  /-- XSCHED (R465): Loads schedule entries into a Briwen port. -/
  | xsched (port : BitVec 4) (h : BitVec 6) (t : BitVec 5) (dp : BitVec 3)
  /-- XPORT (R464): Streams a converted region to a peer. -/
  | xport (pr : BitVec 5) (h : BitVec 6) (f : Fmt) (rm : RMode) (dp : BitVec 3)
  /-- XCOMP (R471): Compresses a gradient to PL with error feedback. -/
  | xcomp (hs hr : BitVec 6) (kp : BitVec 3) (cp : BitVec 2) (ei : BitVec 6) (dp : BitVec 3)
  /-- XRESID (R471): Adds residuals into a gradient and clears them. -/
  | xresid (hs hr : BitVec 6) (cp : BitVec 2) (ei : BitVec 6) (dp : BitVec 3)
  /-- XALLOW (R452): Sets the allowance of a posted-write window. -/
  | xallow (w : BitVec 4) (a : BitVec 5) (dp : BitVec 3)
  /-- XFENCE (R453): Waits aside for a window's older writes to be acknowledged. -/
  | xfence (w : BitVec 4) (e : BitVec 6) (dp : BitVec 3)
  /-- XCOLL (R468): Runs a group collective. -/
  | xcoll (op : CollOp) (o : FKOp)
  /-- XSEND (R469): Sends a region through a campus port. -/
  | xsend (h : BitVec 6) (cp : BitVec 2) (a : BitVec 5) (ei : BitVec 6) (dp : BitVec 3)
  /-- XRECV (R470): Posts a receive buffer on a campus port. -/
  | xrecv (h : BitVec 6) (cp : BitVec 2) (a : BitVec 5) (ei : BitVec 6) (dp : BitVec 3)
  /-- XPUT (R456): Copies local bytes to a peer. -/
  | xput (o : FBOp)
  /-- XGET (R456): Copies a peer's bytes to local memory. -/
  | xget (o : FBOp)
  /-- DELIVER_ENGINE_INSTRUCTION (R23): Fetch evaluates the delivery predicate and pushes the instruction's lanes and captured values into its engine queue. -/
  | deliverEngineInstruction (lanes : List Lane)
  /-- TRAP_ENTRY (R365): Control enters a pending engine or command trap at an instruction boundary and writes TENG. -/
  | trapEntry
  /-- ENGINE_COMMAND_COMPLETE (R137): An issued engine command writes its last byte or reads its last byte and releases held items. -/
  | engineCommandComplete (eng : Engine) (age : Nat)
  /-- SCALAR_STORE_WRITTEN (R75): A posted scalar store's bytes are written. -/
  | scalarStoreWritten (age : Nat)
  /-- FETCH_HOLD_RELEASE (R25): A held engine instruction finds room in its queue and is delivered. -/
  | fetchHoldRelease
  /-- STRAND_RETIRE (R32): A halted strand retires once its queues, commands and replay entries are empty. -/
  | strandRetire
  /-- LAUNCH_SUBMIT (R218): A doorbell write to SQTAIL makes the scheduler core read and check new launch entries. -/
  | launchSubmit (port world prio : Nat) (bell : Doorbell)
  /-- GANG_BIND (R218): The scheduler core places a pending launch and writes bind records. -/
  | gangBind (launch : Nat)
  /-- LAUNCH_AGING (R222): A launch pending for AGE cycles is treated one level higher. -/
  | launchAging (launch : Nat)
  /-- DISPATCH_READY (R221): A core's dispatch finishes loading its bind record and reports ready. -/
  | dispatchReady
  /-- GANG_START (R221): Every strand of a gang processes its first instruction at S'. -/
  | gangStart (gang : Nat)
  /-- PREEMPTION (R373): The scheduler core stops a gang and saves its state. -/
  | preemption (gang : Nat)
  /-- IMAGE_TRANSFER_DONE (R375): A snapshot image write or read completes. -/
  | imageTransferDone
  /-- GANG_RESUME (R375): A gang resumes at Q after restore checks pass. -/
  | gangResume (gang : Nat)
  /-- GANG_FAULT_RETIRE (R223): Once issued commands end, the scheduler posts FAULT and retires the gang. -/
  | gangFaultRetire (gang : Nat)
  /-- COMPLETION_POST (R479): A completion entry is written when the completion queue is on and has room. -/
  | completionPost (world : Nat)
  /-- QUEUE_PUSH (R132): A push appends one entry to a queue register once it has room. -/
  | queuePush (eng : Engine)
  /-- QUEUE_READ_STEP (R133): An instruction performs its pops and peeks once every queue holds an entry. -/
  | queueReadStep (eng : Engine)
  /-- QSTALL_LIMIT (R135): A queue stall reaches QSTALL.LIMIT. -/
  | qstallLimit (eng : Engine)
  /-- LOOP_SKEW_END (R88): An engine's loop skew wait ends and it starts its body. -/
  | loopSkewEnd (eng : Engine)
  /-- LOOP_END_MARKER (R88): An end marker reaches the head and the kept body replays N-1 times. -/
  | loopEndMarker (eng : Engine)
  /-- OWED_MARKER_PUSH (R89): Fetch pushes owed end markers after tret or at halt. -/
  | owedMarkerPush
  /-- FENCE_MARKER_HEAD (R142): A fence marker reaches its queue head and is removed. -/
  | fenceMarkerHead (eng : Engine)
  /-- REPLAY_ENTRY (R268): A parked write replays after a covering invalidation and a valid translation. -/
  | replayEntry (idx : Nat)
  /-- TRANSLATION_WALK (R244): A translation miss walks the page tables, recording faults. -/
  | translationWalk (world : Nat) (va : BitVec 57)
  /-- TRANSLATION_WAIT_RESUME (R369): A write waiting in the translation unit proceeds after an invalidation. -/
  | translationWaitResume (age : Nat)
  /-- XINV (R246): A write to XINV starts a translation invalidation. -/
  | xinv (port world : Nat) (v : Word)
  /-- INVALIDATION_COMPLETE (R246): An invalidation completes and XINVST.BUSY clears. -/
  | invalidationComplete (world : Nat)
  /-- COUNTER_INCREMENT_ARRIVAL (R270): An increment lands on a strand's counter. -/
  | counterIncrementArrival (inc : Incr)
  /-- EVWAIT_MET (R272): A held counter wait finds its threshold met. -/
  | evwaitMet
  /-- WAITLIMIT (R272): A counter wait reaches EVSTALL.LIMIT. -/
  | waitlimit
  /-- DCCWAIT_EXPIRY (R92): The DCC reaches a dccwait's target cycle. -/
  | dccwaitExpiry
  /-- BARRIER_LEAVE (R226): Every team member leaves the barrier after the last arrival. -/
  | barrierLeave (gang team : Nat)
  /-- SVC_REPLY (R93): The scheduler core's reply to a service call arrives. -/
  | svcReply
  /-- SVC_VERSION_QUERY (R484): Service call 0 returns the firmware version. -/
  | svcVersionQuery
  /-- SVC_SUBMIT_LAUNCH (R484): Service call 1 submits a launch. -/
  | svcSubmitLaunch
  /-- SVC_GANG_STATE (R484): Service call 2 returns a gang's state. -/
  | svcGangState
  /-- SVC_UNDEFINED (R93): An undefined service code returns status all ones. -/
  | svcUndefined
  /-- PUMP_START (R286): A buffered pump command starts when its conditions are met. -/
  | pumpStart (age : Nat)
  /-- WRITE_WINDOW_START (R291): Destination tile tags become 0xFFFF at the first write-window cycle. -/
  | writeWindowStart (age : Nat)
  /-- PUMP_END (R284): At E the copy's bytes and tags are in place and its increment is made. -/
  | pumpEnd (age : Nat)
  /-- PTAB_LOAD_END (R310): A code table generation finishes loading and is validated. -/
  | ptabLoadEnd (t : BitVec 4)
  /-- CANCEL_ACK (R306): At issue+4 a cancellation sets ACK and HIT. -/
  | cancelAck (c : BitVec 4)
  /-- HALO_LAYER_SEND (R325): A layer send starts to the peer or locally. -/
  | haloLayerSend (g : BitVec 4) (face : Face)
  /-- HALO_LAYER_ARRIVAL (R324): An arriving layer is checked, written and sets HSTEP. -/
  | haloLayerArrival (l : LayerMsg)
  /-- HALO_PHASE_ADVANCE (R322): An exchange moves to the next dimension's phase. -/
  | haloPhaseAdvance (g : BitVec 4)
  /-- GXCHG_COMPLETE (R326): An exchange completes and raises its bound counter. -/
  | gxchgComplete (g : BitVec 4)
  /-- GWAIT_MET (R333): Every face holds the step and gwait raises its counter. -/
  | gwaitMet
  /-- STALEHALO (R333): A halo hold reaches HSTALL.LIMIT. -/
  | stalehalo
  /-- REMOTE_WRITE_ARRIVAL (R446): A remote message is checked at the peer and applied. -/
  | remoteWriteArrival (m : Msg)
  /-- REMOTE_ACK (R446): An acknowledgement returns to the sender. -/
  | remoteAck (a : Ack)
  /-- XLD_RESPONSE (R455): A remote read response writes X. -/
  | xldResponse (a : Ack)
  /-- XFENCE_RELEASE (R453): A waiting xfence sees its writes acknowledged and raises its counter. -/
  | xfenceRelease (w : BitVec 4)
  /-- TRIGGER_FIRE (R460): An armed trigger's counter meets its threshold and its records are pushed. -/
  | triggerFire
  /-- TILE_APPLY (R462): A tile is applied element by element at the peer. -/
  | tileApply (m : Msg)
  /-- RING_COMPLETE (R466): A ring step's results are in place. The last two operands are not read: what the other devices sent
  stands in `State.rx`. -/
  | ringComplete (age : Nat) (others : List Nat) (agree : Bool)
  /-- COLLECTIVE_COMPLETE (R468): A collective's results are written on a participant. The last two operands are not read: what the
  other devices sent stands in `State.rx`. -/
  | collectiveComplete (age : Nat) (others : List Nat) (agree : Bool)
  /-- CAMPUS_FRAME_RECEIVE (R439): A campus frame is verified and written or discarded. -/
  | campusFrameReceive (cp : BitVec 2) (f : Frame)
  /-- CAMPUS_ACK_RECEIVE (R439): An acknowledgement frees retry-buffer frames and completes sends. -/
  | campusAckReceive (cp : BitVec 2) (stream : BitVec 16) (ack nseq : BitVec 48) (ncnt : BitVec 16)
  /-- CAMPUS_RESEND_TIMEOUT (R439): CPRTO expires and a frame is sent again. -/
  | campusResendTimeout (cp : BitVec 2) (stream : BitVec 16) (seq : BitVec 48)
  /-- CAMPUS_ACKONLY (R439): A periodic ACKONLY frame is sent. -/
  | campusAckonly (cp : BitVec 2) (stream : BitVec 16)
  /-- FLIT_SLOT (R427): A schedule slot sends a ready flit or an EMPTY flit. -/
  | flitSlot (port : BitVec 4)
  /-- FLIT_DELIVERY (R418): A flit is delivered at d + LAT, corrected and CRC-checked. -/
  | flitDelivery (port : BitVec 4) (f : Flit) (errs : List (Nat × Nat))
  /-- GROUP_VERIFY (R423): A receiver verifies an encrypted flit group. -/
  | groupVerify (port : BitVec 4) (ent : BitVec 12) (grp : Nat) (ok : Bool)
  /-- LANE_LOCK_LOSS (R416): A lane loses lock and the port goes DOWN. -/
  | laneLockLoss (port : BitVec 4) (lane : BitVec 3)
  /-- HEALTH_WINDOW (R432): At each 2^20-cycle window end lane scores are updated. -/
  | healthWindow (port : BitVec 4)
  /-- SCHEDULE_TABLE_SWITCH (R425): A new schedule table takes effect at a period start. -/
  | scheduleTableSwitch (port : BitVec 4)
  /-- PORT_OPEN (R433): BPCTL.OPEN starts training from DOWN. -/
  | portOpen (port : BitVec 4)
  /-- PORT_CLOSE (R433): BPCTL.CLOSE takes the port DOWN. -/
  | portClose (port : BitVec 4)
  /-- TRAIN_COMPLETE (R433): Lanes lock and LAT is measured, or training fails. -/
  | trainComplete (port : BitVec 4) (locked : Bool) (txlat rxlat : Nat) (peerDev : BitVec 9) (peerPort : BitVec 4)
  /-- ATTEST_COMPLETE (R434): The SPDM session is established or fails. -/
  | attestComplete (campus : Bool) (port : BitVec 4) (ok : Bool)
  /-- KEYED_COMPLETE (R435): Link keys are in place and the port goes UP. -/
  | keyedComplete (campus : Bool) (port : BitVec 4) (ok : Bool)
  /-- HEARTBEAT_MISS (R434): A missed SPDM heartbeat takes the port DOWN. -/
  | heartbeatMiss (campus : Bool) (port : BitVec 4)
  /-- LINK_KEY_SWITCH (R435): Senders switch KEYIDX at the agreed boundary. -/
  | linkKeySwitch (campus : Bool) (port : BitVec 4) (world : Nat)
  /-- CAMPUS_PORT_OPEN (R440): CPCTL.OPEN starts attestation of a campus port. -/
  | campusPortOpen (cp : BitVec 2)
  /-- CAMPUS_PORT_CLOSE (R441): CPCTL.CLOSE takes a campus port DOWN. -/
  | campusPortClose (cp : BitVec 2)
  /-- LEASE_RENEW (R476): The holder extends its lease. -/
  | leaseRenew (port : Nat)
  /-- LEASE_TAKE (R478): The other host takes an expired lease. -/
  | leaseTake (port : Nat)
  /-- LEASE_EXPIRY (R477): The DCC reaches LEXP and EXPIRED is set. -/
  | leaseExpiry
  /-- CQHEAD_WRITE (R479): The consumer advances the completion queue head. -/
  | cqheadWrite (port world : Nat) (pos : BitVec 16)
  /-- MSIX_FIRE (R480): A vector's count reaches CNT and a message is sent or made pending. -/
  | msixFire (fn v : Nat)
  /-- MSIX_TIMER (R480): A vector's moderation timer expires. -/
  | msixTimer (fn v : Nat)
  /-- MSIX_UNMASK (R480): Unmasking sends a pending message. -/
  | msixUnmask (fn : Nat) (v : MsixWrite)
  /-- GET_VERSION (R481): TDISP version request. -/
  | getVersion (world : Nat)
  /-- GET_CAPABILITIES (R481): TDISP capabilities request. -/
  | getCapabilities (world : Nat)
  /-- LOCK_INTERFACE_REQUEST (R481): Moves a VF to CONFIG_LOCKED. -/
  | lockInterfaceRequest (world : Nat)
  /-- GET_DEVICE_INTERFACE_REPORT (R481): Returns the VF's interface report. -/
  | getDeviceInterfaceReport (world : Nat)
  /-- GET_DEVICE_INTERFACE_STATE (R481): Returns the VF's TDISP state. -/
  | getDeviceInterfaceState (world : Nat)
  /-- START_INTERFACE_REQUEST (R481): Moves a VF to RUN. -/
  | startInterfaceRequest (world : Nat)
  /-- STOP_INTERFACE_REQUEST (R481): Stops the world's gangs, closes the world and unlocks the VF. -/
  | stopInterfaceRequest (world : Nat)
  /-- TDISP_UNSUPPORTED_MESSAGE (R481): Any other TDISP message is answered with an error. -/
  | tdispUnsupportedMessage (world code : Nat)
  /-- KEY_PROG (R482): IDE_KM programs an IDE key set. -/
  | keyProg (world : Nat) (rx : Bool) (set : Bool) (key : BitVec 256)
  /-- K_SET_GO (R482): IDE_KM switches the active key set. -/
  | kSetGo (world : Nat) (rx : Bool) (set : Bool)
  /-- IDE_COMPLETION_TIMEOUT (R482): A host completion times out and is an integrity failure. -/
  | ideCompletionTimeout (tag : BitVec 14)
  /-- MEMORY_WINDOW_ACCESS (R474): A host access through a BAR 2 window is checked and served. -/
  | memoryWindowAccess (port : Nat) (vf : Option Nat) (off n : Nat) (wr : Option Nat)
  /-- HART_RESET (R483): A write to HARTCFG resets an application hart. -/
  | hartReset (i : Nat) (v : Word)
  /-- FWCTL_GO (R487): Starts verification of the staged scheduler firmware. -/
  | fwctlGo (port : Nat) (len : BitVec 10)
  /-- FW_VERIFY_DONE (R487): Verification ends, refusing or entering draining. -/
  | fwVerifyDone (sigOk verOk : Bool) (version : BitVec 32)
  /-- FW_SWAP (R487): At the first cycle with no call in service the image is swapped. -/
  | fwSwap
  /-- MIG_EXPORT (R488): MIGCTL EXPORT starts migrating a world out. -/
  | migExport (world : Nat) (port : BitVec 4)
  /-- MIG_ACCEPT (R488): MIGCTL ACCEPT prepares or retries receiving a world. -/
  | migAccept (world : Nat) (port : BitVec 4)
  /-- MIG_RESUME (R489): MIGCTL RESUME restores aborted contexts at the source. -/
  | migResume (ctl : MigCtl)
  /-- MIG_DISCARD (R490): MIGCTL DISCARD erases a sealed context and sets LOST. -/
  | migDiscard (ctl : MigCtl)
  /-- MIGRATION_RECEIPT (R488): The source checks the receipt, scrubs and closes the world. -/
  | migrationReceipt (ok : Bool)
  /-- MIGRATION_CONFIRM (R488): The source receives confirmation and clears the receipt. -/
  | migrationConfirm
  /-- MIGRATION_LOSS_NOTICE (R490): A loss notice makes the source post LOST. -/
  | migrationLossNotice
  /-- POWER_UP (R491): Power-up runs the bring-up sequence to READY. -/
  | powerUp (part : PowerUp)
  /-- THERM_WARN (R492): TJ reaches TWARN and WARN is set. -/
  | thermWarn (tj tout : BitVec 8)
  /-- THERMAL_RESET (R492): An overtemperature resets the device. -/
  | thermalReset (tj tout : BitVec 8)
  /-- HREVOKE_GEN (R394): HREVOKE MODE 0 revokes a generation at the cut. -/
  | hrevokeGen (port world : Nat) (gen : BitVec 32)
  /-- HREVOKE_FLOOR (R394): HREVOKE MODE 1 raises GMIN. -/
  | hrevokeFloor (port world : Nat) (gen : BitVec 32)
  /-- REVOCATION_SWEEP_DONE (R395): The sweep ends and HRVKST.BUSY clears. -/
  | revocationSweepDone (world : Nat)
  /-- KROT_GO (R401): Starts a key rotation and draws a new key set. -/
  | krotGo (port world : Nat)
  /-- KEY_DRAW_DONE (R401): The new key set is drawn and the rotation engine starts. -/
  | keyDrawDone (world : Nat)
  /-- ROTATION_LINE (R401): The rotation engine re-encrypts one line and advances MARK, finishing at the last. -/
  | rotationLine (world : Nat)
  /-- DEPARTURE_SCRUB (R404): A departing context's state is cleared in order. -/
  | departureScrub
  /-- WORLD_CLOSE (R406): A closing world's caches, regions, revocation state and keys are cleared. -/
  | worldClose (world : Nat)
  /-- DBGHALT (R384): A debugger halts a gang as a pre-emption. -/
  | dbghalt (port world : Nat) (gang : BitVec 16)
  /-- DBGRESUME (R384): A debugger lets a halted gang be scheduled again. -/
  | dbgresume (port world : Nat) (gang : BitVec 16)
  /-- SNAPSHOT_WINDOW_WRITE (R385): A debugger write changes and reseals a halted image. -/
  | snapshotWindowWrite (off : Nat) (v : Word)
  /-- REGISTER_WRITE (R6): A write to a register without behaviour of its own acts by field access codes. -/
  | registerWrite (port : Nat) (vf : Option Nat) (page : RegPage) (off : Nat) (v : Word)
  /-- ARITHMETIC_CLOCK_TICK (R386): Each tick of the arithmetic clock advances the DCC and charges static energy to resident contexts. -/
  | arithmeticClockTick
  /-- DEVICE_RESET (R8): A device reset other than power-up restores reset values, draws a new seal key and loses kept completion entries. -/
  | deviceReset
  /-- FUNCTION_RESET (R479): A PCIe function reset of a VF applies a new MWCFG.LOG2 window size. -/
  | functionReset (world : Nat)
  /-- PEER_CLOSED (R433): The peer end closing takes an UP Briwen port to DOWN with ERR 6. -/
  | peerClosed (port : BitVec 4)
  /-- SLIP_NOTICE (R430): A slip notice returned by the final receiver arrives at the source device and raises TIMESLIP to the injecting strand. -/
  | slipNotice (key : Nat) (tinfo : Word)
  /-- HOST_COMPLETION (R482): A PCIe completion from a host port arrives: it is IDE-checked, it is accepted under its tag's key set, or it is discarded as late after a takeover. -/
  | hostCompletion (tag : BitVec 14) (port : Nat) (ok : Bool) (data : Nat)
  /-- MIGRATION_CONTEXT_ARRIVAL (R488): The sealed context arrives at the destination, is stored and checked, a flash marker is written and a receipt is returned. -/
  | migrationContextArrival (world : Nat) (sealOk : Bool) (image : Sealed)
  /-- WORLD_OPEN (R389): A world opens: the wellhead writes its access tables, draws its scrambler key and sets its revocation list to 0 and GMIN to 1. -/
  | worldOpen (world : Nat)
deriving DecidableEq, Repr

end Sys2Proof
end

