-- ==== Sys2Proof/WellFormed.lean ====
section
/-! DEFINITION. What an instruction's fields may hold: the reserved operand values of R46 and R47, the
fields a description leaves unused (R42), and each description's own limits. Fetch raises ILLEGAL for
everything that is refused here (R63). An event row has no encoding, so nothing is refused of it. -/

namespace Sys2Proof

/-- Which fields of a VL instruction its row of R155 uses; `aux` is the mask of AUX bits it may set. -/
structure VUse where
  d : Bool
  a : Bool
  b : Bool
  c : Bool
  k : Bool
  rm : Bool
  sat : Bool
  aux : Nat
  vs : Bool
deriving DecidableEq, Repr

/-- A floating suffix: the instruction's rounding fields are live (R155, "float"). -/
def Fmt.isFloat : Fmt → Bool
  | .fp32 | .fp16 | .bf16 | .fp8e4 | .fp8e5 => true
  | _ => false

/-- vadd, vsub, vmul, vmin, vmax. -/
def useBin (f : Fmt) : VUse := ⟨true, true, true, false, true, f.isFloat, true, 0, true⟩
/-- vfma. -/
def useFma : VUse := ⟨true, true, true, true, true, true, true, 0, false⟩
/-- vabs, vneg, vsqrt, vcvt (float rounding when `r`). -/
def useUn (r : Bool) : VUse := ⟨true, true, false, false, true, r, true, 0, true⟩
/-- vcmpeq, vcmplt, vcmple: D names a mask and is held apart. -/
def useCmp : VUse := ⟨false, true, true, false, true, false, false, 0, false⟩
/-- vkcnt: A names a mask and is held apart. -/
def useKcnt : VUse := ⟨true, false, false, false, false, false, false, 0, false⟩
/-- vsel. -/
def useSel : VUse := ⟨true, true, true, false, true, false, false, 0, false⟩
/-- vand, vor, vxor, vshl, vshr, vsra, vperm. -/
def useLog2 : VUse := ⟨true, true, true, false, true, false, false, 0, true⟩
/-- vnot, vmov, vredmax, vredmin. -/
def useLog1 : VUse := ⟨true, true, false, false, true, false, false, 0, true⟩
/-- vtag: AUX holds FMT. -/
def useTag : VUse := ⟨true, true, false, false, true, false, false, 15, false⟩
/-- vexp, vlog, vrcp, vrsqrt, vtanh, vsig. -/
def useTrans : VUse := ⟨true, true, false, false, true, false, true, 0, true⟩
/-- vpsplit. -/
def useSplit : VUse := ⟨true, true, false, false, true, true, false, 7, false⟩
/-- vpmerge. -/
def useMerge : VUse := ⟨true, true, false, false, true, true, true, 7, false⟩
/-- vbscale: .pl uses AUX for PC and no SAT, the FP8 forms the reverse. -/
def useScale (pl : Bool) : VUse := ⟨true, true, true, false, true, true, !pl, if pl then 7 else 0, false⟩
/-- vclamp. -/
def useClamp : VUse := ⟨true, true, true, true, true, false, false, 0, false⟩
/-- viota. -/
def useIota : VUse := ⟨true, false, false, false, true, false, false, 0, true⟩

/-- A field the instruction writes: a peek code is reserved there (R47, R131). -/
def VR.okDest : VR → Bool
  | .pk _ => false
  | _ => true

/-- D pushes onto the queue at whose head A peeks (R164). -/
def VR.peekedBy : VR → VR → Bool
  | .q n, .pk m => n == m
  | _, _ => false

/-- An unused register field holds zero, which is v0 (R42). -/
def VR.isZero : VR → Bool
  | .v n => n == 0
  | _ => false

/-- The operands of a VL instruction agree with its row of R155. -/
def VOp.ok (u : VUse) (o : VOp) : Bool :=
  (if u.d then o.d.okDest else o.d.isZero) && (u.a || o.a.isZero) && (u.b || o.b.isZero) &&
  (u.c || o.c.isZero) && (u.k || o.k == 0) && (u.rm || o.rm == none) && (u.sat || o.sat == false)

/-- Suffix orders of the stream tables (R51, R53, R57, R59, R61). -/
def sfxArith : List Fmt := [.fp32, .fp16, .bf16, .int32, .int8]
def sfx4 : List Fmt := [.fp32, .fp16, .bf16, .int32]
def sfx3 : List Fmt := [.fp32, .fp16, .bf16]
def sfx2 : List Fmt := [.fp32, .int32]
def sfxCvt : List Fmt := [.fp32, .fp16, .bf16, .fp8e4, .fp8e5, .int32, .int8, .nat8]
def sfxMem : List Fmt := [.fp32, .fp16, .bf16, .fp8e4, .fp8e5, .int32, .int8, .nat8, .pl]
def sfxScale : List Fmt := [.fp8e4, .fp8e5, .pl]
def sfxMldw : List Fmt := [.bf16, .fp16, .fp8e4, .fp8e5, .g4, .pl]
def sfxMmul : List Fmt := [.bf16, .fp16, .fp8e4, .fp8e5, .pl]
def sfxMmulq : List Fmt := [.bf16, .fp16, .fp8e4, .fp8e5]
def sfxMldwq : List Fmt := [.bf16, .fp8e4]
def sfxDrain : List Fmt := [.fp32, .bf16, .fp16, .fp8e4]
def sfxDrains : List Fmt := [.fp32, .bf16, .fp8e4, .pl]
def sfxSig : List Fmt := [.fp32, .bf16]
def sfxXst : List Fmt := [.fp32, .bf16, .untyped]
def sfxXld : List Fmt := [.fp32, .untyped]

/-- R47 and R191: PC is 0 except under .pl, and a .g4 load is never transposed. -/
def MHOp.ok (f : Fmt) (acc zs : Bool) (o : MHOp) : Bool :=
  (f == .pl || o.pc == 0) && (acc || !o.ac) && (zs || !o.zs) && (f != .g4 || !o.tr)

/-- Row counts of drains: 0 to 128 (R199). -/
def rowsOk (r : BitVec 8) : Bool := r.toNat ≤ 128

/-- Which fields of the PC format an opcode uses (R54, R298). -/
structure PUse where
  hd : Bool
  hs : Bool
  od : Bool
  os : Bool
  seq : Bool
  tab : Bool
deriving DecidableEq, Repr

def useCopy : PUse := ⟨true, true, true, true, true, false⟩
def useCopyd : PUse := ⟨true, true, true, true, true, true⟩
def useHout : PUse := ⟨true, true, true, true, false, false⟩
def useOver : PUse := ⟨false, true, true, true, false, false⟩
def useFill : PUse := ⟨true, false, true, true, true, false⟩
def useTagset : PUse := ⟨true, false, true, false, true, false⟩
def useTagchk : PUse := ⟨false, true, false, true, true, false⟩
def usePrefetch : PUse := ⟨false, true, false, true, false, false⟩

/-- The operands of a pump command: unused fields zero, one count field, no wait without a counter, and
SEQ not 0xFFFF where the command writes tags (R291, R296, R54). -/
def POp.ok (u : PUse) (twoD writesTags : Bool) (o : POp) : Bool :=
  (u.hd || o.hd == 0) && (u.hs || o.hs == 0) && (u.od || o.od == 0) && (u.os || o.os == 0) &&
  (u.seq || o.seq == 0) && (u.tab || o.tab == 0) &&
  (if twoD then !o.ni && o.nimm == 0 else if o.ni then o.n == 0 else o.nimm == 0) &&
  (o.ew != 0 || o.th == 0) && (!writesTags || o.seq != 0xFFFF)

/-- A relaxed atomic carries no scope (R261, R457). -/
def scOk (ordered : Bool) (sc : Scope) : Bool := ordered || sc == .core

/-- A skew of an engine outside MASK is zero (R48). -/
def Skews.ok (mask : BitVec 6) (k : Skews) : Bool :=
  (mask.getLsbD 0 || k.vec == 0) && (mask.getLsbD 1 || k.mat == 0) && (mask.getLsbD 2 || k.pump == 0) &&
  (mask.getLsbD 3 || k.halo == 0) && (mask.getLsbD 4 || k.sig == 0) && (mask.getLsbD 5 || k.fab == 0)

/-- A Briwen port number 0 to 11 (R46). -/
def portOk (p : BitVec 4) : Bool := p.toNat < 12

/-- Every field of the instruction holds a value its encoding admits. [DEDUCED, log 24] -/
def Instr.wf : Instr → Bool
  | .slli _ _ i | .srli _ _ i | .srai _ _ i => i.toNat < 64
  | .amo _ _ _ _ _ sc ord _ => scOk (ord != .relaxed) sc
  | .acas _ _ _ _ sc ord _ _ => scOk (ord != .relaxed) sc
  | .hq _ _ sel => sel.toNat < 7
  | .hderive hd _ _ _ _ | .hoff hd _ _ | .hclear hd => hd != 0
  | .loopb mask _ _ k => mask != 0 && k.ok mask
  | .evinc _ _ sc rel | .evincN _ _ sc rel _ => scOk rel sc
  | .fencem mask => mask != 0
  | .tbar team _ => team.toNat < 16
  | .vadd f o | .vsub f o => sfxArith.contains f && o.ok (useBin f)
  | .vmul f o | .vmin f o | .vmax f o => sfx4.contains f && o.ok (useBin f)
  | .vfma f o => sfx3.contains f && o.ok useFma
  | .vabs f o | .vneg f o => sfx4.contains f && o.ok (useUn f.isFloat)
  | .vdiv o => o.ok (useBin .fp32)
  | .vsqrt o => o.ok (useUn true)
  | .vcmpeq f _ o | .vcmplt f _ o | .vcmple f _ o => sfx4.contains f && o.ok useCmp
  | .vkset _ n _ => n.toNat ≤ 2048
  | .vkcnt _ o => o.ok useKcnt
  | .vsel o => o.ok useSel && o.k != 0
  | .vand o | .vor o | .vxor o | .vshl o | .vshr o | .vsra o | .vperm o => o.ok useLog2
  | .vnot o => o.ok useLog1
  | .vmov o => o.ok useLog1 && !o.d.peekedBy o.a
  | .vcvt f o => sfxCvt.contains f && o.ok (useUn true)
  | .vtag _ o => o.ok useTag
  | .vexp o | .vlog o | .vrcp o | .vrsqrt o | .vtanh o | .vsig o => o.ok useTrans
  | .vredsum f o => sfx4.contains f && o.ok (useUn f.isFloat)
  | .vredmax f o | .vredmin f o => sfx2.contains f && o.ok useLog1
  | .vscan f o => sfx2.contains f && o.ok (useUn f.isFloat)
  | .vbcst f d i _ _ => sfx4.contains f && d.okDest && (f == .fp32 || f == .int32 || i.toNat < 65536)
  | .vgather _ o => o.x.okDest
  | .vld f o => sfxMem.contains f && o.x.okDest
  | .vst f _ => sfxMem.contains f
  | .vpsplit _ o => o.ok useSplit
  | .vpmerge _ o => o.ok useMerge
  | .vbscale f pc o => sfxScale.contains f && (f == .pl || pc == 0) && o.ok (useScale (f == .pl))
  | .vclamp f o => sfx2.contains f && o.ok useClamp
  | .viota o => o.ok useIota
  | .mldw f o => sfxMldw.contains f && o.ok f false false
  | .mmul f _ o => sfxMmul.contains f && o.ok f true true
  | .mmulq f _ _ _ _ => sfxMmulq.contains f
  | .mldwq f _ _ => sfxMldwq.contains f
  | .mldg o | .mpre o => o.ok .fp32 false false
  | .mldacc _ o => o.ok .fp32 true false
  | .mdrain f _ _ rows _ => sfxDrain.contains f && rowsOk rows
  | .mdrainc f _ o => sfxDrain.contains f && rowsOk o.rows
  | .mdrains f _ _ o => sfxDrains.contains f && rowsOk o.rows && (f != .pl || !o.sat)
  | .mdrainp _ o => rowsOk o.rows && !o.sat
  | .pcopy _ o => o.ok useCopy false true
  | .pcopy2d _ rows o => rows != 0 && o.ok useCopy true true
  | .pcopyd _ o => o.ok useCopyd false true
  | .pcopyhIn o => o.ok useCopy false true
  | .pcopyhOut o => o.ok useHout false false
  | .pover o | .pcmd o => o.ok useOver false false
  | .pfill o => o.ok useFill false true
  | .ptagset o => o.ok useTagset false true
  | .ptagchk o => o.ok useTagchk false false && o.ei != 0
  | .pprefetch o => o.ok usePrefetch false false
  | .pcancel c _ => c != 0
  | .gld f o => sfx3.contains f && o.x.okDest
  | .gst f _ => sfx3.contains f
  | .siginc f _ _ => sfxSig.contains f
  | .sigincb f _ _ _ _ => sfxSig.contains f
  | .sigst f _ _ _ => sfxSig.contains f
  | .xst f _ => sfxXst.contains f
  | .xld f o _ => sfxXld.contains f && o.x.okDest
  | .xamo _ _ o => scOk (o.ord != .relaxed) o.sc && (!o.ord.acquires || o.ei != 0)
  | .xacas _ _ o => scOk (o.ord != .relaxed) o.sc && (!o.ord.acquires || o.ei != 0)
  | .xevinc _ _ sc rel _ => scOk rel sc
  | .xring _ ring _ _ _ _ ew th _ => portOk ring && (ew != 0 || th == 0)
  | .xsched port _ _ _ => portOk port
  | .xcoll op o => (o.ew != 0 || o.th == 0) && (op == .ar || op == .rs || o.opr == .copy)
  | .xput o | .xget o => o.ew != 0 || o.th == 0
  | _ => true

end Sys2Proof
end

