-- ==== Sys2Proof/Decode.lean ====
section
/-! DEFINITION. Decoding: the lanes of a line to an instruction, a filler or the first fault of R64, from the
formats of R48 to R60 and the stream tables of R49 to R61; and after it the encoder, from the same tables. -/

namespace Sys2Proof

/-! ## Field values -/

/-- A register field of a given width. -/
def fld (k x hi lo : Nat) : BitVec k := BitVec.ofNat k (bits x hi lo)

/-- A VR code (R46). Codes from 192 on are reserved and refused before this value is used. -/
def vrOf (c : Nat) : VR :=
  if c < 128 then .v (BitVec.ofNat 7 c) else if c < 160 then .q (BitVec.ofNat 5 c) else .pk (BitVec.ofNat 5 c)

/-- A VS code (R46). -/
def vsOf (c : Nat) : VR :=
  if c < 96 then .v (BitVec.ofNat 7 c) else .q (BitVec.ofNat 5 c)

/-- The VR code of an operand. -/
def VR.code : VR → Nat
  | .v n => n.toNat
  | .q n => 128 + n.toNat
  | .pk n => 160 + n.toNat

/-- The VS code of an operand that fits the VS range. -/
def VR.codeS : VR → Nat
  | .v n => n.toNat
  | .q n => 96 + n.toNat
  | .pk n => 96 + n.toNat

/-- Format tags in code order (R9). -/
def allFmt : List Fmt := [.untyped, .fp32, .fp16, .bf16, .fp8e4, .fp8e5, .int32, .int8, .nat8, .g4, .pl]
/-- Rounding modes in code order (R11). -/
def allRMode : List RMode := [.rne, .rtz, .rdn, .rup, .rna]
/-- Scopes in code order (R46). -/
def allScope : List Scope := [.core, .cluster, .die, .device, .domain, .system]
/-- Orderings in code order (R46). -/
def allOrd : List Ord := [.relaxed, .acquire, .release, .acqrel]
/-- Atomic operators in code order (R46). -/
def allAOp : List AOp := [.add, .and, .or, .xor, .min, .max, .swap]
/-- Tile operators in code order (R46). -/
def allOpr : List Opr := [.copy, .addF32, .addBf16, .maxF32]
/-- Faces in code order (R46). -/
def allFace : List Face := [.xm, .xp, .ym, .yp, .zm, .zp]
/-- Face rules in code order (R46). -/
def allRule : List Rule := [.periodic, .fixed, .reflect, .copy, .zero]
/-- Peer kinds in code order (R46). -/
def allKind : List Kind := [.die, .otherDie, .device]

def fmtOf (c : Nat) : Fmt := allFmt.getD c .untyped
def rmodeOf (c : Nat) : RMode := allRMode.getD c .rne
def scopeOf (c : Nat) : Scope := allScope.getD c .core
def ordOf (c : Nat) : Ord := allOrd.getD c .relaxed
def aopOf (c : Nat) : AOp := allAOp.getD c .add
def oprOf (c : Nat) : Opr := allOpr.getD c .copy
def faceOf (c : Nat) : Face := allFace.getD c .xm
def ruleOf (c : Nat) : Rule := allRule.getD c .periodic
def kindOf (c : Nat) : Kind := allKind.getD c .die

/-- The code of a format tag (R9). -/
def Fmt.code (f : Fmt) : Nat := allFmt.idxOf f
/-- The code of a rounding mode (R11). -/
def RMode.code (r : RMode) : Nat := allRMode.idxOf r
def Scope.code (r : Scope) : Nat := allScope.idxOf r
def Ord.code (r : Ord) : Nat := allOrd.idxOf r
def AOp.code (r : AOp) : Nat := allAOp.idxOf r
def Opr.code (r : Opr) : Nat := allOpr.idxOf r
def Face.code (r : Face) : Nat := allFace.idxOf r
def Rule.code (r : Rule) : Nat := allRule.idxOf r
def Kind.code (r : Kind) : Nat := allKind.idxOf r

/-- A rounding override: RMO, and RM when RMO = 1 (R46). -/
def rmOf (rmo : Bool) (rm : Nat) : Option RMode := if rmo then some (rmodeOf rm) else none

/-! ## Rows of the stream tables -/

/-- One opcode at one length: the lengths its table allows, the payload bits of each lane that must be
zero (R42), the lanes that hold a reserved operand value (R47), and the instruction its fields name. -/
structure Row where
  lens : List Nat
  zero : List Nat
  resv : List (Nat × Bool)
  instr : Instr

/-- A table entry: the row of an opcode for a length and the payloads of its lanes. -/
abbrev Entry := Nat → (Nat → Nat) → Row

/-- All bits hi..lo. -/
def msk (hi lo : Nat) : Nat := (2 ^ (hi + 1 - lo) - 1) <<< lo

/-- A mask that applies on a condition. -/
def mskIf (c : Bool) (m : Nat) : Nat := if c then m else 0

/-- VR codes from 192 on are reserved; in a written field the peek codes too (R47). -/
def vrBad (dest : Bool) (c : Nat) : Bool := 192 ≤ c || (dest && 160 ≤ c)

/-- A reserved RM code (R11). -/
def rmBad (c : Nat) : Bool := 5 ≤ c

/-! ### Control formats (R48) -/

/-- CR. -/
def cr (useB : Bool) (k : BitVec 5 → BitVec 5 → BitVec 5 → Instr) : Entry := fun _ p =>
  let x := p 0
  ⟨[1], [msk 5 0 + mskIf (!useB) (msk 10 6)], [], k (fld 5 x 20 16) (fld 5 x 15 11) (fld 5 x 10 6)⟩
/-- CI; shifts take counts 0 to 63. -/
def ci (shift : Bool) (k : BitVec 5 → BitVec 5 → BitVec 11 → Instr) : Entry := fun _ p =>
  let x := p 0
  ⟨[1], [0], [(0, shift && 64 ≤ bits x 10 0)], k (fld 5 x 20 16) (fld 5 x 15 11) (fld 11 x 10 0)⟩
/-- CL. -/
def cl : Entry := fun n p =>
  let x := p 0
  if n = 1 then ⟨[1, 3], [0], [], .li (fld 5 x 20 16) (fld 16 x 15 0)⟩
  else ⟨[1, 3], [0, 0, msk 7 0], [], .liLong (fld 5 x 20 16)
    (BitVec.ofNat 64 (bits x 15 0 * 2 ^ 48 + bits (p 1) 27 0 * 2 ^ 20 + bits (p 2) 27 8))⟩
/-- CP. -/
def cp (k : BitVec 3 → BitVec 5 → BitVec 5 → Instr) : Entry := fun _ p =>
  let x := p 0
  ⟨[1], [msk 7 0], [], k (fld 3 x 20 18) (fld 5 x 17 13) (fld 5 x 12 8)⟩
/-- CPI. -/
def cpi (k : BitVec 3 → BitVec 5 → BitVec 13 → Instr) : Entry := fun _ p =>
  let x := p 0
  ⟨[1], [0], [], k (fld 3 x 20 18) (fld 5 x 17 13) (fld 13 x 12 0)⟩
/-- CQ. -/
def cq (useB : Bool) (k : BitVec 3 → BitVec 3 → BitVec 3 → Instr) : Entry := fun _ p =>
  let x := p 0
  ⟨[1], [msk 11 0 + mskIf (!useB) (msk 14 12)], [], k (fld 3 x 20 18) (fld 3 x 17 15) (fld 3 x 14 12)⟩
/-- CM: the one-lane and the two-lane form. -/
def cm (k1 : BitVec 5 → BitVec 6 → BitVec 5 → BitVec 5 → Instr)
    (k2 : BitVec 5 → BitVec 6 → BitVec 5 → BitVec 28 → Instr) : Entry := fun n p =>
  let x := p 0
  if n = 1 then ⟨[1, 2], [0], [], k1 (fld 5 x 20 16) (fld 6 x 15 10) (fld 5 x 9 5) (fld 5 x 4 0)⟩
  else ⟨[1, 2], [msk 4 0, 0], [], k2 (fld 5 x 20 16) (fld 6 x 15 10) (fld 5 x 9 5) (fld 28 (p 1) 27 0)⟩
/-- CA. An acas has AOP 0, an amo has C 0, a relaxed atomic SC 0. -/
def ca (cas : Bool) (dw : Bool) : Entry := fun _ p =>
  let x := p 0; let y := p 1
  let relaxed := bits y 21 20 == 0
  ⟨[2], [msk 4 0, msk 9 0 + mskIf relaxed (msk 24 22) + mskIf cas (msk 27 25) + mskIf (!cas) (msk 14 10)],
   [(1, 6 ≤ bits y 24 22 || (!cas && bits y 27 25 == 7))],
   let d := fld 5 x 20 16; let h := fld 6 x 15 10; let a := fld 5 x 9 5
   let sc := scopeOf (bits y 24 22); let ord := ordOf (bits y 21 20)
   if cas then .acas dw d h a sc ord (fld 5 y 19 15) (fld 5 y 14 10)
   else .amo dw d h a (aopOf (bits y 27 25)) sc ord (fld 5 y 19 15)⟩
/-- CH. -/
def ch : Entry := fun _ p =>
  let x := p 0
  ⟨[1], [msk 5 0], [(0, 7 ≤ bits x 9 6)], .hq (fld 5 x 20 16) (fld 6 x 15 10) (fld 4 x 9 6)⟩
/-- CHD, two lanes. -/
def chd : Entry := fun _ p =>
  let x := p 0; let y := p 1
  ⟨[2], [msk 3 0, msk 17 0], [(0, bits x 20 15 == 0)],
   .hderive (fld 6 x 20 15) (fld 6 x 14 9) (fld 5 x 8 4) (fld 5 y 27 23) (fld 5 y 22 18)⟩
/-- CHD, one lane. -/
def chd1 (clear : Bool) : Entry := fun _ p =>
  let x := p 0
  ⟨[1], [msk 3 0 + mskIf clear (msk 14 4)], [(0, bits x 20 15 == 0)],
   if clear then .hclear (fld 6 x 20 15) else .hoff (fld 6 x 20 15) (fld 6 x 14 9) (fld 5 x 8 4)⟩
/-- CB. -/
def cb (useP useD : Bool) (k : BitVec 3 → BitVec 5 → BitVec 13 → Instr) : Entry := fun _ p =>
  let x := p 0
  ⟨[1], [mskIf (!useP) (msk 20 18) + mskIf (!useD) (msk 17 13)], [],
   k (fld 3 x 20 18) (fld 5 x 17 13) (fld 13 x 12 0)⟩
/-- CJ. -/
def cj (useD : Bool) (k : BitVec 5 → BitVec 5 → Instr) : Entry := fun _ p =>
  let x := p 0
  ⟨[1], [msk 10 0 + mskIf (!useD) (msk 20 16)], [], k (fld 5 x 20 16) (fld 5 x 15 11)⟩
/-- CLB. -/
def clb : Entry := fun _ p =>
  let x := p 0; let y := p 1; let z := p 2; let t := p 3
  ⟨[4], [msk 9 0, msk 11 0,
     msk 3 0 + mskIf (!bit x 15) (msk 27 20) + mskIf (!bit x 16) (msk 19 12) + mskIf (!bit x 17) (msk 11 4),
     msk 3 0 + mskIf (!bit x 18) (msk 27 20) + mskIf (!bit x 19) (msk 19 12) + mskIf (!bit x 20) (msk 11 4)],
   [(0, bits x 20 15 == 0)],
   .loopb (fld 6 x 20 15) (fld 5 x 14 10) (fld 16 y 27 12)
     ⟨fld 8 z 27 20, fld 8 z 19 12, fld 8 z 11 4, fld 8 t 27 20, fld 8 t 19 12, fld 8 t 11 4⟩⟩
/-- CS. -/
def cs (useNum : Bool) (k : BitVec 5 → BitVec 12 → Instr) : Entry := fun _ p =>
  let x := p 0
  ⟨[1], [msk 15 12 + mskIf (!useNum) (msk 11 0)], [], k (fld 5 x 20 16) (fld 12 x 11 0)⟩
/-- CE. -/
def ce (useB : Bool) (k : BitVec 6 → BitVec 5 → Scope → Bool → BitVec 5 → Instr) : Entry := fun _ p =>
  let x := p 0
  ⟨[1], [1 + mskIf (!useB) (msk 5 1) + mskIf (!bit x 6) (msk 9 7)], [(0, 6 ≤ bits x 9 7)],
   k (fld 6 x 20 15) (fld 5 x 14 10) (scopeOf (bits x 9 7)) (bit x 6) (fld 5 x 5 1)⟩
/-- CW with an immediate threshold. -/
def cw : Entry := fun _ p =>
  let x := p 0
  ⟨[1], [msk 13 11], [], .evwait (fld 6 x 20 15) (bit x 14) (fld 11 x 10 0)⟩
/-- CW with a scalar threshold. -/
def cwReg : Entry := fun _ p =>
  let x := p 0
  ⟨[1], [msk 13 11 + msk 5 0], [], .evwaitReg (fld 6 x 20 15) (bit x 14) (fld 5 x 10 6)⟩
/-- CV. -/
def cv : Entry := fun _ p =>
  let x := p 0
  ⟨[1], [msk 9 0], [], .evread (fld 5 x 20 16) (fld 6 x 15 10)⟩
/-- CF of fencem. -/
def cfM : Entry := fun _ p =>
  let x := p 0
  ⟨[1], [msk 14 0], [(0, bits x 20 15 == 0)], .fencem (fld 6 x 20 15)⟩
/-- CF of fence. -/
def cfS : Entry := fun _ p =>
  let x := p 0
  ⟨[1], [msk 11 0 + msk 20 15], [(0, 6 ≤ bits x 14 12)], .fence (scopeOf (bits x 14 12))⟩
/-- CK. -/
def ck (lend : Bool) : Entry := fun _ p =>
  let x := p 0
  ⟨[1], [msk 17 0 + mskIf (!lend) (msk 20 19)], [],
   if lend then .banklend (fld 2 x 20 19) (fld 1 x 18 18) else .bankret (fld 1 x 18 18)⟩
/-- CT: a team number below 16 (R226). -/
def ct : Entry := fun _ p =>
  let x := p 0
  ⟨[1], [msk 7 0], [(0, 16 ≤ bits x 20 13)], .tbar (fld 8 x 20 13) (fld 5 x 12 8)⟩
/-- CX. -/
def cx (useCode : Bool) (k : BitVec 16 → Instr) : Entry := fun _ p =>
  let x := p 0
  ⟨[1], [msk 20 16 + mskIf (!useCode) (msk 15 0)], [], k (fld 16 x 15 0)⟩

/-- The control stream's opcodes: the first OP of each run and its entries (R49). -/
def controlTable : List (Nat × List Entry) :=
  [(0x00, [cr true .add, cr true .sub, cr true .mul, cr true .mulh, cr true .div, cr true .divu, cr true .rem,
     cr true .and, cr true .or, cr true .xor, cr true .sll, cr true .srl, cr true .sra, cr true .min, cr true .max,
     cr false (fun d a _ => .clz d a), cr false (fun d a _ => .popc d a)]),
   (0x18, [ci false .addi, ci false .subi, ci false .andi, ci false .ori, ci false .xori,
     ci true .slli, ci true .srli, ci true .srai]),
   (0x20, [cl]),
   (0x28, [cp .cmpeq, cp .cmpne, cp .cmplt, cp .cmple, cp .cmpltu, cp .cmpleu]),
   (0x30, [cpi .cmpeqImm, cpi .cmpneImm, cpi .cmpltImm, cpi .cmpleImm, cpi .cmpltuImm, cpi .cmpleuImm]),
   (0x38, [cq true .andp, cq true .orp, cq true .xorp, cq false (fun d a _ => .notp d a)]),
   (0x40, [cm .ldb .ldbLong, cm .ldbu .ldbuLong, cm .ldh .ldhLong, cm .ldhu .ldhuLong, cm .ldw .ldwLong,
     cm .ldwu .ldwuLong, cm .ldd .lddLong, cm .stb .stbLong, cm .sth .sthLong, cm .stw .stwLong, cm .std .stdLong,
     ca false false, ca false true, ca true false, ca true true]),
   (0x50, [ch, chd, chd1 false, chd1 true]),
   (0x58, [cb false false (fun _ _ l => .b l), cb true false (fun p _ l => .bc p l),
     cb true false (fun p _ l => .bcn p l), cb false true (fun _ d l => .call d l),
     cj true .callr, cj false (fun _ a => .ret a), clb]),
   (0x60, [cs true .csrr, cs true .csrw, cs true .csrs, cs true .csrc, cs false (fun r _ => .rddcc r),
     cs false (fun r _ => .dccwait r)]),
   (0x68, [ce false (fun e a sc rel _ => .evinc e a sc rel), ce true .evincN, cw, cwReg, cv, cfM, cfS]),
   (0x70, [ck true, ck false, ct]),
   (0x78, [cx true .svc, cx true .trap, cx false (fun _ => .tret), cx false (fun _ => .halt), cx false (fun _ => .nop)])]

/-! ### Vector formats (R50) -/

/-- Zero bits and reserved values shared by the rounding fields of lane 1, RMO 21 and RM 20:18. -/
def rmZero (used : Bool) (y : Nat) : Nat :=
  if used then mskIf (!bit y 21) (msk 20 18) else msk 21 18

/-- The one-lane VS form. -/
def vsRow (lens : List Nat) (u : VUse) (mk : VOp → Instr) (p : Nat → Nat) : Row :=
  let x := p 0
  ⟨lens, [mskIf (!u.a) (msk 13 7) + mskIf (!u.b) (msk 6 0)], [],
   mk ⟨vsOf (bits x 20 14), vsOf (bits x 13 7), vsOf (bits x 6 0), .v 0, 0, 0, none, false⟩⟩

/-- The VL form; `mk` also takes D, A and AUX as numbers, for the rows that give them another meaning. -/
def vlRow (lens : List Nat) (u : VUse) (resv : Nat → Nat → Nat → Bool)
    (mk : Nat → Nat → Nat → VOp → Instr) (p : Nat → Nat) : Row :=
  let x := p 0; let y := p 1
  let d := bits x 20 13; let a := bits x 12 5
  ⟨lens, [1 + mskIf (!u.a) (msk 12 5) + (msk 4 1 - u.aux <<< 1),
     1 + mskIf (!u.k) (msk 24 22) + rmZero u.rm y + mskIf (!u.b) (msk 17 10) + mskIf (!u.c) (msk 9 2) +
       mskIf (!u.sat) 2],
   [(0, (u.d && vrBad true d) || (u.a && vrBad false a) || resv d a (bits x 4 1)),
    (1, (u.rm && bit y 21 && rmBad (bits y 20 18)) || vrBad false (bits y 17 10) || vrBad false (bits y 9 2))],
   mk d a (bits x 4 1)
     ⟨if u.d then vrOf d else .v 0, if u.a then vrOf a else .v 0, vrOf (bits y 17 10), vrOf (bits y 9 2),
      fld 3 y 24 22, fld 3 y 27 25, rmOf (bit y 21) (bits y 20 18), bit y 1⟩⟩

/-- An opcode with the VS and VL forms, or the VL form alone. -/
def vl (u : VUse) (mk : VOp → Instr) : Entry := fun n p =>
  let lens := if u.vs then [1, 2] else [2]
  if n = 1 then vsRow lens u mk p else vlRow lens u (fun _ _ _ => false) (fun _ _ _ o => mk o) p
/-- Compares: D names a mask. -/
def vlCmp (mk : BitVec 3 → VOp → Instr) : Entry := fun _ p =>
  vlRow [2] useCmp (fun d _ _ => 8 ≤ d) (fun d _ _ o => mk (BitVec.ofNat 3 d) o) p
/-- vkcnt: A names a mask. -/
def vlKcnt : Entry := fun _ p =>
  let r := vlRow [2] useKcnt (fun _ a _ => 8 ≤ a) (fun _ a _ o => .vkcnt (BitVec.ofNat 3 a) o) p
  ⟨r.lens, [1 + msk 4 1, r.zero.getD 1 0], r.resv, r.instr⟩
/-- vsel: K is not 0. -/
def vlSel : Entry := fun _ p =>
  let r := vlRow [2] useSel (fun _ _ _ => false) (fun _ _ _ o => .vsel o) p
  ⟨r.lens, r.zero, r.resv ++ [(1, bits (p 1) 24 22 == 0)], r.instr⟩
/-- vtag: AUX holds FMT. -/
def vlTag : Entry := fun _ p =>
  vlRow [2] useTag (fun _ _ x => 11 ≤ x) (fun _ _ x o => .vtag (fmtOf x) o) p
/-- vpsplit, vpmerge, vbscale: AUX[2:0] holds PC where it is used. -/
def vlPc (u : VUse) (mk : BitVec 3 → VOp → Instr) : Entry := fun _ p =>
  vlRow [2] u (fun _ _ _ => false) (fun _ _ x o => mk (BitVec.ofNat 3 x) o) p
/-- vmov: a push onto the queue whose head A peeks at is reserved (R164). [DEDUCED, log 82] -/
def vlMov : Entry := fun n p =>
  if n = 1 then vsRow [1, 2] useLog1 .vmov p
  else vlRow [1, 2] useLog1 (fun d a _ => 128 ≤ d && a == d + 32) (fun _ _ _ o => .vmov o) p
/-- VI: vbcst. RMO and RM are 0; a 16-bit suffix takes a 16-bit immediate (R173): a nonzero bit of I[31:16] is reported in
the lane that holds it (R64). [DEDUCED, log 81] -/
def vi (f : Fmt) : Entry := fun _ p =>
  let x := p 0; let y := p 1
  let i := bits x 4 1 * 2 ^ 28 + bits (p 2) 27 0
  let half := f == .fp16 || f == .bf16
  ⟨[3], [1 + msk 12 5, msk 21 0, 0],
   [(0, vrBad true (bits x 20 13) || (half && bits x 4 1 != 0)), (2, half && bits (p 2) 27 16 != 0)],
   .vbcst f (vrOf (bits x 20 13)) (BitVec.ofNat 32 i) (fld 3 y 24 22) (fld 3 y 27 25)⟩
/-- The second lane of a 1+P form: DP and zeros (R43). -/
def zeroP (n : Nat) : List Nat := if n = 1 then [] else [msk 24 0]
/-- DP of a 1+P form. -/
def dpOf (n : Nat) (p : Nat → Nat) : BitVec 3 := if n = 1 then 0 else fld 3 (p 1) 27 25
/-- VK. -/
def vk (useA useB : Bool) (mk : BitVec 3 → BitVec 3 → BitVec 3 → BitVec 3 → Instr) : Entry := fun n p =>
  let x := p 0
  ⟨[1, 2], (msk 11 0 + mskIf (!useA) (msk 17 15) + mskIf (!useB) (msk 14 12)) :: zeroP n, [],
   mk (fld 3 x 20 18) (fld 3 x 17 15) (fld 3 x 14 12) (dpOf n p)⟩
/-- VK of vkset: N is 0 to 2048. -/
def vkN : Entry := fun n p =>
  let x := p 0
  ⟨[1, 2], msk 17 12 :: zeroP n, [(0, 2049 ≤ bits x 11 0)], .vkset (fld 3 x 20 18) (fld 12 x 11 0) (dpOf n p)⟩
/-- VM; the third lane is the expected tag. -/
def vm (dest : Bool) (mk : MOp → Instr) : Entry := fun n p =>
  let x := p 0; let y := p 1
  ⟨[2, 3], [msk 1 0, 0, msk 11 0], [(0, vrBad dest (bits x 20 13))],
   mk ⟨vrOf (bits x 20 13), fld 6 x 12 7, fld 5 x 6 2, fld 22 y 21 0, fld 3 y 24 22, fld 3 y 27 25,
     if n = 3 then some (fld 16 (p 2) 27 12) else none⟩⟩
/-- VG. -/
def vg (dest : Bool) (mk : GOp → Instr) : Entry := fun _ p =>
  let x := p 0; let y := p 1
  ⟨[2], [msk 1 0, msk 13 0], [(0, vrBad dest (bits x 20 13)), (1, vrBad false (bits y 21 14))],
   mk ⟨vrOf (bits x 20 13), fld 6 x 12 7, fld 5 x 6 2, vrOf (bits y 21 14), fld 3 y 24 22, fld 3 y 27 25⟩⟩
/-- VC: vrnd. -/
def vc : Entry := fun n p =>
  let x := p 0
  ⟨[1, 2], msk 17 0 :: zeroP n, [(0, rmBad (bits x 20 18))], .vrnd (rmodeOf (bits x 20 18)) (dpOf n p)⟩

/-- The vector stream's opcodes from OP 0x00 on (R51). -/
def vectorTable : List Entry :=
  sfxArith.map (fun f => vl (useBin f) (.vadd f)) ++ sfxArith.map (fun f => vl (useBin f) (.vsub f)) ++
  sfx4.map (fun f => vl (useBin f) (.vmul f)) ++ sfx3.map (fun f => vl useFma (.vfma f)) ++
  sfx4.map (fun f => vl (useBin f) (.vmin f)) ++ sfx4.map (fun f => vl (useBin f) (.vmax f)) ++
  sfx4.map (fun f => vl (useUn f.isFloat) (.vabs f)) ++ sfx4.map (fun f => vl (useUn f.isFloat) (.vneg f)) ++
  [vl (useBin .fp32) .vdiv, vl (useUn true) .vsqrt] ++
  sfx4.map (fun f => vlCmp (.vcmpeq f)) ++ sfx4.map (fun f => vlCmp (.vcmplt f)) ++
  sfx4.map (fun f => vlCmp (.vcmple f)) ++
  [vk true true .vkand, vk true true .vkor, vk true true .vkxor, vk true false (fun d a _ q => .vknot d a q), vkN,
   vlKcnt, vlSel, vl useLog2 .vand, vl useLog2 .vor, vl useLog2 .vxor, vl useLog1 .vnot, vl useLog2 .vshl,
   vl useLog2 .vshr, vl useLog2 .vsra] ++
  sfxCvt.map (fun f => vl (useUn true) (.vcvt f)) ++
  [vlTag, vl useTrans .vexp, vl useTrans .vlog, vl useTrans .vrcp, vl useTrans .vrsqrt, vl useTrans .vtanh,
   vl useTrans .vsig] ++
  sfx4.map (fun f => vl (useUn f.isFloat) (.vredsum f)) ++ sfx2.map (fun f => vl useLog1 (.vredmax f)) ++
  sfx2.map (fun f => vl useLog1 (.vredmin f)) ++ sfx2.map (fun f => vl (useUn f.isFloat) (.vscan f)) ++
  [vl useLog2 .vperm] ++ sfx4.map vi ++
  [vg true (.vgather .w4), vg true (.vgather .h2), vg true (.vgather .b1),
   vg false (.vscatter .w4), vg false (.vscatter .h2), vg false (.vscatter .b1)] ++
  sfxMem.map (fun f => vm true (.vld f)) ++ sfxMem.map (fun f => vm false (.vst f)) ++
  [vlPc useSplit .vpsplit, vlPc useMerge .vpmerge] ++
  sfxScale.map (fun f => vlPc (useScale (f == .pl)) (.vbscale f)) ++
  [vlMov, vc] ++ sfx2.map (fun f => vl useClamp (.vclamp f)) ++ [vl useIota .viota]

/-! ### Matrix formats (R52) -/

/-- MH. `a`, `ac`, `zs`, `pc` say which fields the opcode uses; a nonzero PC elsewhere is reserved (R47). -/
def mh (a ac zs pc noTr : Bool) (mk : BitVec 4 → MHOp → Instr) : Entry := fun _ p =>
  let x := p 0; let y := p 1
  ⟨[2], [mskIf (!a) (msk 20 17), mskIf (!ac) (msk 20 20) + mskIf (!zs) (msk 19 19)],
   [(1, (!pc && bits y 24 22 != 0) || (noTr && bit y 21))],
   mk (fld 4 x 20 17) ⟨fld 6 x 16 11, fld 5 x 10 6, fld 6 x 5 0, fld 3 y 27 25, fld 3 y 24 22, bit y 21, bit y 20,
     bit y 19, fld 19 y 18 0⟩⟩
/-- MQ of mmulq. -/
def mq (f : Fmt) : Entry := fun n p =>
  let x := p 0
  ⟨[1, 2], msk 10 0 :: zeroP n, [], .mmulq f (fld 4 x 20 17) (fld 5 x 16 12) (bit x 11) (dpOf n p)⟩
/-- MQ of mldwq: A is 0 and a peek is reserved (R193). -/
def mqW (f : Fmt) : Entry := fun n p =>
  let x := p 0
  ⟨[1, 2], (msk 10 0 + msk 20 17) :: zeroP n, [(0, bit x 11)], .mldwq f (fld 5 x 16 12) (dpOf n p)⟩
/-- MD: D is a popped queue code, ROWS at most 128. -/
def md (f : Fmt) : Entry := fun n p =>
  let x := p 0
  ⟨[1, 2], 1 :: zeroP n, [(0, bits x 16 9 < 128 || 160 ≤ bits x 16 9 || 129 ≤ bits x 8 1)],
   .mdrain f (fld 4 x 20 17) (fld 5 x 13 9) (fld 8 x 8 1) (dpOf n p)⟩
/-- MDH. -/
def mdh (usePr useSat : Bool) (mk : BitVec 4 → BitVec 5 → MDOp → Instr) : Entry := fun _ p =>
  let x := p 0; let y := p 1
  ⟨[2], [1 + mskIf (!usePr) (msk 5 1), mskIf (!bit y 24) (msk 23 21) + mskIf (!useSat) (msk 20 20)],
   [(1, (bit y 24 && rmBad (bits y 23 21)) || 129 ≤ bits y 19 12)],
   mk (fld 4 x 20 17) (fld 5 x 5 1) ⟨fld 6 x 16 11, fld 5 x 10 6, fld 3 y 27 25, rmOf (bit y 24) (bits y 23 21),
     bit y 20, fld 8 y 19 12, fld 12 y 11 0⟩⟩
/-- MA. -/
def ma (useB useX : Bool) (mk : BitVec 4 → BitVec 4 → VR → BitVec 3 → Instr) : Entry := fun n p =>
  let x := p 0
  ⟨[1, 2], (msk 4 0 + mskIf (!useB) (msk 16 13) + mskIf (!useX) (msk 12 5)) :: zeroP n,
   [(0, useX && vrBad false (bits x 12 5))],
   mk (fld 4 x 20 17) (fld 4 x 16 13) (vrOf (bits x 12 5)) (dpOf n p)⟩
/-- MC of mcfg. -/
def mcT : Entry := fun n p =>
  let x := p 0
  ⟨[1, 2], 0 :: zeroP n, [], .mcfg (fld 7 x 20 14) (fld 7 x 13 7) (fld 7 x 6 0) (dpOf n p)⟩
/-- MC of mrnd. -/
def mcR : Entry := fun n p =>
  let x := p 0
  ⟨[1, 2], msk 17 0 :: zeroP n, [(0, rmBad (bits x 20 18))], .mrnd (rmodeOf (bits x 20 18)) (dpOf n p)⟩

/-- The matrix stream's opcodes from OP 0x00 on (R53). -/
def matrixTable : List Entry :=
  sfxMldw.map (fun f => mh false false false (f == .pl) (f == .g4) (fun _ => .mldw f)) ++
  sfxMmul.map (fun f => mh true true true (f == .pl) false (.mmul f)) ++
  sfxMmulq.map mq ++ sfxMldwq.map mqW ++
  [mh false false false false false (fun _ => .mldg), mh true true false false false .mldacc,
   mh false false false false false (fun _ => .mpre)] ++
  sfxDrain.map md ++ sfxDrain.map (fun f => mdh false true (fun a _ => .mdrainc f a)) ++
  sfxDrains.map (fun f => mdh true (f != .pl) (.mdrains f)) ++ [mdh false false (fun a _ => .mdrainp a)] ++
  [ma false false (fun a _ _ => .mzero a), ma true false (fun a b _ => .maccmov a b),
   ma false true (fun a _ x => .mscale a x), ma false true (fun a _ x => .mbias a x),
   ma true false (fun a b _ => .mswap a b), mcT, mcR]

/-! ### Pump formats (R54) -/

/-- PC, and its two-dimensional variant, whose lane 3 holds the row count. -/
def pcRow (u : PUse) (twoD tags chk : Bool) (mk : BitVec 10 → POp → Instr) : Entry := fun _ p =>
  let x := p 0; let y := p 1; let z := p 2; let t := p 3
  let ni := bit y 4
  ⟨[4], [mskIf (!u.hd) (msk 20 15) + mskIf (!u.hs) (msk 14 9) + mskIf (!u.od) (msk 8 4) + mskIf (!u.tab) (msk 3 0),
     msk 3 0 + mskIf (!u.os) (msk 24 20) + mskIf (ni && !twoD) (msk 14 10) +
       mskIf (bits z 11 6 == 0) (msk 9 5) + mskIf twoD (msk 4 4),
     mskIf (!u.seq) (msk 27 12),
     if twoD then msk 17 4 else mskIf (!ni) (msk 27 4)],
   [(2, (tags && bits z 27 12 == 0xFFFF) || (chk && bits z 5 0 == 0)), (3, twoD && bits t 27 18 == 0)],
   mk (fld 10 t 27 18) ⟨fld 6 x 20 15, fld 6 x 14 9, fld 5 x 8 4, fld 4 x 3 0, fld 3 y 27 25, fld 5 y 24 20,
     fld 5 y 19 15, fld 5 y 14 10, fld 5 y 9 5, ni, fld 16 z 27 12, fld 6 z 11 6, fld 6 z 5 0,
     if twoD then 0 else fld 24 t 27 4, fld 4 t 3 0⟩⟩
/-- PE. -/
def pe : Entry := fun _ p =>
  let x := p 0
  ⟨[2], [msk 4 0, msk 24 0], [], .pevent (fld 6 x 20 15) (fld 5 x 14 10) (fld 5 x 9 5) (fld 3 (p 1) 27 25)⟩
/-- PT. -/
def pt : Entry := fun _ p =>
  let x := p 0
  ⟨[2], [msk 10 0, msk 24 0], [], .ptab (fld 6 x 20 15) (fld 4 x 14 11) (fld 3 (p 1) 27 25)⟩
/-- PX. -/
def px (flush : Bool) : Entry := fun n p =>
  let x := p 0
  ⟨[1, 2], (msk 16 0 + mskIf flush (msk 20 17)) :: zeroP n, [(0, !flush && bits x 20 17 == 0)],
   if flush then .pflush (dpOf n p) else .pcancel (fld 4 x 20 17) (dpOf n p)⟩

/-- The pump stream's opcodes from OP 0x00 on (R55). -/
def pumpTable : List Entry :=
  [pcRow useCopy false true false (fun _ => .pcopy false), pcRow useCopy false true false (fun _ => .pcopy true),
   pcRow useCopy true true false (.pcopy2d false), pcRow useCopy true true false (.pcopy2d true),
   pcRow useCopyd false true false (fun _ => .pcopyd false), pcRow useCopyd false true false (fun _ => .pcopyd true),
   pcRow useCopy false true false (fun _ => .pcopyhIn), pcRow useHout false false false (fun _ => .pcopyhOut),
   pcRow useOver false false false (fun _ => .pover), pcRow useOver false false false (fun _ => .pcmd),
   pcRow useFill false true false (fun _ => .pfill), pcRow useTagset false true false (fun _ => .ptagset),
   pcRow useTagchk false false true (fun _ => .ptagchk), pcRow usePrefetch false false false (fun _ => .pprefetch),
   pe, pt, px false, px true]

/-! ### Halo formats (R56) -/

/-- GD. -/
def gd (decl : Bool) : Entry := fun n p =>
  let x := p 0
  ⟨[1, 2], (msk 4 0 + mskIf decl (msk 10 5) + mskIf (!decl) (msk 16 11)) :: zeroP n, [],
   if decl then .gdecl (fld 4 x 20 17) (fld 6 x 16 11) (dpOf n p)
   else .gbind (fld 4 x 20 17) (fld 6 x 10 5) (dpOf n p)⟩
/-- GB of gbound: FACE and RULE. -/
def gbBound : Entry := fun n p =>
  let x := p 0
  ⟨[1, 2], msk 10 0 :: zeroP n, [(0, 6 ≤ bits x 16 14 || 5 ≤ bits x 13 11)],
   .gbound (fld 4 x 20 17) (faceOf (bits x 16 14)) (ruleOf (bits x 13 11)) (dpOf n p)⟩
/-- GB of gdepth: BM1 and A. -/
def gbDepth : Entry := fun n p =>
  let x := p 0
  ⟨[1, 2], (msk 16 11 + msk 8 7 + msk 1 0) :: zeroP n, [],
   .gdepth (fld 4 x 20 17) (fld 2 x 10 9) (fld 5 x 6 2) (dpOf n p)⟩
/-- GB of gface: FACE, KIND and A. -/
def gbFace : Entry := fun n p =>
  let x := p 0
  ⟨[1, 2], (msk 13 9 + msk 1 0) :: zeroP n, [(0, 6 ≤ bits x 16 14 || bits x 8 7 == 3)],
   .gface (fld 4 x 20 17) (faceOf (bits x 16 14)) (kindOf (bits x 8 7)) (fld 5 x 6 2) (dpOf n p)⟩
/-- GB of the forms that use G alone. -/
def gbG (mk : BitVec 4 → BitVec 3 → Instr) : Entry := fun n p =>
  let x := p 0
  ⟨[1, 2], msk 16 0 :: zeroP n, [], mk (fld 4 x 20 17) (dpOf n p)⟩
/-- GW. -/
def gw : Entry := fun n p =>
  let x := p 0
  ⟨[1, 2], msk 5 0 :: zeroP n, [], .gwait (fld 4 x 20 17) (fld 5 x 16 12) (fld 6 x 11 6) (dpOf n p)⟩
/-- GM. -/
def gm (dest : Bool) (mk : GMOp → Instr) : Entry := fun _ p =>
  let x := p 0; let y := p 1; let z := p 2
  ⟨[3], [msk 1 0, 0, msk 22 0], [(0, vrBad dest (bits x 20 13))],
   mk ⟨vrOf (bits x 20 13), fld 6 x 12 7, fld 5 x 6 2, fld 3 y 24 22, fld 3 y 27 25, fld 4 y 21 18, fld 18 y 17 0,
     fld 5 z 27 23⟩⟩

/-- The halo stream's opcodes from OP 0x00 on (R57). -/
def haloTable : List Entry :=
  [gd true, gd false, gbBound, gbDepth, gbFace, gbG .gstep, gbG .gxchg, gw, gbG .greset, gbG .gfree] ++
  sfx3.map (fun f => gm true (.gld f)) ++ sfx3.map (fun f => gm false (.gst f))

/-! ### Signature formats (R58) -/

/-- SG. -/
def sg : Entry := fun n p =>
  let x := p 0
  ⟨[1, 2], msk 14 0 :: zeroP n, [], .sigcfg (fld 4 x 20 17) (fld 2 x 16 15) (dpOf n p)⟩
/-- SS. -/
def ss (useA useB : Bool) (mk : BitVec 5 → BitVec 5 → BitVec 3 → Instr) : Entry := fun n p =>
  let x := p 0
  ⟨[1, 2], (msk 10 0 + mskIf (!useA) (msk 20 16) + mskIf (!useB) (msk 15 11)) :: zeroP n, [],
   mk (fld 5 x 20 16) (fld 5 x 15 11) (dpOf n p)⟩
/-- SV of siginc. -/
def sv (f : Fmt) : Entry := fun n p =>
  let x := p 0
  ⟨[1, 2], msk 12 0 :: zeroP n, [(0, vrBad false (bits x 20 13))], .siginc f (vrOf (bits x 20 13)) (dpOf n p)⟩
/-- SV of sigdrain: X is a popped queue code. -/
def svD : Entry := fun n p =>
  let x := p 0
  ⟨[1, 2], msk 10 0 :: zeroP n, [(0, bits x 20 13 < 128 || 160 ≤ bits x 20 13)],
   .sigdrain (fld 5 x 17 13) (fld 2 x 12 11) (dpOf n p)⟩
/-- SM. -/
def sm (useB : Bool) (mk : BitVec 6 → BitVec 5 → BitVec 5 → BitVec 3 → Instr) : Entry := fun _ p =>
  let x := p 0
  ⟨[2], [msk 4 0 + mskIf (!useB) (msk 9 5), msk 24 0], [],
   mk (fld 6 x 20 15) (fld 5 x 14 10) (fld 5 x 9 5) (fld 3 (p 1) 27 25)⟩

/-- The signature stream's opcodes from OP 0x00 on (R59). -/
def signatureTable : List Entry :=
  [sg, ss true false (fun a _ => .sigzero a), ss true true .sigseg] ++ sfxSig.map sv ++
  sfxSig.map (fun f => sm true (.sigincb f)) ++
  [sm false (fun h a _ => .sigjoin false h a), sm false (fun h a _ => .sigjoin true h a),
   ss false false (fun _ _ => .siglog), ss false false (fun _ _ => .sigexp), sm false (fun h a _ => .sigld h a)] ++
  sfxSig.map (fun f => sm false (fun h a _ => .sigst f h a)) ++ [svD]

/-! ### Fabric formats (R60) -/

/-- FM of xst. -/
def fm (f : Fmt) : Entry := fun _ p =>
  let x := p 0; let y := p 1
  ⟨[2], [msk 1 0, 0], [(0, vrBad false (bits x 20 13))],
   .xst f ⟨vrOf (bits x 20 13), fld 6 x 12 7, fld 5 x 6 2, fld 3 y 24 22, fld 3 y 27 25, fld 5 y 21 17,
     fld 17 y 16 0⟩⟩
/-- FM of xld. -/
def fmL (f : Fmt) : Entry := fun _ p =>
  let x := p 0; let y := p 1
  ⟨[3], [msk 1 0, 0, msk 21 0], [(0, vrBad true (bits x 20 13))],
   .xld f ⟨vrOf (bits x 20 13), fld 6 x 12 7, fld 5 x 6 2, fld 3 y 24 22, fld 3 y 27 25, fld 5 y 21 17,
     fld 17 y 16 0⟩ (fld 6 (p 2) 27 22)⟩
/-- FA. With acquire ordering EI is not 0 (R457). -/
def fa (cas dw : Bool) : Entry := fun _ p =>
  let x := p 0; let y := p 1
  ⟨[2], [0, msk 5 0 + mskIf (bits y 18 17 == 0) (msk 21 19) + mskIf cas (msk 24 22) + mskIf (!cas) (msk 16 12)],
   [(1, 6 ≤ bits y 21 19 || (!cas && bits y 24 22 == 7) || ((ordOf (bits y 18 17)).acquires && bits y 11 6 == 0))],
   let o : FAOp := ⟨fld 6 x 20 15, fld 5 x 14 10, fld 5 x 9 5, fld 5 x 4 0, fld 3 y 27 25, scopeOf (bits y 21 19),
     ordOf (bits y 18 17), fld 6 y 11 6⟩
   if cas then .xacas dw (fld 5 y 16 12) o else .xamo dw (aopOf (bits y 24 22)) o⟩
/-- FE. -/
def fe : Entry := fun n p =>
  let x := p 0
  ⟨[1, 2], (msk 5 0 + mskIf (!bit x 6) (msk 9 7)) :: zeroP n, [(0, 6 ≤ bits x 9 7)],
   .xevinc (fld 6 x 20 15) (fld 5 x 14 10) (scopeOf (bits x 9 7)) (bit x 6) (dpOf n p)⟩
/-- FT. -/
def ft : Entry := fun _ p =>
  let x := p 0
  ⟨[2], [msk 3 0, msk 24 0], [], .xtrig (fld 6 x 20 15) (fld 5 x 14 10) (fld 6 x 9 4) (fld 3 (p 1) 27 25)⟩
/-- FL. -/
def flr : Entry := fun _ p =>
  let x := p 0; let y := p 1
  ⟨[2], [msk 1 0, msk 19 0], [(0, 4 ≤ bits x 4 2)],
   .xtile (fld 5 x 20 16) (fld 6 x 15 10) (fld 5 x 9 5) (oprOf (bits x 4 2)) (fld 5 y 24 20) (fld 3 y 27 25)⟩
/-- FY. -/
def fy : Entry := fun n p =>
  let x := p 0
  ⟨[1, 2], msk 15 0 :: zeroP n, [], .xready (fld 5 x 20 16) (dpOf n p)⟩
/-- FG. -/
def fg (op : RingOp) : Entry := fun _ p =>
  let x := p 0; let y := p 1
  ⟨[2], [1, msk 7 0 + mskIf (bits y 18 13 == 0) (msk 12 8)], [(0, 12 ≤ bits x 20 17)],
   .xring op (fld 4 x 20 17) (fld 6 x 16 11) (fld 5 x 10 6) (fld 5 x 5 1) (fld 6 y 24 19) (fld 6 y 18 13)
     (fld 5 y 12 8) (fld 3 y 27 25)⟩
/-- FS. -/
def fs : Entry := fun _ p =>
  let x := p 0
  ⟨[2], [msk 5 0, msk 24 0], [(0, 12 ≤ bits x 20 17)],
   .xsched (fld 4 x 20 17) (fld 6 x 16 11) (fld 5 x 10 6) (fld 3 (p 1) 27 25)⟩
/-- FP. -/
def fp : Entry := fun n p =>
  let x := p 0
  ⟨[1, 2], msk 2 0 :: zeroP n, [(0, 11 ≤ bits x 9 6 || rmBad (bits x 5 3))],
   .xport (fld 5 x 20 16) (fld 6 x 15 10) (fmtOf (bits x 9 6)) (rmodeOf (bits x 5 3)) (dpOf n p)⟩
/-- FC. -/
def fc (resid : Bool) : Entry := fun _ p =>
  let x := p 0; let y := p 1
  ⟨[2], [msk 5 0 + mskIf resid (msk 8 6), msk 16 0], [],
   if resid then .xresid (fld 6 x 20 15) (fld 6 x 14 9) (fld 2 y 24 23) (fld 6 y 22 17) (fld 3 y 27 25)
   else .xcomp (fld 6 x 20 15) (fld 6 x 14 9) (fld 3 x 8 6) (fld 2 y 24 23) (fld 6 y 22 17) (fld 3 y 27 25)⟩
/-- FW. -/
def fw (fence : Bool) : Entry := fun n p =>
  let x := p 0
  ⟨[1, 2], (msk 5 0 + (if fence then msk 16 12 else msk 11 6)) :: zeroP n, [],
   if fence then .xfence (fld 4 x 20 17) (fld 6 x 11 6) (dpOf n p)
   else .xallow (fld 4 x 20 17) (fld 5 x 16 12) (dpOf n p)⟩
/-- FK: OPR is 0 for .ag, .a2a and .bc. -/
def fk (op : CollOp) : Entry := fun _ p =>
  let x := p 0; let y := p 1; let z := p 2
  let red := op == .ar || op == .rs
  ⟨[3], [1, msk 5 0 + mskIf (!red) (msk 20 18), msk 17 0 + mskIf (bits y 11 6 == 0) (msk 22 18)],
   [(1, 11 ≤ bits y 24 21 || 4 ≤ bits y 20 18)],
   .xcoll op ⟨fld 6 x 20 15, fld 6 x 14 9, fld 8 x 8 1, fld 3 y 27 25, fmtOf (bits y 24 21), oprOf (bits y 20 18),
     fld 6 y 17 12, fld 6 y 11 6, fld 5 z 27 23, fld 5 z 22 18⟩⟩
/-- FN. -/
def fn (recv : Bool) : Entry := fun _ p =>
  let x := p 0; let y := p 1
  ⟨[2], [msk 7 0, msk 18 0], [],
   if recv then .xrecv (fld 6 x 20 15) (fld 2 x 14 13) (fld 5 x 12 8) (fld 6 y 24 19) (fld 3 y 27 25)
   else .xsend (fld 6 x 20 15) (fld 2 x 14 13) (fld 5 x 12 8) (fld 6 y 24 19) (fld 3 y 27 25)⟩
/-- FB. -/
def fb (mk : FBOp → Instr) : Entry := fun _ p =>
  let x := p 0; let y := p 1; let z := p 2
  ⟨[3], [msk 3 0, msk 9 0, msk 10 0 + mskIf (bits z 21 16 == 0) (msk 15 11)], [],
   mk ⟨fld 6 x 20 15, fld 6 x 14 9, fld 5 x 8 4, fld 3 y 27 25, fld 5 y 24 20, fld 5 y 19 15, fld 5 y 14 10,
     fld 6 z 27 22, fld 6 z 21 16, fld 5 z 15 11⟩⟩

/-- The fabric stream's opcodes from OP 0x00 on (R61). -/
def fabricTable : List Entry :=
  sfxXst.map fm ++ sfxXld.map fmL ++
  [fa false false, fa false true, fa true false, fa true true, fe, ft, flr, fy, fg .rs, fg .ag, fg .ar, fs, fp,
   fc false, fc true, fw false, fw true, fk .ar, fk .ag, fk .rs, fk .a2a, fk .bc, fn false, fn true,
   fb .xput, fb .xget]

/-- The entry of an OP in runs of entries. -/
def lookupRuns : List (Nat × List Entry) → Nat → Option Entry
  | [], _ => none
  | (b, es) :: rest, op => if b ≤ op && op < b + es.length then es[op - b]? else lookupRuns rest op

/-- The entry of an opcode: one OP value in one stream (R41). -/
def entryOf (stream op : Nat) : Option Entry :=
  match stream with
  | 0 => lookupRuns controlTable op
  | 1 => vectorTable[op]?
  | 2 => matrixTable[op]?
  | 3 => pumpTable[op]?
  | 4 => haloTable[op]?
  | 5 => signatureTable[op]?
  | 6 => fabricTable[op]?
  | _ => none

/-! ## Checking and decoding -/

/-- What fetch finds at a lane: an instruction of some lanes, a filler, or a fault with its REASON and the
lane counted from the first lane of the instruction (R64). -/
inductive Decoded where
  | ok (i : Instr) (len : Nat)
  | filler
  | bad (reason lane : Nat)
deriving DecidableEq, Repr

/-- The stream of a lane. -/
def laneStream (w : Lane) : Nat := bits w.toNat 31 29
/-- The continuation bit of a lane. -/
def laneC (w : Lane) : Bool := bit w.toNat 28
/-- The payload of a lane. -/
def lanePayload (w : Lane) : Nat := bits w.toNat 27 0

/-- The extent of an instruction from its C bits (R21, R64 step 1): its length, or the lane where the rule
breaks. `k` lanes have been seen, `fuel` more may follow in an instruction of at most four. -/
def extent (s : Nat) : List Lane → Nat → Nat → Except Nat Nat
  | [], k, _ => .error k
  | w :: rest, k, fuel =>
    if laneStream w ≠ s then .error k
    else if laneC w then
      match fuel, rest with
      | 0, _ => .error k
      | _, [] => .error k
      | fuel + 1, _ => extent s rest (k + 1) fuel
    else .ok (k + 1)

/-- The first field fault in lane order, zero fields before reserved values within a lane (R64 step 5). -/
def fieldFault (r : Row) (p : Nat → Nat) : Nat → Nat → Option (Nat × Nat)
  | _, 0 => none
  | k, left + 1 =>
    let pay := if k = 0 then bits (p 0) 20 0 else p k
    if pay &&& r.zero.getD k 0 ≠ 0 then some (3, k)
    else if r.resv.any (fun x => x.1 == k && x.2) then some (4, k)
    else fieldFault r p (k + 1) left

/-- Decode the instruction or filler at the head of the remaining lanes of a line (R64). [DEDUCED, log 24] -/
def decodeLanes (ls : List Lane) : Decoded :=
  match ls with
  | [] => .filler
  | w :: _ =>
    if w = 0xE0000000#32 then .filler
    else
      match extent (laneStream w) ls 0 3 with
      | .error k => .bad 0 k
      | .ok n =>
        if laneStream w = 7 then .bad 5 0
        else
          match entryOf (laneStream w) (bits w.toNat 27 21) with
          | none => .bad 1 0
          | some e =>
            let p := fun k => lanePayload (ls.getD k 0)
            let r := e n p
            if !r.lens.contains n then .bad 2 (n - 1)
            else
              match fieldFault r p 0 n with
              | some (reason, lane) => .bad reason lane
              | none => .ok r.instr n

/-- The lanes of a number as the opcode table numbers an instruction's bits: lane 0 is bits 31:0. -/
def lanesOfNat (w : Nat) : List Lane :=
  [BitVec.ofNat 32 w, BitVec.ofNat 32 (w >>> 32), BitVec.ofNat 32 (w >>> 64), BitVec.ofNat 32 (w >>> 96)]

/-- The instruction the decoder reads from an opcode-table word: the first lane is bits 31:0. Only as many
lanes as the C bits ask for are read, and bits above nbits are zero. -/
def decodeTableWord (nbits w : Nat) : Option Instr :=
  match decodeLanes (lanesOfNat (w % 2 ^ nbits)) with
  | .ok i _ => some i
  | _ => none

/-! ## Encoding -/

/-- The lanes of an instruction from its stream, OP and lane payloads: C is set in all but the last (R21, R40). -/
def laneWords (stream : Nat) : List Nat → List Lane
  | [] => []
  | [p] => [BitVec.ofNat 32 (stream * 2 ^ 29 + p)]
  | p :: rest => BitVec.ofNat 32 (stream * 2 ^ 29 + 2 ^ 28 + p) :: laneWords stream rest

/-- OP stands in bits 27:21 of the first lane's payload (R41). -/
def enc (stream op : Nat) (p : Nat) (rest : List Nat) : List Lane := laneWords stream ((op * 2 ^ 21 + p) :: rest)

/-- The DP lane of a 1+P form, left out when the instruction is always delivered (R43, R45). -/
def dpLane (dp : BitVec 3) : List Nat := if dp = 0 then [] else [dp.toNat * 2 ^ 25]

/-- RMO and RM as one number, RMO above three RM bits. -/
def rmBits : Option RMode → Nat
  | none => 0
  | some r => 8 + r.code

/-- A VL instruction fits its VS form (R45, R50). -/
def VOp.short (o : VOp) : Bool :=
  o.c == .v 0 && o.k == 0 && o.dp == 0 && o.rm == none && o.sat == false &&
  [o.d, o.a, o.b].all (fun r => match r with | .v n => n.toNat < 96 | .q _ => true | .pk _ => false)

/-- The second lane of a VL form. -/
def vlLane1 (o : VOp) : Nat :=
  o.dp.toNat * 2 ^ 25 + o.k.toNat * 2 ^ 22 + rmBits o.rm * 2 ^ 18 + o.b.code * 2 ^ 10 + o.c.code * 4 +
    o.sat.toNat * 2

/-- VL, with D, A and AUX as numbers. -/
def encVL (op d a aux : Nat) (o : VOp) : List Lane := enc 1 op (d * 2 ^ 13 + a * 2 ^ 5 + aux * 2) [vlLane1 o]

/-- VS where it fits, VL otherwise. -/
def encV (op : Nat) (o : VOp) : List Lane :=
  if o.short then enc 1 op (o.d.codeS * 2 ^ 14 + o.a.codeS * 2 ^ 7 + o.b.codeS) []
  else encVL op o.d.code o.a.code 0 o

/-- An opcode of a suffix: the base OP and the place of the suffix in its list. -/
def opOf (base : Nat) (l : List Fmt) (f : Fmt) : Nat := base + l.idxOf f

def encCR (op : Nat) (d a b : BitVec 5) : List Lane :=
  enc 0 op (d.toNat * 2 ^ 16 + a.toNat * 2 ^ 11 + b.toNat * 2 ^ 6) []
def encCI (op : Nat) (d a : BitVec 5) (i : BitVec 11) : List Lane :=
  enc 0 op (d.toNat * 2 ^ 16 + a.toNat * 2 ^ 11 + i.toNat) []
def encCP (op : Nat) (p : BitVec 3) (a b : BitVec 5) : List Lane :=
  enc 0 op (p.toNat * 2 ^ 18 + a.toNat * 2 ^ 13 + b.toNat * 2 ^ 8) []
def encCPI (op : Nat) (p : BitVec 3) (a : BitVec 5) (i : BitVec 13) : List Lane :=
  enc 0 op (p.toNat * 2 ^ 18 + a.toNat * 2 ^ 13 + i.toNat) []
def encCQ (op : Nat) (d a b : BitVec 3) : List Lane :=
  enc 0 op (d.toNat * 2 ^ 18 + a.toNat * 2 ^ 15 + b.toNat * 2 ^ 12) []
def encCM (op : Nat) (d : BitVec 5) (h : BitVec 6) (a u : BitVec 5) : List Lane :=
  enc 0 op (d.toNat * 2 ^ 16 + h.toNat * 2 ^ 10 + a.toNat * 2 ^ 5 + u.toNat) []
def encCML (op : Nat) (d : BitVec 5) (h : BitVec 6) (a : BitVec 5) (i : BitVec 28) : List Lane :=
  enc 0 op (d.toNat * 2 ^ 16 + h.toNat * 2 ^ 10 + a.toNat * 2 ^ 5) [i.toNat]
def encCA (op : Nat) (d : BitVec 5) (h : BitVec 6) (a : BitVec 5) (aop : Nat) (sc : Scope) (ord : Ord)
    (b c : BitVec 5) : List Lane :=
  enc 0 op (d.toNat * 2 ^ 16 + h.toNat * 2 ^ 10 + a.toNat * 2 ^ 5)
    [aop * 2 ^ 25 + sc.code * 2 ^ 22 + ord.code * 2 ^ 20 + b.toNat * 2 ^ 15 + c.toNat * 2 ^ 10]
def encCHD (op : Nat) (hd ha : BitVec 6) (a : BitVec 5) (rest : List Nat) : List Lane :=
  enc 0 op (hd.toNat * 2 ^ 15 + ha.toNat * 2 ^ 9 + a.toNat * 2 ^ 4) rest
def encCB (op : Nat) (p : BitVec 3) (d : BitVec 5) (l : BitVec 13) : List Lane :=
  enc 0 op (p.toNat * 2 ^ 18 + d.toNat * 2 ^ 13 + l.toNat) []
def encCS (op : Nat) (r : BitVec 5) (n : BitVec 12) : List Lane := enc 0 op (r.toNat * 2 ^ 16 + n.toNat) []
def encCE (op : Nat) (e : BitVec 6) (a : BitVec 5) (sc : Scope) (rel : Bool) (b : BitVec 5) : List Lane :=
  enc 0 op (e.toNat * 2 ^ 15 + a.toNat * 2 ^ 10 + sc.code * 2 ^ 7 + rel.toNat * 2 ^ 6 + b.toNat * 2) []
def encVK (op : Nat) (d a b dp : BitVec 3) : List Lane :=
  enc 1 op (d.toNat * 2 ^ 18 + a.toNat * 2 ^ 15 + b.toNat * 2 ^ 12) (dpLane dp)
def encVM (op : Nat) (o : MOp) : List Lane :=
  enc 1 op (o.x.code * 2 ^ 13 + o.h.toNat * 2 ^ 7 + o.a.toNat * 4)
    ((o.dp.toNat * 2 ^ 25 + o.k.toNat * 2 ^ 22 + o.i.toNat) ::
      (match o.tag with | none => [] | some t => [t.toNat * 2 ^ 12]))
def encVG (op : Nat) (o : GOp) : List Lane :=
  enc 1 op (o.x.code * 2 ^ 13 + o.h.toNat * 2 ^ 7 + o.a.toNat * 4)
    [o.dp.toNat * 2 ^ 25 + o.k.toNat * 2 ^ 22 + o.ix.code * 2 ^ 14]
/-- The place of an element width among the gather opcodes. -/
def Width.idx : Width → Nat
  | .w4 => 0
  | .h2 => 1
  | .b1 => 2
def encMH (op : Nat) (a : BitVec 4) (o : MHOp) : List Lane :=
  enc 2 op (a.toNat * 2 ^ 17 + o.h.toNat * 2 ^ 11 + o.s.toNat * 2 ^ 6 + o.mct.toNat)
    [o.dp.toNat * 2 ^ 25 + o.pc.toNat * 2 ^ 22 + o.tr.toNat * 2 ^ 21 + o.ac.toNat * 2 ^ 20 + o.zs.toNat * 2 ^ 19 +
      o.i.toNat]
def encMDH (op : Nat) (a : BitVec 4) (pr : BitVec 5) (o : MDOp) : List Lane :=
  enc 2 op (a.toNat * 2 ^ 17 + o.h.toNat * 2 ^ 11 + o.s.toNat * 2 ^ 6 + pr.toNat * 2)
    [o.dp.toNat * 2 ^ 25 + rmBits o.rm * 2 ^ 21 + o.sat.toNat * 2 ^ 20 + o.rows.toNat * 2 ^ 12 + o.i.toNat]
def encMA (op : Nat) (a b : BitVec 4) (x : Nat) (dp : BitVec 3) : List Lane :=
  enc 2 op (a.toNat * 2 ^ 17 + b.toNat * 2 ^ 13 + x * 2 ^ 5) (dpLane dp)
def encPC (op : Nat) (rows : BitVec 10) (o : POp) : List Lane :=
  enc 3 op (o.hd.toNat * 2 ^ 15 + o.hs.toNat * 2 ^ 9 + o.od.toNat * 2 ^ 4 + o.tab.toNat)
    [o.dp.toNat * 2 ^ 25 + o.os.toNat * 2 ^ 20 + o.t.toNat * 2 ^ 15 + o.n.toNat * 2 ^ 10 + o.th.toNat * 2 ^ 5 +
      o.ni.toNat * 2 ^ 4,
     o.seq.toNat * 2 ^ 12 + o.ew.toNat * 2 ^ 6 + o.ei.toNat,
     rows.toNat * 2 ^ 18 + o.nimm.toNat * 2 ^ 4 + o.cid.toNat]
def encGB (op : Nat) (g : BitVec 4) (x : Nat) (dp : BitVec 3) : List Lane :=
  enc 4 op (g.toNat * 2 ^ 17 + x) (dpLane dp)
def encGM (op : Nat) (o : GMOp) : List Lane :=
  enc 4 op (o.x.code * 2 ^ 13 + o.h.toNat * 2 ^ 7 + o.a.toNat * 4)
    [o.dp.toNat * 2 ^ 25 + o.k.toNat * 2 ^ 22 + o.g.toNat * 2 ^ 18 + o.i.toNat, o.st.toNat * 2 ^ 23]
def encSS (op : Nat) (a b : BitVec 5) (dp : BitVec 3) : List Lane :=
  enc 5 op (a.toNat * 2 ^ 16 + b.toNat * 2 ^ 11) (dpLane dp)
def encSM (op : Nat) (h : BitVec 6) (a b : BitVec 5) (dp : BitVec 3) : List Lane :=
  enc 5 op (h.toNat * 2 ^ 15 + a.toNat * 2 ^ 10 + b.toNat * 2 ^ 5) [dp.toNat * 2 ^ 25]
def encFM (op : Nat) (o : FMOp) (rest : List Nat) : List Lane :=
  enc 6 op (o.x.code * 2 ^ 13 + o.h.toNat * 2 ^ 7 + o.a.toNat * 4)
    ((o.dp.toNat * 2 ^ 25 + o.k.toNat * 2 ^ 22 + o.pr.toNat * 2 ^ 17 + o.i.toNat) :: rest)
def encFA (op aop : Nat) (c : BitVec 5) (o : FAOp) : List Lane :=
  enc 6 op (o.h.toNat * 2 ^ 15 + o.a.toNat * 2 ^ 10 + o.pr.toNat * 2 ^ 5 + o.b.toNat)
    [o.dp.toNat * 2 ^ 25 + aop * 2 ^ 22 + o.sc.code * 2 ^ 19 + o.ord.code * 2 ^ 17 + c.toNat * 2 ^ 12 +
      o.ei.toNat * 2 ^ 6]
def encFN (op : Nat) (h : BitVec 6) (cp : BitVec 2) (a : BitVec 5) (ei : BitVec 6) (dp : BitVec 3) : List Lane :=
  enc 6 op (h.toNat * 2 ^ 15 + cp.toNat * 2 ^ 13 + a.toNat * 2 ^ 8) [dp.toNat * 2 ^ 25 + ei.toNat * 2 ^ 19]
def encFB (op : Nat) (o : FBOp) : List Lane :=
  enc 6 op (o.hd.toNat * 2 ^ 15 + o.hs.toNat * 2 ^ 9 + o.pr.toNat * 2 ^ 4)
    [o.dp.toNat * 2 ^ 25 + o.n.toNat * 2 ^ 20 + o.od.toNat * 2 ^ 15 + o.os.toNat * 2 ^ 10,
     o.ei.toNat * 2 ^ 22 + o.ew.toNat * 2 ^ 16 + o.th.toNat * 2 ^ 11]
/-- The place of a ring operation among its opcodes (R61). -/
def RingOp.idx : RingOp → Nat
  | .rs => 0
  | .ag => 1
  | .ar => 2
/-- The place of a collective among its opcodes (R61). -/
def CollOp.idx : CollOp → Nat
  | .ar => 0
  | .ag => 1
  | .rs => 2
  | .a2a => 3
  | .bc => 4

/-- The lanes of an instruction in the shortest form that holds it (R45); an event row has no encoding. -/
def encode : Instr → List Lane
  | .add d a b => encCR 0x00 d a b
  | .sub d a b => encCR 0x01 d a b
  | .mul d a b => encCR 0x02 d a b
  | .mulh d a b => encCR 0x03 d a b
  | .div d a b => encCR 0x04 d a b
  | .divu d a b => encCR 0x05 d a b
  | .rem d a b => encCR 0x06 d a b
  | .and d a b => encCR 0x07 d a b
  | .or d a b => encCR 0x08 d a b
  | .xor d a b => encCR 0x09 d a b
  | .sll d a b => encCR 0x0a d a b
  | .srl d a b => encCR 0x0b d a b
  | .sra d a b => encCR 0x0c d a b
  | .min d a b => encCR 0x0d d a b
  | .max d a b => encCR 0x0e d a b
  | .clz d a => encCR 0x0F d a 0
  | .popc d a => encCR 0x10 d a 0
  | .addi d a i => encCI 0x18 d a i
  | .subi d a i => encCI 0x19 d a i
  | .andi d a i => encCI 0x1a d a i
  | .ori d a i => encCI 0x1b d a i
  | .xori d a i => encCI 0x1c d a i
  | .slli d a i => encCI 0x1d d a i
  | .srli d a i => encCI 0x1e d a i
  | .srai d a i => encCI 0x1f d a i
  | .li d i => enc 0 0x20 (d.toNat * 2 ^ 16 + i.toNat) []
  | .liLong d i => enc 0 0x20 (d.toNat * 2 ^ 16 + bits i.toNat 63 48) [bits i.toNat 47 20, bits i.toNat 19 0 * 2 ^ 8]
  | .cmpeq p a b => encCP 0x28 p a b
  | .cmpne p a b => encCP 0x29 p a b
  | .cmplt p a b => encCP 0x2a p a b
  | .cmple p a b => encCP 0x2b p a b
  | .cmpltu p a b => encCP 0x2c p a b
  | .cmpleu p a b => encCP 0x2d p a b
  | .cmpeqImm p a i => encCPI 0x30 p a i
  | .cmpneImm p a i => encCPI 0x31 p a i
  | .cmpltImm p a i => encCPI 0x32 p a i
  | .cmpleImm p a i => encCPI 0x33 p a i
  | .cmpltuImm p a i => encCPI 0x34 p a i
  | .cmpleuImm p a i => encCPI 0x35 p a i
  | .andp d a b => encCQ 0x38 d a b
  | .orp d a b => encCQ 0x39 d a b
  | .xorp d a b => encCQ 0x3a d a b
  | .notp d a => encCQ 0x3b d a 0
  | .ldb d h a u => encCM 0x40 d h a u
  | .ldbu d h a u => encCM 0x41 d h a u
  | .ldh d h a u => encCM 0x42 d h a u
  | .ldhu d h a u => encCM 0x43 d h a u
  | .ldw d h a u => encCM 0x44 d h a u
  | .ldwu d h a u => encCM 0x45 d h a u
  | .ldd d h a u => encCM 0x46 d h a u
  | .stb d h a u => encCM 0x47 d h a u
  | .sth d h a u => encCM 0x48 d h a u
  | .stw d h a u => encCM 0x49 d h a u
  | .std d h a u => encCM 0x4a d h a u
  | .ldbLong d h a i => encCML 0x40 d h a i
  | .ldbuLong d h a i => encCML 0x41 d h a i
  | .ldhLong d h a i => encCML 0x42 d h a i
  | .ldhuLong d h a i => encCML 0x43 d h a i
  | .ldwLong d h a i => encCML 0x44 d h a i
  | .ldwuLong d h a i => encCML 0x45 d h a i
  | .lddLong d h a i => encCML 0x46 d h a i
  | .stbLong d h a i => encCML 0x47 d h a i
  | .sthLong d h a i => encCML 0x48 d h a i
  | .stwLong d h a i => encCML 0x49 d h a i
  | .stdLong d h a i => encCML 0x4a d h a i
  | .amo dw d h a op sc ord b => encCA (0x4b + dw.toNat) d h a op.code sc ord b 0
  | .acas dw d h a sc ord b c => encCA (0x4d + dw.toNat) d h a 0 sc ord b c
  | .hq d h sel => enc 0 0x50 (d.toNat * 2 ^ 16 + h.toNat * 2 ^ 10 + sel.toNat * 2 ^ 6) []
  | .hderive hd ha a b keep => encCHD 0x51 hd ha a [b.toNat * 2 ^ 23 + keep.toNat * 2 ^ 18]
  | .hoff hd ha a => encCHD 0x52 hd ha a []
  | .hclear hd => encCHD 0x53 hd 0 0 []
  | .b l => encCB 0x58 0 0 l
  | .bc p l => encCB 0x59 p 0 l
  | .bcn p l => encCB 0x5a p 0 l
  | .call d l => encCB 0x5b 0 d l
  | .callr d a => encCR 0x5c d a 0
  | .ret a => encCR 0x5d 0 a 0
  | .loopb m l n k => enc 0 0x5e (m.toNat * 2 ^ 15 + l.toNat * 2 ^ 10)
      [n.toNat * 2 ^ 12, k.vec.toNat * 2 ^ 20 + k.mat.toNat * 2 ^ 12 + k.pump.toNat * 2 ^ 4,
       k.halo.toNat * 2 ^ 20 + k.sig.toNat * 2 ^ 12 + k.fab.toNat * 2 ^ 4]
  | .csrr r n => encCS 0x60 r n
  | .csrw r n => encCS 0x61 r n
  | .csrs r n => encCS 0x62 r n
  | .csrc r n => encCS 0x63 r n
  | .rddcc r => encCS 0x64 r 0
  | .dccwait r => encCS 0x65 r 0
  | .evinc e a sc rel => encCE 0x68 e a sc rel 0
  | .evincN e a sc rel b => encCE 0x69 e a sc rel b
  | .evwait e q t => enc 0 0x6a (e.toNat * 2 ^ 15 + q.toNat * 2 ^ 14 + t.toNat) []
  | .evwaitReg e q t => enc 0 0x6b (e.toNat * 2 ^ 15 + q.toNat * 2 ^ 14 + t.toNat * 2 ^ 6) []
  | .evread d e => enc 0 0x6c (d.toNat * 2 ^ 16 + e.toNat * 2 ^ 10) []
  | .fencem m => enc 0 0x6d (m.toNat * 2 ^ 15) []
  | .fence sc => enc 0 0x6e (sc.code * 2 ^ 12) []
  | .banklend k g => enc 0 0x70 (k.toNat * 2 ^ 19 + g.toNat * 2 ^ 18) []
  | .bankret g => enc 0 0x71 (g.toNat * 2 ^ 18) []
  | .tbar t a => enc 0 0x72 (t.toNat * 2 ^ 13 + a.toNat * 2 ^ 8) []
  | .svc c => enc 0 0x78 c.toNat []
  | .trap c => enc 0 0x79 c.toNat []
  | .tret => enc 0 0x7a 0 []
  | .halt => enc 0 0x7b 0 []
  | .nop => enc 0 0x7c 0 []
  | .vadd f o => encV (opOf 0x00 sfxArith f) o
  | .vsub f o => encV (opOf 0x05 sfxArith f) o
  | .vmul f o => encV (opOf 0x0a sfx4 f) o
  | .vfma f o => encVL (opOf 0x0e sfx3 f) o.d.code o.a.code 0 o
  | .vmin f o => encV (opOf 0x11 sfx4 f) o
  | .vmax f o => encV (opOf 0x15 sfx4 f) o
  | .vabs f o => encV (opOf 0x19 sfx4 f) o
  | .vneg f o => encV (opOf 0x1d sfx4 f) o
  | .vdiv o => encV 0x21 o
  | .vsqrt o => encV 0x22 o
  | .vcmpeq f kd o => encVL (opOf 0x23 sfx4 f) kd.toNat o.a.code 0 o
  | .vcmplt f kd o => encVL (opOf 0x27 sfx4 f) kd.toNat o.a.code 0 o
  | .vcmple f kd o => encVL (opOf 0x2b sfx4 f) kd.toNat o.a.code 0 o
  | .vkand d a b q => encVK 0x2f d a b q
  | .vkor d a b q => encVK 0x30 d a b q
  | .vkxor d a b q => encVK 0x31 d a b q
  | .vknot d a q => encVK 0x32 d a 0 q
  | .vkset d n q => enc 1 0x33 (d.toNat * 2 ^ 18 + n.toNat) (dpLane q)
  | .vkcnt ka o => encVL 0x34 o.d.code ka.toNat 0 o
  | .vsel o => encVL 0x35 o.d.code o.a.code 0 o
  | .vand o => encV 0x36 o
  | .vor o => encV 0x37 o
  | .vxor o => encV 0x38 o
  | .vnot o => encV 0x39 o
  | .vshl o => encV 0x3a o
  | .vshr o => encV 0x3b o
  | .vsra o => encV 0x3c o
  | .vcvt f o => encV (opOf 0x3d sfxCvt f) o
  | .vtag f o => encVL 0x45 o.d.code o.a.code f.code o
  | .vexp o => encV 0x46 o
  | .vlog o => encV 0x47 o
  | .vrcp o => encV 0x48 o
  | .vrsqrt o => encV 0x49 o
  | .vtanh o => encV 0x4a o
  | .vsig o => encV 0x4b o
  | .vredsum f o => encV (opOf 0x4c sfx4 f) o
  | .vredmax f o => encV (opOf 0x50 sfx2 f) o
  | .vredmin f o => encV (opOf 0x52 sfx2 f) o
  | .vscan f o => encV (opOf 0x54 sfx2 f) o
  | .vperm o => encV 0x56 o
  | .vbcst f d i k q => enc 1 (opOf 0x57 sfx4 f) (d.code * 2 ^ 13 + bits i.toNat 31 28 * 2)
      [q.toNat * 2 ^ 25 + k.toNat * 2 ^ 22, bits i.toNat 27 0]
  | .vgather w o => encVG (0x5b + w.idx) o
  | .vscatter w o => encVG (0x5e + w.idx) o
  | .vld f o => encVM (opOf 0x61 sfxMem f) o
  | .vst f o => encVM (opOf 0x6a sfxMem f) o
  | .vpsplit pc o => encVL 0x73 o.d.code o.a.code pc.toNat o
  | .vpmerge pc o => encVL 0x74 o.d.code o.a.code pc.toNat o
  | .vbscale f pc o => encVL (opOf 0x75 sfxScale f) o.d.code o.a.code pc.toNat o
  | .vmov o => encV 0x78 o
  | .vrnd r q => enc 1 0x79 (r.code * 2 ^ 18) (dpLane q)
  | .vclamp f o => encVL (opOf 0x7a sfx2 f) o.d.code o.a.code 0 o
  | .viota o => encV 0x7c o
  | .mldw f o => encMH (opOf 0x00 sfxMldw f) 0 o
  | .mmul f a o => encMH (opOf 0x06 sfxMmul f) a o
  | .mmulq f a q pk p => enc 2 (opOf 0x0b sfxMmulq f) (a.toNat * 2 ^ 17 + q.toNat * 2 ^ 12 + pk.toNat * 2 ^ 11) (dpLane p)
  | .mldwq f q p => enc 2 (opOf 0x0f sfxMldwq f) (q.toNat * 2 ^ 12) (dpLane p)
  | .mldg o => encMH 0x11 0 o
  | .mldacc a o => encMH 0x12 a o
  | .mpre o => encMH 0x13 0 o
  | .mdrain f a q r p => enc 2 (opOf 0x14 sfxDrain f) (a.toNat * 2 ^ 17 + (128 + q.toNat) * 2 ^ 9 + r.toNat * 2) (dpLane p)
  | .mdrainc f a o => encMDH (opOf 0x18 sfxDrain f) a 0 o
  | .mdrains f a pr o => encMDH (opOf 0x1c sfxDrains f) a pr o
  | .mdrainp a o => encMDH 0x20 a 0 o
  | .mzero a p => encMA 0x21 a 0 0 p
  | .maccmov a b p => encMA 0x22 a b 0 p
  | .mscale a x p => encMA 0x23 a 0 x.code p
  | .mbias a x p => encMA 0x24 a 0 x.code p
  | .mswap a b p => encMA 0x25 a b 0 p
  | .mcfg m k n p => enc 2 0x26 (m.toNat * 2 ^ 14 + k.toNat * 2 ^ 7 + n.toNat) (dpLane p)
  | .mrnd r p => enc 2 0x27 (r.code * 2 ^ 18) (dpLane p)
  | .pcopy be o => encPC (0x00 + be.toNat) 0 o
  | .pcopy2d be r o => encPC (0x02 + be.toNat) r o
  | .pcopyd be o => encPC (0x04 + be.toNat) 0 o
  | .pcopyhIn o => encPC 0x06 0 o
  | .pcopyhOut o => encPC 0x07 0 o
  | .pover o => encPC 0x08 0 o
  | .pcmd o => encPC 0x09 0 o
  | .pfill o => encPC 0x0a 0 o
  | .ptagset o => encPC 0x0b 0 o
  | .ptagchk o => encPC 0x0c 0 o
  | .pprefetch o => encPC 0x0d 0 o
  | .pevent e t a p => enc 3 0x0e (e.toNat * 2 ^ 15 + t.toNat * 2 ^ 10 + a.toNat * 2 ^ 5) [p.toNat * 2 ^ 25]
  | .ptab h t p => enc 3 0x0f (h.toNat * 2 ^ 15 + t.toNat * 2 ^ 11) [p.toNat * 2 ^ 25]
  | .pcancel c p => enc 3 0x10 (c.toNat * 2 ^ 17) (dpLane p)
  | .pflush p => enc 3 0x11 0 (dpLane p)
  | .gdecl g h p => encGB 0x00 g (h.toNat * 2 ^ 11) p
  | .gbind g e p => encGB 0x01 g (e.toNat * 2 ^ 5) p
  | .gbound g f r p => encGB 0x02 g (f.code * 2 ^ 14 + r.code * 2 ^ 11) p
  | .gdepth g b a p => encGB 0x03 g (b.toNat * 2 ^ 9 + a.toNat * 4) p
  | .gface g f k a p => encGB 0x04 g (f.code * 2 ^ 14 + k.code * 2 ^ 7 + a.toNat * 4) p
  | .gstep g p => encGB 0x05 g 0 p
  | .gxchg g p => encGB 0x06 g 0 p
  | .gwait g st e p => encGB 0x07 g (st.toNat * 2 ^ 12 + e.toNat * 2 ^ 6) p
  | .greset g p => encGB 0x08 g 0 p
  | .gfree g p => encGB 0x09 g 0 p
  | .gld f o => encGM (opOf 0x0a sfx3 f) o
  | .gst f o => encGM (opOf 0x0d sfx3 f) o
  | .sigcfg d n p => enc 5 0x00 (d.toNat * 2 ^ 17 + n.toNat * 2 ^ 15) (dpLane p)
  | .sigzero a p => encSS 0x01 a 0 p
  | .sigseg a b p => encSS 0x02 a b p
  | .siginc f x p => enc 5 (opOf 0x03 sfxSig f) (x.code * 2 ^ 13) (dpLane p)
  | .sigincb f h a b p => encSM (opOf 0x05 sfxSig f) h a b p
  | .sigjoin l h a p => encSM (0x07 + l.toNat) h a 0 p
  | .siglog p => encSS 0x09 0 0 p
  | .sigexp p => encSS 0x0a 0 0 p
  | .sigld h a p => encSM 0x0b h a 0 p
  | .sigst f h a p => encSM (opOf 0x0c sfxSig f) h a 0 p
  | .sigdrain q l p => enc 5 0x0e ((128 + q.toNat) * 2 ^ 13 + l.toNat * 2 ^ 11) (dpLane p)
  | .xst f o => encFM (opOf 0x00 sfxXst f) o []
  | .xld f o ei => encFM (opOf 0x03 sfxXld f) o [ei.toNat * 2 ^ 22]
  | .xamo dw op o => encFA (0x05 + dw.toNat) op.code 0 o
  | .xacas dw c o => encFA (0x07 + dw.toNat) 0 c o
  | .xevinc e pr sc rel p => enc 6 0x09 (e.toNat * 2 ^ 15 + pr.toNat * 2 ^ 10 + sc.code * 2 ^ 7 + rel.toNat * 2 ^ 6) (dpLane p)
  | .xtrig ew th sl p => enc 6 0x0a (ew.toNat * 2 ^ 15 + th.toNat * 2 ^ 10 + sl.toNat * 2 ^ 4) [p.toNat * 2 ^ 25]
  | .xtile ti h pr op a p => enc 6 0x0b (ti.toNat * 2 ^ 16 + h.toNat * 2 ^ 10 + pr.toNat * 2 ^ 5 + op.code * 4)
      [p.toNat * 2 ^ 25 + a.toNat * 2 ^ 20]
  | .xready ti p => enc 6 0x0c (ti.toNat * 2 ^ 16) (dpLane p)
  | .xring op r h a b ei ew th p => enc 6 (0x0d + op.idx)
      (r.toNat * 2 ^ 17 + h.toNat * 2 ^ 11 + a.toNat * 2 ^ 6 + b.toNat * 2)
      [p.toNat * 2 ^ 25 + ei.toNat * 2 ^ 19 + ew.toNat * 2 ^ 13 + th.toNat * 2 ^ 8]
  | .xsched po h t p => enc 6 0x10 (po.toNat * 2 ^ 17 + h.toNat * 2 ^ 11 + t.toNat * 2 ^ 6) [p.toNat * 2 ^ 25]
  | .xport pr h f r p => enc 6 0x11 (pr.toNat * 2 ^ 16 + h.toNat * 2 ^ 10 + f.code * 2 ^ 6 + r.code * 2 ^ 3) (dpLane p)
  | .xcomp s r k c ei p => enc 6 0x12 (s.toNat * 2 ^ 15 + r.toNat * 2 ^ 9 + k.toNat * 2 ^ 6)
      [p.toNat * 2 ^ 25 + c.toNat * 2 ^ 23 + ei.toNat * 2 ^ 17]
  | .xresid s r c ei p => enc 6 0x13 (s.toNat * 2 ^ 15 + r.toNat * 2 ^ 9)
      [p.toNat * 2 ^ 25 + c.toNat * 2 ^ 23 + ei.toNat * 2 ^ 17]
  | .xallow w a p => enc 6 0x14 (w.toNat * 2 ^ 17 + a.toNat * 2 ^ 12) (dpLane p)
  | .xfence w e p => enc 6 0x15 (w.toNat * 2 ^ 17 + e.toNat * 2 ^ 6) (dpLane p)
  | .xcoll op o => enc 6 (0x16 + op.idx) (o.hs.toNat * 2 ^ 15 + o.hr.toNat * 2 ^ 9 + o.grp.toNat * 2)
      [o.dp.toNat * 2 ^ 25 + o.fmt.code * 2 ^ 21 + o.opr.code * 2 ^ 18 + o.ei.toNat * 2 ^ 12 + o.ew.toNat * 2 ^ 6,
       o.n.toNat * 2 ^ 23 + o.th.toNat * 2 ^ 18]
  | .xsend h c a ei p => encFN 0x1b h c a ei p
  | .xrecv h c a ei p => encFN 0x1c h c a ei p
  | .xput o => encFB 0x1d o
  | .xget o => encFB 0x1e o
  | .deliverEngineInstruction _ | .trapEntry | .engineCommandComplete _ _ | .scalarStoreWritten _
  | .fetchHoldRelease | .strandRetire | .launchSubmit _ _ _ _ | .gangBind _ | .launchAging _ | .dispatchReady
  | .gangStart _ | .preemption _ | .imageTransferDone | .gangResume _ | .gangFaultRetire _ | .completionPost _
  | .queuePush _ | .queueReadStep _ | .qstallLimit _ | .loopSkewEnd _ | .loopEndMarker _ | .owedMarkerPush
  | .fenceMarkerHead _ | .replayEntry _ | .translationWalk _ _ | .translationWaitResume _ | .xinv _ _ _
  | .invalidationComplete _ | .counterIncrementArrival _ | .evwaitMet | .waitlimit | .dccwaitExpiry
  | .barrierLeave _ _ | .svcReply | .svcVersionQuery | .svcSubmitLaunch | .svcGangState | .svcUndefined
  | .pumpStart _ | .writeWindowStart _ | .pumpEnd _ | .ptabLoadEnd _ | .cancelAck _ | .haloLayerSend _ _
  | .haloLayerArrival _ | .haloPhaseAdvance _ | .gxchgComplete _ | .gwaitMet | .stalehalo
  | .remoteWriteArrival _ | .remoteAck _ | .xldResponse _ | .xfenceRelease _ | .triggerFire | .tileApply _
  | .ringComplete _ _ _ | .collectiveComplete _ _ _ | .campusFrameReceive _ _ | .campusAckReceive _ _ _ _ _
  | .campusResendTimeout _ _ _ | .campusAckonly _ _ | .flitSlot _ | .flitDelivery _ _ _ | .groupVerify _ _ _ _
  | .laneLockLoss _ _ | .healthWindow _ | .scheduleTableSwitch _ | .portOpen _ | .portClose _
  | .trainComplete _ _ _ _ _ _ | .attestComplete _ _ _ | .keyedComplete _ _ _ | .heartbeatMiss _ _
  | .linkKeySwitch _ _ _ | .campusPortOpen _ | .campusPortClose _ | .leaseRenew _ | .leaseTake _ | .leaseExpiry
  | .cqheadWrite _ _ _ | .msixFire _ _ | .msixTimer _ _ | .msixUnmask _ _ | .getVersion _ | .getCapabilities _
  | .lockInterfaceRequest _ | .getDeviceInterfaceReport _ | .getDeviceInterfaceState _
  | .startInterfaceRequest _ | .stopInterfaceRequest _ | .tdispUnsupportedMessage _ _ | .keyProg _ _ _ _
  | .kSetGo _ _ _ | .ideCompletionTimeout _ | .memoryWindowAccess _ _ _ _ _ | .hartReset _ _ | .fwctlGo _ _
  | .fwVerifyDone _ _ _ | .fwSwap | .migExport _ _ | .migAccept _ _ | .migResume _ | .migDiscard _
  | .migrationReceipt _ | .migrationConfirm | .migrationLossNotice | .powerUp _ | .thermWarn _ _
  | .thermalReset _ _ | .hrevokeGen _ _ _ | .hrevokeFloor _ _ _ | .revocationSweepDone _ | .krotGo _ _
  | .keyDrawDone _ | .rotationLine _ | .departureScrub | .worldClose _ | .dbghalt _ _ _ | .dbgresume _ _ _
  | .snapshotWindowWrite _ _ | .registerWrite _ _ _ _ _ | .arithmeticClockTick | .deviceReset | .functionReset _
  | .peerClosed _ | .slipNotice _ _ | .hostCompletion _ _ _ _ | .migrationContextArrival _ _ _ | .worldOpen _ => []

end Sys2Proof
end

