-- ==== Sys2Proof/Config.lean ====
section
/-! DEFINITION. What an implementation fixes, and the free values: constants without a body, so that no proof
can rest on a number the manual does not state. -/

namespace Sys2Proof.Config

/-- The transcendental functions of R169, in the order of their opcodes. -/
inductive Trans where
  | exp | log | rcp | rsqrt | tanh | sig
deriving DecidableEq, Repr

/-- The fixed bits that the device gives for a transcendental of an FP32 pattern (R169); used only where they
lie within the bound of R169. [DESIGN CHOICE, log 4] -/
opaque transBits : Trans → BitVec 32 → BitVec 32

/-- The n-th number drawn from the wellhead's random source (R393, R397, R401). [DESIGN CHOICE, log 4; DESIGN CHOICE, log 23] -/
opaque randomKey : Nat → BitVec 256

/-- The export master secret of the n-th SPDM session of the device (R434, R435). [DESIGN CHOICE, log 23; DESIGN CHOICE, log 95] -/
opaque sessionSecret : Nat → BitVec 384

/-- HKDF-Expand under SHA-384 of a secret and an info string, given as the number of its bytes (R435). [DESIGN CHOICE, log 23; DESIGN CHOICE, log 95] -/
opaque linkKey : BitVec 384 → Nat → BitVec 256

/-- The serial number of the device (R434, R440). [DESIGN CHOICE, log 95] -/
opaque deviceSerial : Word

/-- SEAL of R393: the low 64 bits of AES-256-CMAC of the words 0 to 6 under a key (R393). [DESIGN CHOICE, log 4; DESIGN CHOICE, log 23] -/
opaque sealOf : BitVec 256 → List Word → Word

/-- The byte that a cancelled copy leaves in its write window (R306): one free byte per draw. [DESIGN CHOICE, log 4; DESIGN CHOICE, log 16] -/
opaque cancelledByte : Nat → BitVec 8

/-- The firmware version that bring-up verifies from flash (R487, R491). [DESIGN CHOICE, log 4] -/
opaque flashVersion : Nat → BitVec 32

/-- Other implementation values that no rule states, one per draw. [DESIGN CHOICE, log 4] -/
opaque freeWord : Nat → Word

/-- In a cycle, the gxchg of a step on grid g of a strand of another device, or of a later step, has issued: the device, the gang and
the strand, the grid, the step and the cycle (R324). [DESIGN CHOICE, log 86] -/
opaque peerBegan : Nat × Nat × Nat → Nat → BitVec 32 → Nat → Bool

/-- Word i of a record of the wellhead log, from its DCC, code and detail: no rule lays a record out (R486). [DESIGN CHOICE, log 71] -/
opaque logWord : Word → Nat → Word → Nat → Word

/-- The number of cores (R1), dies (R2) and bind slots (R219). -/
def cores : Nat := 384

/-- The device dwells in one flat address space: HBM physical addresses from 0 (R241). -/
def hbmTop : Nat := 0xC0_0000_0000
/-- Addresses from here up are reserved for the device (R241). -/
def hbmReserved : Nat := 0xBF_0000_0000
/-- The cistern of core index c (0 to 383) starts here plus c times 8 MiB (R230). -/
def cisternBase : Nat := 2 ^ 44
/-- The instruction memory of context key k starts here plus k times 256 KiB (R376). -/
def imemBase : Nat := 2 ^ 48
/-- The engine command store of context key k starts here plus k times 64 KiB (R301). -/
def cmdBase : Nat := 2 ^ 49
/-- Host memory, at its 57-bit address. -/
def hostBase : Nat := 2 ^ 60

/-- Depths of the six instruction queues (R126). -/
def queueDepth : Engine → Nat
  | .vector => 32
  | .matrix => 16
  | .pump => 32
  | .halo => 8
  | .signature => 8
  | .fabric => 16

/-- The MASK bit index of an engine (R46). -/
def engIdx : Engine → Nat
  | .vector => 0
  | .matrix => 1
  | .pump => 2
  | .halo => 3
  | .signature => 4
  | .fabric => 5

/-- The code of a format tag (R9). -/
def fmtCode : Fmt → Nat
  | .untyped => 0
  | .fp32 => 1
  | .fp16 => 2
  | .bf16 => 3
  | .fp8e4 => 4
  | .fp8e5 => 5
  | .int32 => 6
  | .int8 => 7
  | .nat8 => 8
  | .g4 => 9
  | .pl => 10

/-- The format tag of a code, untyped where none has it. -/
def fmtOfCode (n : Nat) : Fmt :=
  ([.fp32, .fp16, .bf16, .fp8e4, .fp8e5, .int32, .int8, .nat8, .g4, .pl].find? (fun f => fmtCode f = n)).getD .untyped

/-- The engines in MASK bit order. -/
def engines : List Engine := [.vector, .matrix, .pump, .halo, .signature, .fabric]

end Sys2Proof.Config
end

