-- ==== Sys2Proof/Machine/Maps.lean ====
section
/-! DEFINITION. The two kinds of sparse data of the machine, as plain lists in one canonical form: maps from
numbers to values with a default, and memory as (address, byte) cells. -/

namespace Sys2Proof.Machine

/-- A map from numbers: keys strictly rising, no entry equal to the default its reader names. -/
abbrev SMap (α : Type) := List (Nat × α)

/-- The value at a key, the default where the key is not listed. -/
def SMap.get {α : Type} (d : α) : SMap α → Nat → α
  | [], _ => d
  | (a, x) :: m, k => if a = k then x else SMap.get d m k

/-- The map without a key. -/
def SMap.erase {α : Type} (m : SMap α) (k : Nat) : SMap α := m.filter (fun e => e.1 ≠ k)

/-- A key and a value put in front of the first larger key. -/
def SMap.insert {α : Type} : SMap α → Nat → α → SMap α
  | [], k, v => [(k, v)]
  | (a, x) :: m, k, v => if k < a then (k, v) :: (a, x) :: m else (a, x) :: SMap.insert m k v

/-- The map with a key set to a value; the default is not listed. -/
def SMap.set {α : Type} [DecidableEq α] (d : α) (m : SMap α) (k : Nat) (v : α) : SMap α :=
  if v = d then SMap.erase m k else SMap.insert (SMap.erase m k) k v

/-- The canonical form of a map. -/
def SMap.wf {α : Type} [DecidableEq α] (d : α) (m : SMap α) : Bool :=
  decide (m.Pairwise (fun a b => a.1 < b.1)) && m.all (fun e => decide (e.2 ≠ d))

/-- Memory: cells at strictly rising addresses, none zero; an unlisted address reads as zero. -/
abbrev Mem := List Host.Cell

/-- The canonical form of memory. [DESIGN CHOICE, log 3] -/
def Mem.wf (m : Mem) : Bool :=
  decide (m.Pairwise (fun a b => a.1 < b.1)) && m.all (fun c => decide (c.2 ≠ 0))

/-- n bytes at an address as a little-endian number (R4). [DESIGN CHOICE, log 3] -/
def Mem.read : Mem → Nat → Nat → Nat
  | [], _, _ => 0
  | (x, b) :: m, a, n =>
    (if a ≤ x ∧ x < a + n then b.toNat <<< (8 * (x - a)) else 0) + Mem.read m a n

/-- One byte. [DESIGN CHOICE, log 3] -/
def Mem.byte (m : Mem) (a : Nat) : BitVec 8 := BitVec.ofNat 8 (Mem.read m a 1)

/-- The nonzero cells of n bytes of a little-endian number from an address on. -/
def Mem.cells : Nat → Nat → Nat → Mem
  | _, 0, _ => []
  | a, n + 1, v =>
    if v = 0 then []
    else
      let b := BitVec.ofNat 8 v
      if b = 0 then Mem.cells (a + 1) n (v >>> 8) else (a, b) :: Mem.cells (a + 1) n (v >>> 8)

/-- n bytes at an address set to a little-endian number, in canonical form. [DESIGN CHOICE, log 3] -/
def Mem.write (m : Mem) (a n v : Nat) : Mem :=
  m.filter (fun c => c.1 < a) ++ Mem.cells a n v ++ m.filter (fun c => a + n ≤ c.1)

end Sys2Proof.Machine
end

