-- ==== Sys2Proof/Machine/Ctx.lean ====
section
/-! DEFINITION. The state of one context, that is of one strand on one bind slot of one core: its control
stream, its six engines with their queues, its registers of every kind, its pump, its grids, its signature
accumulator, its fabric state and its energy account (R18, R36, R130, R156, R185, R315, R317, R341, R377, R443). -/

namespace Sys2Proof.Machine

/-- A handle record (R232); `mac` is its SEAL. -/
structure Handle where
  level : BitVec 3
  base : BitVec 57
  len : BitVec 48
  gen : BitVec 32
  sync : Option (BitVec 6)
  pc : BitVec 3
  fmt : Fmt
  world : BitVec 8
  rights : BitVec 8
  geo0 : Word
  geo1 : Word
  w5 : Word
  w6 : Word
  mac : Word
deriving DecidableEq, Repr

/-- Whether fetch runs, has stopped at halt (R32), or was stopped by a trap or by its gang (R34, R223). -/
inductive Fetch where
  | run | halted | stopped
deriving DecidableEq, Repr

/-- What the control stream holds for (R25, R92, R93, R226, R269, R272, R274, R275). -/
inductive Hold where
  /-- no hold -/
  | none
  /-- fetch at an instruction for whose engine the queue has no room (R25) -/
  | queue (e : Engine)
  /-- evwait for counter n to meet t, as an acquire or not (R272) -/
  | evwait (n : BitVec 6) (t : BitVec 32) (acq : Bool)
  /-- dccwait until a cycle (R92) -/
  | dccwait (t : Word)
  /-- markers of age `age` to be pushed to the engines of `todo` and outstanding in those of `left`; a fence
  follows when `fence` (R274, R275) -/
  | marks (todo left : BitVec 6) (age : Nat) (fence : Bool)
  /-- a fence whose markers are all removed, waiting for the strand's writes (R275) -/
  | writes
  /-- a service call awaiting its reply, with s1 to s6 as they were sent (R93) -/
  | svc (code : BitVec 16) (args : List Word)
  /-- a service call whose reply, a status and a result, is on its way (R93) -/
  | reply (st r : Word)
  /-- a barrier of a team, at a generation; the scalar that receives it (R226) -/
  | tbar (team : BitVec 8) (gen : BitVec 32) (a : BitVec 5)
  /-- a parked atomic of this age (R269) -/
  | parked (age : Nat)
deriving DecidableEq, Repr

/-- TENG, the trap in service (R367). -/
structure Teng where
  v : Bool
  asy : Bool
  eng : BitVec 3
  disp : Bool
  lost : Bool
  line : BitVec 13
  lane : BitVec 4
deriving DecidableEq, Repr

/-- A scalar load whose data may not have returned: what it reads, and its place (R97, R373). -/
structure Reload where
  n : Nat
  sx : Bool
  hd : Handle
  off : Nat
  line : Nat
  lane : Nat
deriving DecidableEq, Repr

/-- The scalar that the last control instruction of several cycles writes: what it held before, the result, and the load that
it comes from. While the instruction is in progress the register holds the old value as far as an image shows it (R39, R97). -/
structure Late where
  d : BitVec 5
  old : Word
  v : Word
  load : Option Reload
deriving DecidableEq, Repr

/-- The control stream (R18, R36, R37): fetch position, registers, trap registers, its present hold with the resident
cycles it has lasted, the cycle from which it processes the next instruction (R28, R98), and the result of the
instruction in progress (R97). -/
structure Ctrl where
  fetch : Fetch
  line : Nat
  lane : Nat
  nline : Nat
  nlane : Nat
  s : SMap Word
  p : BitVec 8
  h : SMap (Option Handle)
  e : SMap (BitVec 32)
  hold : Hold
  held : Nat
  due : Nat
  late : Option Late
  acquired : SMap Nat
  nextAge : Nat
deriving DecidableEq, Repr

/-- The control and status registers of a strand that hold state of their own (R37, R136, R278, R315, R339). -/
structure Csr where
  intrap : Bool
  late : Bool
  tvecLine : BitVec 13
  tvecEn : Bool
  tline : BitVec 14
  tlane : BitVec 4
  tcode : BitVec 8
  tinfo : Word
  tpred : BitVec 7
  tsave0 : Word
  tsave1 : Word
  tsave2 : Word
  tsave3 : Word
  teng : Teng
  qstall : BitVec 32
  evstall : BitVec 32
  hstall : BitVec 32
  erc : Bool
deriving DecidableEq, Repr

/-- Loop delivery (R86 to R90): open or suspended over the lines `first` to `last` (line offsets), the masked
engines, the end markers still owed, N, the skews and the body counts. -/
structure LoopDel where
  open_ : Bool
  susp : Bool
  first : Nat
  last : Nat
  mask : BitVec 6
  owed : BitVec 6
  n : Nat
  endAge : Nat
  skews : SMap Nat
  counts : SMap Nat
deriving DecidableEq, Repr

/-- An instruction as delivered (R44): its lanes, its place, its age, and the scalars and handle records
captured at delivery, by register number. -/
structure Cap where
  instr : Instr
  lanes : List Lane
  line : Nat
  lane : Nat
  age : Nat
  s : SMap Word
  h : SMap (Option Handle)
deriving DecidableEq, Repr

/-- An entry of an instruction queue (R126, R378). -/
inductive QItem where
  | instr (c : Cap) (outside : Bool)
  | loopMark (age n skew : Nat)
  | endMark (age : Nat)
  | fenceMark (age : Nat)
deriving DecidableEq, Repr

/-- A loop being executed by an engine (R88), from the end of its skew wait: N, the kept body, the number of
the execution (0 for the first), the position in the body of a repeat, and the ages of its markers. -/
structure LoopRun where
  n : Nat
  start : Nat
  body : List Cap
  exec : Nat
  pos : Nat
  endAge : Nat
deriving DecidableEq, Repr

/-- A pending E or A trap of an engine (R365, R366). -/
structure Pend where
  asy : Bool
  code : BitVec 8
  tinfo : Word
  line : Nat
  lane : Nat
  at_ : Word
  lost : Bool
deriving DecidableEq, Repr

/-- A push still to be made by the instruction at the head (R132): the queue, the entry, its tag, and the
accumulator with its row position OUT once this push is made, and with its next IN (R199, R200). -/
structure Push where
  q : Nat
  v : VReg
  f : Fmt
  acc : Option (Nat × Nat)
deriving DecidableEq, Repr

/-- Why the instruction at the head waits (R135, R333, R335). -/
inductive Stall where
  | none | read (q : Nat) | push (q : Nat) | halo (g : BitVec 4) (face : Nat)
deriving DecidableEq, Repr

/-- One engine (R126, R364, R378): its queue, its loop, its pending trap, and of the issued instruction that waits why it does, how
long, the values it has latched (by queue register; restored ones also by 64 + vector register and 192 + mask), and the pushes still to be made
and those made; and the issued instructions of a restored image, which go on in place of the head. -/
structure Eng where
  q : List QItem
  loop : Option LoopRun
  frozen : Bool
  pend : Option Pend
  stall : Stall
  stalled : Nat
  latch : SMap (Option (VReg × Fmt))
  latched : Bool
  pushes : List Push
  made : Nat
  slots : List Cap
deriving DecidableEq, Repr

/-- A run of bytes at a flat address with the value to be written there. -/
structure Seg where
  a : Nat
  n : Nat
  v : Nat
deriving DecidableEq, Repr

/-- What the range checker compares (R138). -/
inductive Res where
  | v | k | acc | blk
deriving DecidableEq, Repr

/-- A range of a resource, read or written. -/
structure Rng where
  r : Res
  lo : Nat
  hi : Nat
  w : Bool
deriving DecidableEq, Repr

/-- A counter increment addressed to a strand of a gang of this device (R271). -/
structure Bump where
  gang : Nat
  strand : Nat
  ctr : BitVec 6
  amt : BitVec 32
deriving DecidableEq, Repr

/-- A posted write of a context (R75, R137, R508): the engine by MASK bit, or 6 for the control stream; the
ranges it holds; the cycle in which it is in place at the earliest (R98); the bits of its bytes that the write leaves as they are (R178); the TINFO of a
refusal (R390); the bytes translated and the bytes waiting in the translation unit (virtual, R247), and whether an
invalidation that covers them has completed; the line and lane of an engine's command. -/
structure Flight where
  src : Nat
  age : Nat
  bind : Option (BitVec 6)
  world : BitVec 8
  rngs : List Rng
  due : Nat
  keep : Nat
  tinfo : Word
  segs : List Seg
  wait : List Seg
  stale : Bool
  line : Nat
  lane : Nat
deriving DecidableEq, Repr

/-- An atomic operation's own part (R277); `acq` where its ordering acquires (R259). -/
structure Atom where
  d : BitVec 5
  acq : Bool
  cas : Bool
  dw : Bool
  op : AOp
  b : Word
  c : Word
deriving DecidableEq, Repr

/-- An entry of the replay queue (R267): virtual bytes in the order of their offsets, whether an
invalidation covering its pages has completed since it was parked (R268), the bits of those bytes that the write leaves
as they are (R178), the TINFO of a refusal (R390), and whether a fresh translation has faulted since the last invalidation of one of
its pages. -/
structure Parked where
  src : Nat
  age : Nat
  bind : Option (BitVec 6)
  world : BitVec 8
  segs : List Seg
  atom : Option Atom
  covered : Bool
  line : Nat
  lane : Nat
  keep : Nat
  tinfo : Word
  tried : Bool
deriving DecidableEq, Repr

/-- A bank lent as an accumulator group (R144). -/
abbrev Lend := Option (BitVec 2)

/-- The vector engine's registers (R130, R156, R231): slots 0 to 127 are v0 to v127, slots 128 to 255 the
queue entries, slots 256 to 319 the accumulators a0 to a7 at eight slots each, slots 320 to 327 the weight
buffer as FP32; tags by slot; masks; heads and counts of the queue registers, and entries that a trap has put back ahead of a full
queue, oldest first (R135). [DESIGN CHOICE, log 21] -/
structure Vec where
  r : SMap VReg
  f : SMap Fmt
  k : SMap KMask
  head : SMap Nat
  count : SMap Nat
  excess : SMap (List (VReg × Fmt))
  g0 : Lend
  g1 : Lend
  mode : RMode
deriving DecidableEq, Repr

/-- The matrix engine's own state (R185, R191): TM, TK, TN, the rounding mode, the weight format, for PL the
plane count less 1, the row positions IN and OUT of each accumulator, and of an MLDWQ in progress the weights before its first
pop and the entries popped, oldest first (R119, R193). [DEDUCED, log 12; DEDUCED, log 89] -/
structure Mat where
  tm : Nat
  tk : Nat
  tn : Nat
  mode : RMode
  wfmt : Fmt
  wpc : BitVec 3
  inn : SMap Nat
  out : SMap Nat
  before : List VReg
  popped : List (VReg × Fmt)
deriving DecidableEq, Repr

/-- A pump command, buffered or in flight (R285, R286, R381): its issue cycle, the table generation it is bound to,
start and end; whether it waits in the translation unit, at which page (world and address), and whether an invalidation
that covers that page has completed since (R369); whether its write window has begun; the flat runs it reads
and writes, its data, and a decoding failure (reason, symbols written). -/
structure PCmd where
  cap : Cap
  issue : Word
  gen : Bool
  start : Word
  fin : Word
  wait : Bool
  page : Nat × Nat
  inv : Bool
  win : Bool
  rd : List (Nat × Nat)
  wr : List (Nat × Nat)
  data : Nat
  bad : Option (Nat × Nat)
deriving DecidableEq, Repr

/-- One generation of a code table slot (R310, R381). -/
structure TabGen where
  present : Bool
  invalid : Bool
  loading : Option Word
  data : Nat
  line : Nat
  lane : Nat
  src : Option Handle
deriving DecidableEq, Repr

/-- A code table slot: its two generations and the one that later commands bind to. -/
structure Tab where
  g0 : TabGen
  g1 : TabGen
  cur : Bool
deriving DecidableEq, Repr

/-- The pump (R285, R306, R308, R315): the time-sorted buffer in issue order, commands in flight, those that have left and still
count for the range checker up to a cycle (R137, R289, R412), code table slots, cancellations awaiting acknowledgement (handle, cycle, hit), PSTAT and PCAN. -/
structure Pump where
  buf : List PCmd
  fly : List PCmd
  ended : List (PCmd × Nat)
  tabs : SMap Tab
  cancels : List (Nat × Word × Bool)
  late : Bool
  drop : Bool
  lcount : BitVec 16
  drops : BitVec 16
  hit : BitVec 16
  ack : BitVec 16
deriving DecidableEq, Repr

/-- A face of a grid (R317, R329, R380): connected or ruled, its peer word, and HSTEP where valid. -/
structure FaceSt where
  conn : Bool
  rule : Option Rule
  kind : Kind
  peer : Option Word
  hstep : Option (BitVec 32)
deriving DecidableEq, Repr

/-- A declared grid (R317, R380) with the progress of its exchange: phase 0 none, 1 x, 2 y, 3 z; the faces
sent, read and waiting for acceptance; the completion increment; a layer of it failed the checks of R324; the place of the gxchg and the capture's age. -/
structure Grid where
  hd : Handle
  dims : Nat
  nx : Nat
  ny : Nat
  nz : Nat
  ew : Nat
  rad : Nat
  depth : Nat
  w : Nat
  faces : SMap FaceSt
  step : BitVec 32
  xstep : Option (BitVec 32)
  active : Bool
  bind : Option (BitVec 6)
  phase : Nat
  sent : BitVec 6
  read : BitVec 6
  waiting : BitVec 6
  incp : Bool
  failed : Bool
  issued : Word
  line : Nat
  lane : Nat
  age : Nat
deriving DecidableEq, Repr

/-- The signature accumulator (R341): dimension, depth, levels 1 to 4 as FP32 patterns packed from element 0,
the segment bounds and the LOG flag. -/
structure Sig where
  dim : Nat
  depth : Nat
  l1 : Nat
  l2 : Nat
  l3 : Nat
  l4 : Nat
  lo : BitVec 32
  hi : BitVec 32
  log : Bool
deriving DecidableEq, Repr

/-- A waiting xfence (R453): its window, the counter to raise, the write transactions it waits for, and its age. -/
structure XFence where
  w : BitVec 4
  ctr : BitVec 6
  writes : List Nat
  age : Nat
deriving DecidableEq, Repr

/-- A trigger (R459, R460): counter, threshold, command-store slot and place of the xtrig; once it has fired, the age
of its first record, the handle slots as they stood, and the next record to be pushed. -/
structure Trig where
  ctr : BitVec 6
  th : BitVec 32
  slot : BitVec 6
  line : Nat
  lane : Nat
  fired : Option Nat
  h : SMap (Option Handle)
  next : Nat
deriving DecidableEq, Repr

/-- What a fabric command in flight is (R451 to R471). -/
inductive Remote where
  /-- posted writes counted in window w (R452) -/
  | write (w : BitVec 4)
  /-- a remote read into a register (R455) -/
  | load
  /-- a remote read into local memory (R456) -/
  | get
  /-- an atomic (R457) -/
  | atomic
  /-- an increment (R458) -/
  | incr
  /-- a ring collective (R466) -/
  | ring
  /-- a group collective: the peer words by rank, the own rank, and the place among the collectives of the group (R468) -/
  | coll (peers : List Nat) (rank seq : Nat)
  /-- a send through a campus port, with the frame numbers still to send and its last one (R469) -/
  | send (cp : BitVec 2) (stream : BitVec 16)
  /-- a posted receive (R470) -/
  | recv
  /-- compression or residual work of a campus port (R471) -/
  | comp (cp : BitVec 2)
deriving DecidableEq, Repr

/-- An entry of the tile table (R461, R462): the peer word, slot, record, offset and operator. -/
structure TileReg where
  pr : Word
  slot : BitVec 6
  hd : Handle
  off : Nat
  opr : Opr
deriving DecidableEq, Repr

/-- A fabric command in flight (R446): the first of its transaction numbers and those not yet answered; the counter to
raise when it ends; whether it has started, waits in the translation unit, at which page (world and address), may try again
after an invalidation of that page (R369), and has failed; the counters its writes are
bound to; the tile it fires; data read or received, with its tag; the
requests of its reads, which are made again at a resumption (R373); the bytes that local participants of its collective gave, or the results of
its ring by their place; how much it has sent (frames, contribution) or received (ring). -/
structure XCmd where
  cap : Cap
  what : Remote
  first : Nat
  txns : List Nat
  ei : BitVec 6
  started : Bool
  wait : Bool
  page : Nat × Nat
  inv : Bool
  failed : Bool
  binds : List (Option (BitVec 6))
  tile : Option TileReg
  data : Option Nat
  tag : Fmt
  msgs : List Msg
  got : List (Nat × Nat)
  sent : Nat
deriving DecidableEq, Repr

/-- The fabric engine's state of a strand (R442 to R472). -/
structure Fab where
  allow : SMap Nat
  out : SMap Nat
  fences : List XFence
  trigs : List Trig
  cmds : List XCmd
  tiles : SMap (Option TileReg)
  colls : SMap Nat
  badrec : Bool
  nextTxn : Nat
deriving DecidableEq, Repr

/-- The energy account (R386): µJ, the rest in 1/128 pJ, and ESAT. -/
structure Energy where
  uj : Nat
  frac : Nat
  sat : Bool
deriving DecidableEq, Repr

/-- Where a context stands: not bound, loading, ready, running, stopped with its image being written or
held, or being read back and checked (R221, R373, R375, R404). -/
inductive Phase where
  | off | loading | ready | running | saving | out | restoring | restored | departing
deriving DecidableEq, Repr

/-- What the header of a snapshot image says of its save (R376, R377, R384): whether the context was pre-empted by the scheduler core,
and cycle P; while the context loads, the cycle from which loading counts (R221), and while it departs, that of its departure (R404);
and the words of its registers and of its pending traps as they were saved, since some change while it is out (R374). [DESIGN CHOICE, log 50] -/
structure Img where
  pre : Bool
  stop : Word
  words : List Word
deriving DecidableEq, Repr

/-- A context; `exp` is its export table (R443). -/
structure Ctx where
  ctl : Ctrl
  csr : Csr
  lp : LoopDel
  eng : SMap Eng
  fl : List Flight
  rq : List Parked
  vec : Vec
  mat : Mat
  pump : Pump
  grids : SMap (Option Grid)
  sig : Sig
  fab : Fab
  en : Energy
  tagmode : Bool
  phase : Phase
  exp : SMap (Option Handle)
  img : Img
deriving DecidableEq, Repr

/-- No trap in service. -/
def Teng.none : Teng := ⟨false, false, 0, false, false, 0, 0⟩

/-- The control stream at strand start, before dispatch loads h0, the entry line and the preloads (R18). [DESIGN CHOICE, log 2] -/
def Ctrl.reset : Ctrl :=
  { fetch := .stopped, line := 0, lane := 0, nline := 0, nlane := 0, s := [], p := 1, h := [], e := [],
    hold := .none, held := 0, due := 0, late := none, acquired := [], nextAge := 0 }

/-- Control and status registers at reset (R37, R136, R278, R315, R339). -/
def Csr.reset : Csr :=
  { intrap := false, late := false, tvecLine := 0, tvecEn := false, tline := 0, tlane := 0, tcode := 0,
    tinfo := 0, tpred := 0, tsave0 := 0, tsave1 := 0, tsave2 := 0, tsave3 := 0, teng := .none,
    qstall := 0x00100000, evstall := 0, hstall := 0x00100000, erc := false }

/-- No loop. -/
def LoopDel.reset : LoopDel :=
  { open_ := false, susp := false, first := 0, last := 0, mask := 0, owed := 0, n := 1, endAge := 0, skews := [], counts := [] }

/-- An idle engine. -/
def Eng.reset : Eng :=
  { q := [], loop := none, frozen := false, pend := none, stall := .none, stalled := 0, latch := [],
    latched := false, pushes := [], made := 0, slots := [] }

/-- Zeroed vector state (R130, R156). -/
def Vec.reset : Vec :=
  { r := [], f := [], k := [], head := [], count := [], excess := [], g0 := none, g1 := none, mode := .rne }

/-- Matrix state at strand start (R185). -/
def Mat.reset : Mat :=
  { tm := 128, tk := 128, tn := 128, mode := .rne, wfmt := .untyped, wpc := 0, inn := [], out := [], before := [], popped := [] }

/-- An absent generation. -/
def TabGen.none : TabGen := ⟨false, false, .none, 0, 0, 0, .none⟩
/-- An empty code table slot. -/
def Tab.reset : Tab := ⟨.none, .none, false⟩

/-- An idle pump. -/
def Pump.reset : Pump :=
  { buf := [], fly := [], ended := [], tabs := [], cancels := [], late := false, drop := false, lcount := 0, drops := 0,
    hit := 0, ack := 0 }

/-- An undefined face. -/
def FaceSt.none : FaceSt := ⟨false, .none, .die, .none, .none⟩

/-- The accumulator at strand start (R341). -/
def Sig.reset : Sig :=
  { dim := 1, depth := 1, l1 := 0, l2 := 0, l3 := 0, l4 := 0, lo := 0, hi := 0xFFFFFFFF, log := false }

/-- Fabric state at strand start (R452, R472). -/
def Fab.reset : Fab :=
  { allow := [], out := [], fences := [], trigs := [], cmds := [], tiles := [], colls := [], badrec := false,
    nextTxn := 0 }

/-- A context at strand start. -/
def Ctx.reset : Ctx :=
  { ctl := .reset, csr := .reset, lp := .reset, eng := [], fl := [], rq := [], vec := .reset, mat := .reset,
    pump := .reset, grids := [], sig := .reset, fab := .reset, en := ⟨0, 0, false⟩, tagmode := false,
    phase := .off, exp := [], img := ⟨false, 0, []⟩ }

end Sys2Proof.Machine
end

