-- ==== Sys2Proof/Machine/Dev.lean ====
section
/-! DEFINITION. The state outside the cores: tenant worlds with their register pages, translation caches and
queues (R251, R409, R479), gangs and launches (R216, R219, R222), the device page (R476) and the wellhead. -/

namespace Sys2Proof.Machine

/-- A cached translation (R245): the page's virtual address and size, the physical address it maps, WB, HOST,
AC and CNT, the HBM address of its entry, and the caches that hold it, a core's by the core id and a die's by 1024 plus its number. -/
structure Tlb where
  va : Nat
  size : Nat
  pa : Nat
  wb : Bool
  host : Bool
  ac : Bool
  cnt : Nat
  ent : Nat
  at_ : List Nat
deriving DecidableEq, Repr

/-- The translation registers and cache of a world (R251). -/
structure Xlat where
  root : Nat
  en : Bool
  cache : List Tlb
  inv : Option (Nat × Nat)
  drop : Bool
  fva : BitVec 57
  finfo : BitVec 6
  thresh : BitVec 16
  nqva : Nat
  nqlog : Nat
  nqhead : BitVec 16
  nqtail : BitVec 16
  ovf : Bool
deriving DecidableEq, Repr

/-- An encryption region (R398, R409): base, limit and progress mark. -/
structure Region where
  base : Nat
  lim : Nat
  mark : Nat
deriving DecidableEq, Repr

/-- A key set of a world's key store entry (R401): the AES-256-XTS key pair and the tag key. -/
structure KeySet where
  k1 : BitVec 256
  k2 : BitVec 256
  tag : BitVec 256
deriving DecidableEq, Repr

/-- A cleared key set. -/
def KeySet.reset : KeySet := ⟨0, 0, 0⟩

/-- Protection, revocation, keys and regions of a world (R394, R401, R409). -/
structure Guard where
  dbg : Bool
  prot : Bool
  revoked : List (BitVec 32)
  gmin : BitVec 32
  hbusy : Bool
  hdrop : Bool
  epoch : BitVec 32
  erdrop : Bool
  kdrop : Bool
  rot : Bool
  drawn : Bool
  cur : Bool
  integV : Bool
  integ : Nat
  er : SMap Region
  key0 : KeySet
  key1 : KeySet
  scramble : BitVec 128
deriving DecidableEq, Repr

/-- A completion entry kept until it is written (R479): its two words without the phase bit. -/
structure Cqe where
  w0 : Word
  w1 : Word
deriving DecidableEq, Repr

/-- A submission queue (R479). -/
structure Subq where
  va : Nat
  log : Nat
  head : BitVec 16
  tail : BitVec 16
deriving DecidableEq, Repr

/-- A message-signalled interrupt vector (R480): address and data of its message, event count, first-event cycle,
moderation, mask and pending. -/
structure Msix where
  addr : Word
  data : BitVec 32
  e : Nat
  f : Word
  cnt : BitVec 16
  timer : BitVec 16
  masked : Bool
  pend : Bool
deriving DecidableEq, Repr

/-- TDISP states (R481). -/
inductive Tdisp where
  | unlocked | locked | run | error
deriving DecidableEq, Repr

/-- What the wellhead last answered on the DOE mailbox for an interface (R481). -/
inductive Doe where
  | none | version | capabilities | report (bars : List Nat) | state (t : Tdisp) | locked | started | stopped | error
deriving DecidableEq, Repr

/-- An IDE stream direction: the two key sets, the one in use, the sets loaded, the set switched away from that is
kept for outstanding tags, and a key programmed for a set that outstanding tags still need (R482). -/
structure Ide where
  k0 : BitVec 256
  k1 : BitVec 256
  go : Bool
  has0 : Bool
  has1 : Bool
  old : Option Bool
  wait : Option (Bool × BitVec 256)
deriving DecidableEq, Repr

/-- A tenant world (R388): whether it is open, and everything of its register page; `cqWait` while a completion entry waits
for an invalidation of its page. [DESIGN CHOICE, log 63; DESIGN CHOICE, log 73] -/
structure World where
  isOpen : Bool
  closing : Bool
  x : Xlat
  g : Guard
  sq : SMap Subq
  cq : Subq
  phase : Bool
  kept : List Cqe
  cqWait : Bool
  snapsel : BitVec 16
  dbgGang : BitVec 16
  mwva : Nat
  mwlog : Nat
  mwnext : Nat
  vec : SMap Msix
  fmask : Bool
  tdisp : Tdisp
  froze : Bool
  stopping : Bool
  doe : Doe
  rx : Ide
  tx : Ide
deriving DecidableEq, Repr

/-- A bind record (R219). -/
structure Bind where
  valid : Bool
  run : Bool
  prio : BitVec 2
  world : BitVec 8
  gang : BitVec 16
  strand : BitVec 16
  stage : BitVec 8
  start : Word
  lrec : BitVec 57
  pbase : Nat
  psize : Nat
deriving DecidableEq, Repr

/-- A team of a gang (R216): the stage range. -/
structure Team where
  lo : BitVec 8
  hi : BitVec 8
deriving DecidableEq, Repr

/-- The barrier of a team (R226): its generation, the strands that have arrived, and the cycle at which the
members leave once all have. -/
structure Bar where
  gen : BitVec 32
  arrived : List Nat
  leave : Option Word
deriving DecidableEq, Repr

/-- An entry of a launch record's strand table (R216). -/
structure StrandRec where
  entry : Nat
  stage : BitVec 8
  pre : BitVec 8
  val : List Word
deriving DecidableEq, Repr

/-- An entry of a launch record's handle table (R391). [DEDUCED, log 47] -/
structure HandleRec where
  w0 : Word
  w1 : Word
  w2 : Word
  w3 : Word
  w4 : Word
  w5 : Word
  w6 : Word
  w7 : Word
deriving DecidableEq, Repr

/-- A launch record as read and checked (R216). -/
structure LaunchRec where
  va : Nat
  d0 : Nat
  c0 : Nat
  k0 : Nat
  nd : Nat
  nc : Nat
  nk : Nat
  tagmode : Bool
  prio : Nat
  link : Option (BitVec 16)
  psize : Nat
  start : Word
  teams : SMap (Option Team)
  strands : List StrandRec
  handles : List HandleRec
deriving DecidableEq, Repr

/-- A pending launch (R222): its world, tag and queue, the cycle it became pending and the levels it aged. -/
structure Launch where
  id : Nat
  world : Nat
  tag : BitVec 16
  sq : BitVec 2
  since : Word
  aged : Nat
  gang : BitVec 16
  r : LaunchRec
deriving DecidableEq, Repr

/-- A gang on the device (R213, R221 to R226, R373, R384); `refused` where dispatch refused a bind record of it (R220). -/
structure Gang where
  world : Nat
  tag : BitVec 16
  sq : BitVec 2
  prio : Nat
  link : Option (BitVec 16)
  linkN : Nat
  r : LaunchRec
  keys : List Nat
  bars : SMap Bar
  ready : Option Word
  startAt : Option Word
  lastStart : Word
  running : Bool
  preempted : Bool
  halted : Bool
  migrating : Bool
  trap : Option (BitVec 8 × Nat)
  retired : List Nat
  refused : Bool
deriving DecidableEq, Repr

/-- A cistern tile (R291, R294): its tag, the largest E or estimate that stays, and the estimates of commands
that have not started, or that run without a formula, by command. -/
structure Tile where
  tag : BitVec 16
  base : Word
  ests : List (Nat × Word)
deriving DecidableEq, Repr

/-- A read request outstanding at the host (R478, R482): its tag, whose bit 13 is the key set, the world, the context that reads (none once
it no longer waits for the data), its source (5 and below an engine, 6 the control stream), the age of the command, the bytes, the cycle
of the request, the cycle from which the host answers, and the port. -/
structure HostReq where
  tag : BitVec 14
  world : Nat
  key : Option Nat
  src : Nat
  age : Nat
  runs : List (Nat × Nat)
  since : Word
  due : Word
  port : Nat
deriving DecidableEq, Repr

/-- Bytes of host memory that a completion has brought to a command, which now reads them (R478). -/
structure Came where
  key : Nat
  src : Nat
  age : Nat
  runs : List (Nat × Nat)
deriving DecidableEq, Repr

/-- A shared operand read of a cluster (R198): what a request must agree in, the start, and the bytes by rows. -/
structure Shared where
  cluster : Nat
  mct : BitVec 6
  world : BitVec 8
  base : BitVec 57
  len : BitVec 48
  gen : BitVec 32
  off : Nat
  op : Nat
  tr : Bool
  pc : BitVec 3
  tm : Nat
  tk : Nat
  tn : Nat
  start : Word
  rows : List Nat
deriving DecidableEq, Repr

/-- A channel reservation of a reserved copy (R290): the side (core index times 2, plus 1 for writes; 1000 and up for
a pump's HBM channels), the channels, and the window. -/
structure Chan where
  key : Nat
  n : Nat
  lo : Nat
  hi : Nat
deriving DecidableEq, Repr

/-- An application hart (R483): HARTCFG, and what has been in effect since its last reset. [DESIGN CHOICE, log 80] -/
structure Hart where
  pf : Bool
  world : BitVec 8
  pfNow : Bool
  worldNow : BitVec 8
  resets : Nat
deriving DecidableEq, Repr

/-- A message of a migration to the other device (R488, R490). -/
inductive MigMsg where
  | context (c : Sealed)
  | receipt
  | confirm
  | loss
deriving DecidableEq, Repr

/-- Migration (R488 to R490): MIGCTL.WORLD and PORT, MIGSTAT, the world that ACCEPT named, whether the source has sent the sealed context and
keeps the receipt, the gangs of the migrated world with their tags and queues, the context that the destination has stored, whether step 5 has bound
it, the destination's flash marker with the link, a loss notice still to be sent, and the messages sent, each with its link, the oldest
first. [DESIGN CHOICE, log 69] -/
structure Mig where
  ctlWorld : BitVec 8
  ctlPort : BitVec 4
  world : BitVec 8
  err : BitVec 4
  state : BitVec 4
  accept : Option (BitVec 8)
  built : Bool
  receipt : Bool
  gangs : List (Nat × BitVec 16 × BitVec 2)
  context : Option Sealed
  placed : Bool
  flash : Option (BitVec 8 × BitVec 4 × List (Nat × BitVec 16 × BitVec 2))
  notice : Option (BitVec 4)
  sent : List (BitVec 4 × MigMsg)
deriving DecidableEq, Repr

/-- What the scheduler core holds while its firmware drains: a doorbell by world and queue, or a call by its context (R487). -/
inductive Bell where
  | queue (w k : Nat)
  | call (key : Nat)
deriving DecidableEq, Repr

/-- Firmware of the scheduler core (R485, R487): the calls in service when draining began, and the doorbells and calls held
since, in the order of their arrival. -/
structure Fw where
  stage : Nat
  len : BitVec 10
  version : BitVec 32
  next : BitVec 32
  gobusy : Bool
  state : BitVec 3
  held : List Nat
  bells : List Bell
deriving DecidableEq, Repr

/-- The device page, the wellhead and the host ports (R476, R477, R482, R486, R491, R492); `log` the wellhead log by place, with the number of `records` ever made, `ewNext`
the energy weights as last written, which apply from the next cycle, `hostRead` what the last host
read through a memory window returned, `scramble` and `keys` the device scrambler key and the device keys of R397 and R399. [DESIGN CHOICE, log 63; DESIGN CHOICE, log 73] -/
structure Device where
  stage : BitVec 4
  fail : Bool
  ready : Bool
  num : BitVec 9
  tkfail : Bool
  holder : Nat
  lexp : Word
  expired : Bool
  lterm : BitVec 32
  savebase : Nat
  fw : Fw
  mig : Mig
  tj : BitVec 8
  tout : BitVec 8
  twarn : BitVec 8
  warn : Bool
  harts : SMap Hart
  ew : SMap (BitVec 32)
  ewNext : SMap (BitVec 32)
  vec : SMap Msix
  fmask : Bool
  log : List (Word × Nat × Word)
  records : Nat
  serial : Word
  sealKey : BitVec 256
  scramble : BitVec 128
  keys : KeySet
  reqs : List HostReq
  came : List Came
  hostRead : Nat
  draws : Nat
deriving DecidableEq, Repr

/-- An unused vector (R479: CNT 1); the MSI-X layout masks it at reset. [DESIGN CHOICE, log 2; PRESUMED, log 64] -/
def Msix.reset : Msix := ⟨0, 0, 0, 0, 1, 0, true, false⟩
/-- An empty queue that is off. -/
def Subq.reset : Subq := ⟨0, 0, 0, 0⟩
/-- An empty region. -/
def Region.reset : Region := ⟨0, 0, 0⟩
/-- Translation off. -/
def Xlat.reset : Xlat :=
  { root := 0, en := false, cache := [], inv := none, drop := false, fva := 0, finfo := 0, thresh := 0,
    nqva := 0, nqlog := 0, nqhead := 0, nqtail := 0, ovf := false }
/-- PROT set, GMIN 1 (R409). -/
def Guard.reset : Guard :=
  { dbg := false, prot := true, revoked := [], gmin := 1, hbusy := false, hdrop := false, epoch := 0,
    erdrop := false, kdrop := false, rot := false, drawn := false, cur := false, integV := false, integ := 0,
    er := [], key0 := .reset, key1 := .reset, scramble := 0 }
/-- No keys. -/
def Ide.reset : Ide := ⟨0, 0, false, false, false, none, none⟩
/-- A world's register page at reset (R251, R409, R479). [DESIGN CHOICE, log 2] -/
def World.reset : World :=
  { isOpen := false, closing := false, x := .reset, g := .reset, sq := [], cq := .reset, phase := true,
    kept := [], cqWait := false, snapsel := 0, dbgGang := 0, mwva := 0, mwlog := 30, mwnext := 30, vec := [], fmask := false,
    tdisp := .unlocked, froze := false, stopping := false, doe := .none, rx := .reset, tx := .reset }
/-- An empty slot (R219). -/
def Bind.reset : Bind := ⟨false, false, 0, 0, 0, 0, 0, 0, 0, 0, 0⟩
/-- A barrier before its first arrival. -/
def Bar.reset : Bar := ⟨0, [], none⟩
/-- A tile as dispatch leaves it (R291). -/
def Tile.reset : Tile := ⟨0, 0, []⟩
/-- A hart of the physical function. -/
def Hart.reset : Hart := ⟨true, 0, true, 0, 0⟩
/-- No migration. -/
def Mig.reset : Mig :=
  { ctlWorld := 0, ctlPort := 0, world := 0, err := 0, state := 0, accept := none, built := false, receipt := false, gangs := [],
    context := none, placed := false, flash := none, notice := none, sent := [] }

/-- The weights of R386 in table order. -/
def ewReset (c : Nat) : BitVec 32 := BitVec.ofNat 32 ([3932, 1966, 983, 320, 20, 1560, 6944, 651, 651].getD c 0)

/-- The device page when READY is first set (R8, R476). [DESIGN CHOICE, log 2] -/
def Device.reset : Device :=
  { stage := 5, fail := false, ready := true, num := 0, tkfail := false, holder := 0, lexp := 1200000000,
    expired := false, lterm := 1200000000, savebase := 0xBF00000000,
    fw := ⟨0, 0, Config.flashVersion 0, 0, false, 0, [], []⟩, mig := .reset, tj := 0, tout := 0, twarn := 95,
    warn := false, harts := [], ew := [], ewNext := [], vec := [], fmask := false, log := [], records := 0, serial := 1,
    sealKey := Config.randomKey 0, scramble := (Config.randomKey 1).setWidth 128
    keys := ⟨Config.randomKey 2, Config.randomKey 3, Config.randomKey 4⟩, reqs := [], came := [], hostRead := 0, draws := 5 }

end Sys2Proof.Machine
end

