-- ==== Sys2Proof/Machine/Link.lean ====
section
/-! DEFINITION. The state of the Briwen ports (R424 to R436) and the campus ports (R438 to R441, R469, R470). -/

namespace Sys2Proof.Machine

/-- A flit at its injection source, with the strand of this device that issued its transfer (GANG times 65536 plus
STRAND, 0 for none), and whether it is the transfer's first. -/
structure Inj where
  f : Flit
  who : Nat
  head : Bool
deriving DecidableEq, Repr

/-- A flit kept by its sender until cycle d + TXLAT + RXLAT + 5 (R428): departure cycle, the flit, and whether
it was already asked for. -/
structure Kept where
  d : Word
  f : Flit
  asked : Bool
  who : Nat
deriving DecidableEq, Repr

/-- A flit that needs sending again (R429): its entry and index, when the need arose, its kept content when it
was sent before, and whether a copy already failed. -/
structure Need where
  ent : BitVec 12
  fidx : BitVec 12
  arose : Word
  copy : Option Flit
  again : Bool
  who : Nat
deriving DecidableEq, Repr

/-- A NAK (R428): the departure cycle that it names and the cycle after which four headers may carry it. -/
structure NakOut where
  cyc : BitVec 16
  at_ : Word
deriving DecidableEq, Repr

/-- A delivered flit and its delivery cycle (R427). -/
structure Fwd where
  f : Flit
  at_ : Word
deriving DecidableEq, Repr

/-- An inbound group not yet verified (R423): upstream entry, group number, its flits, and whether it failed once. Groups stand in the
order of their first flits. -/
structure Group where
  ent : BitVec 12
  grp : Nat
  flits : List Fwd
  failed : Bool
deriving DecidableEq, Repr

/-- A failed flit of a world that has yet to come again (R428, R430): entry, index, whether it was itself a copy, and the cycle in which its
replay slot will have passed. -/
structure Lost where
  ent : BitVec 12
  fidx : BitVec 12
  again : Bool
  limit : Nat
deriving DecidableEq, Repr

/-- A transfer whose groups have all been verified at this device (R423, R447): the world of its flits, the fields of its
header, and its data. -/
structure Got where
  world : Nat
  op : Nat
  slot : Nat
  toGang : Nat
  toStrand : Nat
  off : Nat
  arg : Nat
  len : Nat
  flags : Nat
  dev : Nat
  gang : Nat
  strand : Nat
  txn : Nat
  data : Nat
deriving DecidableEq, Repr

/-- The transfers being received on an entry: the index of the next flit, verified flits beyond it, the transfer
in progress with its destination device and the data bytes it has so far, the last indices of verified groups that ended early, and the flits
that came with SLIP before the header of their transfer was there, with their TINFO. -/
structure Part where
  next : Nat
  flits : List Flit
  cur : Option (Nat × Got)
  have_ : Nat
  ends : List Nat
  late : List (Nat × Word)
deriving DecidableEq, Repr

/-- A schedule load that waits for its period start (R425, R465). -/
structure Load where
  world : BitVec 8
  ents : SMap Word
  at_ : Word
deriving DecidableEq, Repr

/-- A Briwen port (R433, R436): `out` is the last cycle in which it transmitted, with the flit, `window` the last health
window that ended, `served` the replay slots that have passed, `closed` the verified groups that it forwards, with the last index of each, `grpkey`
the key slot of an outbound group once a flit of it has departed, by 512 times its entry plus its number, and `done` the outbound groups that
their source ended early, numbered so; `lost` the failed flits that have yet to come again; `secret` and `lkeys` the export
master secret of its session and its link keys, by 4 times the world, plus 2 for reception, plus the key slot (R435). -/
structure Port where
  st : Nat
  err : BitVec 4
  peerdev : BitVec 9
  peerport : BitVec 4
  txlat : Nat
  rxlat : Nat
  per : Nat
  pernext : Nat
  slips : BitVec 16
  replays : BitVec 16
  crcfail : BitVec 16
  authfail : BitVec 16
  lane : SMap (BitVec 8)
  corr : SMap Nat
  thresh : BitVec 8
  own : SMap (BitVec 8)
  table : SMap Word
  next : List Load
  kept : List Kept
  needs : List Need
  naks : List NakOut
  inbuf : List Fwd
  groups : List Group
  closed : List (BitVec 12 × Nat × Nat)
  inject : SMap (List Inj)
  served : List (BitVec 12 × Nat × Word)
  keyidx : SMap Bool
  newkey : SMap Bool
  secret : BitVec 384
  lkeys : SMap (Option (BitVec 256))
  grpkey : SMap (Option Bool)
  done : List Nat
  lost : List Lost
  parts : SMap Part
  out : Option (Word × Flit)
  window : Word
deriving DecidableEq, Repr

/-- A campus frame in the retry buffer (R439), with the context and the age of its XSEND. -/
structure RFrame where
  key : Nat
  age : Nat
  f : Frame
  last : Word
  sends : Nat
deriving DecidableEq, Repr

/-- The receiving end of a stream (R439): the first frame not received and the frames received beyond it. -/
structure Stream where
  next : BitVec 48
  got : List (BitVec 48)
deriving DecidableEq, Repr

/-- A posted receive (R470): who posted it and in which order, its world, tag and region; the stream that fills it,
the number of its frame 0 and, once known, of its last frame. -/
structure Post where
  key : Nat
  age : Nat
  world : BitVec 8
  rtag : BitVec 32
  hd : Handle
  stream : Option (BitVec 16)
  first : Nat
  last : Option Nat
deriving DecidableEq, Repr

/-- A campus port (R441): `secret` and `lkeys` as at a Briwen port, `peerserial` and `peerport` the other end of its session; `unit` is the first cycle in which its compression unit may start its next command (R471). -/
structure Campus where
  st : Nat
  err : BitVec 4
  rto : BitVec 32
  buf : List RFrame
  resent : BitVec 32
  authfail : BitVec 32
  etype : BitVec 16
  seq : SMap Nat
  rx : SMap Stream
  posts : List Post
  lastAck : SMap Word
  keyidx : SMap Bool
  newkey : SMap Bool
  secret : BitVec 384
  lkeys : SMap (Option (BitVec 256))
  peerserial : Word
  peerport : BitVec 8
  unit : Nat
deriving DecidableEq, Repr

/-- A Briwen port at reset (R436). [DESIGN CHOICE, log 2] -/
def Port.reset : Port :=
  { st := 0, err := 0, peerdev := 0, peerport := 0, txlat := 0, rxlat := 0, per := 4096, pernext := 4096,
    slips := 0, replays := 0, crcfail := 0, authfail := 0, lane := [], corr := [], thresh := 192, own := [],
    table := [], next := [], kept := [], needs := [], naks := [], inbuf := [], groups := [], closed := [], inject := [],
    served := [], keyidx := [], newkey := [], secret := 0, lkeys := [], grpkey := [], done := [], lost := [], parts := [], out := none, window := 0 }

/-- A campus port at reset (R441). [DESIGN CHOICE, log 2] -/
def Campus.reset : Campus :=
  { st := 0, err := 0, rto := 3600000, buf := [], resent := 0, authfail := 0, etype := 0, seq := [], rx := [],
    posts := [], lastAck := [], keyidx := [], newkey := [], secret := 0, lkeys := [], peerserial := 0, peerport := 0, unit := 0 }

/-- An entry before its first flit. -/
def Part.reset : Part := ⟨0, [], none, 0, [], []⟩
/-- A stream before its first frame. -/
def Stream.reset : Stream := ⟨0, []⟩

end Sys2Proof.Machine
end

