-- ==== Sys2Proof/Machine/State.lean ====
section
/-! DEFINITION. The state of one JD-9400 device: 384 cores with two bind slots each, memory, worlds, gangs,
links and the device page; and why a step can stop. Other devices, hosts and harts act through events. -/

namespace Sys2Proof.Machine

/-- Faults. [DESIGN CHOICE, log 76] -/
inductive Fault where
  /-- raised by an access of the device itself at a physical address that no memory of R230 or R241 has: safe -/
  | noMemory (a : Nat)
deriving DecidableEq, Repr

/-- Refusals. -/
inductive Refusal where
  /-- raised by an arm of exec whose instruction has no meaning yet: safe -/
  | notModelled (mnemonic : String)
deriving DecidableEq, Repr

/-- The events that the device itself brings about, each by its event of the opcode table; the device chooses them,
while any other event comes from outside. -/
inductive Auto where
  | queuePush (e : Engine)
  | qstallLimit (e : Engine)
  | queueReadStep (e : Engine)
  | loopSkewEnd (e : Engine)
  | loopEndMarker (e : Engine)
  | fenceMarkerHead (e : Engine)
  | gwaitMet
  | stalehalo
  | pumpStart (age : Nat)
  | writeWindowStart (age : Nat)
  | pumpEnd (age : Nat)
  | ptabLoadEnd (t : BitVec 4)
  | cancelAck (c : BitVec 4)
  | haloLayerSend (g : BitVec 4) (face : Face)
  | haloPhaseAdvance (g : BitVec 4)
  | gxchgComplete (g : BitVec 4)
  | haloLayerArrival (l : LayerMsg)
  | slipNotice (key : Nat) (ti : Word)
  | triggerFire
  | xfenceRelease (w : BitVec 4)
  | ringComplete (age : Nat)
  | collectiveComplete (age : Nat)
  | trapEntry
  | owedMarkerPush
  | strandRetire
  | fetchHoldRelease
  | evwaitMet
  | waitlimit
  | dccwaitExpiry
  | svcVersionQuery
  | svcSubmitLaunch
  | svcGangState
  | svcUndefined
  | svcReply
  | engineCommandComplete (e : Engine) (age : Nat)
  | scalarStoreWritten (age : Nat)
  | translationWaitResume (age : Nat)
  | replayEntry (idx : Nat)
  | dispatchReady
  | imageTransferDone
  | departureScrub
  | remoteWriteArrival (m : Msg)
  | tileApply (m : Msg)
  | remoteAck (a : Ack)
  | xldResponse (a : Ack)
  | counterIncrementArrival (inc : Incr)
  | gangFaultRetire (gang : Nat)
  | preemption (gang : Nat)
  | gangStart (gang : Nat)
  | gangResume (gang : Nat)
  | barrierLeave (gang team : Nat)
  | launchAging (launch : Nat)
  | gangBind (launch : Nat)
  | msixFire (fn v : Nat)
  | msixTimer (fn v : Nat)
  | completionPost (world : Nat)
  | invalidationComplete (world : Nat)
  | revocationSweepDone (world : Nat)
  | keyDrawDone (world : Nat)
  | rotationLine (world : Nat)
  | worldClose (world : Nat)
  | healthWindow (port : BitVec 4)
  | scheduleTableSwitch (port : BitVec 4)
  | flitSlot (port : BitVec 4)
  | campusResendTimeout (cp : BitVec 2) (stream : BitVec 16) (seq : BitVec 48)
  | campusAckonly (cp : BitVec 2) (stream : BitVec 16)
  | hostCompletion (tag : BitVec 14) (port data : Nat)
  | leaseExpiry
  | fwSwap
  | migStep
  | arithmeticClockTick
deriving DecidableEq, Repr

/-- What moves next: fetch of a context, the issue of an engine of a context, an event that the device brings about in a
context, any event, or the choice of the moves of a part of the cycle. -/
inductive Move where
  | fetch (key : Nat)
  | issue (key : Nat) (e : Engine)
  | auto (key : Nat) (a : Auto)
  | event (key : Nat) (i : Instr)
  | plan (part : Nat)
deriving DecidableEq, Repr

/-- The device. `cur` is the context that moves (core index times 2 plus slot), `iss` the instruction an engine
is issuing with its captured values, `agenda` the moves chosen and not yet made, `owner` the WORLD that an HBM
line carries (R399), none for one stored under its present owner since that owner got it (R408), `badLines` the lines whose
check fails, `told` the values that walkers still read of words of HBM written since (R246), 2^64 for none, `items` the data that the sources of launches place in partitions (R361, R504), `turn` the round-robin turns of R222, `net`, `acks`, `rx`, `layers` and `incrs` what travels between strands and devices, `landing` the verified transfers from other devices whose bytes are
not yet in place, each with the cycle in which they are (R447), `shared` the operand
reads that a cluster shares (R198), `chans` the channels that pump copies reserve (R290). -/
structure State where
  cur : Nat
  iss : Cap
  agenda : List Move
  dcc : Word
  mem : Mem
  owner : SMap (Option (BitVec 8))
  badLines : SMap Bool
  told : SMap Nat
  ctxs : SMap Ctx
  binds : SMap Bind
  tiles : SMap Tile
  worlds : SMap World
  gangs : SMap (Option Gang)
  launches : List Launch
  items : List Item
  turn : SMap Nat
  nextLaunch : Nat
  ports : SMap Port
  campus : SMap Campus
  net : List Msg
  acks : List Ack
  rx : List Got
  landing : List (Nat × Got)
  layers : List LayerMsg
  incrs : List Incr
  shared : List Shared
  chans : List Chan
  dev : Device
deriving DecidableEq, Repr

/-- No instruction. -/
def Cap.blank : Cap := ⟨.nop, [], 0, 0, 0, [], []⟩

/-- The device right after reset: READY, nothing bound, memory zero. Registers for which the spec gives no value hold what the assumption log names. [DESIGN CHOICE, log 2; DESIGN CHOICE, log 3] -/
def State.reset : State :=
  { cur := 0, iss := .blank, agenda := [], dcc := 0, mem := [], owner := [], badLines := [], told := [],
    ctxs := [], binds := [], tiles := [], worlds := [], gangs := [], launches := [], items := [], turn := [],
    nextLaunch := 0, ports := [], campus := [], net := [], acks := [], rx := [], landing := [], layers := [], incrs := [], shared := [], chans := [],
    dev := .reset }

end Sys2Proof.Machine
end

