-- ==== Sys2Proof/Machine/Ops.lean ====
section
/-! DEFINITION. The named operations over contexts and their registers, the fetch position and loop delivery
(R20, R87), instruction queues (R126), taking a trap and returning from one (R34, R365, R368), and the stop of a
gang (R223). -/

namespace Sys2Proof.Machine

/-- The answer of a step. -/
abbrev Ans := Host.Outcome State Fault Refusal

/-- Trap numbers (R363). -/
def tILLEGAL : BitVec 8 := 1
def tFETCHBOUND : BitVec 8 := 2
def tSWTRAP : BitVec 8 := 3
def tDOUBLETRAP : BitVec 8 := 4
def tNOHANDLE : BitVec 8 := 5
def tRIGHTS : BitVec 8 := 6
def tBOUNDS : BitVec 8 := 7
def tMISALIGN : BitVec 8 := 8
def tLEVEL : BitVec 8 := 9
def tPARTITION : BitVec 8 := 10
def tPAGEFAULT : BitVec 8 := 11
def tTAG : BitVec 8 := 12
def tLOOPFAULT : BitVec 8 := 13
def tQOVER : BitVec 8 := 14
def tQUNDER : BitVec 8 := 15
def tBANKBUSY : BitVec 8 := 16
def tEVTARGET : BitVec 8 := 17
def tWAITLIMIT : BitVec 8 := 18
def tBARRIER : BitVec 8 := 19
def tSCHEDULE : BitVec 8 := 20
def tEARLYREAD : BitVec 8 := 21
def tCODETAB : BitVec 8 := 22
def tCODEERR : BitVec 8 := 23
def tGRIDSTATE : BitVec 8 := 24
def tSTALEHALO : BitVec 8 := 25
def tOVERRUN : BitVec 8 := 26
def tSEGORDER : BitVec 8 := 27
def tSIGSTATE : BitVec 8 := 28
def tTIMESLIP : BitVec 8 := 29
def tPEER : BitVec 8 := 30
def tREMOTE : BitVec 8 := 31
def tSNAPBAD : BitVec 8 := 32

/-- Why an instruction does not end as its own effect: a trap with its TINFO, raised in a state (the recorded
cause of a page fault stands in it), or a state in which it waits, or its strand has stopped. -/
inductive Stop where
  | trap (s : State) (code : BitVec 8) (tinfo : Word)
  | hold (s : State)

/-- The result of an instruction's meaning. -/
abbrev Res' (α : Type) := Except Stop α

/-! ## Contexts -/

/-- The context at a key. -/
def State.ctxAt (s : State) (k : Nat) : Ctx := SMap.get Ctx.reset s.ctxs k
/-- The moving context. -/
def State.ctx (s : State) : Ctx := s.ctxAt s.cur
/-- The state with the context at a key replaced. -/
def State.setAt (s : State) (k : Nat) (c : Ctx) : State := { s with ctxs := SMap.set Ctx.reset s.ctxs k c }
/-- The state with the moving context replaced. -/
def State.setCtx (s : State) (c : Ctx) : State := s.setAt s.cur c
/-- The bind record of a slot. -/
def State.bindAt (s : State) (k : Nat) : Bind := SMap.get Bind.reset s.binds k
/-- The bind record of the moving context. -/
def State.bind (s : State) : Bind := s.bindAt s.cur
/-- A world. -/
def State.world (s : State) (w : Nat) : World := SMap.get World.reset s.worlds w
/-- The state with a world replaced. -/
def State.setWorld (s : State) (w : Nat) (x : World) : State := { s with worlds := SMap.set World.reset s.worlds w x }
/-- The gang with an id, if resident or starting. -/
def State.gang (s : State) (g : Nat) : Option Gang := SMap.get none s.gangs g
/-- The state with a gang replaced. -/
def State.setGang (s : State) (g : Nat) (x : Option Gang) : State := { s with gangs := SMap.set none s.gangs g x }
/-- The core index of a context key. -/
def coreOf (k : Nat) : Nat := k / 2
/-- The core id of a core index (R2). -/
def coreId (c : Nat) : Nat := (c / 96) * 128 + c % 96
/-- The core index of a core id, where the id names a core (R2). -/
def coreIdx (id : Nat) : Option Nat :=
  if id % 128 < 96 ∧ id / 128 < 4 then some ((id / 128) * 96 + id % 128) else none
/-- The keys of all slots. -/
def allKeys : List Nat := List.range (2 * Config.cores)
/-- The engine of a context. -/
def Ctx.engAt (c : Ctx) (e : Engine) : Eng := SMap.get Eng.reset c.eng (Config.engIdx e)
/-- The context with an engine replaced. -/
def Ctx.setEng (c : Ctx) (e : Engine) (x : Eng) : Ctx :=
  { c with eng := SMap.set Eng.reset c.eng (Config.engIdx e) x }

/-! ## Scalars, predicates, counters (R18) -/

/-- s[r]; s0 reads as zero. -/
def Ctrl.getS (c : Ctrl) (r : BitVec 5) : Word := if r = 0 then 0 else SMap.get 0 c.s r.toNat
/-- s[r] := v; a write to s0 is discarded. -/
def Ctrl.setS (c : Ctrl) (r : BitVec 5) (v : Word) : Ctrl :=
  if r = 0 then c else { c with s := SMap.set 0 c.s r.toNat v }
/-- p[r]; p0 reads as true. -/
def Ctrl.getP (c : Ctrl) (r : BitVec 3) : Bool := r = 0 || c.p.getLsbD r.toNat
/-- p[r] := v; a write to p0 is discarded. -/
def Ctrl.setP (c : Ctrl) (r : BitVec 3) (v : Bool) : Ctrl :=
  if r = 0 then c
  else
    let one := BitVec.twoPow 8 r.toNat
    { c with p := if v then c.p ||| one else c.p &&& ~~~one }
/-- Counter en (R270). -/
def Ctrl.getE (c : Ctrl) (n : BitVec 6) : BitVec 32 := SMap.get 0 c.e n.toNat
/-- Counter en := v. -/
def Ctrl.setE (c : Ctrl) (n : BitVec 6) (v : BitVec 32) : Ctrl := { c with e := SMap.set 0 c.e n.toNat v }

/-- The scalar of the moving context. -/
def State.getS (s : State) (r : BitVec 5) : Word := s.ctx.ctl.getS r
/-- The state with the control stream of the moving context changed. -/
def State.ctl (s : State) (f : Ctrl → Ctrl) : State := s.setCtx { s.ctx with ctl := f s.ctx.ctl }
/-- The state with a scalar of the moving context written. -/
def State.setS (s : State) (r : BitVec 5) (v : Word) : State := s.ctl (fun c => c.setS r v)
/-- The state with a predicate of the moving context written. -/
def State.setP (s : State) (r : BitVec 3) (v : Bool) : State := s.ctl (fun c => c.setP r v)

/-- A counter value meets a threshold (R270). -/
def meets (e t : BitVec 32) : Bool := decide ((e - t).toNat < 2 ^ 31)

/-! ## Handle slots (R232, R394) -/

/-- Whether a generation is revoked in a world (R394). -/
def State.revoked (s : State) (w : Nat) (g : BitVec 32) : Bool :=
  let d := (s.world w).g
  decide (g.toNat < d.gmin.toNat) || d.revoked.contains g

/-- A record that is not revoked acts as itself, a revoked one as an empty slot (R395). -/
def State.live (s : State) (h : Option Handle) : Option Handle :=
  match h with
  | some r => if s.revoked r.world.toNat r.gen then none else some r
  | none => none

/-- Handle slot n of the moving context. -/
def State.slot (s : State) (n : BitVec 6) : Option Handle := s.live (SMap.get none s.ctx.ctl.h n.toNat)

/-- A right of a handle by bit (R29). -/
def Handle.has (h : Handle) (b : Nat) : Bool := h.rights.getLsbD b
/-- RD. -/
def rRD : Nat := 0
/-- WR. -/
def rWR : Nat := 1
/-- EX. -/
def rEX : Nat := 2
/-- AT. -/
def rAT : Nat := 3
/-- DV. -/
def rDV : Nat := 4

/-- The eight words of a record (R232). -/
def Handle.words (h : Handle) : List Word :=
  [word (h.level.toNat * 2 ^ 61 + h.base.toNat), word h.len.toNat,
   word (h.gen.toNat * 2 ^ 32 + (match h.sync with | some n => 2 ^ 29 + n.toNat * 2 ^ 23 | none => 0)
     + h.pc.toNat * 2 ^ 20 + Config.fmtCode h.fmt * 2 ^ 16 + h.world.toNat * 2 ^ 8 + h.rights.toNat),
   h.geo0, h.geo1, h.w5, h.w6]

/-- The record with the seal of its words (R393). [DESIGN CHOICE, log 4; DESIGN CHOICE, log 23] -/
def State.sealed (s : State) (h : Handle) : Handle :=
  { h with mac := Config.sealOf s.dev.sealKey h.words }

/-! ## The fetch position and loop delivery -/

/-- The next age (R129): the place in the order in which fetch handles things, spread so that repeats of a
loop fit behind its end marker. -/
def State.newAge (s : State) : State × Nat :=
  let c := s.ctx.ctl
  (s.ctl (fun c => { c with nextAge := c.nextAge + 1 }), c.nextAge * 2 ^ 40)

/-- The entries of an instruction queue in use (R126, R127): queued ones, and a loop's marker and body. -/
def Eng.used (e : Eng) : Nat :=
  e.q.length + (match e.loop with | some l => 1 + l.body.length | none => 0)

/-- The queue has a free entry (R126). -/
def Ctx.room (c : Ctx) (e : Engine) : Bool := decide ((c.engAt e).used < Config.queueDepth e)

/-- An item put at the tail of an engine's queue. -/
def Ctx.push (c : Ctx) (e : Engine) (i : QItem) : Ctx :=
  let x := c.engAt e
  c.setEng e { x with q := x.q ++ [i] }

/-- The lowest engine of a mask. -/
def lowestOf (m : BitVec 6) : Option Engine := Config.engines.find? (fun e => m.getLsbD (Config.engIdx e))

/-- A mask without an engine. -/
def dropBit (m : BitVec 6) (e : Engine) : BitVec 6 := m &&& ~~~(BitVec.twoPow 6 (Config.engIdx e))

/-- Pushes the lowest owed end marker, if its queue has room (R89). [DEDUCED, log 37] -/
def State.pushOwed (s : State) : State :=
  match lowestOf s.ctx.lp.owed with
  | none => s
  | some e =>
    if s.ctx.room e then
      let c := s.ctx.push e (.endMark s.ctx.lp.endAge)
      s.setCtx { c with lp := { c.lp with owed := dropBit c.lp.owed e } }
    else s

/-- n tries of pushing owed markers. [DEDUCED, log 37] -/
def State.pushOwedN : Nat → State → State
  | 0, s => s
  | n + 1, s => State.pushOwedN n s.pushOwed

/-- Loop delivery closes: an end marker is owed to each engine in MASK and pushed where there is room (R87). -/
def State.closeLoop (s : State) : State :=
  if s.ctx.lp.open_ then
    let (t, age) := s.newAge
    let l := t.ctx.lp
    State.pushOwedN 6
      (t.setCtx { t.ctx with lp := { l with open_ := false, owed := l.owed ||| l.mask, endAge := age } })
  else s

/-- The next instruction's place becomes the fetch position; leaving the last covered line closes loop
delivery (R27, R87). -/
def State.advance (s : State) : State :=
  let c := s.ctx.ctl
  let t := s.ctl (fun c => { c with line := c.nline, lane := c.nlane, hold := .none, held := 0 })
  if s.ctx.lp.open_ ∧ s.ctx.lp.last < c.nline then t.closeLoop else t

/-- A move put in front of those chosen. -/
def State.moveFirst (s : State) (m : Move) : State := { s with agenda := m :: s.agenda }

/-- An increment that reaches its counter in this cycle. -/
def State.incrPut (s : State) (x : Incr) : State := { s with incrs := s.incrs ++ [x] }.moveFirst (.auto 0 (.counterIncrementArrival x))

/-- The next instruction is processed n cycles from now at the earliest (R28, R98). [DEDUCED, log 7] -/
def State.occupy (s : State) (n : Nat) : State := s.ctl (fun c => { c with due := s.dcc.toNat + n, late := none })

/-- The state after an instruction that occupies control, which has written s[d] of the state before it: the write is known as the
instruction's result, with the load that it comes from (R97). [DEDUCED, log 51] -/
def State.lateAs (t s : State) (d : BitVec 5) (l : Option Reload) : State :=
  t.ctl (fun c => { c with late := some ⟨d, s.getS d, c.getS d, l⟩ })

/-- A transfer to lane 0 of a line: the place that `advance` will take; it closes loop delivery, and the first instruction
of the line is processed three cycles later (R26, R28, R87). -/
def State.jump (s : State) (line : Nat) : State :=
  ((s.ctl (fun c => { c with nline := line, nlane := 0 })).closeLoop).occupy 3

/-- The moving context held, with nothing else changed; a new hold starts its count. -/
def State.holdAs (s : State) (h : Hold) : State :=
  s.ctl (fun c => if c.hold = h then c else { c with hold := h, held := 0 })

/-! ## Stopping a gang (R223) -/

/-- A context whose gang stops: fetch stops, and queued commands, buffered pump commands, parked writes, and commands or writes that
wait in the translation unit are discarded; every other issued command goes on (R223). [DEDUCED, log 46] -/
def Ctx.stopped (c : Ctx) : Ctx :=
  { c with
    ctl := { c.ctl with fetch := .stopped, hold := .none, held := 0 }
    lp := .reset
    eng := []
    rq := []
    fl := (c.fl.map (fun f => { f with wait := [] })).filter (fun f => f.segs ≠ [] ∨ (f.src = 5 ∧ c.fab.cmds.any (fun x => x.cap.age = f.age ∧ !x.wait)))
    pump := { c.pump with buf := [], fly := c.pump.fly.filter (fun p => !p.wait) }
    fab := { c.fab with cmds := c.fab.cmds.filter (fun x => !x.wait), trigs := [] } }

/-- The id by which a command's READY estimate is known (R294). -/
def estId (k age : Nat) : Nat := age * 1024 + k

/-- The estimates of commands that leave without starting stay in READY (R294). -/
def Tile.settle (k : Nat) (ages : List Nat) (t : Tile) : Tile :=
  let gone := t.ests.filter (fun e => (ages.map (estId k)).contains e.1)
  { t with
    base := gone.foldl (fun b e => if b.toNat < e.2.toNat then e.2 else b) t.base
    ests := t.ests.filter (fun e => !(ages.map (estId k)).contains e.1) }

/-- READY with the estimates of a context's leaving commands settled in every tile. -/
def State.settle (s : State) (k : Nat) (ages : List Nat) : State :=
  if ages.isEmpty then s
  else
    { s with
      tiles := (s.tiles.map (fun e => (e.1, e.2.settle k ages))).filter (fun e => e.2 ≠ Tile.reset) }

/-- A message of a context that waits at its peer for an invalidation. -/
def Bind.waits (b : Bind) (m : Msg) : Bool := m.wait.isSome && m.srcGang = b.gang && m.srcStrand = b.strand

/-- A command of a context one of whose messages waits on translation at a peer (R223). -/
def State.lost (s : State) (k : Nat) (x : XCmd) : Bool :=
  s.net.any (fun m => (s.bindAt k).waits m && m.srcDev = s.dev.num && x.txns.contains m.txn)

/-- A context without the fabric commands that a test picks out. -/
def Ctx.without (c : Ctx) (p : XCmd → Bool) : Ctx :=
  { c with fab := { c.fab with cmds := c.fab.cmds.filter (fun x => !p x) } }

/-- One context stopped, and with it its commands whose messages wait on translation. [DEDUCED, log 74] -/
def State.stopAt (s : State) (k : Nat) : State :=
  let c := s.ctxAt k
  let d := (c.without (s.lost k)).stopped
  let t := s.settle k (c.pump.buf.map (fun p => p.cap.age))
  { t.setAt k d with
    campus := t.campus.map (fun e => (e.1, { e.2 with
      posts := e.2.posts.filter (fun p => p.key ≠ k || d.fab.cmds.any (fun x => x.cap.age = p.age)) })) }

/-- The contexts of a gang, by its bind records. -/
def State.keysOfGang (s : State) (g : Nat) : List Nat :=
  (s.binds.filter (fun e => e.2.valid ∧ e.2.gang.toNat = g)).map (·.1)

/-- The contexts that stop with one: itself, and those of its gang where it is bound (R34, R223). -/
def State.stopsWith (s : State) (k : Nat) : List Nat :=
  k :: (if (s.bindAt k).valid then s.keysOfGang (s.bindAt k).gang.toNat else [])

/-- Contexts stopped, and their messages that wait on translation gone (R223). -/
def State.stopAll (s : State) (l : List Nat) : State :=
  let t := l.foldl State.stopAt s
  { t with net := t.net.filter (fun m => !(m.srcDev = s.dev.num && l.any (fun k => (s.bindAt k).waits m))) }

/-- A trap with no handler stops the strand and its whole gang; the scheduler core hears of the first (R34, R223). [DEDUCED, log 46; DEDUCED, log 74] -/
def State.stopGang (s : State) (k : Nat) (code : BitVec 8) : State :=
  let b := s.bindAt k
  let t := s.stopAll (s.stopsWith k)
  if b.valid then
    match t.gang b.gang.toNat with
    | some g => t.setGang b.gang.toNat (some { g with trap := g.trap.or (some (code, b.strand.toNat)) })
    | none => t
  else t

/-! ## Trap entry and return (R33, R34, R365 to R368) -/

/-- Trap entry for a trap raised at a line and lane: the strand stops where no trap can be entered, else the
trap registers are written and the handler's line becomes the fetch position. An open loop is suspended (R89). [DEDUCED, log 38; DEDUCED, log 74] -/
def State.enterTrap (s : State) (code : BitVec 8) (tinfo : Word) (line lane : Nat) (teng : Teng) : State :=
  let c := s.ctx
  if c.csr.intrap then s.stopGang s.cur tDOUBLETRAP
  else if c.csr.tvecEn then
    s.setCtx
      { c with
        csr := { c.csr with
          tline := BitVec.ofNat 14 (line / 32), tlane := BitVec.ofNat 4 lane, tcode := code, tinfo := tinfo
          tpred := BitVec.ofNat 7 (c.ctl.p.toNat / 2), intrap := true, teng := teng }
        lp := if c.lp.open_ then { c.lp with open_ := false, susp := true } else c.lp
        ctl := { c.ctl with line := 32 * c.csr.tvecLine.toNat, lane := 0, fetch := .run, hold := .none, held := 0, due := s.dcc.toNat + 3, late := none } }
  else s.stopGang s.cur code

/-- A precise trap of the control stream, at the instruction being processed (R33). -/
def State.controlTrap (s : State) (code : BitVec 8) (tinfo : Word) : State :=
  s.enterTrap code tinfo s.ctx.ctl.line s.ctx.ctl.lane .none

/-- A control instruction: its effect and then the next instruction, or its trap, or its wait. -/
def controlOp (r : Res' State) : Ans :=
  match r with
  | .ok t => .next t.advance
  | .error (.trap t code tinfo) => .next (t.controlTrap code tinfo)
  | .error (.hold t) => .next t

/-! ## The engines' heads -/

/-- The age of an execution of a body instruction (R129): after the end marker, execution by execution, in the
order of first delivery over all engines of the loop. -/
def LoopRun.repeatAge (l : LoopRun) (r : Nat) (c : Cap) : Nat := l.endAge + r * 2 ^ 20 + (c.age - l.start) / 2 ^ 40

/-- The instruction an engine would issue: an issued one that a restored image holds, the head of its queue, or the next of a loop's repeat
(R88), with the age of R129 and whether it is a repeat. -/
def Eng.head (e : Eng) : Option (Cap × Bool) :=
  match e.slots with
  | c :: _ => some (c, false)
  | [] =>
    match e.loop with
    | some l =>
      if l.exec = 0 then
        match e.q with
        | .instr c _ :: _ => some (c, false)
        | _ => none
      else
        match l.body[l.pos]? with
        | some c => if l.exec < l.n then some ({ c with age := l.repeatAge l.exec c }, true) else none
        | none => none
    | none =>
      match e.q with
      | .instr c _ :: _ => some (c, false)
      | _ => none

/-- The head leaves: a repeat steps on in its body, a body instruction is kept, any other entry is freed
(R88, R142). -/
def Eng.leave (e : Eng) : Eng :=
  let e := { e with stall := .none, stalled := 0, latch := [], latched := false, pushes := [], made := 0 }
  match e.slots with
  | _ :: r => { e with slots := r }
  | [] =>
    match e.loop with
    | some l =>
      if l.exec = 0 then
        match e.q with
        | .instr c out :: r => { e with q := r, loop := some (if out then l else { l with body := l.body ++ [c] }) }
        | _ => e
      else if l.pos + 1 < l.body.length then { e with loop := some { l with pos := l.pos + 1 } }
      else { e with loop := some { l with pos := 0, exec := l.exec + 1 } }
    | none =>
      match e.q with
      | .instr _ _ :: r => { e with q := r }
      | _ => e

/-- The state with an engine of the moving context changed. -/
def State.onEng (s : State) (e : Engine) (f : Eng → Eng) : State :=
  s.setCtx (s.ctx.setEng e (f (s.ctx.engAt e)))

/-- A pending trap of an engine; a second one while one is pending is lost (R366). -/
def Eng.raise (e : Eng) (p : Pend) : Eng :=
  match e.pend with
  | some old => { e with pend := some { old with lost := true } }
  | none => { e with pend := some p }

/-- An E trap: the instruction stays at the head and the engine is frozen (R364). While an A trap of the engine is still
pending the instruction waits at the head, and raises its trap once that one is entered: at most one trap of an engine is
pending, and only a second A trap is lost (R366). -/
def State.freeze (s : State) (e : Engine) (code : BitVec 8) (tinfo : Word) : State :=
  let p : Pend := ⟨false, code, tinfo, s.iss.line, s.iss.lane, s.dcc, false⟩
  s.onEng e (fun x => if x.pend.isSome then x else { x.raise p with frozen := true, stall := .none, stalled := 0 })

/-- An A trap of a command of a context, named by its line and lane (R364). -/
def State.raiseA (s : State) (k : Nat) (e : Engine) (code : BitVec 8) (tinfo : Word) (line lane : Nat) : State :=
  let c := s.ctxAt k
  s.setAt k (c.setEng e ((c.engAt e).raise ⟨true, code, tinfo, line, lane, s.dcc, false⟩))

/-- `tret` releases the engine frozen by the trap in service, and issues its instruction again or discards it
(R368). -/
def Ctx.release (c : Ctx) : Ctx :=
  let t := c.csr.teng
  if t.v ∧ ¬ t.asy then
    match Config.engines[t.eng.toNat]? with
    | some e =>
      let x := { c.engAt e with frozen := false }
      c.setEng e (if t.disp then x.leave else x)
    | none => c
  else c

/-- The line offset to which `tret` returns: lane 8 is lane 0 of the line after TLINE (R34). -/
def Csr.retLine (r : Csr) : Nat := if r.tlane = 8 then 32 * r.tline.toNat + 32 else 32 * r.tline.toNat

/-- The return itself (R34, R368): predicates and position restored, INTRAP and TENG cleared, a suspended loop
opened again, and closed where the return has left its last covered line; a loop whose delivery was open is closed, as by any
return (R87). -/
def State.doTret (s : State) : State :=
  let c := s.ctx.release
  let line := c.csr.retLine
  let t := s.setCtx
    { c with
      ctl := { c.ctl with
        p := BitVec.ofNat 8 (2 * c.csr.tpred.toNat + 1)
        line := line
        lane := if c.csr.tlane = 8 then 0 else c.csr.tlane.toNat
        hold := .none, held := 0, due := s.dcc.toNat + 3, late := none }
      csr := { c.csr with intrap := false, teng := .none }
      lp := if c.lp.susp then { c.lp with open_ := true, susp := false } else c.lp }
  if c.lp.open_ ∨ (c.lp.susp ∧ c.lp.last < line) then t.closeLoop else t

/-- The pending trap that is entered next: lowest MASK bit first (R366). [DEDUCED, log 75] -/
def Ctx.pending (c : Ctx) : Option (Engine × Pend) :=
  Config.engines.findSome? (fun e => (c.engAt e).pend.map (fun p => (e, p)))

/-- A hold that trap entry abandons (R365). -/
def Hold.abandoned : Hold → Bool
  | .svc _ _ | .reply _ _ | .tbar _ _ _ | .parked _ => false
  | _ => true

/-- Entry of the pending engine trap (R365 to R367). [DEDUCED, log 75] -/
def State.enterPending (s : State) (e : Engine) (p : Pend) : State :=
  let c := s.ctx
  let t : Teng :=
    { v := true, asy := p.asy, eng := BitVec.ofNat 3 (Config.engIdx e), disp := false, lost := p.lost,
      line := BitVec.ofNat 13 (p.line / 32), lane := BitVec.ofNat 4 p.lane }
  let x := { c.engAt e with pend := none }
  (s.setCtx (c.setEng e x)).enterTrap p.code p.tinfo c.ctl.line c.ctl.lane t

end Sys2Proof.Machine
end

