-- ==== Sys2Proof/Machine/Operands.lean ====
section
/-! DEFINITION. What an engine instruction names: the register, mask and accumulator fields it reads and writes
(R131, R138, R155), the scalars and handles it captures at delivery (R44), and its delivery predicate (R24). -/

namespace Sys2Proof.Machine

/-- The fields of an engine instruction. -/
structure Uses where
  rd : List VR
  wr : List VR
  kr : List (BitVec 3)
  kw : List (BitVec 3)
  ar : List (BitVec 4)
  aw : List (BitVec 4)
  s : List (BitVec 5)
  h : List (BitVec 6)
  dp : BitVec 3
deriving DecidableEq, Repr

/-- A mask field: code 0 names no mask where it stands for "every element" (R152). -/
def maskUse (k : BitVec 3) : List (BitVec 3) := if k = 0 then [] else [k]

/-- An elementwise VS or VL form with its sources; under a mask a plain destination is read for the merge (R153). -/
def useV (o : VOp) (src : List VR) (merge : Bool) : Uses :=
  let keep := if merge ∧ o.k ≠ 0 then (match o.d with | .v n => [VR.v n] | _ => []) else []
  ⟨src ++ keep, [o.d], maskUse o.k, [], [], [], [], [], o.dp⟩

/-- A compare: D names a mask (R159). -/
def useVcmp (kd : BitVec 3) (o : VOp) : Uses := ⟨[o.a, o.b], [], maskUse o.k, [kd], [], [], [], [], o.dp⟩

/-- An MH operand. -/
def useMH (o : MHOp) (ar aw : List (BitVec 4)) : Uses := ⟨[], [], [], [], ar, aw, [o.s], [o.h], o.dp⟩

/-- An MDH operand. -/
def useMD (o : MDOp) (a : BitVec 4) (more : List (BitVec 5)) : Uses :=
  ⟨[], [], [], [], [a], [], o.s :: more, [o.h], o.dp⟩

/-- An MA form. -/
def useMA (rd : List VR) (ar aw : List (BitVec 4)) (dp : BitVec 3) : Uses := ⟨rd, [], [], [], ar, aw, [], [], dp⟩

/-- Only scalars and handles. -/
def useSH (s : List (BitVec 5)) (h : List (BitVec 6)) (dp : BitVec 3) : Uses := ⟨[], [], [], [], [], [], s, h, dp⟩

/-- A PC form. -/
def useP (o : POp) : Uses := useSH [o.od, o.os, o.t, o.n, o.th] [o.hd, o.hs] o.dp

/-- A load of a VM, GM or FM form into X, and a store from it. -/
def useLd (x : VR) (k : BitVec 3) (s : List (BitVec 5)) (h : BitVec 6) (dp : BitVec 3) : Uses :=
  let keep := if k ≠ 0 then (match x with | .v n => [VR.v n] | _ => []) else []
  ⟨keep, [x], maskUse k, [], [], [], s, [h], dp⟩
/-- A store from X. -/
def useSt (x : VR) (k : BitVec 3) (s : List (BitVec 5)) (h : BitVec 6) (dp : BitVec 3) : Uses :=
  ⟨[x], [], maskUse k, [], [], [], s, [h], dp⟩

/-- What each instruction names; a control instruction and an event capture nothing. -/
def uses : Instr → Uses
  | .vadd _ o | .vsub _ o | .vmul _ o | .vmin _ o | .vmax _ o | .vdiv o
  | .vand o | .vor o | .vxor o | .vshl o | .vshr o | .vsra o | .vperm o | .vbscale _ _ o => useV o [o.a, o.b] true
  | .vfma _ o | .vclamp _ o => useV o [o.a, o.b, o.c] true
  | .vabs _ o | .vneg _ o | .vsqrt o | .vnot o | .vcvt _ o | .vtag _ o | .vmov o
  | .vexp o | .vlog o | .vrcp o | .vrsqrt o | .vtanh o | .vsig o | .vpsplit _ o | .vpmerge _ o => useV o [o.a] true
  | .vredsum _ o | .vredmax _ o | .vredmin _ o | .vscan _ o => useV o [o.a] false
  | .vcmpeq _ k o | .vcmplt _ k o | .vcmple _ k o => useVcmp k o
  | .vkand d a b dp | .vkor d a b dp | .vkxor d a b dp => ⟨[], [], [a, b], [d], [], [], [], [], dp⟩
  | .vknot d a dp => ⟨[], [], [a], [d], [], [], [], [], dp⟩
  | .vkset d _ dp => ⟨[], [], [], [d], [], [], [], [], dp⟩
  | .vkcnt a o => ⟨[], [o.d], [a], [], [], [], [], [], o.dp⟩
  | .vsel o => ⟨[o.a, o.b], [o.d], [o.k], [], [], [], [], [], o.dp⟩
  | .viota o => useV o [] true
  | .vbcst _ d _ k dp =>
    ⟨if k ≠ 0 then (match d with | .v n => [VR.v n] | _ => []) else [], [d], maskUse k, [], [], [], [], [], dp⟩
  | .vgather _ o =>
    ⟨o.ix :: (if o.k ≠ 0 then (match o.x with | .v n => [VR.v n] | _ => []) else []), [o.x], maskUse o.k, [], [], [],
      [o.a], [o.h], o.dp⟩
  | .vscatter _ o => ⟨[o.x, o.ix], [], maskUse o.k, [], [], [], [o.a], [o.h], o.dp⟩
  | .vld _ o => useLd o.x o.k [o.a] o.h o.dp
  | .vst _ o => useSt o.x o.k [o.a] o.h o.dp
  | .vrnd _ dp => ⟨[], [], [], [], [], [], [], [], dp⟩
  | .mldw _ o | .mldg o | .mpre o => useMH o [] []
  | .mmul _ a o => useMH o (if o.ac then [a] else []) [a]
  | .mldacc a o => useMH o (if o.ac then [a] else []) [a]
  | .mmulq _ a q pk dp => useMA [if pk then .pk q else .q q] [a] [a] dp
  | .mldwq _ q dp => useMA [.q q] [] [] dp
  | .mdrain _ a q _ dp => ⟨[], [.q q], [], [], [a], [], [], [], dp⟩
  | .mdrainc _ a o | .mdrainp a o => useMD o a []
  | .mdrains _ a pr o => useMD o a [pr]
  | .mzero a dp => useMA [] [] [a] dp
  | .maccmov a b dp => useMA [] [b] [a] dp
  | .mscale a x dp | .mbias a x dp => useMA [x] [a] [a] dp
  | .mswap a b dp => useMA [] [a, b] [a, b] dp
  | .mcfg _ _ _ dp | .mrnd _ dp => useMA [] [] [] dp
  | .pcopy _ o | .pcopy2d _ _ o | .pcopyd _ o | .pcopyhIn o | .pcopyhOut o | .pover o | .pcmd o | .pfill o
  | .ptagset o | .ptagchk o | .pprefetch o => useP o
  | .pevent _ t a dp => useSH [t, a] [] dp
  | .ptab h _ dp => useSH [] [h] dp
  | .pcancel _ dp | .pflush dp => useSH [] [] dp
  | .gdecl _ h dp => useSH [] [h] dp
  | .gbind _ _ dp | .gbound _ _ _ dp | .gstep _ dp | .gxchg _ dp | .greset _ dp | .gfree _ dp => useSH [] [] dp
  | .gdepth _ _ a dp | .gface _ _ _ a dp => useSH [a] [] dp
  | .gwait _ st _ dp => useSH [st] [] dp
  | .gld _ o => useLd o.x o.k [o.a, o.st] o.h o.dp
  | .gst _ o => useSt o.x o.k [o.a, o.st] o.h o.dp
  | .sigcfg _ _ dp | .siglog dp | .sigexp dp => useSH [] [] dp
  | .sigzero a dp => useSH [a] [] dp
  | .sigseg a b dp => useSH [a, b] [] dp
  | .siginc _ x dp => useMA [x] [] [] dp
  | .sigincb _ h a b dp => useSH [a, b] [h] dp
  | .sigjoin _ h a dp | .sigld h a dp | .sigst _ h a dp => useSH [a] [h] dp
  | .sigdrain q _ dp => ⟨[], [.q q], [], [], [], [], [], [], dp⟩
  | .xst _ o => useSt o.x o.k [o.a, o.pr] o.h o.dp
  | .xld _ o _ => useLd o.x o.k [o.a, o.pr] o.h o.dp
  | .xamo _ _ o => useSH [o.a, o.pr, o.b] [o.h] o.dp
  | .xacas _ c o => useSH [o.a, o.pr, o.b, c] [o.h] o.dp
  | .xevinc _ pr _ _ dp => useSH [pr] [] dp
  | .xtrig _ th _ dp => useSH [th] [] dp
  | .xtile ti h pr _ a dp => useSH [ti, pr, a] [h] dp
  | .xready ti dp => useSH [ti] [] dp
  | .xring _ _ h a b _ _ th dp => useSH [a, b, th] [h] dp
  | .xsched _ h t dp => useSH [t] [h] dp
  | .xport pr h _ _ dp => useSH [pr] [h] dp
  | .xcomp hs hr _ _ _ dp | .xresid hs hr _ _ dp => useSH [] [hs, hr] dp
  | .xallow _ a dp => useSH [a] [] dp
  | .xfence _ _ dp => useSH [] [] dp
  | .xcoll _ o => useSH [o.n, o.th] [o.hs, o.hr] o.dp
  | .xsend h _ a _ dp | .xrecv h _ a _ dp => useSH [a] [h] dp
  | .xput o | .xget o => useSH [o.pr, o.n, o.od, o.os, o.th] [o.hd, o.hs] o.dp
  | _ => useSH [] [] 0

/-- The engine that executes an instruction; none for control instructions and events (R40). -/
def engineOf : Instr → Option Engine
  | .vadd _ _ | .vsub _ _ | .vmul _ _ | .vmin _ _ | .vmax _ _ | .vdiv _ | .vand _ | .vor _ | .vxor _ | .vshl _ | .vshr _
  | .vsra _ | .vperm _ | .vbscale _ _ _ | .vfma _ _ | .vclamp _ _ | .vabs _ _ | .vneg _ _ | .vsqrt _ | .vnot _
  | .vcvt _ _ | .vtag _ _ | .vmov _ | .vexp _ | .vlog _ | .vrcp _ | .vrsqrt _ | .vtanh _ | .vsig _ | .vpsplit _ _
  | .vpmerge _ _ | .vredsum _ _ | .vredmax _ _ | .vredmin _ _ | .vscan _ _ | .vcmpeq _ _ _ | .vcmplt _ _ _
  | .vcmple _ _ _ | .vkand _ _ _ _ | .vkor _ _ _ _ | .vkxor _ _ _ _ | .vknot _ _ _ | .vkset _ _ _ | .vkcnt _ _
  | .vsel _ | .viota _ | .vbcst _ _ _ _ _ | .vgather _ _ | .vscatter _ _ | .vld _ _ | .vst _ _ | .vrnd _ _ => some .vector
  | .mldw _ _ | .mldg _ | .mpre _ | .mmul _ _ _ | .mldacc _ _ | .mmulq _ _ _ _ _ | .mldwq _ _ _ | .mdrain _ _ _ _ _
  | .mdrainc _ _ _ | .mdrainp _ _ | .mdrains _ _ _ _ | .mzero _ _ | .maccmov _ _ _ | .mscale _ _ _ | .mbias _ _ _
  | .mswap _ _ _ | .mcfg _ _ _ _ | .mrnd _ _ => some .matrix
  | .pcopy _ _ | .pcopy2d _ _ _ | .pcopyd _ _ | .pcopyhIn _ | .pcopyhOut _ | .pover _ | .pcmd _ | .pfill _ | .ptagset _
  | .ptagchk _ | .pprefetch _ | .pevent _ _ _ _ | .ptab _ _ _ | .pcancel _ _ | .pflush _ => some .pump
  | .gdecl _ _ _ | .gbind _ _ _ | .gbound _ _ _ _ | .gstep _ _ | .gxchg _ _ | .greset _ _ | .gfree _ _ | .gdepth _ _ _ _
  | .gface _ _ _ _ _ | .gwait _ _ _ _ | .gld _ _ | .gst _ _ => some .halo
  | .sigcfg _ _ _ | .siglog _ | .sigexp _ | .sigzero _ _ | .sigseg _ _ _ | .siginc _ _ _ | .sigincb _ _ _ _ _
  | .sigjoin _ _ _ _ | .sigld _ _ _ | .sigst _ _ _ _ | .sigdrain _ _ _ => some .signature
  | .xst _ _ | .xld _ _ _ | .xamo _ _ _ | .xacas _ _ _ | .xevinc _ _ _ _ _ | .xtrig _ _ _ _ | .xtile _ _ _ _ _ _
  | .xready _ _ | .xring _ _ _ _ _ _ _ _ _ | .xsched _ _ _ _ | .xport _ _ _ _ _ | .xcomp _ _ _ _ _ _
  | .xresid _ _ _ _ _ | .xallow _ _ _ | .xfence _ _ _ | .xcoll _ _ | .xsend _ _ _ _ _ | .xrecv _ _ _ _ _ | .xput _
  | .xget _ => some .fabric
  | _ => none

/-- A captured scalar; s0 is zero (R44). -/
def Cap.sc (c : Cap) (r : BitVec 5) : Word := if r = 0 then 0 else SMap.get 0 c.s r.toNat
/-- A captured handle record, empty where it is revoked when the instruction issues (R395). -/
def State.hrec (s : State) (h : BitVec 6) : Option Handle := s.live (SMap.get none s.iss.h h.toNat)
/-- A scalar of the issuing instruction. -/
def State.sc (s : State) (r : BitVec 5) : Word := s.iss.sc r

/-- The instruction with what it captures as it is delivered (R44). -/
def State.capture (s : State) (i : Instr) (lanes : List Lane) (age : Nat) : Cap :=
  let u := uses i
  let c := s.ctx.ctl
  { instr := i, lanes := lanes, line := c.line, lane := c.lane, age := age
    s := u.s.foldl (fun m r => if r = 0 then m else SMap.set 0 m r.toNat (c.getS r)) []
    h := u.h.foldl (fun m r => SMap.set none m r.toNat (s.slot r)) [] }

/-- The queue register a source field pops or peeks. -/
def VR.queue : VR → Option (Nat × Bool)
  | .v _ => none
  | .q n => some (n.toNat, true)
  | .pk n => some (n.toNat, false)

/-- The queue registers an instruction reads in its read step, each with whether a field pops it (R133);
mldwq pops one at a time by its own description (R193). -/
def queueReads (i : Instr) : List (Nat × Bool) :=
  match i with
  | .mldwq _ _ _ => []
  | _ =>
    let l := (uses i).rd.filterMap VR.queue
    (l.map (·.1)).eraseDups.map (fun q => (q, l.any (fun e => e.1 = q ∧ e.2)))

end Sys2Proof.Machine
end

