-- ==== Sys2Proof/Machine/Access.lean ====
section
/-! DEFINITION. Reaching memory: the walk of the page tables and the translation cache (R242 to R246), access
counters and notifications (R248 to R250), partitions and swizzles (R233 to R240), the access tables and line
checks (R389, R390, R398 to R400), and reads and posted writes with the checks of R30. -/

namespace Sys2Proof.Machine

/-! ## Energy, interrupts, the log -/

/-- Adds 1/128 pJ to an account (R386); 128 000 000 of them are 1 µJ. [DESIGN CHOICE, log 41] -/
def Energy.add128 (e : Energy) (x : Nat) : Energy :=
  if e.sat then e
  else
    let t := e.frac + x
    let u := e.uj + t / 128000000
    if u < 2 ^ 48 - 1 then { e with uj := u, frac := t % 128000000 } else { uj := 2 ^ 48 - 1, frac := 0, sat := true }
/-- Adds pJ to an account. [DESIGN CHOICE, log 41] -/
def Energy.add (e : Energy) (pj : Nat) : Energy := e.add128 (128 * pj)

/-- The weight of a row of R386. -/
def State.weight (s : State) (c : Nat) : Nat := (SMap.get (ewReset c) s.dev.ew c).toNat

/-- n units of a class of work, done for a context (R386). [DESIGN CHOICE, log 41] -/
def State.charge (s : State) (k cls n : Nat) : State :=
  let c := s.ctxAt k
  s.setAt k { c with en := c.en.add (n * s.weight cls) }

/-- An event counted on a vector (R480). -/
def Msix.count (m : Msix) (dcc : Word) : Msix := { m with e := m.e + 1, f := if m.e = 0 then dcc else m.f }

/-- An event on a vector of a world (R480). [DESIGN CHOICE, log 80] -/
def State.irq (s : State) (w v : Nat) : State :=
  let x := s.world w
  s.setWorld w { x with vec := SMap.set Msix.reset x.vec v ((SMap.get Msix.reset x.vec v).count s.dcc) }

/-- An event on a vector of the physical function (R480). -/
def State.pfIrq (s : State) (v : Nat) : State :=
  { s with dev := { s.dev with vec := SMap.set Msix.reset s.dev.vec v ((SMap.get Msix.reset s.dev.vec v).count s.dcc) } }

/-- A record of the wellhead log, in the place of the oldest once there are 2048, counted on PF vector 1 (R475, R480, R486). [DEDUCED, log 40; DESIGN CHOICE, log 71] -/
def State.logged (s : State) (code : Nat) (detail : Word) : State :=
  let r := (s.dcc, code, detail)
  let n := s.dev.records
  { s with dev := { s.dev with records := n + 1, log := if s.dev.log.length < 2048 then s.dev.log ++ [r] else s.dev.log.set (n % 2048) r } }.pfIrq 1

/-- Codes of log records: the spec names the kinds of R486 and gives no numbers. [DESIGN CHOICE, log 71] -/
def logRefusal : Nat := 0
def logIntegrity : Nat := 1
def logTdisp : Nat := 2
def logFirmware : Nat := 3
def logMigration : Nat := 4

/-! ## HBM lines -/

/-- The world whose region holds an HBM address (R398). -/
def State.regionWorld (s : State) (a : Nat) : Option Nat :=
  s.worlds.findSome? (fun e => if e.2.g.er.any (fun r => r.2.base ≤ a ∧ a < r.2.lim) then some e.1 else none)

/-- The WORLD under which a line is stored now (R399). -/
def State.lineOwner (s : State) (a : Nat) : BitVec 8 :=
  match s.regionWorld a with
  | some w => BitVec.ofNat 8 w
  | none => 0xFF

/-- The lines of n bytes at an address. -/
def linesOf (a n : Nat) : List Nat := if n = 0 then [] else (List.range ((a + n - 1) / 64 - a / 64 + 1)).map (· + a / 64)

/-- A line passes its check: its stored WORLD is the expected one and its tag holds (R399). A line not written since its
owner got it was written as zeros under that owner's keys (R408). [DESIGN CHOICE, log 23] -/
def State.lineOk (s : State) (l : Nat) : Bool :=
  (match SMap.get none s.owner l with | some o => o = s.lineOwner (64 * l) | none => true) && !SMap.get false s.badLines l

/-- The first line of n bytes of HBM that fails its check. -/
def State.badLine (s : State) (a n : Nat) : Option Nat := (linesOf a n).find? (fun l => !s.lineOk l)

/-- n bytes in regions of world w, whose bounds are multiples of 512 KiB, or in the whole of HBM below the reserved range
for no world (R389, R398). -/
def State.hbmGrant (s : State) (w : Option Nat) (a n : Nat) : Bool :=
  match w with
  | some w =>
    decide (s.regionWorld a = some w ∧ s.regionWorld (a + n - 1) = some w) &&
      (List.range ((a + n - 1) / 2 ^ 19 - a / 2 ^ 19)).all (fun i => decide (s.regionWorld ((a / 2 ^ 19 + i + 1) * 2 ^ 19) = some w))
  | none => decide (a + n ≤ Config.hbmReserved)

/-- A word of HBM as walkers read it: until an invalidation covers it, as it stood before it was written (R246). -/
def State.tableWord (s : State) (a : Nat) : Nat :=
  let v := SMap.get (2 ^ 64) s.told (a / 8)
  if v = 2 ^ 64 then s.mem.read a 8 else v

/-- The aligned words of n bytes at an address. -/
def wordsOf (a n : Nat) : List Nat := if n = 0 then [] else (List.range ((a + n - 1) / 8 - a / 8 + 1)).map (· + a / 8)

/-- What walkers go on reading when n bytes of HBM are written: the old value of each word in a region of a world whose
translation is on (R246). -/
def State.toldOf (s : State) (a n : Nat) : SMap Nat :=
  (wordsOf a n).foldl
    (fun m i =>
      match s.regionWorld (8 * i) with
      | some w => if (s.world w).x.en then SMap.set (2 ^ 64) m i (s.tableWord (8 * i)) else m
      | none => m) s.told

/-- Bytes written: memory, and for HBM the WORLD and tag of every line touched (R399), and what walkers still read (R246). -/
def State.store (s : State) (a n v : Nat) : State :=
  let t := { s with mem := s.mem.write a n v }
  if a < Config.hbmTop then
    { t with
      owner := (linesOf a n).foldl (fun m l => SMap.set none m l (some (s.lineOwner (64 * l)))) s.owner
      badLines := (linesOf a n).foldl SMap.erase s.badLines
      told := s.toldOf a n }
  else t

/-- A failed check recorded in the world (R400). [DESIGN CHOICE, log 61] -/
def State.integrity (s : State) (w line : Nat) : State :=
  let x := s.world w
  ((s.setWorld w { x with g := { x.g with integV := true, integ := line } }).irq w 3).logged logIntegrity (word (64 * line))

/-- A strand's access whose line check fails: recorded, and its gang stops with trap number 0 (R400). -/
def State.integrityStop (s : State) (k w line : Nat) : State := (s.integrity w line).stopGang k 0

/-! ## Translation -/

/-- The index bits, the page size of a leaf, and the table size of each level (R242). -/
def walkIndex (l va : Nat) : Nat :=
  match l with
  | 0 => bits va 56 48
  | 1 => bits va 47 39
  | 2 => bits va 38 30
  | 3 => bits va 29 25
  | _ => bits va 24 19
/-- The size that a leaf maps. -/
def leafSize : Nat → Nat
  | 2 => 2 ^ 30
  | 3 => 2 ^ 25
  | _ => 2 ^ 19
/-- The size of the table of a level. -/
def tableSize : Nat → Nat
  | 3 => 512
  | 4 => 1024
  | _ => 8192

/-- A walk's end: the leaf, a translation fault with its level and reason and the line whose check failed, if one did
(R400), or a table entry that the access tables refuse to the walker. -/
inductive Walk where
  | leaf (t : Tlb)
  | fault (level reason : Nat) (line : Option Nat)
  | refused

/-- The walk of one table and the levels below it (R243, R244). [DESIGN CHOICE, log 85] -/
def State.walkFrom (s : State) (w va : Nat) : Nat → Nat → Nat → Walk
  | 0, l, _ => .fault l 3 none
  | fuel + 1, l, table =>
    let a := table + 16 * walkIndex l va
    if !s.hbmGrant (some w) a 16 then .refused
    else if (s.badLine a 16).isSome then .fault l 0 (s.badLine a 16)
    else
      let w0 := s.tableWord a
      let w1 := s.tableWord (a + 8)
      let leaf := bit w0 1
      let host := bit w0 62
      let ac := bit w0 61
      let addr := bits w0 56 12 * 4096
      let cnt := bits w1 15 0
      if !bit w0 0 then .fault l 0 none
      else if bits w0 60 57 ≠ 0 ∨ bits w0 11 2 ≠ 0 ∨ bits w1 63 16 ≠ 0
          ∨ (!leaf ∧ (bit w0 63 ∨ host ∨ ac ∨ cnt ≠ 0)) ∨ (leaf ∧ !host ∧ (ac ∨ cnt ≠ 0)) then .fault l 1 none
      else if (leaf ∧ l < 2) ∨ (!leaf ∧ l = 4) then .fault l 3 none
      else if leaf then
        let size := leafSize l
        if addr % size ≠ 0 then .fault l 2 none
        else if !host ∧ Config.hbmReserved < addr + size then .fault l 5 none
        else
          .leaf { va := va / size * size, size := size, pa := addr, wb := bit w0 63, host := host, ac := ac,
                  cnt := cnt, ent := a, at_ := [] }
      else if addr % Nat.max 4096 (tableSize (l + 1)) ≠ 0 then .fault l 2 none
      else if Config.hbmReserved < addr + tableSize (l + 1) then .fault l 5 none
      else s.walkFrom w va fuel (l + 1) addr

/-- The walk from the root (R244). -/
def State.walk (s : State) (w va : Nat) : Walk :=
  let x := (s.world w).x
  if !x.en then .fault 0 4 none
  else if Config.hbmReserved < x.root + 8192 then .fault 0 5 none
  else s.walkFrom w va 5 0 x.root

/-- The cached entry of a page, or the walk's (R245). -/
def State.lookup (s : State) (w va : Nat) : Walk :=
  match (s.world w).x.cache.find? (fun t => t.va ≤ va ∧ va < t.va + t.size) with
  | some t => .leaf t
  | none => s.walk w va

/-- The cached translations of a world without one page. -/
def Xlat.without (x : Xlat) (t : Tlb) : List Tlb := x.cache.filter (fun u => u.va ≠ t.va ∨ u.size ≠ t.size)

/-- A cached page set, in the place of the entry it replaces. -/
def State.cacheSet (s : State) (w : Nat) (t : Tlb) : State :=
  let x := s.world w
  s.setWorld w { x with x := { x.x with cache := x.x.without t ++ [t] } }

/-- CNT of a counted leaf written back to its entry, unless software has written that word since (R248). -/
def State.writeBack (s : State) (t : Tlb) : State :=
  if t.host ∧ t.ac ∧ SMap.get (2 ^ 64) s.told ((t.ent + 8) / 8) = 2 ^ 64 then s.store (t.ent + 8) 2 t.cnt else s

/-- The entries that a translation cache holds: 64 in a core, 4096 in a die (R245). [DESIGN CHOICE, log 103] -/
def cacheSize (c : Nat) : Nat := if c < 1024 then 64 else 4096

/-- A cache holds a page of a world no longer; with the last cache the copy is gone, and its count is written back (R245, R248). -/
def State.dropFrom (s : State) (c w : Nat) (t : Tlb) : State :=
  let l := t.at_.filter (· ≠ c)
  if l.isEmpty then
    let u := s.writeBack t
    u.setWorld w { u.world w with x := { (u.world w).x with cache := (u.world w).x.without t } }
  else s.setWorld w { s.world w with x := { (s.world w).x with
    cache := (s.world w).x.cache.map (fun u => if u = t then { t with at_ := l } else u) } }

/-- The entries of a cache, with their worlds. [DESIGN CHOICE, log 103] -/
def State.heldIn (s : State) (c : Nat) : List (Nat × Tlb) :=
  s.worlds.flatMap (fun e => (e.2.x.cache.filter (fun t => t.at_.contains c)).map (fun t => (e.1, t)))

/-- A page of a world marked as held by a cache. -/
def State.markIn (s : State) (w : Nat) (t : Tlb) (c : Nat) : State :=
  match (s.world w).x.cache.find? (fun u => u.va = t.va ∧ u.size = t.size) with
  | some u => if u.at_.contains c then s else s.cacheSet w { u with at_ := u.at_ ++ [c] }
  | none => s

/-- A cache takes in a page of a world; a full one gives up another entry, the first of the lowest world. [DESIGN CHOICE, log 103] -/
def State.keepIn (s : State) (w : Nat) (t : Tlb) (c : Nat) : State :=
  let s := s.markIn w t c
  let l := s.heldIn c
  if cacheSize c < l.length then
    match l.find? (fun e => e.1 ≠ w ∨ e.2.va ≠ t.va ∨ e.2.size ≠ t.size) with
    | some e => s.dropFrom c e.1 e.2
    | none => s
  else s

/-- The caches of a core: its own and its die's (R245). [DESIGN CHOICE, log 103] -/
def cachesOf (core : Nat) : List Nat := [core, 1024 + core / 128]

/-- The entries of HBM that a walk of a page reads, as memory holds them (R242, R246). -/
def State.pathFrom (s : State) (va : Nat) : Nat → Nat → Nat → List Nat
  | 0, _, _ => []
  | fuel + 1, l, table =>
    let a := table + 16 * walkIndex l va
    let w0 := s.mem.read a 8
    a :: (if bit w0 0 ∧ !bit w0 1 then s.pathFrom va fuel (l + 1) (bits w0 56 12 * 4096) else [])

/-- A translation fault recorded, with its interrupt (R251, R369, R480), and a failed check of a walker's read (R400). -/
def State.recordFault (s : State) (w va l r : Nat) (line : Option Nat) : State :=
  let s := match line with | some ln => s.integrity w ln | none => s
  let x := s.world w
  (s.setWorld w { x with x := { x.x with fva := BitVec.ofNat 57 va, finfo := BitVec.ofNat 6 (l * 8 + r) } }).irq w 2

/-- Flat address of a translated byte. -/
def Tlb.flat (t : Tlb) (va : Nat) : Nat := (if t.host then Config.hostBase else 0) + t.pa + (va - t.va)

/-- What an access to virtual bytes meets. -/
inductive Tran where
  | ok (l : List (Tlb × Nat × Nat))
  | fault (va level reason : Nat) (line : Option Nat)
  | refused

/-- The pages of n bytes at a virtual address, in order, each with its first byte and count. -/
def State.pages (s : State) (w : Nat) : Nat → Nat → Nat → Tran
  | 0, _, _ => .ok []
  | fuel + 1, va, n =>
    if n = 0 then .ok []
    else
      match s.lookup w va with
      | .fault l r ln => .fault va l r ln
      | .refused => .refused
      | .leaf t =>
        let m := Nat.min n (t.va + t.size - va)
        match s.pages w fuel (va + m) (n - m) with
        | .ok l => .ok ((t, va, m) :: l)
        | e => e

/-- The pages of n bytes, with enough tries for the smallest page. -/
def State.pagesOf (s : State) (w va n : Nat) : Tran := s.pages w (n / 2 ^ 19 + 2) va n

/-- One notification entry posted, or dropped with OVF set (R249, R250); `put` resolves its bytes and counts their line. -/
def State.notify (s : State) (w : Nat) (put : State → Nat → State × Option Nat) (t : Tlb) (count : Nat) : State :=
  let x := (s.world w).x
  let drop (s : State) : State := s.setWorld w { s.world w with x := { (s.world w).x with ovf := true } }
  if x.nqlog < 4 ∨ 16 < x.nqlog then s
  else
    let size := 2 ^ x.nqlog
    if (x.nqtail.toNat + 1) % size = x.nqhead.toNat then drop s
    else
      match put s (x.nqva + 16 * x.nqtail.toNat) with
      | (s, none) => drop s
      | (s, some a) =>
        let code := if t.size = 2 ^ 19 then 0 else if t.size = 2 ^ 25 then 1 else 2
        let v := code * 2 ^ 62 + t.va + 2 ^ 64 * (bits s.dcc.toNat 31 0 * 2 ^ 32 + count)
        let u := s.store a 16 v
        (u.setWorld w { u.world w with
          x := { (u.world w).x with nqtail := BitVec.ofNat 16 ((x.nqtail.toNat + 1) % size) } }).irq w 1

/-- The flat address of a notification entry, where its page translates and lets it be written; a fault is recorded (R244),
a refusal logged (R390), and its line counted (R248). An entry whose page blocks writes or is refused is dropped as one whose write
faults. [DESIGN CHOICE, log 102] -/
def State.notifyAt (s : State) (w : Nat) (count : State → Tlb → Nat → State) (va : Nat) : State × Option Nat :=
  match s.pagesOf w va 16 with
  | .ok [(p, _, _)] =>
    if p.wb then (s, none)
    else if !p.host ∧ !s.hbmGrant (some w) (p.flat va) 16 then (s.logged logRefusal (word va), none)
    else (count s p va, some (p.flat va))
  | .fault fva l r ln => (s.recordFault w fva l r ln, none)
  | .refused => (s.logged logRefusal (word va), none)
  | _ => (s, none)

/-- Lines counted through a leaf that counts (R248, R249): the cached copy holds the count, and the first one to reach THRESH posts
an entry, whose own line is counted too, to the depth that the fuel gives. -/
def State.countLines (s : State) (w : Nat) : Nat → Tlb → Nat → Nat → State
  | 0, t, _, _ => s.cacheSet w t
  | fuel + 1, t, va, n =>
    if t.host ∧ t.ac then
      let new := Nat.min 0xFFFF (t.cnt + (linesOf va n).length)
      let th := (s.world w).x.thresh.toNat
      let u := s.cacheSet w { t with cnt := new }
      if th ≠ 0 ∧ t.cnt < th ∧ th ≤ new then
        u.notify w (fun s va => s.notifyAt w (fun s p va => s.countLines w fuel p va 16) va) t th
      else u
    else s.cacheSet w t

/-! ## Cisterns -/

/-- The core index and cistern offset of a byte of a cistern handle (R233, R238). -/
def Handle.cist (h : Handle) (o : Nat) : Nat :=
  let u := h.base.toNat % 2 ^ 23 + o
  let sw := h.geo0.toNat / 2 ^ 62
  if sw = 0 then u
  else
    let y := u / Nat.max 1 (bits h.geo0.toNat 19 0)
    let m := if sw = 1 then 32 else 16
    u / 2048 * 2048 + ((u / 64 % 32) ^^^ (y % m)) * 64 + u % 64
/-- The core id of a cistern handle. -/
def Handle.core (h : Handle) : Nat := h.base.toNat / 2 ^ 23 % 1024

/-- The runs of n bytes at an offset of a cistern handle: one, or one for each 64-byte block when swizzled. -/
def Handle.cistRuns (h : Handle) (ci : Nat) : Nat → Nat → Nat → List (Nat × Nat)
  | 0, _, _ => []
  | fuel + 1, o, n =>
    if n = 0 then []
    else if h.geo0.toNat / 2 ^ 62 = 0 then [(Config.cisternBase + ci * 2 ^ 23 + h.cist o, n)]
    else
      let m := Nat.min n (64 - (h.base.toNat + o) % 64)
      (Config.cisternBase + ci * 2 ^ 23 + h.cist o, m) :: h.cistRuns ci fuel (o + m) (n - m)

/-- Bytes o to o + n - 1 of a cistern handle lie within the partition of a valid bind record of the handle's world whose context stands in a
phase. -/
def State.partitionIn (s : State) (h : Handle) (o n : Nat) (p : Phase → Bool) : Bool :=
  match coreIdx h.core with
  | none => false
  | some ci =>
    [2 * ci, 2 * ci + 1].any (fun k =>
      let b := s.bindAt k
      b.valid && p (s.ctxAt k).phase && decide (b.world = h.world ∧ b.pbase * 65536 ≤ h.base.toNat % 2 ^ 23 + o
        ∧ h.base.toNat % 2 ^ 23 + o + n ≤ (b.pbase + b.psize) * 65536))

/-- The check of R236; a core refuses new accesses to the partition of a context that departs (R237). -/
def State.inPartition (s : State) (h : Handle) (o n : Nat) : Bool := s.partitionIn h o n (fun p => p ≠ .departing)

/-- The bytes lie in a partition that dispatch has yet to zero and to fill, and an access to them waits for it (R408). -/
def State.unplaced (s : State) (h : Handle) (o n : Nat) : Bool := h.level = 0 && n ≠ 0 && s.partitionIn h o n (fun p => p = .loading)

/-- Where a cistern lies, seen from a core (R233): 0 own, 1 same cluster, 2 same die, 3 other die. -/
def pathClass (own id : Nat) : Nat :=
  if own = id then 0 else if own / 8 = id / 8 then 1 else if own / 128 = id / 128 then 2 else 3

/-- The own cistern of a context (R233). -/
def State.isOwn (s : State) (h : Handle) : Bool := h.level = 0 && h.core = coreId (coreOf s.cur)

/-! ## Resolving an access -/

/-- The bytes behind n bytes at an offset of a handle, checked for partition, translation and access tables,
with the cache filled and lines counted; or what stops the access. -/
inductive Acc where
  | ok (s : State) (l : List (Nat × Nat))
  /-- a page that faults, by its first byte touched -/
  | page (s : State) (va : Nat)
  /-- a page that blocks writes -/
  | blocked (s : State) (va : Nat)
  | denied (s : State)

/-- Energy of the blocks and lines of an access (R386). -/
def State.chargeRuns (s : State) (k : Nat) (l : List (Nat × Nat)) : State :=
  l.foldl (fun s r =>
    if r.1 < Config.hbmTop then s.charge k 5 (linesOf r.1 r.2).length
    else if r.1 < Config.imemBase then s.charge k 4 (linesOf r.1 r.2).length else s) s

/-- Translates virtual bytes of a world for a unit with these caches (R242 to R247, R389): a fault is recorded, a refusal logged. -/
def State.trace (s : State) (caches : List Nat) (w va n : Nat) (write : Bool) : Acc :=
  match s.pagesOf w va n with
  | .fault fva l r ln => .page (s.recordFault w fva l r ln) fva
  | .refused => .denied (s.logged logRefusal (word va))
  | .ok l =>
    let t := l.foldl (fun s e => caches.foldl (fun s c => s.keepIn w e.1 c) (s.cacheSet w e.1)) s
    match (if write then l.find? (fun e => e.1.wb) else none) with
    | some e => .blocked t e.2.1
    | none =>
      if l.any (fun e => !e.1.host ∧ !s.hbmGrant (some w) (e.1.flat e.2.1) e.2.2) then .denied (s.logged logRefusal (word va))
      else .ok t (l.map (fun e => (e.1.flat e.2.1, e.2.2)))

/-- The lines of virtual bytes of a world counted (R248). -/
def State.countVa (s : State) (w va n : Nat) : State :=
  match s.pagesOf w va n with
  | .ok l => l.foldl (fun s e => match s.lookup w e.2.1 with | .leaf t => s.countLines w 3 t e.2.1 e.2.2 | _ => s) s
  | _ => s

/-- Resolves virtual bytes of a world for a unit with these caches: translated, and their lines counted. -/
def State.reach (s : State) (caches : List Nat) (w va n : Nat) (write : Bool) : Acc :=
  match s.trace caches w va n write with
  | .ok t runs => .ok (t.countVa w va n) runs
  | e => e

/-- The caches of a context's core. -/
def cachesAt (k : Nat) : List Nat := cachesOf (coreId (coreOf k))

/-- Resolves virtual bytes of a world for a context, whose energy it costs (R386). -/
def State.resolveVa (s : State) (k w va n : Nat) (write : Bool) : Acc :=
  match s.reach (cachesAt k) w va n write with
  | .ok t runs => .ok (t.chargeRuns k runs) runs
  | e => e

/-- Several accesses translated, all of them or none. -/
def State.traceAll (caches : List Nat) (w : Nat) (write : Bool) :
    List (Nat × Nat) → State → Except Acc (State × List (List (Nat × Nat)))
  | [], s => .ok (s, [])
  | (va, n) :: l, s =>
    match s.trace caches w va n write with
    | .ok t runs =>
      match State.traceAll caches w write l t with
      | .ok (u, rs) => .ok (u, runs :: rs)
      | e => e
    | e => .error e

/-- Runs in rising order without the lines that those before them touch, for one instruction touches a line once (R248, R386). [DEDUCED, log 104] -/
def freshLines : Nat → List (Nat × Nat) → List (Nat × Nat)
  | _, [] => []
  | f, (a, n) :: l =>
    let b := if f ≤ a + 64 then Nat.max a f else a
    (b, a + n - b) :: freshLines (if n = 0 then f else (a + n + 63) / 64 * 64) l

/-- Several virtual accesses of one instruction resolved for a context, all of them or none, each line counted and charged once. [DEDUCED, log 104] -/
def State.resolveVas (s : State) (k w : Nat) (l : List (Nat × Nat)) (write : Bool) : Except Acc (State × List (List (Nat × Nat))) :=
  match State.traceAll (cachesAt k) w write l s with
  | .ok (t, rs) => .ok (((freshLines 0 l).foldl (fun s e => s.countVa w e.1 e.2) t).chargeRuns k (freshLines 0 rs.flatten), rs)
  | .error e => .error e

/-- An access that an access table refuses, recorded in the wellhead's log (R390). -/
def State.refusedAt (s : State) (h : Handle) (o : Nat) : State := s.logged logRefusal (word (h.base.toNat + o))

/-- Resolves n bytes at an offset of a handle for a context. -/
def State.resolveAt (s : State) (k : Nat) (h : Handle) (o n : Nat) (write : Bool) : Acc :=
  if n = 0 then .ok s []
  else if h.level = 0 then
    match coreIdx h.core with
    | some ci =>
      if s.inPartition h o n then
        let runs := h.cistRuns ci (n / 64 + 2) o n
        .ok (s.chargeRuns k runs) runs
      else .denied (s.refusedAt h o)
    | none => .denied (s.refusedAt h o)
  else s.resolveVa k h.world.toNat (h.base.toNat + o) n write

/-- Several accesses of one instruction through a handle, offset and count, resolved for a context, all of them or none. [DEDUCED, log 104] -/
def State.resolveMany (s : State) (k : Nat) (h : Handle) (l : List (Nat × Nat)) (write : Bool) : Except Acc (State × List (List (Nat × Nat))) :=
  if h.level = 0 then
    match coreIdx h.core, l.find? (fun e => e.2 ≠ 0 ∧ !s.inPartition h e.1 e.2) with
    | some ci, none =>
      let rs := l.map (fun e => h.cistRuns ci (e.2 / 64 + 2) e.1 e.2)
      .ok (s.chargeRuns k (freshLines 0 rs.flatten), rs)
    | _, some e => .error (.denied (s.refusedAt h e.1))
    | none, none => .error (.denied (s.refusedAt h ((l.head?.map (·.1)).getD 0)))
  else s.resolveVas k h.world.toNat (l.map (fun e => (h.base.toNat + e.1, e.2))) write

/-- Resolves for the moving context. -/
def State.resolve (s : State) (h : Handle) (o n : Nat) (write : Bool) : Acc := s.resolveAt s.cur h o n write

/-! ## Reading and writing -/

/-- The bytes of runs, the first run in the least significant bytes. -/
def readRuns (m : Mem) : List (Nat × Nat) → Nat
  | [] => 0
  | (a, n) :: l => m.read a n + readRuns m l * 2 ^ (8 * n)

/-- A value of consecutive bytes cut over runs. -/
def cutRuns : List (Nat × Nat) → Nat → List Seg
  | [], _ => []
  | (a, n) :: l, v => ⟨a, n, v % 2 ^ (8 * n)⟩ :: cutRuns l (v / 2 ^ (8 * n))

/-- The value of consecutive runs, the first in the least significant bytes. -/
def segsValue : List Seg → Nat
  | [] => 0
  | g :: l => g.v % 2 ^ (8 * g.n) + segsValue l * 2 ^ (8 * g.n)

/-- Runs to be written with some of their bits left as memory has them. -/
def keepBits (m : Mem) (keep : Nat) (l : List Seg) : List Seg :=
  if keep = 0 then l
  else
    let runs := l.map (fun g => (g.a, g.n))
    let new := segsValue l
    cutRuns runs ((readRuns m runs &&& keep) ||| (new ^^^ (new &&& keep)))

/-- Memory with the translated bytes of a posted write made. -/
def Flight.write (f : Flight) (m : Mem) : Mem := (keepBits m f.keep f.segs).foldl (fun m g => m.write g.a g.n g.v) m

/-- Memory as a reader of a context sees it: with the posted writes of its own source (R76, R139). [DESIGN CHOICE, log 8] -/
def Ctx.view (c : Ctx) (src : Nat) (m : Mem) : Mem :=
  (c.fl.filter (fun f => f.src = src)).foldl (fun m f => f.write m) m

/-- The first failing HBM line of runs. -/
def State.badRun (s : State) (l : List (Nat × Nat)) : Option Nat :=
  l.findSome? (fun r => if r.1 < Config.hbmTop then s.badLine r.1 r.2 else none)

/-- The age of the item that fetch handles now (R129). -/
def State.ageNow (s : State) : Nat := s.ctx.ctl.nextAge * 2 ^ 40

/-- The bytes of host memory among runs. -/
def hostRuns (l : List (Nat × Nat)) : List (Nat × Nat) := l.filter (fun r => decide (Config.hostBase ≤ r.1))

/-- A read of host memory is requested for a command of the moving context under the lowest free tag number and the key set in use; the host
answers from `due` on (R478, R482). [DESIGN CHOICE, log 62] -/
def State.request (s : State) (src age : Nat) (runs : List (Nat × Nat)) (due : Word) : State :=
  let w := s.bind.world.toNat
  let used (n : Nat) : Bool := s.dev.reqs.any (fun r => r.tag.toNat % 2 ^ 13 = n)
  let n := ((List.range (s.dev.reqs.length + 1)).find? (fun n => !used n)).getD 0
  let tag := BitVec.ofNat 14 (n % 2 ^ 13 + if (s.world w).rx.go then 2 ^ 13 else 0)
  { s with dev := { s.dev with reqs := s.dev.reqs ++ [⟨tag, w, some s.cur, src, age, runs, s.dcc, due, s.dev.holder⟩] } }

/-- The state in which a command waits for bytes of host memory that it reads: it asks for them once, and no more once they have come; none
where it need not wait. [DESIGN CHOICE, log 62] -/
def State.asked (s : State) (src age : Nat) (l : List (Nat × Nat)) : Option State :=
  let runs := hostRuns l
  if runs.isEmpty ∨ s.dev.came.contains ⟨s.cur, src, age, runs⟩ then none
  else if s.dev.reqs.any (fun r => r.key = some s.cur ∧ r.src = src ∧ r.age = age ∧ r.runs = runs) then some s
  else
    let kept := s.dev.came.filter (fun c => !(decide (c.key = s.cur ∧ c.src = src) && c.age ≠ age))
    some ({ s with dev := { s.dev with came := kept } }.request src age runs (s.dcc + 1))

/-- The age of the instruction of a source that is being executed. -/
def State.ageFor (s : State) (src : Nat) : Nat := if src = 6 then s.ageNow else s.iss.age

/-- n bytes read at an offset of a handle by a source of the moving context, all checks of R30 made: PARTITION,
PAGEFAULT, and the stop of an integrity failure; bytes of host memory are waited for (R478). [DESIGN CHOICE, log 8] -/
def State.load (s : State) (src : Nat) (h : Handle) (o n : Nat) (tinfo : Word) : Res' (State × Nat) :=
  match s.resolve h o n false with
  | .denied t => .error (.trap t tPARTITION tinfo)
  | .page t _ => .error (.trap t tPAGEFAULT tinfo)
  | .blocked t _ => .error (.trap t tPAGEFAULT tinfo)
  | .ok t l =>
    match t.badRun l with
    | some ln => .error (.hold (t.integrityStop t.cur h.world.toNat ln))
    | none =>
      match s.asked src (s.ageFor src) l with
      | some u => .error (.hold u)
      | none => .ok (t, readRuns (t.ctx.view src t.mem) l)

/-- The 512 KiB pages of virtual bytes (R267). -/
def pagesOfSegs (l : List Seg) : List Nat :=
  l.flatMap (fun g => if g.n = 0 then [] else (List.range ((g.a + g.n - 1) / 2 ^ 19 - g.a / 2 ^ 19 + 1)).map (· + g.a / 2 ^ 19))

/-- A page of a parked entry of the context (R267). -/
def Ctx.pageParked (c : Ctx) (w : BitVec 8) (l : List Seg) : Bool :=
  c.rq.any (fun p => p.world = w ∧ (pagesOfSegs p.segs).any (fun a => (pagesOfSegs l).contains a))

/-- A read overlaps a byte of a parked write (R268). -/
def Ctx.overParked (c : Ctx) (h : Handle) (o n : Nat) : Bool :=
  h.level ≠ 0 && c.rq.any (fun p => p.world = h.world ∧
    p.segs.any (fun g => g.a < h.base.toNat + o + n ∧ h.base.toNat + o < g.a + g.n))

/-- A read waits: for a parked write of the strand (R268), or for the bytes to be placed (R408). -/
def State.readWaits (s : State) (h : Handle) (o n : Nat) : Bool := s.ctx.overParked h o n || s.unplaced h o n

/-- Several reads of one instruction through a handle, with the checks of `load`, each its bytes. [DEDUCED, log 104] -/
def State.loadMany (s : State) (src : Nat) (h : Handle) (l : List (Nat × Nat)) (tinfo : Word) : Res' (State × List Nat) :=
  match s.resolveMany s.cur h l false with
  | .error (.denied t) => .error (.trap t tPARTITION tinfo)
  | .error (.page t _) | .error (.blocked t _) | .error (.ok t _) => .error (.trap t tPAGEFAULT tinfo)
  | .ok (t, rs) =>
    match t.badRun rs.flatten with
    | some ln => .error (.hold (t.integrityStop t.cur h.world.toNat ln))
    | none =>
      match s.asked src (s.ageFor src) rs.flatten with
      | some u => .error (.hold u)
      | none => let m := t.ctx.view src t.mem; .ok (t, rs.map (readRuns m))

/-- A write of the control stream or the vector engine, posted, or parked where its page faults, blocks writes
or holds an older parked write; held where the replay queue is full (R74, R267). Pieces are offsets with values; `keep` are
the bits that the write leaves as it finds them, `due` the cycle in which it is in place at the earliest. [DESIGN CHOICE, log 8; DEDUCED, log 104] -/
def State.post (s : State) (src age : Nat) (h : Handle) (rngs : List Rng) (pieces : List Seg) (tinfo : Word)
    (keep due : Nat) : Res' State :=
  let vsegs := pieces.map (fun p => { p with a := h.base.toNat + p.a })
  let park (t : State) : Res' State :=
    if t.ctx.rq.length < 64 then
      .ok (t.setCtx { t.ctx with rq := t.ctx.rq ++ [⟨src, age, h.sync, h.world, vsegs, none, false, s.iss.line, s.iss.lane, keep, tinfo, false⟩] })
    else .error (.hold s)
  if h.level ≠ 0 ∧ s.ctx.pageParked h.world vsegs then park s
  else if pieces.any (fun p => s.unplaced h p.a p.n) then .error (.hold s)
  else
    match s.resolveMany s.cur h (pieces.map (fun p => (p.a, p.n))) true with
    | .ok (t, rs) =>
      let l := (rs.zip pieces).flatMap (fun e => cutRuns e.1 e.2.v)
      .ok (t.setCtx { t.ctx with fl := t.ctx.fl ++ [⟨src, age, h.sync, h.world, rngs, due, keep, tinfo, l, [], false, s.iss.line, s.iss.lane⟩] })
    | .error (.denied t) => .error (.trap t tPARTITION tinfo)
    | .error (.page t _) => park t
    | .error (.blocked t _) => park t
    | .error (.ok t _) => .ok t

end Sys2Proof.Machine
end

