-- ==== Sys2Proof/Machine/Spans.lean ====
section
/-! DEFINITION. Where the bytes of an operand lie in its handle: matrix operands (R188), stored signatures (R343), and
the layers of a grid (R317 to R322). -/

namespace Sys2Proof.Machine

/-! ## Matrix operands (R188) -/

/-- The width in bytes of an element (R9, R105). -/
def fbytes : Fmt → Nat
  | .fp16 | .bf16 => 2
  | .fp8e4 | .fp8e5 | .int8 | .nat8 | .g4 | .pl => 1
  | _ => 4
/-- The size of the scale area of n elements (R108). -/
def plArea (n : Nat) : Nat := ceilDiv (n / 64) 64 * 64
/-- PITCH of a handle (R234), or a dense row length. -/
def Handle.pitch (h : Handle) (dense : Nat) : Nat :=
  let p := bits h.geo0.toNat 19 0
  if p = 0 then dense else p
/-- An operand's geometry: memory rows, their bytes and pitch. -/
structure Geo where
  rows : Nat
  len : Nat
  pitch : Nat

/-- The bytes that a geometry spans. -/
def Geo.span (g : Geo) : Nat := (g.rows - 1) * g.pitch + g.len
/-- The geometry of an operand of `nr` logical rows of `ne` elements (R188): its memory rows and pitch. -/
def operandGeo (h : Handle) (f : Fmt) (tr : Bool) (nr ne : Nat) : Geo :=
  let mr := if tr then ne else nr
  let len := if tr then nr else ne
  match f with
  | .pl =>
    let n := 128 * mr
    let span := plArea n + (h.pc.toNat + 1) * (n / 8)
    ⟨1, span, span⟩
  | .g4 => ⟨ne, 80, h.pitch 80⟩
  | _ => ⟨mr, len * fbytes f, h.pitch (len * fbytes f)⟩
/-- The rows that a ROWS field drains (R199). -/
def drainRows (r : BitVec 8) : Nat := if r = 0 then 128 else r.toNat

/-! ## Stored signatures (R343) -/

/-- Rounded up to a multiple of 64. -/
def pad64 (n : Nat) : Nat := (n + 63) / 64 * 64
/-- Where level k starts in a stored signature of elements of w bytes. -/
def sigStart (d w k : Nat) : Nat := 64 + ((List.range (k - 1)).map (fun i => pad64 (w * d ^ (i + 1)))).sum
/-- The size of a stored signature. -/
def sigBytes (d n w : Nat) : Nat := sigStart d w (n + 1)

/-! ## Faces and layout (R318, R319) -/

/-- The faces of used dimensions. -/
def Grid.used (g : Grid) : List Nat := List.range (2 * g.dims)
/-- The state of a face. -/
def Grid.face (g : Grid) (f : Nat) : FaceSt := SMap.get FaceSt.none g.faces f
/-- A face replaced. -/
def Grid.setFace (g : Grid) (f : Nat) (x : FaceSt) : Grid := { g with faces := SMap.set FaceSt.none g.faces f x }
/-- Halo widths by dimension: none in an unused one. -/
def Grid.pad (g : Grid) (d : Nat) : Nat := if d < g.dims then g.w else 0
/-- The extent of a dimension. -/
def Grid.extent (g : Grid) : Nat → Nat
  | 0 => g.nx
  | 1 => g.ny
  | _ => g.nz
/-- Padded extents. -/
def Grid.padded (g : Grid) (d : Nat) : Nat := g.extent d + 2 * g.pad d
/-- The size of the padded block. -/
def Grid.size (g : Grid) : Nat := g.padded 0 * g.padded 1 * g.padded 2 * g.ew

/-- A box of padded coordinates: first and past-the-last coordinate of each dimension. -/
structure Box where
  x0 : Nat
  x1 : Nat
  y0 : Nat
  y1 : Nat
  z0 : Nat
  z1 : Nat
deriving DecidableEq, Repr

/-- The box of a layer of a face (R322): in the face's own dimension from `lo` for W; lower dimensions wholly
padded, higher ones interior. -/
def Grid.layerBox (g : Grid) (f lo : Nat) : Box :=
  let d := f / 2
  let span (e : Nat) : Nat × Nat :=
    if e = d then (lo, lo + g.w)
    else if e < d then (0, g.padded e) else (g.pad e, g.pad e + g.extent e)
  let x := span 0
  let y := span 1
  let z := span 2
  ⟨x.1, x.2, y.1, y.2, z.1, z.2⟩

/-- The interior layer next to a face. -/
def Grid.inner (g : Grid) (f : Nat) : Box := g.layerBox f (if f % 2 = 0 then g.w else g.extent (f / 2))
/-- The ghost layer of a face. -/
def Grid.ghost (g : Grid) (f : Nat) : Box := g.layerBox f (if f % 2 = 0 then 0 else g.w + g.extent (f / 2))

/-- The rows of a box along x, as byte offsets in the record with their length, in the order z, y. -/
def Grid.rows (g : Grid) (b : Box) : List (Nat × Nat) :=
  (List.range (b.z1 - b.z0)).flatMap (fun z => (List.range (b.y1 - b.y0)).map (fun y =>
    (g.ew * (((b.z0 + z) * g.padded 1 + (b.y0 + y)) * g.padded 0 + b.x0), (b.x1 - b.x0) * g.ew)))

end Sys2Proof.Machine
end

