-- ==== Sys2Proof/Machine/Ranges.lean ====
section
/-! DEFINITION. The range checker (R75, R137, R138, R379): what a queued or issued command and a scalar access
touch, and what an older item still holds. -/

namespace Sys2Proof.Machine

/-- Blocks of bytes lo to hi of a handle in the context's own cistern (R138, R240). -/
def State.blocks (s : State) (h : Handle) (lo hi : Int) (w : Bool) : List Rng :=
  if s.isOwn h then
    let l := lo.toNat
    let m := Nat.min hi.toNat (h.len.toNat - 1)
    if m < l ∨ hi < 0 then []
    else
      let u := h.base.toNat % 2 ^ 23
      if h.geo0.toNat / 2 ^ 62 = 0 then [⟨.blk, (u + l) / 64, (u + m) / 64, w⟩]
      else [⟨.blk, (u + l) / 2048 * 32, (u + m) / 2048 * 32 + 31, w⟩]
  else []

/-- Every block of a captured handle. -/
def State.wholeOf (s : State) (c : Cap) (h : BitVec 6) (w : Bool) : List Rng :=
  match SMap.get none c.h h.toNat with
  | some r => s.blocks r 0 ((r.len.toNat : Int) - 1) w
  | none => []

/-- n bytes at an offset of a captured handle. -/
def State.spanOf (s : State) (c : Cap) (h : BitVec 6) (o : Int) (n : Nat) (w : Bool) : List Rng :=
  match SMap.get none c.h h.toNat with
  | some r => s.blocks r o (o + n - 1) w
  | none => []

/-- The bytes a vector load or store may touch (R174, R178). [DESIGN CHOICE, log 22] -/
def vspan (f : Fmt) (p : Nat) : Nat := if f = .pl then 64 + 256 * p else 8192

/-- The span of a copy's rows (R299). [DESIGN CHOICE, log 22] -/
def copySpan (rows pitch n : Nat) : Nat := (rows - 1) * pitch + n

/-- The byte count of a PC command. -/
def Cap.count (c : Cap) (o : POp) : Nat := if o.ni then o.nimm.toNat else (c.sc o.n).toNat

/-- Bytes from an offset of a captured handle to its end. -/
def State.tailOf (s : State) (c : Cap) (h : BitVec 6) (o : Int) (w : Bool) : List Rng :=
  match SMap.get none c.h h.toNat with
  | some r => s.blocks r o ((r.len.toNat : Int) - 1) w
  | none => []

/-- The rows of a two-dimensional copy at one side, from the first to the last byte (R299). -/
def State.rowsOf (s : State) (c : Cap) (h : BitVec 6) (o : Int) (rows n : Nat) (w : Bool) : List Rng :=
  match SMap.get none c.h h.toNat with
  | some r => s.blocks r o (o + copySpan rows (r.pitch n) n - 1) w
  | none => []

/-- A matrix operand in memory: its tile as the dimensions stand now (R187, R188). -/
def State.tileOf (s : State) (c : Cap) (o : MHOp) (f : Fmt) (nr ne : Nat) : List Rng :=
  match SMap.get none c.h o.h.toNat with
  | some r =>
    let off := (c.sc o.s).toInt + o.i.toInt * 64
    s.blocks r off (off + (operandGeo r f o.tr nr ne).span - 1) false
  | none => []

/-- The rows that MDRAINC and, in format PL, MDRAINP write (R201, R202). -/
def State.drainOf (s : State) (c : Cap) (o : MDOp) (f : Fmt) : List Rng :=
  match SMap.get none c.h o.h.toNat with
  | some r =>
    let off := (c.sc o.s).toInt + o.i.toInt * 64
    let n := drainRows o.rows
    let len := s.ctx.mat.tn * fbytes f
    let span := if f = .pl then plArea (128 * n) + (r.pc.toNat + 1) * (16 * n) else (n - 1) * r.pitch len + len
    s.blocks r off (off + span - 1) true
  | none => []

/-- The rows of layers of a grid's record. [DESIGN CHOICE, log 22] -/
def State.layersOf (s : State) (g : Grid) (l : List Box) (w : Bool) : List Rng :=
  l.flatMap (fun b => (g.rows b).flatMap (fun r => s.blocks g.hd r.1 ((r.1 : Int) + r.2 - 1) w))

/-- What a group entry gives (R467). -/
structure GroupEnt where
  count : Nat
  rank : Nat
  list : BitVec 6
deriving DecidableEq, Repr

/-- A group entry of the moving context's command store, where its fixed fields are valid. [DEDUCED, log 31] -/
def State.groupEnt (s : State) (g : BitVec 8) : Option GroupEnt :=
  let a := Config.cmdBase + s.cur * 2 ^ 16 + 0xE000 + 16 * g.toNat
  let v := s.mem.read a 16
  let count := v % 65536
  let rank := v / 65536 % 65536
  let list := v / 2 ^ 32 % 256
  if count < 2 ∨ 1024 < count ∨ count ≤ rank ∨ 64 ≤ list ∨ v / 2 ^ 40 ≠ 0 then none
  else some ⟨count, rank, BitVec.ofNat 6 list⟩

/-- The group record that a group collective reads as it issues (R467). -/
def State.groupRec (s : State) (g : BitVec 8) (whole : Bool) : List Rng :=
  match s.groupEnt g with
  | some e => (match s.slot e.list with
    | some h => s.blocks h 0 (if whole then (h.len.toNat : Int) - 1 else 8 * e.count - 1) false
    | none => [])
  | none => []

/-- The last command older than another that is queued in the same engine and satisfies a test. -/
def Ctx.lastOlder (c : Ctx) (e : Engine) (age : Nat) (p : Cap → Bool) : Option Cap :=
  (c.engAt e).q.foldl
    (fun (l : Option Cap) i => match i with
      | .instr d _ => if d.age < age ∧ p d then some d else l
      | _ => l) none

/-- The grid's record that a queued exchange will use: an older declaration still queued comes first. -/
def State.gridRec (s : State) (age : Nat) (g : BitVec 4) : Option Handle :=
  match s.ctx.lastOlder .halo age (fun d => match d.instr with | .gdecl g' _ _ => g' = g | _ => false) with
  | some d => (match d.instr with | .gdecl _ h _ => SMap.get none d.h h.toNat | _ => none)
  | none => (SMap.get none s.ctx.grids g.toNat).map (·.hd)

/-- The place that a queued tile will be read from (R462): an older entry of the tile table still queued comes first. -/
def State.tileRec (s : State) (age ti : Nat) : Option (Handle × Int) :=
  match s.ctx.lastOlder .fabric age (fun d => match d.instr with | .xtile t _ _ _ _ _ => (d.sc t).toNat = ti | _ => false) with
  | some d =>
    (match d.instr with
      | .xtile _ h _ _ a _ => (SMap.get none d.h h.toNat).map (fun r => (r, (d.sc a).toInt))
      | _ => none)
  | none => (SMap.get none s.ctx.fab.tiles ti).map (fun t => (t.hd, (t.off : Int)))

/-- The bytes that a participant reads and writes (R468). -/
def collSpans (op : CollOp) (n count rank : Nat) : Nat × Nat :=
  match op with
  | .ar => (n, n)
  | .ag => (n, count * n)
  | .rs => (n, n / count)
  | .a2a => (n, n)
  | .bc => (if rank = 0 then n else 0, n)

/-- The bytes of a PL tensor of n elements with k planes (R108). -/
def plBytes (n k : Nat) : Nat := plArea n + k * (n / 8)

/-- Local bytes that a fabric command reads or writes: the record, the offset of the first, how many, and whether it writes. -/
structure Touch where
  h : Handle
  o : Int
  n : Nat
  w : Bool

/-- The local bytes that a fabric command reads and writes through its captured records (R138, R139). [DESIGN CHOICE, log 22] -/
def State.touches (s : State) (c : Cap) : List Touch :=
  let one (h : BitVec 6) (o : Int) (n : Handle → Nat) (w : Bool) : List Touch :=
    match SMap.get none c.h h.toNat with
    | some r => [⟨r, o, n r, w⟩]
    | none => []
  let off (a : BitVec 5) : Int := (c.sc a).toInt
  let all (r : Handle) : Nat := r.len.toNat
  match c.instr with
  | .xput o => one o.hs (off o.os) (fun _ => (c.sc o.n).toNat) false
  | .xget o => one o.hd (off o.od) (fun _ => (c.sc o.n).toNat) true
  | .xring _ _ h a b _ _ _ _ => one h (off a) (fun _ => (c.sc b).toNat) true
  | .xcoll op o =>
    match s.groupEnt o.grp with
    | some g =>
      let (rd, wr) := collSpans op (c.sc o.n).toNat g.count g.rank
      one o.hs 0 (fun _ => rd) false ++ one o.hr 0 (fun _ => wr) true
    | none => []
  | .xready t _ =>
    match s.tileRec c.age (c.sc t).toNat with
    | some (r, o) => [⟨r, o, 4096, false⟩]
    | none => []
  | .xcomp hs hr k _ _ _ => one hs 0 all false ++ one hs 0 (fun r => plBytes (r.len.toNat / 4) (k.toNat + 1)) true ++ one hr 0 all true
  | .xresid hs hr _ _ _ => one hs 0 all true ++ one hr 0 all true
  | .xrecv h _ _ _ _ => one h 0 all true
  | .xsend h _ _ _ _ | .xsched _ h _ _ | .xport _ h _ _ _ => one h 0 all false
  | _ => []

/-- Two records reach some of the same bytes, n of them from an offset of the first and m from one of the second. -/
def meetAt (a : Handle) (o : Int) (n : Nat) (b : Handle) (p : Int) (m : Nat) : Bool :=
  let x : Int := a.base.toNat + o
  let y : Int := b.base.toNat + p
  decide (a.level = 0 ↔ b.level = 0) && a.world = b.world && decide (x < y + m ∧ y < x + n)

/-- Two accesses touch a byte in common, and one of them writes it. -/
def Touch.clash (a b : Touch) : Bool := (a.w || b.w) && meetAt a.h a.o a.n b.h b.o b.n

/-- The own-cistern blocks of a fabric command's local bytes. -/
def State.touched (s : State) (c : Cap) : List Rng :=
  (s.touches c).flatMap (fun t => s.blocks t.h t.o (t.o + t.n - 1) t.w)

/-- The own-cistern blocks that a command touches, computed from the state as it stands: every block from the first to the
last byte that it may touch (R138). [DESIGN CHOICE, log 22] -/
def State.memRanges (s : State) (c : Cap) : List Rng :=
  let off (a : BitVec 5) : Int := (c.sc a).toInt
  let pcs (h : BitVec 6) : Nat := match SMap.get none c.h h.toNat with | some r => r.pc.toNat + 1 | none => 1
  let m := s.ctx.mat
  let sg := s.ctx.sig
  match c.instr with
  | .vld f o => s.spanOf c o.h (off o.a + o.i.toInt) (vspan f (pcs o.h)) false
  | .vst f o => s.spanOf c o.h (off o.a + o.i.toInt) (vspan f (pcs o.h)) true
  | .vgather _ o => s.wholeOf c o.h false
  | .vscatter _ o => s.wholeOf c o.h true
  | .mldw f o => s.tileOf c o f m.tk m.tn
  | .mldg o => s.tileOf c o .fp32 m.tk m.tn
  | .mmul f _ o => s.tileOf c o f m.tm m.tk
  | .mldacc _ o => s.tileOf c o .fp32 m.tm m.tn
  | .mpre o => s.spanOf c o.h (off o.s + o.i.toInt * 64) 65536 false
  | .mdrainc f _ o => s.drainOf c o f
  | .mdrainp _ o => s.drainOf c o .pl
  | .pcopy _ o =>
    s.spanOf c o.hd (off o.od) (c.count o) true ++ s.spanOf c o.hs (off o.os) (c.count o) false
  | .pcopy2d _ rows o =>
    s.rowsOf c o.hd (off o.od) rows.toNat (c.count o) true ++ s.rowsOf c o.hs (off o.os) rows.toNat (c.count o) false
  | .pcopyd _ o => s.spanOf c o.hd (off o.od) (c.count o) true ++ s.tailOf c o.hs (off o.os) false
  | .pcopyhIn o => s.spanOf c o.hd (off o.od) (c.count o) true
  | .pcopyhOut o => s.spanOf c o.hs (off o.os) (c.count o) false
  | .pover o | .pcmd o => s.spanOf c o.hs (off o.os) (c.count o) false
  | .pfill o | .ptagset o => s.spanOf c o.hd (off o.od) (c.count o) true
  | .ptagchk o => s.spanOf c o.hs (off o.os) (c.count o) false
  | .ptab h _ _ => s.spanOf c h 0 256 false
  | .gxchg g _ =>
    match SMap.get none s.ctx.grids g.toNat with
    | some r => s.layersOf r (r.used.map r.ghost) true ++ s.layersOf r (r.used.map r.inner) false
    | none => []
  | .gld f o => s.spanOf c o.h (off o.a + o.i.toInt * 64) (vspan f 1) false
  | .gst f o => s.spanOf c o.h (off o.a + o.i.toInt * 64) (vspan f 1) true
  | .sigincb f h a b _ => s.spanOf c h (off a) ((c.sc b).toNat * sg.dim * fbytes f) false
  | .sigjoin _ h a _ | .sigld h a _ => s.spanOf c h (off a) (sigBytes sg.dim sg.depth 4) false
  | .sigst f h a _ => s.spanOf c h (off a) (sigBytes sg.dim sg.depth (fbytes f)) true
  | .xcoll _ o => s.groupRec o.grp false ++ s.touched c
  | _ => s.touched c

/-- What a command queued behind the head presents where its range depends on state that it reads as it issues: every
block of each handle it names, or of its grid's record, an older declaration still queued coming first (R138). [DESIGN CHOICE, log 22] -/
def State.queuedMem (s : State) (c : Cap) : List Rng :=
  match c.instr with
  | .mldw _ o | .mldg o | .mmul _ _ o | .mldacc _ o | .mpre o => s.wholeOf c o.h false
  | .mdrainc _ _ o | .mdrainp _ o => s.wholeOf c o.h true
  | .sigincb _ h _ _ _ => s.wholeOf c h false
  | .sigjoin _ h _ _ | .sigld h _ _ => s.wholeOf c h false
  | .sigst _ h _ _ => s.wholeOf c h true
  | .gxchg g _ => (match s.gridRec c.age g with | some h => s.blocks h 0 ((h.len.toNat : Int) - 1) true | none => [])
  | .xcoll _ o => s.groupRec o.grp true ++ s.wholeOf c o.hs false ++ s.wholeOf c o.hr true
  | _ => s.memRanges c

/-- The registers, masks and accumulators that a command names (R138). -/
def Cap.regRanges (c : Cap) : List Rng :=
  let u := uses c.instr
  let vs (l : List VR) (w : Bool) : List Rng :=
    l.filterMap (fun x => match x with | .v n => some ⟨.v, n.toNat, n.toNat, w⟩ | _ => none)
  vs u.rd false ++ vs u.wr true
    ++ u.kr.map (fun k => ⟨.k, k.toNat, k.toNat, false⟩) ++ u.kw.map (fun k => ⟨.k, k.toNat, k.toNat, true⟩)
    ++ u.ar.map (fun a => ⟨.acc, a.toNat, a.toNat, false⟩) ++ u.aw.map (fun a => ⟨.acc, a.toNat, a.toNat, true⟩)

/-- Everything that a command at the head of its queue, or one that has issued, touches (R138). [DESIGN CHOICE, log 22] -/
def State.ranges (s : State) (c : Cap) : List Rng := c.regRanges ++ s.memRanges c

/-- Everything that a command behind the head presents (R138). -/
def State.queuedRanges (s : State) (c : Cap) : List Rng := c.regRanges ++ s.queuedMem c

/-- Two ranges overlap and at least one writes. [DESIGN CHOICE, log 22] -/
def Rng.clash (a b : Rng) : Bool := a.r = b.r && decide (a.lo ≤ b.hi ∧ b.lo ≤ a.hi) && (a.w || b.w)
/-- Two lists of ranges clash. -/
def clashes (l m : List Rng) : Bool := l.any (fun a => m.any (fun b => a.clash b))

/-- The commands of an engine that are still queued, with the ages at which they are still to execute and are
older than a given age: queued entries, the rest of a loop's repeats (R129); each with whether it is the head and nothing
else of it is older. -/
def Eng.olderThan (e : Eng) (age : Nat) : List (Cap × Bool) :=
  let queued := (e.slots.filter (fun c => decide (c.age < age))).map (fun c => (c, true)) ++ e.q.zipIdx.filterMap (fun (i, n) =>
    match i with | .instr c _ => if c.age < age then some (c, n == 0) else none | _ => none)
  match e.loop with
  | none => queued
  | some l =>
    let inside := (e.q.takeWhile (fun i => match i with | .endMark _ => false | _ => true)).filterMap (fun i => match i with | .instr c false => some c | _ => none)
    let endAge := if l.exec = 0
      then e.q.findSome? (fun i => match i with | .endMark a => some a | _ => none) else some l.endAge
    match endAge with
    | none => queued
    | some ea =>
      let body := if l.exec = 0 then l.body ++ inside else l.body
      let older (c : Cap) (r : Nat) : Bool := decide (r < l.n ∧ { l with endAge := ea }.repeatAge r c < age)
      queued ++ body.zipIdx.filterMap (fun (c, i) =>
        let next := if l.exec = 0 then 1 else if i < l.pos then l.exec + 1 else l.exec
        if older c next then some (c, decide (l.exec ≠ 0 ∧ i = l.pos) && !older c (next + 1)) else none)

/-- Whether a pump command older than a load with a tag check is left out of its hold (R292). -/
def skipsPump (i : Instr) : Bool := match i with | .vld _ o => o.tag.isSome | _ => false

/-- The pump commands that the range checker counts in a cycle: buffered, in flight, and those that have left of late (R412). -/
def Pump.counted (p : Pump) (now : Nat) : List PCmd :=
  p.buf ++ p.fly ++ (p.ended.filter (fun e => decide (now ≤ e.2))).map (·.1)

/-- The range checker holds a command of an engine, or a scalar access where none is named, which no scalar access holds (R75, R76,
R137). -/
def State.rangeHeld (s : State) (e : Option Engine) (age : Nat) (rngs : List Rng) (skipPump : Bool) : Bool :=
  let c := s.ctx
  Config.engines.any (fun x =>
    if some x = e ∨ (skipPump ∧ x = .pump) then false
    else
      (c.engAt x).olderThan age |>.any (fun d => clashes (if d.2 then s.ranges d.1 else s.queuedRanges d.1) rngs))
  || c.fl.any (fun f => decide (f.age < age) && ((e.map Config.engIdx).getD 6 ≠ f.src) && clashes f.rngs rngs)
  || (if e = some .pump ∨ skipPump then false
      else (c.pump.counted s.dcc.toNat).any (fun p => decide (p.cap.age < age) && clashes (s.ranges p.cap) rngs))

/-- A command still queued or in flight names one of the registers or accumulators given (R144, R145). -/
def State.namedInUse (s : State) (rngs : List Rng) : Bool :=
  let c := s.ctx
  let all := rngs.map (fun r => { r with w := true })
  Config.engines.any (fun x =>
    let e := c.engAt x
    let q := e.q.filterMap (fun i => match i with | .instr d _ => some d | _ => none)
    let b := match e.loop with | some l => l.body | none => []
    (e.slots ++ q ++ b).any (fun d => clashes d.regRanges all))
  || c.fab.cmds.any (fun x => clashes x.cap.regRanges all)
  || c.fl.any (fun f => f.src < 6 && clashes f.rngs all)

end Sys2Proof.Machine
end

