-- ==== Sys2Proof/Machine/Scalar.lean ====
section
/-! DEFINITION. Integer and bit arithmetic, compares, predicate logic, handles, branches, calls and returns of the
control stream (R67 to R72, R77 to R85). -/

namespace Sys2Proof.Machine

/-- A CR form: s[D] := f a b (R67). -/
def alu2 (f : Word → Word → Word) (d a b : BitVec 5) (s : State) : Ans :=
  controlOp (.ok (s.setS d (f (s.getS a) (s.getS b))))
/-- A CR form that occupies the control stream for n cycles (R67, R98). -/
def aluN (n : Nat) (f : Word → Word → Word) (d a b : BitVec 5) (s : State) : Ans :=
  controlOp (.ok (((s.setS d (f (s.getS a) (s.getS b))).occupy n).lateAs s d none))
/-- A CI form with its sign-extended immediate (R69). -/
def aluI (f : Word → Word → Word) (d a : BitVec 5) (i : BitVec 11) (s : State) : Ans :=
  controlOp (.ok (s.setS d (f (s.getS a) (i.signExtend 64))))
/-- A compare of two scalars (R71). -/
def cmp2 (f : Word → Word → Bool) (p : BitVec 3) (a b : BitVec 5) (s : State) : Ans :=
  controlOp (.ok (s.setP p (f (s.getS a) (s.getS b))))
/-- A compare with a sign-extended immediate (R71). -/
def cmpI (f : Word → Word → Bool) (p : BitVec 3) (a : BitVec 5) (i : BitVec 13) (s : State) : Ans :=
  controlOp (.ok (s.setP p (f (s.getS a) (i.signExtend 64))))
/-- A predicate form (R72). -/
def logicP (f : Bool → Bool → Bool) (d a b : BitVec 3) (s : State) : Ans :=
  controlOp (.ok (s.setP d (f (s.ctx.ctl.getP a) (s.ctx.ctl.getP b))))

/-- Bits 127:64 of the signed product (R67). -/
def mulHigh (a b : Word) : Word := BitVec.ofInt 64 (a.toInt * b.toInt / (2 : Int) ^ 64)
/-- Signed division truncated toward zero (R67). -/
def divS (a b : Word) : Word := if b = 0 then BitVec.allOnes 64 else BitVec.ofInt 64 (a.toInt.tdiv b.toInt)
/-- Unsigned division (R67). -/
def divU (a b : Word) : Word := if b = 0 then BitVec.allOnes 64 else BitVec.ofNat 64 (a.toNat / b.toNat)
/-- Signed remainder (R67). -/
def remS (a b : Word) : Word := if b = 0 then a else BitVec.ofInt 64 (a.toInt.tmod b.toInt)
/-- The shift count b[5:0] (R67). -/
def shamt (b : Word) : Nat := b.toNat % 64
/-- Shift left. -/
def shl (a b : Word) : Word := a <<< shamt b
/-- Shift right, zeros shifted in. -/
def shrL (a b : Word) : Word := a >>> shamt b
/-- Shift right, copies of bit 63 shifted in. -/
def shrA (a b : Word) : Word := a.sshiftRight (shamt b)
/-- The smaller as signed numbers. -/
def minS (a b : Word) : Word := if a.toInt ≤ b.toInt then a else b
/-- The larger as signed numbers. -/
def maxS (a b : Word) : Word := if a.toInt ≤ b.toInt then b else a
/-- Leading zero bits (R68). -/
def clzW (a : Word) : Word := BitVec.ofNat 64 (if a = 0 then 64 else 63 - Nat.log2 a.toNat)
/-- One bits (R68). -/
def popcW (a : Word) : Word := BitVec.ofNat 64 ((List.range 64).countP (fun i => a.getLsbD i))

/-- Signed a < b. -/
def ltS (a b : Word) : Bool := decide (a.toInt < b.toInt)
/-- Signed a ≤ b. -/
def leS (a b : Word) : Bool := decide (a.toInt ≤ b.toInt)
/-- Unsigned a < b. -/
def ltU (a b : Word) : Bool := decide (a.toNat < b.toNat)
/-- Unsigned a ≤ b. -/
def leU (a b : Word) : Bool := decide (a.toNat ≤ b.toNat)

/-- ADD (R67). -/
def execAdd (d a b : BitVec 5) (s : State) : Ans := alu2 (· + ·) d a b s
/-- SUB (R67). -/
def execSub (d a b : BitVec 5) (s : State) : Ans := alu2 (· - ·) d a b s
/-- MUL (R67). -/
def execMul (d a b : BitVec 5) (s : State) : Ans := aluN 3 (· * ·) d a b s
/-- MULH (R67). -/
def execMulh (d a b : BitVec 5) (s : State) : Ans := aluN 4 mulHigh d a b s
/-- DIV (R67). -/
def execDiv (d a b : BitVec 5) (s : State) : Ans := aluN 34 divS d a b s
/-- DIVU (R67). -/
def execDivu (d a b : BitVec 5) (s : State) : Ans := aluN 34 divU d a b s
/-- REM (R67). -/
def execRem (d a b : BitVec 5) (s : State) : Ans := aluN 34 remS d a b s
/-- AND (R67). -/
def execAnd (d a b : BitVec 5) (s : State) : Ans := alu2 (· &&& ·) d a b s
/-- OR (R67). -/
def execOr (d a b : BitVec 5) (s : State) : Ans := alu2 (· ||| ·) d a b s
/-- XOR (R67). -/
def execXor (d a b : BitVec 5) (s : State) : Ans := alu2 (· ^^^ ·) d a b s
/-- SLL (R67). -/
def execSll (d a b : BitVec 5) (s : State) : Ans := alu2 shl d a b s
/-- SRL (R67). -/
def execSrl (d a b : BitVec 5) (s : State) : Ans := alu2 shrL d a b s
/-- SRA (R67). -/
def execSra (d a b : BitVec 5) (s : State) : Ans := alu2 shrA d a b s
/-- MIN (R67). -/
def execMin (d a b : BitVec 5) (s : State) : Ans := alu2 minS d a b s
/-- MAX (R67). -/
def execMax (d a b : BitVec 5) (s : State) : Ans := alu2 maxS d a b s
/-- CLZ (R68). -/
def execClz (d a : BitVec 5) (s : State) : Ans := controlOp (.ok (s.setS d (clzW (s.getS a))))
/-- POPC (R68). -/
def execPopc (d a : BitVec 5) (s : State) : Ans := controlOp (.ok (s.setS d (popcW (s.getS a))))
/-- ADDI (R69). -/
def execAddi (d a : BitVec 5) (i : BitVec 11) (s : State) : Ans := aluI (· + ·) d a i s
/-- SUBI (R69). -/
def execSubi (d a : BitVec 5) (i : BitVec 11) (s : State) : Ans := aluI (· - ·) d a i s
/-- ANDI (R69). -/
def execAndi (d a : BitVec 5) (i : BitVec 11) (s : State) : Ans := aluI (· &&& ·) d a i s
/-- ORI (R69). -/
def execOri (d a : BitVec 5) (i : BitVec 11) (s : State) : Ans := aluI (· ||| ·) d a i s
/-- XORI (R69). -/
def execXori (d a : BitVec 5) (i : BitVec 11) (s : State) : Ans := aluI (· ^^^ ·) d a i s
/-- SLLI (R69); a count above 63 is refused by fetch. -/
def execSlli (d a : BitVec 5) (i : BitVec 11) (s : State) : Ans := aluI shl d a i s
/-- SRLI (R69). -/
def execSrli (d a : BitVec 5) (i : BitVec 11) (s : State) : Ans := aluI shrL d a i s
/-- SRAI (R69). -/
def execSrai (d a : BitVec 5) (i : BitVec 11) (s : State) : Ans := aluI shrA d a i s
/-- LI, one lane: sign-extended (R70). -/
def execLi (d : BitVec 5) (i : BitVec 16) (s : State) : Ans := controlOp (.ok (s.setS d (i.signExtend 64)))
/-- LI, three lanes (R70). -/
def execLiLong (d : BitVec 5) (i : BitVec 64) (s : State) : Ans := controlOp (.ok (s.setS d i))
/-- CMPEQ (R71). -/
def execCmpeq (p : BitVec 3) (a b : BitVec 5) (s : State) : Ans := cmp2 (· == ·) p a b s
/-- CMPNE (R71). -/
def execCmpne (p : BitVec 3) (a b : BitVec 5) (s : State) : Ans := cmp2 (· != ·) p a b s
/-- CMPLT (R71). -/
def execCmplt (p : BitVec 3) (a b : BitVec 5) (s : State) : Ans := cmp2 ltS p a b s
/-- CMPLE (R71). -/
def execCmple (p : BitVec 3) (a b : BitVec 5) (s : State) : Ans := cmp2 leS p a b s
/-- CMPLTU (R71). -/
def execCmpltu (p : BitVec 3) (a b : BitVec 5) (s : State) : Ans := cmp2 ltU p a b s
/-- CMPLEU (R71). -/
def execCmpleu (p : BitVec 3) (a b : BitVec 5) (s : State) : Ans := cmp2 leU p a b s
/-- CMPEQ with an immediate (R71). -/
def execCmpeqImm (p : BitVec 3) (a : BitVec 5) (i : BitVec 13) (s : State) : Ans := cmpI (· == ·) p a i s
/-- CMPNE with an immediate (R71). -/
def execCmpneImm (p : BitVec 3) (a : BitVec 5) (i : BitVec 13) (s : State) : Ans := cmpI (· != ·) p a i s
/-- CMPLT with an immediate (R71). -/
def execCmpltImm (p : BitVec 3) (a : BitVec 5) (i : BitVec 13) (s : State) : Ans := cmpI ltS p a i s
/-- CMPLE with an immediate (R71). -/
def execCmpleImm (p : BitVec 3) (a : BitVec 5) (i : BitVec 13) (s : State) : Ans := cmpI leS p a i s
/-- CMPLTU with an immediate (R71). -/
def execCmpltuImm (p : BitVec 3) (a : BitVec 5) (i : BitVec 13) (s : State) : Ans := cmpI ltU p a i s
/-- CMPLEU with an immediate (R71). -/
def execCmpleuImm (p : BitVec 3) (a : BitVec 5) (i : BitVec 13) (s : State) : Ans := cmpI leU p a i s
/-- ANDP (R72). -/
def execAndp (d a b : BitVec 3) (s : State) : Ans := logicP (· && ·) d a b s
/-- ORP (R72). -/
def execOrp (d a b : BitVec 3) (s : State) : Ans := logicP (· || ·) d a b s
/-- XORP (R72). -/
def execXorp (d a b : BitVec 3) (s : State) : Ans := logicP (· != ·) d a b s
/-- NOTP (R72). -/
def execNotp (d a : BitVec 3) (s : State) : Ans := controlOp (.ok (s.setP d (!s.ctx.ctl.getP a)))

/-! ## Handles -/

/-- One property of a handle (R77); 0 of an empty or revoked slot. -/
def hqValue (h : Option Handle) (sel : Nat) : Word :=
  match h with
  | none => 0
  | some r =>
    match sel with
    | 0 => r.len.setWidth 64
    | 1 => r.rights.setWidth 64
    | 2 => word (Config.fmtCode r.fmt + r.pc.toNat * 16)
    | 3 => r.geo0
    | 4 => r.geo1
    | 5 => match r.sync with | some n => word (64 + n.toNat) | none => 0
    | _ => r.gen.setWidth 64

/-- HQ (R77). -/
def execHq (d : BitVec 5) (h : BitVec 6) (sel : BitVec 4) (s : State) : Ans :=
  controlOp (.ok (s.setS d (hqValue (s.slot h) sel.toNat)))

/-- A handle slot written (R78). -/
def State.setSlot (s : State) (h : BitVec 6) (r : Option Handle) : State :=
  s.ctl (fun c => { c with h := SMap.set none c.h h.toNat r })

/-- A derived copy: base advanced, length and rights given, ORIGIN set, resealed (R78, R392, R393). -/
def State.derive (s : State) (src : Handle) (off len : Nat) (rights : BitVec 8) : Handle :=
  s.sealed { src with
    base := BitVec.ofNat 57 (src.base.toNat + off), len := BitVec.ofNat 48 len, rights := rights
    w6 := src.w6 ||| 1 }

/-- The checks of hderive and hoff up to the length (R78); TINFO is off (R363). -/
def State.deriveFrom (s : State) (ha : BitVec 6) (off : Word) : Res' Handle :=
  match s.slot ha with
  | none => .error (.trap s tNOHANDLE off)
  | some r => if r.has rDV then .ok r else .error (.trap s tRIGHTS off)

/-- The effect of HDERIVE (R78). -/
def hderive (hd ha : BitVec 6) (off len : Word) (keep : BitVec 5) (s : State) : Res' State :=
  match s.deriveFrom ha off with
  | .error e => .error e
  | .ok r =>
    if len = 0 ∨ r.len.toNat < off.toNat + len.toNat then .error (.trap s tBOUNDS off)
    else if off.toNat % 32 ≠ 0 then .error (.trap s tMISALIGN off)
    else .ok ((s.setSlot hd (some (s.derive r off.toNat len.toNat (r.rights &&& keep.setWidth 8)))).occupy 4)

/-- HDERIVE (R78); HD = 0 is refused by fetch (R19). -/
def execHderive (hd ha : BitVec 6) (a b keep : BitVec 5) (s : State) : Ans :=
  controlOp (hderive hd ha (s.getS a) (s.getS b) keep s)

/-- The effect of HOFF (R79). -/
def hoff (hd ha : BitVec 6) (off : Word) (s : State) : Res' State :=
  match s.deriveFrom ha off with
  | .error e => .error e
  | .ok r =>
    if r.len.toNat ≤ off.toNat then .error (.trap s tBOUNDS off)
    else if off.toNat % 32 ≠ 0 then .error (.trap s tMISALIGN off)
    else .ok ((s.setSlot hd (some (s.derive r off.toNat (r.len.toNat - off.toNat) r.rights))).occupy 2)

/-- HOFF (R79). -/
def execHoff (hd ha : BitVec 6) (a : BitVec 5) (s : State) : Ans := controlOp (hoff hd ha (s.getS a) s)

/-- HCLEAR (R80). -/
def execHclear (hd : BitVec 6) (s : State) : Ans := controlOp (.ok (s.setSlot hd none))

/-! ## Branches, calls and returns -/

/-- A branch taken or not (R83). -/
def branchIf (taken : Bool) (line : BitVec 13) (s : State) : Ans :=
  controlOp (.ok (if taken then s.jump (32 * line.toNat) else s))

/-- B (R83). -/
def execB (line : BitVec 13) (s : State) : Ans := branchIf true line s
/-- BC (R83). -/
def execBc (p : BitVec 3) (line : BitVec 13) (s : State) : Ans := branchIf (s.ctx.ctl.getP p) line s
/-- BCN (R83). -/
def execBcn (p : BitVec 3) (line : BitVec 13) (s : State) : Ans := branchIf (!s.ctx.ctl.getP p) line s

/-- The link a call writes: the next line (R83, R84). -/
def State.link (s : State) : Word := word (s.ctx.ctl.line + 32)

/-- CALL (R83). -/
def execCall (d : BitVec 5) (line : BitVec 13) (s : State) : Ans :=
  controlOp (.ok ((s.setS d s.link).jump (32 * line.toNat)))

/-- A transfer to the line offset in a scalar (R84). -/
def jumpTo (t : Word) (s u : State) : Res' State :=
  if t.toNat % 32 ≠ 0 then .error (.trap s tMISALIGN t)
  else if 2 ^ 18 ≤ t.toNat then .error (.trap s tFETCHBOUND t)
  else .ok (u.jump t.toNat)

/-- CALLR (R84). -/
def execCallr (d a : BitVec 5) (s : State) : Ans := controlOp (jumpTo (s.getS a) s (s.setS d s.link))
/-- RET (R84). -/
def execRet (a : BitVec 5) (s : State) : Ans := controlOp (jumpTo (s.getS a) s s)

end Sys2Proof.Machine
end

