-- ==== Sys2Proof/Machine/Memory.lean ====
section
/-! DEFINITION. Scalar loads and stores (R73 to R76), atomics (R277), and the writes a release waits for
(R256, R259, R271, R275). -/

namespace Sys2Proof.Machine

/-- An offset as TINFO shows it. -/
def offW (o : Int) : Word := BitVec.ofInt 64 o

/-- The checks of R30 in order; aligned accesses of 2, 4 and 8 bytes. [DESIGN CHOICE, log 9] -/
def checkR30 (s : State) (h : Option Handle) (right : Nat) (o : Int) (n : Nat) : Res' Handle :=
  match h with
  | none => .error (.trap s tNOHANDLE (offW o))
  | some r =>
    if !r.has right then .error (.trap s tRIGHTS (offW o))
    else if o < 0 ∨ (r.len.toNat : Int) < o + n then .error (.trap s tBOUNDS (offW o))
    else if o % n ≠ 0 then .error (.trap s tMISALIGN (offW o))
    else .ok r

/-- A scalar access waits: for older overlapping engine commands (R75), for a parked write it reads (R268), or
for room among the items in flight (R379). -/
def scalarHeld (s : State) (h : Handle) (o n : Nat) (write : Bool) : Bool :=
  s.rangeHeld none s.ageNow (s.blocks h o ((o : Int) + n - 1) write) false
    || (if write then s.unplaced h o n else s.readWaits h o n) || decide (128 ≤ s.ctx.fl.length + s.ctx.pump.fly.length)

/-- A loaded value: the low bits, extended by sign or by zeros (R73). -/
def extend (n : Nat) (sx : Bool) (v : Nat) : Word :=
  if sx then (BitVec.ofNat (8 * n) v).signExtend 64 else (BitVec.ofNat (8 * n) v).setWidth 64

/-- The cycles of a scalar access by the path to its level (R98, R279): those of a cistern are stated, that of HBM is
called typical, and no number is given for host memory. [DEDUCED, log 7] -/
def State.pathCycles (s : State) (h : Handle) (cisterns : List Nat) (hbm : Nat) : Nat :=
  if h.level = 0 then cisterns.getD (pathClass (coreId (coreOf s.cur)) h.core) 1 else if h.level = 1 then hbm else 1

/-- The load as it would be issued again (R97, R373). -/
def State.reloadOf (s : State) (r : Handle) (n : Nat) (sx : Bool) (o : Nat) : Reload :=
  ⟨n, sx, r, o, s.ctx.ctl.line, s.ctx.ctl.lane⟩

/-- The effect of a scalar load (R73, R74, R76, R97). -/
def scalarLoad (n : Nat) (sx : Bool) (d : BitVec 5) (h : BitVec 6) (o : Int) (s : State) : Res' State :=
  match checkR30 s (s.slot h) rRD o n with
  | .error e => .error e
  | .ok r =>
    if scalarHeld s r o.toNat n false then .error (.hold s)
    else
      match s.load 6 r o.toNat n (offW o) with
      | .error e => .error e
      | .ok (t, v) =>
        .ok (((t.newAge.1.setS d (extend n sx v)).occupy (s.pathCycles r [8, 30, 52, 128] 380)).lateAs s d
          (some (s.reloadOf r n sx o.toNat)))

/-- The effect of a scalar store (R73, R74): in flight for the latency of a load of its level (R98). -/
def scalarStore (n : Nat) (d : BitVec 5) (h : BitVec 6) (o : Int) (s : State) : Res' State :=
  match checkR30 s (s.slot h) rWR o n with
  | .error e => .error e
  | .ok r =>
    if scalarHeld s r o.toNat n true then .error (.hold s)
    else
      let age := s.ageNow
      let rngs := s.blocks r o (o + n - 1) true
      s.newAge.1.post 6 age r rngs [⟨o.toNat, n, (s.getS d).toNat % 2 ^ (8 * n)⟩] (offW o) 0
        (s.dcc.toNat + s.pathCycles r [8, 30, 52, 128] 380)

/-- The offset of the one-lane form (R73). -/
def offShort (s : State) (a : BitVec 5) (u : BitVec 5) (n : Nat) : Int := (s.getS a).toInt + u.toNat * n
/-- The offset of the two-lane form (R73). -/
def offLong (s : State) (a : BitVec 5) (i : BitVec 28) : Int := (s.getS a).toInt + i.toInt

/-- LDB (R73). -/
def execLdb (d : BitVec 5) (h : BitVec 6) (a u : BitVec 5) (s : State) : Ans :=
  controlOp (scalarLoad 1 true d h (offShort s a u 1) s)
/-- LDBU (R73). -/
def execLdbu (d : BitVec 5) (h : BitVec 6) (a u : BitVec 5) (s : State) : Ans :=
  controlOp (scalarLoad 1 false d h (offShort s a u 1) s)
/-- LDH (R73). -/
def execLdh (d : BitVec 5) (h : BitVec 6) (a u : BitVec 5) (s : State) : Ans :=
  controlOp (scalarLoad 2 true d h (offShort s a u 2) s)
/-- LDHU (R73). -/
def execLdhu (d : BitVec 5) (h : BitVec 6) (a u : BitVec 5) (s : State) : Ans :=
  controlOp (scalarLoad 2 false d h (offShort s a u 2) s)
/-- LDW (R73). -/
def execLdw (d : BitVec 5) (h : BitVec 6) (a u : BitVec 5) (s : State) : Ans :=
  controlOp (scalarLoad 4 true d h (offShort s a u 4) s)
/-- LDWU (R73). -/
def execLdwu (d : BitVec 5) (h : BitVec 6) (a u : BitVec 5) (s : State) : Ans :=
  controlOp (scalarLoad 4 false d h (offShort s a u 4) s)
/-- LDD (R73). -/
def execLdd (d : BitVec 5) (h : BitVec 6) (a u : BitVec 5) (s : State) : Ans :=
  controlOp (scalarLoad 8 false d h (offShort s a u 8) s)
/-- STB (R73). -/
def execStb (d : BitVec 5) (h : BitVec 6) (a u : BitVec 5) (s : State) : Ans :=
  controlOp (scalarStore 1 d h (offShort s a u 1) s)
/-- STH (R73). -/
def execSth (d : BitVec 5) (h : BitVec 6) (a u : BitVec 5) (s : State) : Ans :=
  controlOp (scalarStore 2 d h (offShort s a u 2) s)
/-- STW (R73). -/
def execStw (d : BitVec 5) (h : BitVec 6) (a u : BitVec 5) (s : State) : Ans :=
  controlOp (scalarStore 4 d h (offShort s a u 4) s)
/-- STD (R73). -/
def execStd (d : BitVec 5) (h : BitVec 6) (a u : BitVec 5) (s : State) : Ans :=
  controlOp (scalarStore 8 d h (offShort s a u 8) s)
/-- LDB, two lanes (R73). -/
def execLdbLong (d : BitVec 5) (h : BitVec 6) (a : BitVec 5) (i : BitVec 28) (s : State) : Ans :=
  controlOp (scalarLoad 1 true d h (offLong s a i) s)
/-- LDBU, two lanes (R73). -/
def execLdbuLong (d : BitVec 5) (h : BitVec 6) (a : BitVec 5) (i : BitVec 28) (s : State) : Ans :=
  controlOp (scalarLoad 1 false d h (offLong s a i) s)
/-- LDH, two lanes (R73). -/
def execLdhLong (d : BitVec 5) (h : BitVec 6) (a : BitVec 5) (i : BitVec 28) (s : State) : Ans :=
  controlOp (scalarLoad 2 true d h (offLong s a i) s)
/-- LDHU, two lanes (R73). -/
def execLdhuLong (d : BitVec 5) (h : BitVec 6) (a : BitVec 5) (i : BitVec 28) (s : State) : Ans :=
  controlOp (scalarLoad 2 false d h (offLong s a i) s)
/-- LDW, two lanes (R73). -/
def execLdwLong (d : BitVec 5) (h : BitVec 6) (a : BitVec 5) (i : BitVec 28) (s : State) : Ans :=
  controlOp (scalarLoad 4 true d h (offLong s a i) s)
/-- LDWU, two lanes (R73). -/
def execLdwuLong (d : BitVec 5) (h : BitVec 6) (a : BitVec 5) (i : BitVec 28) (s : State) : Ans :=
  controlOp (scalarLoad 4 false d h (offLong s a i) s)
/-- LDD, two lanes (R73). -/
def execLddLong (d : BitVec 5) (h : BitVec 6) (a : BitVec 5) (i : BitVec 28) (s : State) : Ans :=
  controlOp (scalarLoad 8 false d h (offLong s a i) s)
/-- STB, two lanes (R73). -/
def execStbLong (d : BitVec 5) (h : BitVec 6) (a : BitVec 5) (i : BitVec 28) (s : State) : Ans :=
  controlOp (scalarStore 1 d h (offLong s a i) s)
/-- STH, two lanes (R73). -/
def execSthLong (d : BitVec 5) (h : BitVec 6) (a : BitVec 5) (i : BitVec 28) (s : State) : Ans :=
  controlOp (scalarStore 2 d h (offLong s a i) s)
/-- STW, two lanes (R73). -/
def execStwLong (d : BitVec 5) (h : BitVec 6) (a : BitVec 5) (i : BitVec 28) (s : State) : Ans :=
  controlOp (scalarStore 4 d h (offLong s a i) s)
/-- STD, two lanes (R73). -/
def execStdLong (d : BitVec 5) (h : BitVec 6) (a : BitVec 5) (i : BitVec 28) (s : State) : Ans :=
  controlOp (scalarStore 8 d h (offLong s a i) s)

/-! ## What a release waits for -/

/-- The handle fields through which a queued instruction writes memory, at home or at a peer. -/
def destHandles : Instr → List (BitVec 6)
  | .vst _ o => [o.h]
  | .vscatter _ o => [o.h]
  | .mdrainc _ _ o | .mdrainp _ o | .mdrains _ _ _ o => [o.h]
  | .pcopy _ o | .pcopy2d _ _ o | .pcopyd _ o | .pcopyhIn o | .pcopyhOut o | .pfill o => [o.hd]
  | .gst _ o => [o.h]
  | .sigst _ h _ _ => [h]
  | .xst _ o => [o.h]
  | .xamo _ _ o | .xacas _ _ o => [o.h]
  | .xput o | .xget o => [o.hd]
  | .xring _ _ h _ _ _ _ _ _ | .xport _ h _ _ _ | .xrecv h _ _ _ _ => [h]
  | .xcoll _ o => [o.hr]
  | .xcomp hs hr _ _ _ _ | .xresid hs hr _ _ _ => [hs, hr]
  | _ => []

/-- A captured command writes through a handle of a publication set: any for `none`, those bound to n else. A tile's
record is known only when it fires, and POVER and PCMD write no handle's bytes. -/
def Cap.writesIn (c : Cap) (bind : Option (BitVec 6)) : Bool :=
  match c.instr with
  | .xready _ _ => true
  | .pover _ | .pcmd _ => bind.isNone
  | i =>
    (destHandles i).any (fun h =>
      match bind with
      | none => true
      | some n => (match SMap.get none c.h h.toNat with | some r => r.sync = some n | none => false))

/-- A fabric command in flight has writes of a publication set to make. -/
def XCmd.writesIn (x : XCmd) (bind : Option (BitVec 6)) : Bool :=
  match bind with
  | none => !x.binds.isEmpty
  | some n => x.binds.contains (some n)

/-- A queued or buffered command of the moving strand writes in a publication set; an exchange writes through its grid's record. -/
def State.capWrites (s : State) (c : Cap) (bind : Option (BitVec 6)) : Bool :=
  match c.instr with
  | .gxchg g _ =>
    (match s.gridRec c.age g with
      | some h => (match bind with | none => true | some n => h.sync = some n)
      | none => false)
  | _ => c.writesIn bind

/-- Every write of the moving strand older than an age in a publication set has completed (R256, R271, R275): none queued, none
buffered or in flight, no exchange writing ghosts, no remote write unanswered. -/
def State.writesDone (s : State) (age : Nat) (bind : Option (BitVec 6)) : Bool :=
  let c := s.ctx
  Config.engines.all (fun x => ((c.engAt x).olderThan age).all (fun d => !s.capWrites d.1 bind))
    && c.fl.all (fun f => decide (age ≤ f.age) || (match bind with | none => false | some n => f.bind ≠ some n))
    && (c.pump.buf ++ c.pump.fly).all (fun p => decide (age ≤ p.cap.age) || !p.cap.writesIn bind)
    && c.fab.cmds.all (fun x => decide (age ≤ x.cap.age) || !x.writesIn bind)
    && c.grids.all (fun g => match g.2 with
        | some r => r.phase = 0 || decide (age ≤ r.age) || (match bind with | none => false | some n => r.hd.sync ≠ some n)
        | none => true)

/-- A release of an age, of counter n or of everything for `none`, may take place (R269, R271). -/
def State.releaseReady (s : State) (age : Nat) (bind : Option (BitVec 6)) : Bool := s.writesDone age bind && s.ctx.rq.isEmpty

/-! ## Atomics -/

/-- The value an amo writes (R277). -/
def amoNew (op : AOp) (n old b : Nat) : Nat :=
  let m := 2 ^ (8 * n)
  let so := signedOf (8 * n) old
  let sb := signedOf (8 * n) b
  match op with
  | .add => (old + b) % m
  | .and => old &&& (b % m)
  | .or => old ||| (b % m)
  | .xor => old ^^^ (b % m)
  | .min => if so ≤ sb then old else b % m
  | .max => if so ≤ sb then b % m else old
  | .swap => b % m

/-- What an atomic writes, if anything: acas writes only on a match (R277). -/
def Atom.result (x : Atom) (old : Nat) : Option Nat :=
  let n := if x.dw then 8 else 4
  if x.cas then (if old = x.c.toNat % 2 ^ (8 * n) then some (x.b.toNat % 2 ^ (8 * n)) else none)
  else some (amoNew x.op n old x.b.toNat)

/-- The bytes of an atomic. -/
def Atom.width (x : Atom) : Nat := if x.dw then 8 else 4

/-- Runs written at once: an atomic's write, a replayed write. -/
def State.storeSegs (s : State) (l : List Seg) : State := l.foldl (fun s g => s.store g.a g.n g.v) s

/-- The key under which an acquire that is no counter wait stands among the cycles of a strand's acquires. -/
def acqAtomic : Nat := 64

/-- The strand completes an acquire in this cycle: of a counter, of an atomic, or of a collective (R257, R259, R265, R198). -/
def State.acquire (s : State) (n : Nat) : State :=
  s.ctl (fun c => { c with acquired := SMap.set 0 c.acquired n s.dcc.toNat })

/-- The read, the write, the scalar and the acquire of an atomic at translated bytes (R252, R259, R277). -/
def State.doAtom (s : State) (x : Atom) (runs : List (Nat × Nat)) : State :=
  let old := readRuns s.mem runs
  let t := match x.result old with
    | some v => s.storeSegs (cutRuns runs v)
    | none => s
  let u := t.setS x.d (extend x.width (!x.dw) old)
  if x.acq then u.acquire acqAtomic else u

/-- Own scalar stores in flight over the bytes of an atomic. -/
def Ctx.storeOver (c : Ctx) (runs : List (Nat × Nat)) : Bool :=
  c.fl.any (fun f => f.src = 6 ∧ f.segs.any (fun g => runs.any (fun r => g.a < r.1 + r.2 ∧ r.1 < g.a + g.n)))

/-- The effect of an atomic (R277): checks, release hold, then the operation, or its parking (R267, R269). -/
def atomic (x : Atom) (h : BitVec 6) (o : Int) (ord : Ord) (s : State) : Res' State :=
  let n := x.width
  match checkR30 s (s.slot h) rAT o n with
  | .error e => .error e
  | .ok r =>
    if r.level = 2 then .error (.trap s tLEVEL 6)
    else if r.level = 0 ∧ !s.inPartition r o.toNat n then .error (.trap (s.refusedAt r o.toNat) tPARTITION (offW o))
    else if ord.releases ∧ !s.releaseReady s.ageNow r.sync then .error (.hold s)
    else if scalarHeld s r o.toNat n true then .error (.hold s)
    else
      let va := r.base.toNat + o.toNat
      let park (t : State) : Res' State :=
        if t.ctx.rq.length < 64 then
          let age := t.ageNow
          let u := t.newAge.1
          let p : Parked := ⟨6, age, r.sync, r.world, [⟨va, n, 0⟩], some x, false, 0, 0, 0, offW o, false⟩
          .error (.hold ((u.setCtx { u.ctx with rq := u.ctx.rq ++ [p] }).holdAs (.parked age)))
        else .error (.hold s)
      if r.level ≠ 0 ∧ s.ctx.pageParked r.world [⟨va, n, 0⟩] then park s
      else
        match s.resolve r o.toNat n true with
        | .denied t => .error (.trap t tPARTITION (offW o))
        | .page t _ => park t
        | .blocked t _ => park t
        | .ok t runs =>
          if t.ctx.storeOver runs then .error (.hold s)
          else
            match t.badRun runs with
            | some ln => .error (.hold (t.integrityStop t.cur r.world.toNat ln))
            | none => .ok (((t.newAge.1.doAtom x runs).occupy (s.pathCycles r [10, 34, 56, 132] 400)).lateAs s x.d none)

/-- AMO (R277). -/
def execAmo (dw : Bool) (d : BitVec 5) (h : BitVec 6) (a : BitVec 5) (op : AOp) (_ : Scope) (ord : Ord)
    (b : BitVec 5) (s : State) : Ans :=
  controlOp (atomic ⟨d, ord.acquires, false, dw, op, s.getS b, 0⟩ h (s.getS a).toInt ord s)

/-- ACAS (R277). -/
def execAcas (dw : Bool) (d : BitVec 5) (h : BitVec 6) (a : BitVec 5) (_ : Scope) (ord : Ord) (b c : BitVec 5)
    (s : State) : Ans :=
  controlOp (atomic ⟨d, ord.acquires, true, dw, .add, s.getS b, s.getS c⟩ h (s.getS a).toInt ord s)

end Sys2Proof.Machine
end

