-- ==== Sys2Proof/Machine/Sync.lean ====
section
/-! DEFINITION. Event counters and fences (R270 to R276), loop broadcast (R86), bank lending (R144, R145), team
barriers (R226), and the waits of the control stream. -/

namespace Sys2Proof.Machine

/-! ## Event counters -/

/-- The number of strands of a gang id on this device; one for a strand that belongs to no gang. -/
def State.strandsOf (s : State) (g : Nat) : Nat :=
  match s.gang g with
  | some x => x.r.nd * x.r.nc * x.r.nk
  | none => 1

/-- The gang that the moving strand's gang is linked with, and the number of its strands, which it keeps when it has retired (R216, R271). -/
def State.linkOf (s : State) : Option (Nat × Nat) :=
  match s.gang s.bind.gang.toNat with
  | some x => x.link.map (fun l => (l.toNat, x.linkN))
  | none => none

/-- The gang and strand that a counter target names, where it names one (R271). -/
def State.target (s : State) (t : Word) : Option (Nat × Nat) :=
  let own := s.bind.gang.toNat
  if t.toNat / 2 ^ 17 ≠ 0 then none
  else if bit t.toNat 16 then
    match s.linkOf with
    | some (g, n) => if t.toNat % 65536 < n then some (g, t.toNat % 65536) else none
    | none => none
  else if t.toNat % 65536 < s.strandsOf own then some (own, t.toNat % 65536) else none

/-- The key of a strand of a gang, whose context has not departed (R404, R405). -/
def State.keyOf (s : State) (g i : Nat) : Option Nat :=
  (s.binds.find? (fun e => e.2.valid ∧ e.2.gang.toNat = g ∧ e.2.strand.toNat = i ∧ (s.ctxAt e.1).phase ≠ .departing)).map (·.1)

/-- The cycles that an increment takes (R271). -/
def incrDelay (p : Nat) : Nat := [2, 8, 24, 64].getD p 64

/-- An increment sent from a context; it arrives after the delay of R271. -/
def State.sendIncr (s : State) (k g i : Nat) (n : BitVec 6) (amt : BitVec 32) : State :=
  let p := match s.keyOf g i with
    | some j => pathClass (coreId (coreOf k)) (coreId (coreOf j))
    | none => 3
  { s with incrs := s.incrs ++ [⟨g, i, n, amt, s.dcc.toNat + incrDelay p⟩] }

/-- The effect of evinc and evinc.n (R271). -/
def evInc (e : BitVec 6) (t : Word) (rel : Bool) (amt : BitVec 32) (s : State) : Res' State :=
  match s.target t with
  | none => .error (.trap s tEVTARGET t)
  | some (g, i) =>
    if rel ∧ !s.releaseReady s.ageNow (some e) then .error (.hold s)
    else .ok (s.sendIncr s.cur g i e amt)

/-- EVINC (R271). -/
def execEvinc (e : BitVec 6) (a : BitVec 5) (_ : Scope) (rel : Bool) (s : State) : Ans :=
  controlOp (evInc e (s.getS a) rel 1 s)
/-- EVINC.N (R271). -/
def execEvincN (e : BitVec 6) (a : BitVec 5) (_ : Scope) (rel : Bool) (b : BitVec 5) (s : State) : Ans :=
  controlOp (evInc e (s.getS a) rel ((s.getS b).setWidth 32) s)

/-- The effect of evwait (R272): met, or a hold. -/
def evWait (e : BitVec 6) (acq : Bool) (t : BitVec 32) (s : State) : Res' State :=
  if meets (s.ctx.ctl.getE e) t then .ok (if acq then s.acquire e.toNat else s)
  else .error (.hold (s.holdAs (.evwait e t acq)))

/-- EVWAIT with an immediate threshold (R272). -/
def execEvwait (e : BitVec 6) (acq : Bool) (t : BitVec 11) (s : State) : Ans :=
  controlOp (evWait e acq (t.setWidth 32) s)
/-- EVWAIT with a scalar threshold (R272). -/
def execEvwaitReg (e : BitVec 6) (acq : Bool) (t : BitVec 5) (s : State) : Ans :=
  controlOp (evWait e acq ((s.getS t).setWidth 32) s)
/-- EVREAD (R273). -/
def execEvread (d : BitVec 5) (e : BitVec 6) (s : State) : Ans :=
  controlOp (.ok (s.setS d ((s.ctx.ctl.getE e).setWidth 64)))

/-! ## Fences -/

/-- A loop is open or suspended (R90, R276). -/
def State.inLoop (s : State) : Bool := s.ctx.lp.open_ || s.ctx.lp.susp

/-- Pushes the markers still to be pushed, lowest engine first, as far as the queues have room (R274). -/
def State.pushMarks : Nat → BitVec 6 → BitVec 6 → Nat → Bool → State → State
  | 0, todo, left, age, f, s => s.holdAs (.marks todo left age f)
  | n + 1, todo, left, age, f, s =>
    match lowestOf todo with
    | none => s.holdAs (.marks todo left age f)
    | some e =>
      if s.ctx.room e then
        State.pushMarks n (dropBit todo e) left age f (s.setCtx (s.ctx.push e (.fenceMark age)))
      else s.holdAs (.marks todo left age f)

/-- A fence over the engines of a mask starts (R274, R275), or LOOPFAULT (R276). -/
def startFence (mask : BitVec 6) (f : Bool) (s : State) : Res' State :=
  if s.inLoop then .error (.trap s tLOOPFAULT 2)
  else
    let age := s.ageNow
    .error (.hold (State.pushMarks 6 mask mask age f s.newAge.1))

/-- FENCEM (R274). -/
def execFencem (mask : BitVec 6) (s : State) : Ans := controlOp (startFence mask false s)

/-- FENCE (R275); while it holds for the strand's writes it is processed again and again. -/
def execFence (_ : Scope) (s : State) : Ans :=
  if s.ctx.ctl.hold = .writes then controlOp (if s.releaseReady s.ageNow none then .ok s else .error (.hold s))
  else controlOp (startFence 0x3F true s)

/-! ## Loop broadcast -/

/-- The engines of a mask. -/
def enginesOf (m : BitVec 6) : List Engine := Config.engines.filter (fun e => m.getLsbD (Config.engIdx e))

/-- The skew of an engine (R48). -/
def Skews.of (k : Skews) : Engine → Nat
  | .vector => k.vec.toNat
  | .matrix => k.mat.toNat
  | .pump => k.pump.toNat
  | .halo => k.halo.toNat
  | .signature => k.sig.toNat
  | .fabric => k.fab.toNat

/-- The engine for whose queue a LOOPB holds: that of an end marker still owed, which goes before any new loop's marker, or
the lowest masked one without room (R25, R86, R89). -/
def State.loopbWaits (s : State) (mask : BitVec 6) : Option Engine :=
  (lowestOf s.ctx.lp.owed).or ((enginesOf mask).find? (fun e => !s.ctx.room e))

/-- The effect of LOOPB (R86, R90): markers into every masked queue, and delivery open over the next lines. In a handler
that runs while end markers of a closed loop are still owed, those are pushed first. [DEDUCED, log 37] -/
def loopb (mask : BitVec 6) (lm1 : BitVec 5) (nm1 : BitVec 16) (k : Skews) (s : State) : Res' State :=
  if s.inLoop then .error (.trap s tLOOPFAULT 0)
  else
    let s := State.pushOwedN 6 s
    match s.loopbWaits mask with
    | some e => .error (.hold (s.holdAs (.queue e)))
    | none =>
      let age := s.ageNow
      let t := s.newAge.1
      let n := nm1.toNat + 1
      let c := (enginesOf mask).foldl (fun c e => c.push e (.loopMark age n (Skews.of k e))) t.ctx
      let line := c.ctl.line + 32
      .ok (t.setCtx { c with
        lp := { open_ := true, susp := false, first := line, last := line + 32 * lm1.toNat, mask := mask
                owed := t.ctx.lp.owed, n := n, endAge := t.ctx.lp.endAge
                skews := Config.engines.foldl (fun m e => SMap.set 0 m (Config.engIdx e) (Skews.of k e)) []
                counts := [] } })

/-- LOOPB (R86). -/
def execLoopb (mask : BitVec 6) (lm1 : BitVec 5) (nm1 : BitVec 16) (k : Skews) (s : State) : Ans :=
  controlOp (loopb mask lm1 nm1 k s)

/-! ## Bank lending -/

/-- TINFO of BANKBUSY (R146). -/
def bankInfo (bank grp reason : Nat) : Word := word (bank * 64 + grp * 32 + reason)

/-- The lend of a group. -/
def Vec.lend (v : Vec) (g : BitVec 1) : Lend := if g = 0 then v.g0 else v.g1
/-- A group's lend set. -/
def Vec.setLend (v : Vec) (g : BitVec 1) (l : Lend) : Vec := if g = 0 then { v with g0 := l } else { v with g1 := l }

/-- The registers of a bank and the accumulators of a group. -/
def lendRanges (bank grp : Nat) : List Rng :=
  [⟨.v, 32 * bank, 32 * bank + 31, true⟩, ⟨.acc, 8 + 4 * grp, 11 + 4 * grp, true⟩]

/-- The effect of BANKLEND (R144, R150). TINFO of reasons 1 and 2 names the bank and the group that the instruction asks for. [DEDUCED, log 93] -/
def banklend (bank : BitVec 2) (g : BitVec 1) (s : State) : Res' State :=
  let v := s.ctx.vec
  if v.g0 = some bank ∨ v.g1 = some bank then .error (.trap s tBANKBUSY (bankInfo bank.toNat g.toNat 1))
  else if (v.lend g).isSome then .error (.trap s tBANKBUSY (bankInfo bank.toNat g.toNat 2))
  else if s.namedInUse (lendRanges bank.toNat g.toNat) then .error (.trap s tBANKBUSY (bankInfo bank.toNat g.toNat 0))
  else .ok ((s.setCtx { s.ctx with vec := v.setLend g (some bank) }).occupy 4)

/-- BANKLEND (R144). -/
def execBanklend (bank : BitVec 2) (g : BitVec 1) (s : State) : Ans := controlOp (banklend bank g s)

/-- The effect of BANKRET (R145, R150). TINFO of reason 3 names bank 0, for no bank is concerned. [DEDUCED, log 93] -/
def bankret (g : BitVec 1) (s : State) : Res' State :=
  let v := s.ctx.vec
  match v.lend g with
  | none => .error (.trap s tBANKBUSY (bankInfo 0 g.toNat 3))
  | some b =>
    if s.namedInUse (lendRanges b.toNat g.toNat) then .error (.trap s tBANKBUSY (bankInfo b.toNat g.toNat 0))
    else
      let f := (List.range 32).foldl (fun f i => SMap.set .untyped f (32 * b.toNat + i) .fp32) v.f
      .ok ((s.setCtx { s.ctx with vec := { v.setLend g none with f := f } }).occupy 4)

/-- BANKRET (R145). -/
def execBankret (g : BitVec 1) (s : State) : Ans := controlOp (bankret g s)

/-! ## Team barriers -/

/-- A team's stage range: team 0 is the whole gang (R217). -/
def Gang.team (g : Gang) (t : BitVec 8) : Option Team :=
  if t = 0 then some ⟨0, 255⟩ else SMap.get none g.r.teams t.toNat

/-- A stage belongs to a team. -/
def Team.has (t : Team) (st : BitVec 8) : Bool := decide (t.lo.toNat ≤ st.toNat ∧ st.toNat ≤ t.hi.toNat)

/-- The members of a team, by strand index (R216). -/
def Gang.members (g : Gang) (t : Team) : List Nat :=
  (g.r.strands.zipIdx.filter (fun e => t.has e.1.stage)).map (·.2)

/-- The cores of a record's block by strand index (R213). -/
def LaunchRec.cores (r : LaunchRec) : List Nat :=
  (List.range r.nd).flatMap (fun d => (List.range r.nc).flatMap (fun c =>
    (List.range r.nk).map (fun k => (r.d0 + d) * 96 + (r.c0 + c) * 8 + r.k0 + k)))

/-- The latency of leaving, from the cores of the members (R226). -/
def Gang.leaveDelay (g : Gang) (m : List Nat) : Nat :=
  let ids := m.map (fun i => coreId (g.r.cores.getD i 0))
  match ids with
  | [] => 8
  | a :: _ => if ids.all (fun b => a / 8 = b / 8) then 8 else if ids.all (fun b => a / 128 = b / 128) then 24 else 64

/-- Every member has arrived or retired; then the leaving cycle is fixed (R226). -/
def State.barrierMet (s : State) (gid : Nat) (t : BitVec 8) : State :=
  match s.gang gid with
  | none => s
  | some g =>
    match g.team t with
    | none => s
    | some tm =>
      let b := SMap.get Bar.reset g.bars t.toNat
      let m := g.members tm
      if b.arrived ≠ [] ∧ b.leave.isNone ∧ m.all (fun i => b.arrived.contains i || g.retired.contains i) then
        s.setGang gid (some { g with
          bars := SMap.set Bar.reset g.bars t.toNat { b with leave := some (s.dcc + word (g.leaveDelay m)) } })
      else s

/-- TINFO of BARRIER (R226). -/
def barInfo (reason : Nat) (t : BitVec 8) : Word := word (reason * 256 + t.toNat)

/-- The effect of TBAR (R226): the arrival, and a hold until the members leave. -/
def tbar (t : BitVec 8) (a : BitVec 5) (s : State) : Res' State :=
  let gid := s.bind.gang.toNat
  match s.gang gid with
  | none => if t = 0 then .ok (s.setS a 0) else .error (.trap s tBARRIER (barInfo 0 t))
  | some g =>
    match g.team t with
    | none => .error (.trap s tBARRIER (barInfo 0 t))
    | some tm =>
      if !tm.has s.bind.stage then .error (.trap s tBARRIER (barInfo 1 t))
      else
        let b := SMap.get Bar.reset g.bars t.toNat
        let b' := { b with arrived := b.arrived ++ [s.bind.strand.toNat] }
        let u := s.setGang gid (some { g with bars := SMap.set Bar.reset g.bars t.toNat b' })
        .error (.hold ((u.barrierMet gid t).holdAs (.tbar t b.gen a)))

/-- TBAR (R226). -/
def execTbar (t : BitVec 8) (a : BitVec 5) (s : State) : Ans := controlOp (tbar t a s)

/-! ## Time -/

/-- RDDCC (R92). -/
def execRddcc (r : BitVec 5) (s : State) : Ans := controlOp (.ok (s.setS r s.dcc))

/-- DCCWAIT (R92): the next instruction is processed at max(c + 1, s[S]). -/
def execDccwait (r : BitVec 5) (s : State) : Ans :=
  controlOp (if (s.getS r).toNat ≤ s.dcc.toNat + 1 then .ok s else .error (.hold (s.holdAs (.dccwait (s.getS r)))))

end Sys2Proof.Machine
end

