-- ==== Sys2Proof/Machine/Flits.lean ====
section
/-! DEFINITION. Transfers between devices as flits (R447): the first hop, the header and its data, and the injection source of a core. -/

namespace Sys2Proof.Machine

/-- The number of a face (R46). -/
def faceNum : Face → Nat
  | .xm => 0
  | .xp => 1
  | .ym => 2
  | .yp => 3
  | .zm => 4
  | .zp => 5
/-- The face of a number. -/
def faceOf : Nat → Face
  | 0 => .xm
  | 1 => .xp
  | 2 => .ym
  | 3 => .yp
  | 4 => .zm
  | _ => .zp

/-- The coordinates of a device (R414). -/
def torus (d : Nat) : Nat × Nat × Nat := (d % 6, d / 6 % 8, d / 48)

/-- The device and the port to which a port connects (R415). -/
def wired (dev port : Nat) : Nat × Nat :=
  let (x, y, z) := torus dev
  let go (a n : Nat) : Nat := if port % 4 < 2 then (a + 1) % n else (a + n - 1) % n
  (match port / 4 with
    | 0 => go x 6 + 6 * y + 48 * z
    | 1 => x + 6 * go y 8 + 48 * z
    | _ => x + 6 * y + 48 * go z 9,
   if port % 4 < 2 then port + 2 else port - 2)

/-- The direction of the first hop to a device: the dimension in which they differ first, the shorter way round. -/
def firstHop (src dst : Nat) : Option Nat :=
  let (x, y, z) := torus src
  let (x', y', z') := torus dst
  let dir (k a b n : Nat) : Nat := if (b + n - a) % n ≤ (a + n - b) % n then k else k + 1
  if x ≠ x' then some (dir 0 x x' 6)
  else if y ≠ y' then some (dir 2 y y' 8)
  else if z ≠ z' then some (dir 4 z z' 9)
  else none

/-- The 32 bytes of a header. -/
def msgHeader (dev gang strand slot op off arg len flags srcDev srcGang srcStrand txn : Nat) : Nat :=
  dev + gang * 2 ^ 16 + strand * 2 ^ 32 + slot * 2 ^ 48 + op * 2 ^ 56 + off * 2 ^ 64 + arg * 2 ^ 112
    + len % 2 ^ 24 * 2 ^ 128 + flags % 2 ^ 8 * 2 ^ 152 + srcDev * 2 ^ 160 + srcGang * 2 ^ 176 + srcStrand * 2 ^ 192 + txn % 2 ^ 48 * 2 ^ 208

/-- The flits of a header with n bytes of data, of a world. [DEDUCED, log 34] -/
def msgFlits (world : BitVec 8) (hdr data n : Nat) : List Flit :=
  let flit (p : Nat) : Flit := ⟨world, false, false, false, false, false, false, 0, 0, 0, BitVec.ofNat 1024 p⟩
  flit (hdr + data % 2 ^ 768 * 2 ^ 256)
    :: (List.range (ceilDiv (n - 96) 128)).map (fun i => flit (data / 2 ^ (768 + 1024 * i) % 2 ^ 1024))

/-- A port of the device. -/
def State.port (s : State) (p : Nat) : Port := SMap.get Port.reset s.ports p
/-- A port replaced. -/
def State.setPort (s : State) (p : Nat) (x : Port) : State := { s with ports := SMap.set Port.reset s.ports p x }

/-- Flits handed to an injection source of a port, for the strand that issued them. -/
def State.injectAt (s : State) (p link who : Nat) (l : List Flit) : State :=
  let x := s.port p
  s.setPort p { x with
    inject := SMap.set [] x.inject link (SMap.get [] x.inject link ++ l.zipIdx.map (fun f => ⟨f.1, who, f.2 = 0⟩)) }

/-- Flits handed to the injection source of a core, at the port of the first hop. -/
def State.inject (s : State) (core dst who : Nat) (l : List Flit) : State :=
  match firstHop s.dev.num.toNat dst with
  | none => s
  | some k => s.injectAt (2 * k + core % 2) core who l

/-- The data bytes that the flits of a transfer carry. [DEDUCED, log 35] -/
def Got.sent (x : Got) : Nat := if x.op = 4 ∨ x.op = 7 ∨ x.op = 8 then 0 else x.len

/-- A transfer to a device as flits of a world. -/
def Got.flits (world : BitVec 8) (dev : Nat) (x : Got) : List Flit :=
  msgFlits world (msgHeader dev x.toGang x.toStrand x.slot x.op x.off x.arg x.len x.flags x.dev x.gang x.strand x.txn) x.data x.sent

/-- The OP under which a halo layer goes to another device: R447 gives none, and this is the first of its reserved values. [DESIGN CHOICE, log 86] -/
def opLAYER : Nat := 12

/-- A layer as a transfer: its data follows the extents, and the header's other fields say the rest. [DESIGN CHOICE, log 86] -/
def gotOfLayer (l : LayerMsg) : Got :=
  { world := l.world.toNat, op := opLAYER, slot := l.g.toNat, toGang := l.gang, toStrand := l.strand
    off := l.step.toNat + faceNum l.face * 2 ^ 32 + l.w % 64 * 2 ^ 35 + l.ew % 8 * 2 ^ 41, arg := if l.revoked then 1 else 0
    len := 8 + l.ex * l.ey * l.ez * l.ew, flags := 0, dev := l.srcDev.toNat, gang := l.srcGang, strand := l.srcStrand, txn := 0
    data := l.ex % 2 ^ 21 + l.ey % 2 ^ 21 * 2 ^ 21 + l.ez % 2 ^ 21 * 2 ^ 42 + l.data * 2 ^ 64 }

/-- The OP under which a slip notice goes back to the source device (R430): R447 gives none. [DESIGN CHOICE, log 86] -/
def opSLIP : Nat := 13

/-- A slip notice to a strand, with the TINFO of its TIMESLIP. [DESIGN CHOICE, log 86] -/
def slipGot (world gang strand srcDev : Nat) (ti : Word) : Got :=
  { world := world, op := opSLIP, slot := 0, toGang := gang, toStrand := strand, off := 0, arg := 0, len := 8, flags := 0, dev := srcDev
    gang := 0, strand := 0, txn := 0, data := ti.toNat }

/-- The layer that a transfer holds. [DESIGN CHOICE, log 86] -/
def layerOfGot (dev : BitVec 9) (g : Got) : LayerMsg :=
  { srcDev := BitVec.ofNat 9 g.dev, srcGang := g.gang, srcStrand := g.strand, dev := dev, gang := g.toGang, strand := g.toStrand
    g := BitVec.ofNat 4 g.slot, face := faceOf (bits g.off 34 32), step := BitVec.ofNat 32 g.off, w := bits g.off 40 35, ew := bits g.off 43 41
    ex := bits g.data 20 0, ey := bits g.data 41 21, ez := bits g.data 62 42, revoked := bit g.arg 0, gen := 0, world := BitVec.ofNat 8 g.world
    ruled := false, data := g.data / 2 ^ 64, due := 0 }

end Sys2Proof.Machine
end

