-- ==== Sys2Proof/Machine/System.lean ====
section
/-! DEFINITION. Control and status registers (R36, R91, R136, R215, R278, R315, R339, R358, R367, R387, R472), service
calls, traps and stopping (R93 to R96). -/

namespace Sys2Proof.Machine

/-- Entry counts of sixteen queue registers (R136). -/
def Vec.counts (v : Vec) (base : Nat) : Word :=
  word ((List.range 16).foldl (fun a i => a + Nat.min 4 (SMap.get 0 v.count (base + i) + (SMap.get [] v.excess (base + i)).length) * 2 ^ (4 * i)) 0)

/-- BANKS (R136). -/
def Vec.banks (v : Vec) : Word :=
  word ((match v.g1 with | some b => 32 + b.toNat * 8 | none => 0) + (match v.g0 with | some b => 4 + b.toNat | none => 0))

/-- The cancel handle that a command holds; 0 for none. -/
def PCmd.cid (x : PCmd) : Nat :=
  match x.cap.instr with
  | .pcopy _ o | .pcopy2d _ _ o | .pcopyd _ o | .pcopyhIn o | .pcopyhOut o | .pover o | .pcmd o | .pfill o
  | .ptagset o | .ptagchk o | .pprefetch o => o.cid.toNat
  | _ => 0

/-- A cancel handle is live (R306): held by a command, or cancelled and not yet acknowledged. -/
def Pump.live (p : Pump) (c : Nat) : Bool :=
  c ≠ 0 && ((p.buf ++ p.fly).any (fun x => x.cid = c) || p.cancels.any (fun e => e.1 = c ∧ e.2.2))

/-- A list of flags as bits from a position on. -/
def flagBits (n lo : Nat) (f : Nat → Bool) : Nat :=
  (List.range n).foldl (fun a i => if f i then a + 2 ^ (lo + i) else a) 0

/-- GSHAPE (R215). -/
def LaunchRec.shape (r : LaunchRec) : Word :=
  word (r.d0 * 2 ^ 16 + r.c0 * 2 ^ 12 + r.k0 * 2 ^ 9 + (r.nd - 1) * 2 ^ 7 + (r.nc - 1) * 2 ^ 3 + (r.nk - 1))

/-- TENG (R367). -/
def Teng.bits (t : Teng) : Word :=
  word ((if t.v then 2 ^ 63 else 0) + (if t.asy then 2 ^ 62 else 0) + t.eng.toNat * 2 ^ 59 + (if t.disp then 2 ^ 58 else 0)
    + (if t.lost then 2 ^ 57 else 0) + t.line.toNat * 32 + t.lane.toNat)

/-- A control and status register of the moving strand; unlisted numbers read as zero (R36, R91). -/
def csrRead (s : State) (n : Nat) : Word :=
  let c := s.ctx
  let r := c.csr
  match n with
  | 0x000 => word ((if r.late then 2 else 0) + if r.intrap then 1 else 0)
  | 0x001 => word (r.tvecLine.toNat * 32 + if r.tvecEn then 1 else 0)
  | 0x002 => word (r.tline.toNat * 32)
  | 0x003 => r.tlane.setWidth 64
  | 0x004 => r.tcode.setWidth 64
  | 0x005 => r.tinfo
  | 0x006 => word (r.tpred.toNat * 2)
  | 0x007 => r.teng.bits
  | 0x008 => r.tsave0
  | 0x009 => r.tsave1
  | 0x00A => r.tsave2
  | 0x00B => r.tsave3
  | 0x010 => word (coreId (coreOf s.cur))
  | 0x011 => s.bind.strand.setWidth 64
  | 0x012 => s.bind.stage.setWidth 64
  | 0x013 => s.bind.gang.setWidth 64
  | 0x014 => match s.gang s.bind.gang.toNat with | some g => g.r.shape | none => 0
  | 0x020 => s.dcc
  | 0x030 => r.qstall.setWidth 64
  | 0x031 => c.vec.counts 0
  | 0x032 => c.vec.counts 16
  | 0x033 => c.vec.banks
  | 0x034 => r.evstall.setWidth 64
  | 0x035 => word c.rq.length
  | 0x036 =>
    word ((if c.fab.badrec then 2 ^ 32 else 0) + c.fab.fences.length * 2 ^ 28 + (c.fab.trigs.filter (fun t => t.fired.isNone)).length * 2 ^ 23
      + Nat.min 0xFFFF (c.fab.out.foldl (fun a e => a + e.2) 0))
  | 0x038 => word (if r.erc then 1 else 0)
  | 0x039 =>
    word (c.pump.drops.toNat * 2 ^ 32 + c.pump.lcount.toNat * 2 ^ 16 + (if c.pump.drop then 2 else 0)
      + if c.pump.late then 1 else 0)
  | 0x03A => word (c.pump.hit.toNat * 2 ^ 32 + c.pump.ack.toNat * 2 ^ 16 + flagBits 16 0 c.pump.live)
  | 0x03B => word c.pump.buf.length
  | 0x03C => r.hstall.setWidth 64
  | 0x03D =>
    let g (i : Nat) := SMap.get none c.grids i
    word (flagBits 16 16 (fun i => match g i with | some x => x.active | none => false)
      + flagBits 16 0 (fun i => (g i).isSome))
  | 0x03E => word (c.sig.dim * 256 + (if c.sig.log then 16 else 0) + c.sig.depth)
  | 0x03F => word (c.sig.hi.toNat * 2 ^ 32 + c.sig.lo.toNat)
  | 0x040 => word ((if c.en.sat then 2 ^ 63 else 0) + c.en.uj)
  | _ => 0

/-- The RW fields of a register set from a word; RO and reserved fields keep their values (R91). -/
def csrPut (c : Ctx) (n : Nat) (v : Word) : Ctx :=
  let r := c.csr
  let put (r : Csr) : Ctx := { c with csr := r }
  match n with
  | 0x001 => put { r with tvecLine := BitVec.ofNat 13 (v.toNat / 32), tvecEn := v.getLsbD 0 }
  | 0x002 => put { r with tline := BitVec.ofNat 14 (v.toNat / 32) }
  | 0x003 => put { r with tlane := v.setWidth 4 }
  | 0x004 => put { r with tcode := v.setWidth 8 }
  | 0x005 => put { r with tinfo := v }
  | 0x006 => put { r with tpred := BitVec.ofNat 7 (v.toNat / 2) }
  | 0x007 => put { r with teng := { r.teng with disp := v.getLsbD 58 } }
  | 0x008 => put { r with tsave0 := v }
  | 0x009 => put { r with tsave1 := v }
  | 0x00A => put { r with tsave2 := v }
  | 0x00B => put { r with tsave3 := v }
  | 0x030 => put { r with qstall := v.setWidth 32 }
  | 0x034 => put { r with evstall := v.setWidth 32 }
  | 0x038 => put { r with erc := v.getLsbD 0 }
  | 0x03C => put { r with hstall := v.setWidth 32 }
  | _ => c

/-- The W1C fields of a register cleared by the ones of a word (R6, R91). -/
def csrW1c (c : Ctx) (n : Nat) (v : Word) : Ctx :=
  match n with
  | 0x036 => { c with fab := { c.fab with badrec := c.fab.badrec && !v.getLsbD 32 } }
  | 0x039 => { c with pump := { c.pump with
      drop := c.pump.drop && !v.getLsbD 1, late := c.pump.late && !v.getLsbD 0 } }
  | 0x03A => { c with pump := { c.pump with
      hit := c.pump.hit &&& ~~~(BitVec.ofNat 16 (v.toNat / 2 ^ 32)),
      ack := c.pump.ack &&& ~~~(BitVec.ofNat 16 (v.toNat / 2 ^ 16)) } }
  | _ => c

/-- CSRR (R91). -/
def execCsrr (r : BitVec 5) (num : BitVec 12) (s : State) : Ans := controlOp (.ok (s.setS r (csrRead s num.toNat)))
/-- CSRW (R91). -/
def execCsrw (r : BitVec 5) (num : BitVec 12) (s : State) : Ans :=
  controlOp (.ok (s.setCtx (csrW1c (csrPut s.ctx num.toNat (s.getS r)) num.toNat (s.getS r))))
/-- CSRS (R91). -/
def execCsrs (r : BitVec 5) (num : BitVec 12) (s : State) : Ans :=
  controlOp (.ok (s.setCtx
    (csrW1c (csrPut s.ctx num.toNat (csrRead s num.toNat ||| s.getS r)) num.toNat (s.getS r))))
/-- CSRC: W1C fields are left unchanged (R91). -/
def execCsrc (r : BitVec 5) (num : BitVec 12) (s : State) : Ans :=
  controlOp (.ok (s.setCtx (csrPut s.ctx num.toNat (csrRead s num.toNat &&& ~~~(s.getS r)))))

/-- The cycles that a service call takes at least (R98). -/
def svcCycles : Nat := 180

/-- s1 to s6, which a service call sends (R93). -/
def State.svcArgs (s : State) : List Word := [s.getS 1, s.getS 2, s.getS 3, s.getS 4, s.getS 5, s.getS 6]

/-- A call arrives at the scheduler core: held in its place while the firmware drains (R487). -/
def State.callArrives (s : State) : State :=
  if s.dev.fw.state = 2 then { s with dev := { s.dev with fw := { s.dev.fw with bells := s.dev.fw.bells ++ [.call s.cur] } } } else s

/-- SVC (R93): control holds until the reply, which comes after at least 180 cycles (R98). -/
def execSvc (code : BitVec 16) (s : State) : Ans :=
  controlOp (.error (.hold ((s.holdAs (.svc code s.svcArgs)).occupy svcCycles).callArrives))

/-- TRAP (R94): SWTRAP, with TLANE after its last lane (R33). -/
def execTrap (code : BitVec 16) (s : State) : Ans :=
  let c := s.ctx.ctl
  .next (s.enterTrap tSWTRAP (code.setWidth 64) c.line (if c.nline = c.line then c.nlane else 8) .none)

/-- The address of a lane in a context's instruction memory (R376). No rule says what a line at or past the end of the
256 KiB holds, which TLINE can name: the address wraps there. [DESIGN CHOICE, log 83] -/
def imemAddr (k line lane : Nat) : Nat := Config.imemBase + k * 2 ^ 18 + (line + 4 * lane) % 2 ^ 18

/-- A lane of the moving context's instruction memory. -/
def State.laneAt (s : State) (line lane : Nat) : Lane := BitVec.ofNat 32 (s.mem.read (imemAddr s.cur line lane) 4)

/-- TLANE may be returned to (R34): at most 8, and not inside an instruction. The lane whose C bit is tested is read in
instruction memory, also where TLINE lies past its end or past h0. [DESIGN CHOICE, log 83] -/
def tretOk (s : State) : Bool :=
  let c := s.ctx.csr
  let l := c.tlane.toNat
  decide (l ≤ 8) && (l = 0 || l = 8 || !(s.laneAt (32 * c.tline.toNat) (l - 1)).getLsbD 28)

/-- TRET (R34, R35, R95, R368). -/
def execTret (s : State) : Ans :=
  if tretOk s then .next s.doTret
  else .next (s.controlTrap tILLEGAL (word (6 * 8 + s.ctx.ctl.lane)))

/-- HALT (R32, R96): loop delivery closes and fetch stops at the halt. A delivery suspended by the trap in whose handler the halt
stands closes too, for no `tret` can resume it. [DESIGN CHOICE, log 97] -/
def execHalt (s : State) : Ans :=
  .next (State.closeLoop (s.setCtx { s.ctx with
    ctl := { s.ctx.ctl with fetch := .halted }
    lp := { s.ctx.lp with open_ := s.ctx.lp.open_ || s.ctx.lp.susp, susp := false } }))

/-- NOP (R96). -/
def execNop (s : State) : Ans := controlOp (.ok s)

end Sys2Proof.Machine
end

