-- ==== Sys2Proof/Machine/Formats.lean ====
section
/-! DEFINITION. Number formats and exact arithmetic (R99 to R125): floating values as exact dyadic numbers, rounding
and saturation, sums with their zero signs, conversions, minimum and maximum, PL and G4 values, the tag check of
R117. The machine keeps no arithmetic flags (R103). -/

namespace Sys2Proof.Machine

/-- A floating value: NaN, an infinity, or plus or minus m × 2^e. -/
inductive FVal where
  | nan
  | inf (neg : Bool)
  | fin (neg : Bool) (m : Nat) (e : Int)
deriving DecidableEq, Repr

/-- Widths of the exponent and fraction and the bias (R99). -/
structure FSpec where
  eb : Nat
  fb : Nat
  bias : Nat

/-- The layout of a floating format (R99); FP32's for any other. -/
def fspec : Fmt → FSpec
  | .fp16 => ⟨5, 10, 15⟩
  | .bf16 => ⟨8, 7, 127⟩
  | .fp8e4 => ⟨4, 3, 7⟩
  | .fp8e5 => ⟨5, 2, 15⟩
  | _ => ⟨8, 23, 127⟩

/-- The value of a pattern (R100). -/
def decodeF (f : Fmt) (x : Nat) : FVal :=
  let p := fspec f
  let neg := bit x (p.eb + p.fb)
  let e := x / 2 ^ p.fb % 2 ^ p.eb
  let m := x % 2 ^ p.fb
  let lsb : Int := 1 - (p.bias : Int) - p.fb
  if e = 0 then .fin neg m lsb
  else if e = 2 ^ p.eb - 1 ∧ f ≠ .fp8e4 then (if m = 0 then .inf neg else .nan)
  else if f = .fp8e4 ∧ e = 15 ∧ m = 7 then .nan
  else .fin neg (2 ^ p.fb + m) (lsb + e - 1)

/-- The canonical NaN (R101). -/
def nanBits : Fmt → Nat
  | .fp16 => 0x7E00
  | .bf16 => 0x7FC0
  | .fp8e4 => 0x7F
  | .fp8e5 => 0x7E
  | _ => 0x7FC00000

/-- The pattern of the largest finite value. -/
def maxBits : Fmt → Nat
  | .fp16 => 0x7BFF
  | .bf16 => 0x7F7F
  | .fp8e4 => 0x7E
  | .fp8e5 => 0x7B
  | _ => 0x7F7FFFFF

/-- The sign bit's weight. -/
def signBit (f : Fmt) : Nat := 2 ^ ((fspec f).eb + (fspec f).fb)

/-- A pattern with a sign. -/
def signed (f : Fmt) (neg : Bool) (x : Nat) : Nat := if neg then signBit f + x else x

/-- An infinite result: the infinity, or the largest value with SAT; FP8E4 has NaN for an infinity (R111, R112). -/
def infBits (f : Fmt) (sat neg : Bool) : Nat :=
  if sat then signed f neg (maxBits f)
  else if f = .fp8e4 then nanBits f else signed f neg ((2 ^ (fspec f).eb - 1) * 2 ^ (fspec f).fb)

/-- Whether rounding m = k × 2^sh + r moves away from zero (R111). -/
def roundUp (mode : RMode) (neg : Bool) (k r sh : Nat) : Bool :=
  match mode with
  | .rtz => false
  | .rdn => neg && decide (r ≠ 0)
  | .rup => !neg && decide (r ≠ 0)
  | .rne => decide (2 * r > 2 ^ sh) || (decide (2 * r = 2 ^ sh) && decide (r ≠ 0) && decide (k % 2 = 1))
  | .rna => decide (2 * r ≥ 2 ^ sh) && decide (r ≠ 0)

/-- m × 2^e as a multiple of 2^q, rounded. -/
def roundTo (mode : RMode) (neg : Bool) (m : Nat) (e q : Int) : Nat :=
  if q ≤ e then m * 2 ^ (e - q).toNat
  else
    let sh := (q - e).toNat
    let k := m / 2 ^ sh
    if roundUp mode neg k (m % 2 ^ sh) sh then k + 1 else k

/-- An overflow's result (R111). -/
def overflow (f : Fmt) (mode : RMode) (sat neg : Bool) : Nat :=
  let toInf := match mode with
    | .rne | .rna => true
    | .rtz => false
    | .rdn => neg
    | .rup => !neg
  if toInf then infBits f sat neg else signed f neg (maxBits f)

/-- An exact value rounded to a format (R111, R112). -/
def roundF (f : Fmt) (mode : RMode) (sat : Bool) (x : FVal) : Nat :=
  match x with
  | .nan => nanBits f
  | .inf neg => infBits f sat neg
  | .fin neg m e =>
    if m = 0 then signed f neg 0
    else
      let p := fspec f
      let lsb : Int := 1 - (p.bias : Int) - p.fb
      let q : Int := max lsb (Nat.log2 m + e - p.fb)
      let k := roundTo mode neg m e q
      let (k, q) := if k = 2 ^ (p.fb + 1) then (2 ^ p.fb, q + 1) else (k, q)
      let bits := if k < 2 ^ p.fb then k else (q - lsb + 1).toNat * 2 ^ p.fb + (k - 2 ^ p.fb)
      if maxBits f < bits then overflow f mode sat neg else signed f neg bits

/-- A finite value as an integer multiple of 2^e0, for e0 at most its exponent. -/
def FVal.scaled (e0 : Int) : FVal → Int
  | .fin neg m e => let v : Int := m * 2 ^ (e - e0).toNat; if neg then -v else v
  | _ => 0

/-- The exponent of a finite value. -/
def FVal.exp : FVal → Int
  | .fin _ _ e => e
  | _ => 0
/-- The sign. -/
def FVal.neg : FVal → Bool
  | .fin n _ _ => n
  | .inf n => n
  | .nan => false
/-- NaN. -/
def FVal.isNan : FVal → Bool
  | .nan => true
  | _ => false
/-- An infinity. -/
def FVal.isInf : FVal → Bool
  | .inf _ => true
  | _ => false
/-- A zero of either sign. -/
def FVal.isZero : FVal → Bool
  | .fin _ m _ => m = 0
  | _ => false

/-- The exact sum of terms; a zero sum takes its sign from R120, NaN and infinities from R103. -/
def sumF (mode : RMode) (l : List FVal) : FVal :=
  if l.any FVal.isNan then .nan
  else if l.any FVal.isInf then
    (if l.any (fun x => x.isInf && x.neg) then
      (if l.any (fun x => x.isInf && !x.neg) then .nan else .inf true) else .inf false)
  else
    let e0 : Int := l.foldl (fun e x => min e x.exp) 0
    let v : Int := l.foldl (fun a x => a + x.scaled e0) 0
    if v = 0 then
      if l.all FVal.isZero then .fin (l.all FVal.neg || (mode = .rdn && l.any FVal.neg)) 0 0
      else .fin (mode = .rdn) 0 0
    else .fin (decide (v < 0)) v.natAbs e0

/-- The negated value. -/
def FVal.negate : FVal → FVal
  | .fin n m e => .fin (!n) m e
  | .inf n => .inf (!n)
  | .nan => .nan

/-- The exact product (R103). -/
def mulF (a b : FVal) : FVal :=
  match a, b with
  | .nan, _ => .nan
  | _, .nan => .nan
  | .inf n, x => if x.isZero then .nan else .inf (n != x.neg)
  | x, .inf n => if x.isZero then .nan else .inf (n != x.neg)
  | .fin n m e, .fin n' m' e' => .fin (n != n') (m * m') (e + e')

/-- A quotient with a sticky last bit, enough to round once (R103, R114). -/
def divF (a b : FVal) : FVal :=
  match a, b with
  | .nan, _ => .nan
  | _, .nan => .nan
  | .inf _, .inf _ => .nan
  | .inf n, x => .inf (n != x.neg)
  | x, .inf n => .fin (n != x.neg) 0 0
  | .fin n m e, .fin n' m' e' =>
    if m' = 0 then (if m = 0 then .nan else .inf (n != n'))
    else
      let s := 80 + Nat.log2 m'
      let q := m * 2 ^ s / m'
      let r := m * 2 ^ s % m'
      .fin (n != n') (2 * q + if r = 0 then 0 else 1) (e - e' - s - 1)

/-- The integer square root, by bits from i - 1 down. -/
def isqrt : Nat → Nat → Nat → Nat
  | 0, _, r => r
  | i + 1, n, r => let t := r + 2 ^ i; isqrt i n (if t * t ≤ n then t else r)

/-- A square root with a sticky last bit (R103, R114). -/
def sqrtF (a : FVal) : FVal :=
  match a with
  | .nan => .nan
  | .inf n => if n then .nan else .inf false
  | .fin n m e =>
    if m = 0 then .fin n 0 0
    else if n then .nan
    else
      let odd := e % 2 ≠ 0
      let m := (if odd then 2 * m else m) * 2 ^ 80
      let e := (if odd then e - 1 else e) - 80
      let r := isqrt (Nat.log2 m / 2 + 1) m 0
      .fin false (2 * r + if r * r = m then 0 else 1) (e / 2 - 1)

/-- a < b among values that are not NaN. -/
def ltF (a b : FVal) : Bool :=
  match a, b with
  | .nan, _ => false
  | _, .nan => false
  | .inf n, .inf n' => n && !n'
  | .inf n, _ => n
  | _, .inf n => !n
  | x, y => let e := min x.exp y.exp; decide (x.scaled e < y.scaled e)

/-- a = b, with −0 = +0 and NaN unequal. -/
def eqF (a b : FVal) : Bool := !a.isNan && !b.isNan && !ltF a b && !ltF b a

/-- The maximum of R124. -/
def maxF (a b : FVal) : FVal :=
  if a.isNan || b.isNan then .nan
  else if ltF a b then b else if ltF b a then a
  else if a.neg then b else a
/-- The minimum of R124. -/
def minF (a b : FVal) : FVal :=
  if a.isNan || b.isNan then .nan
  else if ltF a b then a else if ltF b a then b
  else if a.neg then a else b

/-- A finite value rounded to an integer (R115). -/
def roundInt (mode : RMode) (neg : Bool) (m : Nat) (e : Int) : Int :=
  let k : Int := roundTo mode neg m e 0
  if neg then -k else k

/-- The range of an integer format (R104). -/
def intRange : Fmt → Int × Int
  | .int8 => (-128, 127)
  | .nat8 => (0, 255)
  | _ => (-2147483648, 2147483647)

/-- An integer clamped. -/
def clampI (lo hi x : Int) : Int := if x < lo then lo else if hi < x then hi else x

/-- An integer result of a format: clamped with SAT, the low bits kept without (R112). -/
def intBits (f : Fmt) (sat : Bool) (x : Int) : Nat :=
  let (lo, hi) := intRange f
  wrapTo (8 * fbytes f) (if sat then clampI lo hi x else x)

/-- The integer that a pattern of an integer format holds (R104). -/
def decodeI (f : Fmt) (x : Nat) : Int :=
  match f with
  | .nat8 => (x % 256 : Nat)
  | .int8 => signedOf 8 x
  | _ => signedOf 32 x

/-- An integer format. -/
def isIntF : Fmt → Bool
  | .int32 | .int8 | .nat8 => true
  | _ => false

/-- One element converted between floating and integer formats (R115). -/
def convert (src dst : Fmt) (mode : RMode) (sat : Bool) (x : Nat) : Nat :=
  if isIntF src then
    let i := decodeI src x
    if isIntF dst then
      let (lo, hi) := intRange dst
      if lo ≤ i ∧ i ≤ hi then wrapTo (8 * fbytes dst) i else intBits dst sat i
    else roundF dst mode sat (.fin (decide (i < 0)) i.natAbs 0)
  else
    let v := decodeF src x
    if isIntF dst then
      let (lo, hi) := intRange dst
      match v with
      | .nan => 0
      | .inf n => wrapTo (8 * fbytes dst) (if n then lo else hi)
      | .fin n m e => wrapTo (8 * fbytes dst) (clampI lo hi (roundInt mode n m e))
    else roundF dst mode sat v

/-! ## The tag check (R117) -/

/-- The groups within which an operand is converted. -/
def sameGroup (a b : Fmt) : Bool :=
  let g : Fmt → Nat
    | .fp32 | .int32 => 1
    | .fp16 | .bf16 => 2
    | .fp8e4 | .fp8e5 | .int8 | .nat8 => 3
    | _ => 0
  g a ≠ 0 && g a = g b

/-- TINFO of TAG (R119). -/
def tagInfo (opnd : Nat) (found expect : Fmt) : Word :=
  word (opnd * 256 + Config.fmtCode found * 16 + Config.fmtCode expect)

/-- Whether an operand with a tag, read as format x, is taken as it is (`some none`), converted from its tag
(`some (some tag)`), or refused (R117, R118). -/
def tagCheck (tagmode : Bool) (tag x : Fmt) : Option (Option Fmt) :=
  if tag = x ∨ tag = .untyped then some none
  else if sameGroup tag x ∧ !tagmode then some (some tag)
  else none

/-- An element read as format x from data of a tag that the check accepted. -/
def readAs (c : Option Fmt) (x : Fmt) (mode : RMode) (sat : Bool) (v : Nat) : Nat :=
  match c with
  | none => v
  | some t => convert t x mode sat v

/-! ## Registers as elements (R105) -/

/-- Element i of w bytes. -/
def vget (v : VReg) (w i : Nat) : Nat := v.toNat / 2 ^ (8 * w * i) % 2 ^ (8 * w)

/-- n elements of w bytes in order, as a number. -/
def packElems (w : Nat) : Nat → (Nat → Nat) → Nat
  | 0, _ => 0
  | n + 1, f => packElems w n f + f n % 2 ^ (8 * w) * 2 ^ (8 * w * n)

/-- A register of elements. -/
def vreg (w n : Nat) (f : Nat → Nat) : VReg := BitVec.ofNat 65536 (packElems w n f)

/-! ## PL and G4 -/

/-- The value v × 2^x of an integer. -/
def intF (v : Int) (x : Int) : FVal := .fin (decide (v < 0)) v.natAbs x

/-- A PL element q (8-bit pattern) of a group with scale e, read with k planes (R109). -/
def plValue (k e q : Nat) : FVal :=
  if e = 255 then .nan
  else
    let t := signedOf k (q / 2 ^ (8 - k))
    let v : Int := if k = 8 then t else t * 2 ^ (8 - k) + 2 ^ (7 - k)
    intF v ((e : Int) - 127)

/-- The stored integer of a value under a scale (R110). -/
def plQuant (mode : RMode) (e : Nat) (x : FVal) : Nat :=
  match x with
  | .fin n m ex => wrapTo 8 (clampI (-128) 127 (roundInt mode n m (ex - ((e : Int) - 127))))
  | _ => 0

/-- The scale that R110 chooses for a group. -/
def plScale (l : List FVal) : Nat :=
  if l.any (fun x => x.isNan || x.isInf) then 255
  else
    let top := l.foldl (fun a x => match x with
      | .fin _ m e => if m = 0 then a else
        let t : Int := Nat.log2 m + e
        (match a with | none => some t | some u => some (max t u))
      | _ => a) (none : Option Int)
    match top with
    | none => 0
    | some t => (min 254 (max 0 (t + 121))).toNat

/-- A group as R110 stores it: its scale and its integers. -/
def plGroup (mode : RMode) (l : List FVal) : Nat × List Nat :=
  let e := plScale l
  (e, l.map (fun x => if e = 255 then 0 else plQuant mode e x))

/-- The bits of planes at or beyond k cleared (R178, R179). -/
def plKeep (k q : Nat) : Nat := q / 2 ^ (8 - k) * 2 ^ (8 - k)

/-- Element i of a PL tensor of n elements held as bytes, with k planes read: its 8-bit integer (R108). -/
def plElem (mem n k i : Nat) : Nat :=
  (List.range k).foldl
    (fun a j => a + (if bit mem (8 * (plArea n + j * (n / 8)) + i) then 2 ^ (7 - j) else 0)) 0

/-- The scale of a group of a PL tensor. -/
def plScaleAt (mem g : Nat) : Nat := mem / 2 ^ (8 * g) % 256

/-- A G4 element of an 80-byte row block, as the BF16 pattern of the prologue (R106, R107). -/
def g4Value (blk j : Nat) : Nat :=
  let q := signedOf 4 (blk / 2 ^ (4 * j))
  let g := j / 32
  let sc := decodeF .bf16 (blk / 2 ^ (8 * (64 + 2 * g)) % 65536)
  let z := signedOf 4 (blk / 2 ^ (8 * 72 + 4 * g))
  roundF .bf16 .rne false (mulF (intF (q - z) 0) sc)

end Sys2Proof.Machine
end

