-- ==== Sys2Proof/Machine/EngineOps.lean ====
section
/-! DEFINITION. How an engine executes the instruction at its head (R131 to R135, R141, R142, R146, R364): the
bank check, the read step, the instruction's effect, its pushes, its leaving, or its trap or wait. -/

namespace Sys2Proof.Machine

/-! ## Queue registers (R130) -/

/-- Slot of entry j of queue register q. -/
def qSlot (q j : Nat) : Nat := 128 + 4 * q + j % 4
/-- The entries put back ahead of a full queue register (R135). -/
def Vec.ahead (v : Vec) (q : Nat) : List (VReg × Fmt) := SMap.get [] v.excess q
/-- The entries that a queue register holds. -/
def Vec.qcount (v : Vec) (q : Nat) : Nat := SMap.get 0 v.count q + (v.ahead q).length
/-- The head position of a queue register. -/
def Vec.qhead (v : Vec) (q : Nat) : Nat := SMap.get 0 v.head q
/-- A slot of the register file with its tag. -/
def Vec.slot (v : Vec) (i : Nat) : VReg × Fmt := (SMap.get 0 v.r i, SMap.get .untyped v.f i)
/-- A slot of the register file written. -/
def Vec.setSlot (v : Vec) (i : Nat) (x : VReg) (f : Fmt) : Vec :=
  { v with r := SMap.set 0 v.r i x, f := SMap.set .untyped v.f i f }
/-- The entry at the head. -/
def Vec.front (v : Vec) (q : Nat) : VReg × Fmt := (v.ahead q).headD (v.slot (qSlot q (v.qhead q)))
/-- The head entry removed. -/
def Vec.pop (v : Vec) (q : Nat) : Vec :=
  match v.ahead q with
  | _ :: l => { v with excess := SMap.set [] v.excess q l }
  | [] => { v with head := SMap.set 0 v.head q ((v.qhead q + 1) % 4), count := SMap.set 0 v.count q (SMap.get 0 v.count q - 1) }
/-- An entry appended (R132); the queue holds fewer than four. -/
def Vec.push (v : Vec) (q : Nat) (x : VReg) (f : Fmt) : Vec :=
  let n := SMap.get 0 v.count q
  { v.setSlot (qSlot q (v.qhead q + n)) x f with count := SMap.set 0 v.count q (n + 1) }
/-- A popped entry put back at the head, for an instruction that a trap leaves without effect (R135): where other pushes have filled the
queue meanwhile it stands ahead of the four. [DESIGN CHOICE, log 21] -/
def Vec.unpop (v : Vec) (q : Nat) (x : VReg) (f : Fmt) : Vec :=
  let n := SMap.get 0 v.count q
  if n < 4 ∧ v.ahead q = [] then
    let h := (v.qhead q + 3) % 4
    { v.setSlot (qSlot q h) x f with head := SMap.set 0 v.head q h, count := SMap.set 0 v.count q (n + 1) }
  else { v with excess := SMap.set [] v.excess q ((x, f) :: v.ahead q) }

/-- The state with the vector registers of the moving context changed. -/
def State.onVec (s : State) (f : Vec → Vec) : State := s.setCtx { s.ctx with vec := f s.ctx.vec }
/-- The state with the matrix engine's registers of the moving context changed. -/
def State.onMat (s : State) (f : Mat → Mat) : State := s.setCtx { s.ctx with mat := f s.ctx.mat }
/-- An engine of the moving context. -/
def State.eng (s : State) (e : Engine) : Eng := s.ctx.engAt e

/-! ## The read step (R133) -/

/-- The lowest-numbered empty queue among those read. -/
def Vec.firstEmpty (v : Vec) (l : List (Nat × Bool)) : Option Nat :=
  (l.filter (fun e => v.qcount e.1 = 0)).foldl
    (fun a e => match a with | none => some e.1 | some b => some (Nat.min b e.1)) none

/-- Every queue named is read once into the engine's latch, and popped where a field pops it. -/
def State.readAll (s : State) (e : Engine) (l : List (Nat × Bool)) : State :=
  let v := s.ctx.vec
  let latch := l.foldl (fun m x => SMap.set none m x.1 (some (v.front x.1))) []
  let t := s.onVec (fun v => l.foldl (fun v x => if x.2 then v.pop x.1 else v) v)
  t.onEng e (fun x => { x with latch := latch, latched := true, stall := .none, stalled := 0 })

/-- A stall goes on: the same one, or a hold of the halo queue for another face (R333). -/
def Stall.goesOn : Stall → Stall → Bool
  | .halo _ _, .halo _ _ => true
  | a, b => a = b

/-- A stall of the head; a new stall starts its count (R135). -/
def State.stall (s : State) (e : Engine) (w : Stall) : State :=
  s.onEng e (fun x => { x with stall := w, stalled := if x.stall.goesOn w then x.stalled else 0 })

/-- The read step of the issuing instruction, or its stall. -/
def State.readStep (s : State) (e : Engine) : State × Bool :=
  if (s.eng e).latched then (s, true)
  else
    let l := queueReads s.iss.instr
    if l.isEmpty then (s, true)
    else
      match s.ctx.vec.firstEmpty l with
      | some q => (s.stall e (.read q), false)
      | none => (s.readAll e l, true)

/-- The pops of a latched instruction undone, and its latch dropped (R119, R135). [DESIGN CHOICE, log 21] -/
def State.unread (s : State) (e : Engine) : State :=
  let x := s.eng e
  if x.latched then
    let l := (queueReads s.iss.instr).filter (·.2)
    let t := s.onVec (fun v => l.foldl (fun v r =>
      match SMap.get none x.latch r.1 with
      | some (d, f) => v.unpop r.1 d f
      | none => v) v)
    t.onEng e (fun x => { x with latch := [], latched := false })
  else s

/-! ## Banks (R146) -/

/-- The group that a bank is lent as. -/
def Vec.lentAs (v : Vec) (bank : Nat) : Option Nat :=
  if (v.g0.map BitVec.toNat) = some bank then some 0
  else if (v.g1.map BitVec.toNat) = some bank then some 1 else none

/-- BANKBUSY's TINFO where the instruction names a register of a lent bank or an accumulator of a group that is
not lent: of several, the first field read, then the first written, registers before accumulators. [DEDUCED, log 92] -/
def Vec.bankCheck (v : Vec) (i : Instr) : Option Word :=
  let u := uses i
  let reg := (u.rd ++ u.wr).findSome? (fun x => match x with
    | .v n => (v.lentAs (n.toNat / 32)).map (fun g => bankInfo (n.toNat / 32) g 4)
    | _ => none)
  let acc := (u.ar ++ u.aw).findSome? (fun a =>
    if a.toNat < 8 then none
    else
      let g := (a.toNat - 8) / 4
      if (v.lend (BitVec.ofNat 1 g)).isNone then some (bankInfo 0 g 5) else none)
  reg.or acc

/-! ## Pushes (R132, R135, R142) -/

/-- One push made. [DESIGN CHOICE, log 21] -/
def State.pushOne (s : State) (p : Push) : State :=
  let t := s.onVec (fun v => v.push p.q p.v p.f)
  match p.acc with
  | some (a, o) => t.onMat (fun m => { m with out := SMap.set 0 m.out a o })
  | none => t

/-- The pushes made one after the other, each a step whose wait is counted by itself (R132, R135); the first without room
stalls, the instruction staying at the head with the rest; after the last it leaves. -/
def State.pushAll (e : Engine) : List Push → State → State
  | [], s => s.onEng e Eng.leave
  | p :: l, s =>
    if s.ctx.vec.qcount p.q < 4 then
      State.pushAll e l ((s.pushOne p).onEng e (fun x => { x with made := x.made + 1, stall := .none, stalled := 0 }))
    else (s.onEng e (fun x => { x with pushes := p :: l })).stall e (.push p.q)

/-! ## The instruction -/

/-- What an instruction's body gives: the state and the pushes that end it, oldest first. -/
abbrev Body := State → Res' (State × List Push)

/-- Registers and masks that an issued instruction has latched, in their places (R378). -/
def Vec.latchIn (v : Vec) (l : SMap (Option (VReg × Fmt))) : Vec :=
  l.foldl (fun v e =>
    match e.2 with
    | some (d, f) => if e.1 < 64 then v else if e.1 < 192 then v.setSlot (e.1 - 64) d f else { v with k := SMap.set 0 v.k (e.1 - 192) (d.setWidth 2048) }
    | none => v) v

/-- What the places of the registers and masks of a latch hold. -/
def Vec.latchOut (v : Vec) (l : SMap (Option (VReg × Fmt))) : SMap (Option (VReg × Fmt)) :=
  l.map (fun e => (e.1, some (if e.1 < 192 then v.slot (e.1 - 64) else ((SMap.get 0 v.k (e.1 - 192)).setWidth 65536, .untyped))))

/-- A state in an outcome changed. -/
def Stop.onState (f : State → State) : Stop → Stop
  | .trap s c t => .trap (f s) c t
  | .hold s => .hold (f s)

/-- An issued instruction goes on with the values that it has latched, whatever its registers hold now, and makes the pushes not yet made: its own
results are pushes, so that its registers keep their values (R183, R209, R378). -/
def fromLatch (e : Engine) (body : Body) : Body := fun s =>
  let x := s.eng e
  let back (u : State) : State := u.onVec (fun v => v.latchIn (s.ctx.vec.latchOut x.latch))
  match body (s.onVec (fun v => v.latchIn x.latch)) with
  | .ok (u, l) => .ok (back u, if l.any (fun p => p.acc.isSome) then l.take (l.length - x.made) else l.drop x.made)
  | .error w => .error (w.onState back)

/-- An engine executes the instruction it is issuing. [DESIGN CHOICE, log 6] -/
def engineOp (e : Engine) (body : Body) (s : State) : Ans :=
  let x := s.eng e
  if x.pushes ≠ [] then .next (State.pushAll e x.pushes s)
  else
    match s.ctx.vec.bankCheck s.iss.instr with
    | some ti => .next (s.freeze e tBANKBUSY ti)
    | none =>
      match s.readStep e with
      | (t, false) => .next t
      | (t, true) =>
        match (if x.latched then fromLatch e body t else body t) with
        | .ok (u, l) => .next (State.pushAll e l u)
        | .error (.trap u code ti) => .next ((u.unread e).freeze e code ti)
        | .error (.hold u) => .next u

/-- A body without pushes. -/
def noPush (b : State → Res' State) : Body := fun s =>
  match b s with
  | .ok t => .ok (t, [])
  | .error x => .error x

/-- A register operand as the issuing instruction sees it: a plain register, or the latched head entry. -/
def State.opnd (s : State) (e : Engine) (x : VR) : VReg × Fmt :=
  match x with
  | .v n => s.ctx.vec.slot n.toNat
  | .q n => (SMap.get none (s.eng e).latch n.toNat).getD (0, .untyped)
  | .pk n => (SMap.get none (s.eng e).latch n.toNat).getD (0, .untyped)

/-- A result written: to a plain register with its tag, or as the one push of the instruction. -/
def State.result (s : State) (d : VR) (x : VReg) (f : Fmt) : State × List Push :=
  match d with
  | .v n => (s.onVec (fun v => v.setSlot n.toNat x f), [])
  | .q n => (s, [⟨n.toNat, x, f, none⟩])
  | .pk n => (s, [⟨n.toNat, x, f, none⟩])

/-- An operand read as a format, by the tag check of R117; element i's pattern. -/
def State.readOp (s : State) (x : VReg × Fmt) (opnd : Nat) (f : Fmt) (mode : RMode) (sat : Bool) :
    Res' (Nat → Nat) :=
  match tagCheck s.ctx.tagmode x.2 f with
  | none => .error (.trap s tTAG (tagInfo opnd x.2 f))
  | some c => .ok (fun i => readAs c f mode sat (vget x.1 (fbytes f) i))

/-! ## Masks (R152, R153) -/

/-- A mask register. -/
def Vec.mask (v : Vec) (k : BitVec 3) : KMask := SMap.get 0 v.k k.toNat
/-- A mask register written. -/
def Vec.setMask (v : Vec) (k : BitVec 3) (x : KMask) : Vec := { v with k := SMap.set 0 v.k k.toNat x }
/-- Lane j is active under mask field k: every lane where it is 0. -/
def Vec.active (v : Vec) (k : BitVec 3) (j : Nat) : Bool := k = 0 || (v.mask k).getLsbD j

/-- The old elements that a merge keeps in a result of format f: zeros for a queue or without a mask; checked
with OPND 3 (R153). -/
def State.keepTyped (s : State) (d : VR) (k : BitVec 3) (f : Fmt) (mode : RMode) (sat : Bool) : Res' (Nat → Nat) :=
  match d with
  | .v n => if k = 0 then .ok (fun _ => 0) else s.readOp (s.ctx.vec.slot n.toNat) 3 f mode sat
  | _ => .ok (fun _ => 0)

/-- The old elements of w bytes that a bit-moving instruction keeps. -/
def State.keepRaw (s : State) (d : VR) (w i : Nat) : Nat :=
  match d with
  | .v n => vget (s.ctx.vec.slot n.toNat).1 w i
  | _ => 0

end Sys2Proof.Machine
end

