-- ==== Sys2Proof/Machine/Tiles.lean ====
section
/-! DEFINITION. Cistern tiles (R291, R293 to R295): the tiles of a span, READY, the early-read check and the
sequence-tag check of a load. -/

namespace Sys2Proof.Machine

/-- READY of a tile (R294). -/
def Tile.ready (t : Tile) : Word :=
  t.ests.foldl (fun a e => if a.toNat < e.2.toNat then e.2 else a) t.base

/-- A tile by its key: core index times 2048 plus physical tile index. -/
def State.tile (s : State) (k : Nat) : Tile := SMap.get Tile.reset s.tiles k
/-- A tile replaced. -/
def State.setTile (s : State) (k : Nat) (t : Tile) : State := { s with tiles := SMap.set Tile.reset s.tiles k t }

/-- A number put into a rising list once. -/
def insertNat (x : Nat) : List Nat → List Nat
  | [] => [x]
  | y :: l => if x < y then x :: y :: l else if x = y then y :: l else y :: insertNat x l

/-- The tiles that hold bytes of flat runs, ascending. -/
def tilesOfRuns (l : List (Nat × Nat)) : List Nat :=
  l.foldl (fun acc r =>
    if r.2 = 0 ∨ r.1 < Config.cisternBase ∨ Config.imemBase ≤ r.1 then acc
    else
      let lo := (r.1 - Config.cisternBase) / 4096
      let hi := (r.1 - Config.cisternBase + r.2 - 1) / 4096
      (List.range (hi - lo + 1)).foldl (fun a i => insertNat (lo + i) a) acc) []

/-- The tiles of bytes of a handle that lies in a cistern; none for any other. -/
def Handle.tiles (h : Handle) (l : List (Nat × Nat)) : List Nat :=
  if h.level = 0 then
    match coreIdx h.core with
    | some ci => tilesOfRuns (l.flatMap (fun r => h.cistRuns ci (r.2 / 64 + 2) r.1 r.2))
    | none => []
  else []

/-- TINFO of EARLYREAD for the first tile whose READY lies in the future (R295). [DEDUCED, log 19] -/
def State.earlyRead (s : State) (l : List Nat) : Option Word :=
  (l.find? (fun k => s.dcc.toNat < (s.tile k).ready.toNat)).map
    (fun k => word (k % 2048 * 2 ^ 48 + (s.tile k).ready.toNat % 2 ^ 48))

/-- TINFO of SCHEDULE for the first tile whose tag is not the expected one (R291, R293). -/
def State.tagFails (s : State) (l : List Nat) (x : BitVec 16) : Option Word :=
  (l.find? (fun k => (s.tile k).tag ≠ x ∨ x = 0xFFFF)).map
    (fun k => word (k % 2048 * 2 ^ 32 + (s.tile k).tag.toNat * 2 ^ 16 + x.toNat))

/-- The checks of a read of tiles: the early-read checker where it is enabled, then the expected tag. -/
def State.tileCheck (s : State) (h : Handle) (l : List (Nat × Nat)) (early : Bool) (tag : Option (BitVec 16)) :
    Option (BitVec 8 × Word) :=
  let ts := h.tiles l
  match (if early ∧ s.ctx.csr.erc then s.earlyRead ts else none) with
  | some ti => some (tEARLYREAD, ti)
  | none =>
    match tag with
    | none => none
    | some x =>
      if h.level ≠ 0 then some (tSCHEDULE, word (2 ^ 43 + x.toNat))
      else (s.tagFails ts x).map (fun ti => (tSCHEDULE, ti))

end Sys2Proof.Machine
end

