-- ==== Sys2Proof/Machine/Trans.lean ====
section
/-! DEFINITION. The transcendental functions of R169. The spec fixes the special cases and an error bound and leaves
the bits to the device: the device's own bits (`Config.transBits`) are the result where they lie within the bound of a
value computed here with more than 80 bits; else the rounded computed value is. -/

namespace Sys2Proof.Machine

/-- Fixed point of the computation: this many fraction bits. -/
def fixBits : Nat := 320
/-- One in fixed point. -/
def fixOne : Int := 2 ^ 320

/-- Sum of y^(2i+1)/(2i+1) for i from `i` on, n terms; y2 is y squared, t the current power. -/
def atanhSum : Nat → Nat → Int → Int → Int
  | 0, _, _, _ => 0
  | n + 1, i, y2, t => t / (2 * i + 1 : Nat) + atanhSum n (i + 1) y2 (t * y2 / fixOne)

/-- ln of num/den between 1 and 2, in fixed point. -/
def lnFix (num den : Nat) : Int :=
  let y : Int := ((num : Int) - den) * fixOne / ((num : Int) + den)
  2 * atanhSum 105 0 (y * y / fixOne) y

/-- ln 2. -/
def ln2Fix : Int := lnFix 2 1

/-- Taylor sum of e^r from term i on: t is the current term. -/
def expSum : Nat → Nat → Int → Int → Int
  | 0, _, _, _ => 0
  | n + 1, i, r, t => t + expSum n (i + 1) r (t * r / fixOne / (i + 1 : Nat))

/-- e^x of a fixed-point x as a mantissa of `fixBits` fraction bits and a power of two. -/
def expFix (x : Int) : Nat × Int :=
  let l2 := ln2Fix
  let k := (2 * x + l2) / (2 * l2)
  ((expSum 72 0 (x - k * l2) fixOne).toNat, k)

/-- A finite value in fixed point, cut below. -/
def FVal.fix : FVal → Int
  | .fin n m e =>
    let v : Int := if 0 ≤ e + fixBits then m * 2 ^ (e + fixBits).toNat else m / 2 ^ (-(e + fixBits)).toNat
    if n then -v else v
  | _ => 0

/-- The quotient of two positive numbers as a value. -/
def ratio (neg : Bool) (num den : Nat) : FVal := divF (.fin neg num 0) (.fin false den 0)

/-- A value so near 0 or 1 that its distance is far below the margin of the bound: what e^x, tanh and the sigmoid are where the
input's magnitude is at least 256. [DESIGN CHOICE, log 20] -/
def nearly : Bool → Bool → FVal
  | neg, false => .fin neg 1 (-300)
  | neg, true => .fin neg (2 ^ 300 - 1) (-300)

/-- A finite value of magnitude at least 256. -/
def bigExp : FVal → Bool
  | .fin _ m e => m ≠ 0 && decide (8 ≤ Nat.log2 m + e)
  | _ => true

/-- tanh of a finite nonzero value. -/
def tanhVal (a : FVal) : FVal :=
  if bigExp a then nearly a.neg true
  else
    let x := if a.neg then -(2 * a.fix) else 2 * a.fix
    let (m, k) := expFix x
    let e := m * 2 ^ k.toNat
    ratio a.neg (e - 2 ^ fixBits) (e + 2 ^ fixBits)

/-- The logistic sigmoid of a finite value. -/
def sigVal (a : FVal) : FVal :=
  if bigExp a then nearly false (!a.neg)
  else
    let (m, k) := expFix a.fix
    if 0 ≤ k then let e := m * 2 ^ k.toNat; ratio false e (2 ^ fixBits + e)
    else ratio false m (2 ^ (fixBits + (-k).toNat) + m)

/-- e^a of a finite value at most 88.72283. -/
def expVal (a : FVal) : FVal :=
  if bigExp a then nearly false false
  else let (m, k) := expFix a.fix; .fin false m (k - fixBits)

/-- ln a of a positive finite value. -/
def logVal (a : FVal) : FVal :=
  match a with
  | .fin _ m e =>
    let b := Nat.log2 m
    let v := lnFix m (2 ^ b) + (e + b) * ln2Fix
    .fin (decide (v < 0)) v.natAbs (-(fixBits : Int))
  | x => x

/-- The value of a transcendental: exact for special cases, else computed. [DESIGN CHOICE, log 20] -/
def transVal (t : Config.Trans) (a : FVal) : FVal :=
  match t, a with
  | _, .nan => .nan
  | .exp, .inf n => if n then .fin false 0 0 else .inf false
  | .exp, x =>
    if x.isZero then .fin false 1 0
    else if ltF (ratio false 8872283 100000) x then .inf false else expVal x
  | .log, .inf n => if n then .nan else .inf false
  | .log, x =>
    if x.isZero then .inf true else if x.neg then .nan
    else if eqF x (.fin false 1 0) then .fin false 0 0 else logVal x
  | .rcp, x => divF (.fin false 1 0) x
  | .rsqrt, .inf n => if n then .nan else .fin false 0 0
  | .rsqrt, x => if x.isZero then .inf x.neg else if x.neg then .nan else divF (.fin false 1 0) (sqrtF x)
  | .tanh, .inf n => .fin n 1 0
  | .tanh, x => if x.isZero then x else tanhVal x
  | .sig, .inf n => if n then .fin false 0 0 else .fin false 1 0
  | .sig, x => if x.isZero then .fin false 1 (-1) else sigVal x

/-- The bound of R169 in ulp. [DESIGN CHOICE, log 20] -/
def transBound : Config.Trans → Nat
  | .exp | .log => 2
  | .rcp | .rsqrt => 1
  | .tanh | .sig => 3

/-- A pattern lies within a bound of a finite value, with a margin for the value's own error: one ulp is
2^(e - 23), e at least -126. [DESIGN CHOICE, log 20] -/
def withinUlp (bound : Nat) (v x : FVal) : Bool :=
  match v, x with
  | .fin _ m e, .fin _ _ e' =>
    let top : Int := if m = 0 then -126 else max (-126) (Nat.log2 m + e)
    let e0 := min (min e e') (top - 23 - 40)
    let d := (v.scaled e0 - x.scaled e0).natAbs
    decide (d ≤ bound * (2 ^ 40 - 1) * 2 ^ (top - 63 - e0).toNat)
  | _, _ => false

/-- A transcendental of an FP32 pattern (R169): representable results exactly; else the device's bits within the
bound. [DESIGN CHOICE, log 4; DESIGN CHOICE, log 20] -/
def transF (t : Config.Trans) (sat : Bool) (x : Nat) : Nat :=
  let v := transVal t (decodeF .fp32 x)
  let r := roundF .fp32 .rne sat v
  if eqF (decodeF .fp32 r) v then r
  else
    let free := (Config.transBits t (BitVec.ofNat 32 x)).toNat
    if withinUlp (transBound t) v (decodeF .fp32 free) then free else r

end Sys2Proof.Machine
end

