-- ==== Sys2Proof/Machine/VecMath.lean ====
section
/-! DEFINITION. The element functions of vector instructions (R122 to R124, R158, R159, R163, R170, R171), over element
patterns. -/

namespace Sys2Proof.Machine

/-- A two-operand function by format: on exact floating values, or on integers. -/
def arith2 (fF : RMode → FVal → FVal → FVal) (fI : Int → Int → Int) (f : Fmt) (mode : RMode) (sat : Bool)
    (a b : Nat) : Nat :=
  if isIntF f then intBits f sat (fI (decodeI f a) (decodeI f b))
  else roundF f mode sat (fF mode (decodeF f a) (decodeF f b))

/-- a + b. -/
def addE := arith2 (fun m a b => sumF m [a, b]) (· + ·)
/-- a − b. -/
def subE := arith2 (fun m a b => sumF m [a, b.negate]) (· - ·)
/-- a × b. -/
def mulE := arith2 (fun _ a b => mulF a b) (· * ·)
/-- min(a, b). -/
def minE := arith2 (fun _ a b => minF a b) min
/-- max(a, b). -/
def maxE := arith2 (fun _ a b => maxF a b) max
/-- a × b + c, rounded once. -/
def fmaE (f : Fmt) (mode : RMode) (sat : Bool) (a b c : Nat) : Nat :=
  roundF f mode sat (sumF mode [mulF (decodeF f a) (decodeF f b), decodeF f c])
/-- |a|. -/
def absE (f : Fmt) (mode : RMode) (sat : Bool) (a : Nat) : Nat :=
  if isIntF f then intBits f sat (decodeI f a).natAbs
  else roundF f mode sat (if (decodeF f a).neg then (decodeF f a).negate else decodeF f a)
/-- −a. -/
def negE (f : Fmt) (mode : RMode) (sat : Bool) (a : Nat) : Nat :=
  if isIntF f then intBits f sat (-(decodeI f a)) else roundF f mode sat (decodeF f a).negate
/-- a / b. -/
def divE (f : Fmt) (mode : RMode) (sat : Bool) (a b : Nat) : Nat :=
  roundF f mode sat (divF (decodeF f a) (decodeF f b))
/-- √a. -/
def sqrtE (f : Fmt) (mode : RMode) (sat : Bool) (a : Nat) : Nat := roundF f mode sat (sqrtF (decodeF f a))
/-- min(max(a, b), c). -/
def clampE (f : Fmt) (a b c : Nat) : Nat := minE f .rne false (maxE f .rne false a b) c

/-- The relations of compares. -/
inductive Rel where
  | eq | lt | le
deriving DecidableEq, Repr

/-- A relation between element patterns (R159). -/
def relE (r : Rel) (f : Fmt) (a b : Nat) : Bool :=
  if isIntF f then
    let x := decodeI f a
    let y := decodeI f b
    match r with
    | .eq => decide (x = y)
    | .lt => decide (x < y)
    | .le => decide (x ≤ y)
  else
    let x := decodeF f a
    let y := decodeF f b
    match r with
    | .eq => eqF x y
    | .lt => ltF x y
    | .le => ltF x y || eqF x y

/-- One level of the tree of R122. -/
def pairUp (comb : Nat → Nat → Nat) : List (Option Nat) → List (Option Nat)
  | x :: y :: l =>
    (match x, y with
      | none, y => y
      | x, none => x
      | some a, some b => some (comb a b)) :: pairUp comb l
  | l => l

/-- m levels of the tree. [DEDUCED, log 11] -/
def tree (comb : Nat → Nat → Nat) : Nat → List (Option Nat) → Option Nat
  | 0, l => l.headD none
  | m + 1, l => tree comb m (pairUp comb l)

/-- What a reduction combines, and the elements' format inside the tree. -/
inductive Red where
  | sum | max | min
deriving DecidableEq, Repr

/-- The combine function of a node (R122): FP32 for every floating format; SAT acts at each node only for integers. [DEDUCED, log 11] -/
def Red.comb (r : Red) (f : Fmt) (mode : RMode) (sat : Bool) : Nat → Nat → Nat :=
  let g := if isIntF f then f else .fp32
  match r with
  | .sum => addE g mode (sat && isIntF f)
  | .max => maxE g mode false
  | .min => minE g mode false

/-- The result where every element is absent (R122). -/
def Red.empty (r : Red) (f : Fmt) : Nat :=
  match r with
  | .sum => 0
  | .max => if isIntF f then 0x80000000 else 0xFF800000
  | .min => if isIntF f then 0x7FFFFFFF else 0x7F800000

/-- A 16-bit floating format, reduced in FP32. -/
def isHalf (f : Fmt) : Bool := f = .fp16 || f = .bf16

/-- A floating value as a unit gives it: a NaN canonical, an infinity the largest finite value under SAT (R101, R112). -/
def resultE (f : Fmt) (mode : RMode) (sat : Bool) (x : Nat) : Nat :=
  if isIntF f then x else roundF f mode sat (decodeF f x)

/-- The reduction of 2^m leaves of a format (R122): 16-bit leaves widen exactly, the root is rounded back; a lone element is
the result as R101 and R112 give one. [DEDUCED, log 11] -/
def reduce (r : Red) (f : Fmt) (mode : RMode) (sat : Bool) (m : Nat) (leaves : List (Option Nat)) : Nat :=
  let l := if isHalf f then leaves.map (fun x => x.map (convert f .fp32 .rne false)) else leaves
  match tree (r.comb f mode sat) m l with
  | none => r.empty f
  | some x => if isHalf f then convert .fp32 f mode sat x else resultE f mode sat x

/-- Inclusive prefixes (R123): `none` for a masked-off element; `first` while no output was made, when `start` gives the
element as a result. -/
def scan (start : Nat → Nat) (comb : Nat → Nat → Nat) : Bool → Nat → List (Option Nat) → List Nat
  | _, _, [] => []
  | _, prev, none :: l => prev :: scan start comb false prev l
  | first, prev, some x :: l =>
    let y := if first then start x else comb prev x
    y :: scan start comb false y l

/-- A list of elements of w bytes as a number, the first lowest. -/
def packList (w : Nat) : List Nat → Nat
  | [] => 0
  | x :: l => x % 2 ^ (8 * w) + packList w l * 2 ^ (8 * w)

/-- Shift operations on 32-bit lanes (R163). -/
def laneShl (a b : Nat) : Nat := a * 2 ^ (b % 32) % 2 ^ 32
/-- Right with zeros. -/
def laneShr (a b : Nat) : Nat := a / 2 ^ (b % 32)
/-- Right with copies of bit 31. -/
def laneSra (a b : Nat) : Nat := wrapTo 32 (signedOf 32 a / (2 ^ (b % 32) : Nat))

/-- The runs of set bits among n bits, as first bit and length. -/
def bitRuns (f : Nat → Bool) (n : Nat) : List (Nat × Nat) :=
  ((List.range n).foldl (fun acc j =>
    if f j then
      match acc with
      | (a, m) :: l => if a + m = j then (a, m + 1) :: l else (j, 1) :: acc
      | [] => [(j, 1)]
    else acc) []).reverse

end Sys2Proof.Machine
end

