-- ==== Sys2Proof/Machine/Vector.lean ====
section
/-! DEFINITION. The vector engine's instructions (R151 to R184). -/

namespace Sys2Proof.Machine

/-- A vector instruction of an occupancy (R184, R386). -/
def vecOp (occ : Nat) (body : Body) (s : State) : Ans :=
  engineOp .vector (fun s =>
    match body s with
    | .ok (t, l) => .ok (t.charge t.cur 3 occ, l)
    | .error x => .error x) s

/-- The rounding mode of an instruction (R113). -/
def State.modeOf (s : State) (o : VOp) : RMode := o.rm.getD s.ctx.vec.mode

/-- An operand of a vector instruction. -/
def State.vsrc (s : State) (x : VR) : VReg × Fmt := s.opnd .vector x

/-- An elementwise result of format f, element i active by its lane's mask bit (R152, R153). -/
def State.putTyped (s : State) (d : VR) (k : BitVec 3) (f : Fmt) (keep fn : Nat → Nat) : State × List Push :=
  let w := fbytes f
  s.result d (vreg w (8192 / w) (fun i => if s.ctx.vec.active k (i * w / 4) then fn i else keep i)) f

/-- A bit-moving result: 2048 lanes, old bits kept under a mask, with a tag (R153). -/
def State.putRaw (s : State) (d : VR) (k : BitVec 3) (f : Fmt) (fn : Nat → Nat) : State × List Push :=
  s.result d (vreg 4 2048 (fun i => if s.ctx.vec.active k i then fn i else s.keepRaw d 4 i)) f

/-! ## Arithmetic (R158, R166) -/

/-- One source. An INT32 operand is converted in the mode that a vector instruction has, also for those whose result ignores
every mode (R169, R117). [DEDUCED, log 88] -/
def elem1 (o : VOp) (f : Fmt) (fn : RMode → Bool → Nat → Nat) : Body := fun s =>
  let m := s.modeOf o
  match s.readOp (s.vsrc o.a) 0 f m o.sat with
  | .error x => .error x
  | .ok a =>
    match s.keepTyped o.d o.k f m o.sat with
    | .error x => .error x
    | .ok keep => .ok (s.putTyped o.d o.k f keep (fun i => fn m o.sat (a i)))

/-- Two sources; where several tags fail, TAG reports the first of A, B, C and the merged destination. [DESIGN CHOICE, log 101] -/
def elem2 (o : VOp) (f : Fmt) (fn : RMode → Bool → Nat → Nat → Nat) : Body := fun s =>
  let m := s.modeOf o
  match s.readOp (s.vsrc o.a) 0 f m o.sat with
  | .error x => .error x
  | .ok a =>
    match s.readOp (s.vsrc o.b) 1 f m o.sat with
    | .error x => .error x
    | .ok b =>
      match s.keepTyped o.d o.k f m o.sat with
      | .error x => .error x
      | .ok keep => .ok (s.putTyped o.d o.k f keep (fun i => fn m o.sat (a i) (b i)))

/-- Three sources; where several tags fail, TAG reports the first of A, B, C and the merged destination. [DESIGN CHOICE, log 101] -/
def elem3 (o : VOp) (f : Fmt) (fn : RMode → Bool → Nat → Nat → Nat → Nat) : Body := fun s =>
  let m := s.modeOf o
  match s.readOp (s.vsrc o.a) 0 f m o.sat with
  | .error x => .error x
  | .ok a =>
    match s.readOp (s.vsrc o.b) 1 f m o.sat with
    | .error x => .error x
    | .ok b =>
      match s.readOp (s.vsrc o.c) 2 f m o.sat with
      | .error x => .error x
      | .ok c =>
        match s.keepTyped o.d o.k f m o.sat with
        | .error x => .error x
        | .ok keep => .ok (s.putTyped o.d o.k f keep (fun i => fn m o.sat (a i) (b i) (c i)))

/-- VADD (R158). -/
def execVadd (f : Fmt) (o : VOp) (s : State) : Ans := vecOp 4 (elem2 o f (addE f)) s
/-- VSUB (R158). -/
def execVsub (f : Fmt) (o : VOp) (s : State) : Ans := vecOp 4 (elem2 o f (subE f)) s
/-- VMUL (R158). -/
def execVmul (f : Fmt) (o : VOp) (s : State) : Ans := vecOp 4 (elem2 o f (mulE f)) s
/-- VFMA (R158). -/
def execVfma (f : Fmt) (o : VOp) (s : State) : Ans := vecOp 4 (elem3 o f (fmaE f)) s
/-- VMIN (R158, R124). -/
def execVmin (f : Fmt) (o : VOp) (s : State) : Ans := vecOp 4 (elem2 o f (minE f)) s
/-- VMAX (R158, R124). -/
def execVmax (f : Fmt) (o : VOp) (s : State) : Ans := vecOp 4 (elem2 o f (maxE f)) s
/-- VABS (R158). -/
def execVabs (f : Fmt) (o : VOp) (s : State) : Ans := vecOp 4 (elem1 o f (absE f)) s
/-- VNEG (R158). -/
def execVneg (f : Fmt) (o : VOp) (s : State) : Ans := vecOp 4 (elem1 o f (negE f)) s
/-- VDIV (R158). -/
def execVdiv (o : VOp) (s : State) : Ans := vecOp 16 (elem2 o .fp32 (divE .fp32)) s
/-- VSQRT (R158). -/
def execVsqrt (o : VOp) (s : State) : Ans := vecOp 16 (elem1 o .fp32 (sqrtE .fp32)) s
/-- VCLAMP (R166). -/
def execVclamp (f : Fmt) (o : VOp) (s : State) : Ans := vecOp 4 (elem3 o f (fun _ _ => clampE f)) s

/-- VEXP (R169). -/
def execVexp (o : VOp) (s : State) : Ans := vecOp 8 (elem1 o .fp32 (fun _ => transF .exp)) s
/-- VLOG (R169). -/
def execVlog (o : VOp) (s : State) : Ans := vecOp 8 (elem1 o .fp32 (fun _ => transF .log)) s
/-- VRCP (R169). -/
def execVrcp (o : VOp) (s : State) : Ans := vecOp 8 (elem1 o .fp32 (fun _ => transF .rcp)) s
/-- VRSQRT (R169). -/
def execVrsqrt (o : VOp) (s : State) : Ans := vecOp 8 (elem1 o .fp32 (fun _ => transF .rsqrt)) s
/-- VTANH (R169). -/
def execVtanh (o : VOp) (s : State) : Ans := vecOp 8 (elem1 o .fp32 (fun _ => transF .tanh)) s
/-- VSIG (R169). -/
def execVsig (o : VOp) (s : State) : Ans := vecOp 8 (elem1 o .fp32 (fun _ => transF .sig)) s

/-! ## Compares and masks (R159 to R162) -/

/-- A mask of 2048 bits. -/
def kmask (f : Nat → Bool) : KMask :=
  BitVec.ofNat 2048 ((List.range 2048).foldl (fun a j => if f j then a + 2 ^ j else a) 0)

/-- The effect of a compare: k[D] is written over every lane, K filters. -/
def vcmp (r : Rel) (f : Fmt) (kd : BitVec 3) (o : VOp) : Body := fun s =>
  let m := s.ctx.vec.mode
  match s.readOp (s.vsrc o.a) 0 f m false with
  | .error x => .error x
  | .ok a =>
    match s.readOp (s.vsrc o.b) 1 f m false with
    | .error x => .error x
    | .ok b =>
      let rel (i : Nat) := relE r f (a i) (b i)
      let bit (j : Nat) := if fbytes f = 2 then rel (2 * j) && rel (2 * j + 1) else rel j
      .ok (s.onVec (fun v => v.setMask kd (kmask (fun j => bit j && v.active o.k j))), [])

/-- VCMPEQ (R159). -/
def execVcmpeq (f : Fmt) (kd : BitVec 3) (o : VOp) (s : State) : Ans := vecOp 4 (vcmp .eq f kd o) s
/-- VCMPLT (R159). -/
def execVcmplt (f : Fmt) (kd : BitVec 3) (o : VOp) (s : State) : Ans := vecOp 4 (vcmp .lt f kd o) s
/-- VCMPLE (R159). -/
def execVcmple (f : Fmt) (kd : BitVec 3) (o : VOp) (s : State) : Ans := vecOp 4 (vcmp .le f kd o) s

/-- A mask instruction. -/
def maskOp (kd : BitVec 3) (fn : Vec → KMask) : Body := fun s =>
  .ok (s.onVec (fun v => v.setMask kd (fn v)), [])

/-- VKAND (R160). -/
def execVkand (kd ka kb _ : BitVec 3) (s : State) : Ans := vecOp 1 (maskOp kd (fun v => v.mask ka &&& v.mask kb)) s
/-- VKOR (R160). -/
def execVkor (kd ka kb _ : BitVec 3) (s : State) : Ans := vecOp 1 (maskOp kd (fun v => v.mask ka ||| v.mask kb)) s
/-- VKXOR (R160). -/
def execVkxor (kd ka kb _ : BitVec 3) (s : State) : Ans := vecOp 1 (maskOp kd (fun v => v.mask ka ^^^ v.mask kb)) s
/-- VKNOT (R160). -/
def execVknot (kd ka _ : BitVec 3) (s : State) : Ans := vecOp 1 (maskOp kd (fun v => ~~~(v.mask ka))) s
/-- VKSET (R160). -/
def execVkset (kd : BitVec 3) (n : BitVec 12) (_ : BitVec 3) (s : State) : Ans :=
  vecOp 1 (maskOp kd (fun _ => BitVec.ofNat 2048 (2 ^ n.toNat - 1))) s

/-- The number of set bits of a mask. -/
def popMask (m : KMask) : Nat := (List.range 2048).foldl (fun a j => if m.getLsbD j then a + 1 else a) 0

/-- VKCNT (R161): every element, INT32. -/
def execVkcnt (ka : BitVec 3) (o : VOp) (s : State) : Ans :=
  vecOp 4 (fun s => let n := popMask (s.ctx.vec.mask ka); .ok (s.result o.d (vreg 4 2048 (fun _ => n)) .int32)) s

/-- VSEL (R162): every lane, tag of A, no tag check. -/
def execVsel (o : VOp) (s : State) : Ans :=
  vecOp 4 (fun s =>
    let a := s.vsrc o.a
    let b := s.vsrc o.b
    let m := s.ctx.vec.mask o.k
    .ok (s.result o.d (vreg 4 2048 (fun j => if m.getLsbD j then vget a.1 4 j else vget b.1 4 j)) a.2)) s

/-! ## Logic, moves, tags (R163 to R165, R168, R172, R173) -/

/-- One source by lanes, with its tag. -/
def lane1 (o : VOp) (fn : Nat → Nat) : Body := fun s =>
  let a := s.vsrc o.a
  .ok (s.putRaw o.d o.k a.2 (fun i => fn (vget a.1 4 i)))
/-- Two sources by lanes, with the tag of A. -/
def lane2 (o : VOp) (fn : Nat → Nat → Nat) : Body := fun s =>
  let a := s.vsrc o.a
  let b := s.vsrc o.b
  .ok (s.putRaw o.d o.k a.2 (fun i => fn (vget a.1 4 i) (vget b.1 4 i)))

/-- VAND (R163). -/
def execVand (o : VOp) (s : State) : Ans := vecOp 4 (lane2 o (fun a b => a &&& b)) s
/-- VOR (R163). -/
def execVor (o : VOp) (s : State) : Ans := vecOp 4 (lane2 o (fun a b => a ||| b)) s
/-- VXOR (R163). -/
def execVxor (o : VOp) (s : State) : Ans := vecOp 4 (lane2 o (fun a b => a ^^^ b)) s
/-- VNOT (R163). -/
def execVnot (o : VOp) (s : State) : Ans := vecOp 4 (lane1 o (fun a => 2 ^ 32 - 1 - a)) s
/-- VSHL (R163). -/
def execVshl (o : VOp) (s : State) : Ans := vecOp 4 (lane2 o laneShl) s
/-- VSHR (R163). -/
def execVshr (o : VOp) (s : State) : Ans := vecOp 4 (lane2 o laneShr) s
/-- VSRA (R163). -/
def execVsra (o : VOp) (s : State) : Ans := vecOp 4 (lane2 o laneSra) s
/-- VMOV (R164). -/
def execVmov (o : VOp) (s : State) : Ans := vecOp 4 (lane1 o id) s
/-- The tag code that the lanes of a queued `vtag` hold in AUX: decode lets 0 to 10 pass, a debugger may write another (R385). -/
def Cap.auxTag (c : Cap) : Nat := bits (c.lanes.getD 0 0).toNat 4 1

/-- VTAG (R168). A reserved tag that a debugger wrote into the queued record raises TAG (R10, R119). [DEDUCED, log 87] -/
def execVtag (f : Fmt) (o : VOp) (s : State) : Ans :=
  vecOp 4 (fun s =>
    if 11 ≤ s.iss.auxTag then .error (.trap s tTAG (word (6 * 256 + s.iss.auxTag * 16)))
    else .ok (s.putRaw o.d o.k f (fun i => vget (s.vsrc o.a).1 4 i))) s
/-- VIOTA (R165). -/
def execViota (o : VOp) (s : State) : Ans := vecOp 4 (fun s => .ok (s.putRaw o.d o.k .int32 id)) s

/-- VPERM (R172): lanes of A by signed indices of B read as INT32. -/
def execVperm (o : VOp) (s : State) : Ans :=
  vecOp 4 (fun s =>
    match s.readOp (s.vsrc o.b) 1 .int32 s.ctx.vec.mode false with
    | .error x => .error x
    | .ok ix =>
      let a := s.vsrc o.a
      .ok (s.putRaw o.d o.k a.2 (fun j => if ix j < 2048 then vget a.1 4 (ix j) else 0))) s

/-- VBCST (R173). -/
def execVbcst (f : Fmt) (d : VR) (i : BitVec 32) (k _ : BitVec 3) (s : State) : Ans :=
  vecOp 4 (fun s =>
    match s.keepTyped d k f s.ctx.vec.mode false with
    | .error x => .error x
    | .ok keep => .ok (s.putTyped d k f keep (fun _ => i.toNat))) s

/-- VRND (R182). -/
def execVrnd (rm : RMode) (_ : BitVec 3) (s : State) : Ans :=
  vecOp 1 (fun s => .ok (s.onVec (fun v => { v with mode := rm }), [])) s

/-! ## Conversion (R167) -/

/-- Tags 1 to 8, from which VCVT converts. -/
def cvtSource (f : Fmt) : Bool :=
  match f with
  | .untyped | .g4 | .pl => false
  | _ => true

/-- VCVT (R167): m elements are converted, the bytes beyond them are zero. -/
def execVcvt (x : Fmt) (o : VOp) (s : State) : Ans :=
  vecOp 4 (fun s =>
    let m := s.modeOf o
    let a := s.vsrc o.a
    if !cvtSource a.2 then .error (.trap s tTAG (tagInfo 0 a.2 x))
    else
      match s.keepTyped o.d o.k x m o.sat with
      | .error e => .error e
      | .ok keep =>
        let ws := fbytes a.2
        let wd := fbytes x
        let w := Nat.max ws wd
        .ok (s.result o.d
          (vreg wd (8192 / w) (fun i =>
            if s.ctx.vec.active o.k (i * w / 4) then convert a.2 x m o.sat (vget a.1 ws i) else keep i)) x)) s

/-! ## Reductions and scans (R170, R171) -/

/-- The elements of A with the inactive ones absent. -/
def leavesOf (v : Vec) (k : BitVec 3) (w : Nat) (a : Nat → Nat) : List (Option Nat) :=
  (List.range (8192 / w)).map (fun i => if v.active k (i * w / 4) then some (a i) else none)

/-- The effect of a reduction: element 0 of D, every other byte zero. -/
def vred (r : Red) (f : Fmt) (o : VOp) : Body := fun s =>
  let m := s.modeOf o
  match s.readOp (s.vsrc o.a) 0 f m o.sat with
  | .error x => .error x
  | .ok a =>
    let w := fbytes f
    let x := reduce r f m o.sat (if w = 2 then 12 else 11) (leavesOf s.ctx.vec o.k w a)
    .ok (s.result o.d (BitVec.ofNat 65536 (x % 2 ^ (8 * w))) f)

/-- VREDSUM (R170). -/
def execVredsum (f : Fmt) (o : VOp) (s : State) : Ans := vecOp 4 (vred .sum f o) s
/-- VREDMAX (R170). -/
def execVredmax (f : Fmt) (o : VOp) (s : State) : Ans := vecOp 4 (vred .max f o) s
/-- VREDMIN (R170). -/
def execVredmin (f : Fmt) (o : VOp) (s : State) : Ans := vecOp 4 (vred .min f o) s

/-- VSCAN (R171, R123). -/
def execVscan (f : Fmt) (o : VOp) (s : State) : Ans :=
  vecOp 8 (fun s =>
    let m := s.modeOf o
    match s.readOp (s.vsrc o.a) 0 f m o.sat with
    | .error x => .error x
    | .ok a =>
      let l := scan (resultE f m o.sat) (addE f m o.sat) true 0 (leavesOf s.ctx.vec o.k 4 a)
      .ok (s.result o.d (BitVec.ofNat 65536 (packList 4 l)) f)) s

/-! ## Plane-nested data (R178 to R180) -/

/-- A PL register: integers, scales and the plane count. -/
def plReg (q : Nat → Nat) (scales : Nat → Nat) (p : Nat) : VReg :=
  BitVec.ofNat 65536 (packElems 1 2048 q + packElems 1 32 scales * 2 ^ (8 * 2048) + p * 2 ^ (8 * 2080))

/-- The integers kept of a PL destination. -/
def State.keepPl (s : State) (d : VR) (k : BitVec 3) (m : RMode) : Res' (Nat → Nat) := s.keepTyped d k .pl m false

/-- VPSPLIT (R179). -/
def execVpsplit (pc : BitVec 3) (o : VOp) (s : State) : Ans :=
  vecOp 4 (fun s =>
    let m := s.modeOf o
    let p := pc.toNat + 1
    match s.readOp (s.vsrc o.a) 0 .fp32 m false with
    | .error x => .error x
    | .ok a =>
      match s.keepPl o.d o.k m with
      | .error x => .error x
      | .ok keep =>
        let grp (g : Nat) := plGroup m ((List.range 64).map (fun i => decodeF .fp32 (a (64 * g + i))))
        let groups := (List.range 32).map grp
        let qs := packList 1 (groups.flatMap (fun e => e.2.map (plKeep p)))
        .ok (s.result o.d
          (plReg (fun i => if s.ctx.vec.active o.k i then qs / 2 ^ (8 * i) else keep i)
            (fun g => (groups.map (·.1)).getD g 0) p) .pl)) s

/-- VPMERGE (R179). -/
def execVpmerge (pc : BitVec 3) (o : VOp) (s : State) : Ans :=
  vecOp 4 (fun s =>
    let m := s.modeOf o
    let k := pc.toNat + 1
    let a := s.vsrc o.a
    match s.readOp a 0 .pl m o.sat with
    | .error x => .error x
    | .ok q =>
      if vget a.1 1 2080 < k then .error (.trap s tTAG (tagInfo 5 a.2 .pl))
      else
        match s.keepTyped o.d o.k .fp32 m o.sat with
        | .error x => .error x
        | .ok keep =>
          .ok (s.putTyped o.d o.k .fp32 keep
            (fun i => roundF .fp32 m o.sat (plValue k (vget a.1 1 (2048 + i / 64)) (q i))))) s

/-- A value times 2^(127 − e). -/
def FVal.unscale (e : Nat) : FVal → FVal
  | .fin n m x => .fin n m (x + 127 - e)
  | v => v

/-- VBSCALE (R180). -/
def execVbscale (f : Fmt) (pc : BitVec 3) (o : VOp) (s : State) : Ans :=
  vecOp 4 (fun s =>
    let m := s.modeOf o
    let b := s.vsrc o.b
    let sc (g : Nat) := vget b.1 1 (2048 + g)
    match s.readOp (s.vsrc o.a) 0 .fp32 m o.sat with
    | .error x => .error x
    | .ok a =>
      match s.keepTyped o.d o.k f m o.sat with
      | .error x => .error x
      | .ok keep =>
        if f = .pl then
          let p := pc.toNat + 1
          let bad (g : Nat) := sc g = 255 || (List.range 64).any (fun i =>
            let v := decodeF .fp32 (a (64 * g + i)); v.isNan || v.isInf)
          let nan := (List.range 32).map bad
          let isBad (g : Nat) := nan.getD g false
          .ok (s.result o.d
            (plReg
              (fun i =>
                if s.ctx.vec.active o.k i then
                  (if isBad (i / 64) then 0 else plKeep p (plQuant m (sc (i / 64)) (decodeF .fp32 (a i))))
                else keep i)
              (fun g => if isBad g then 255 else sc g) p) .pl)
        else
          .ok (s.result o.d
            (vreg 1 2048 (fun i =>
              if s.ctx.vec.active o.k i then
                (if sc (i / 64) = 255 then nanBits f
                 else roundF f m o.sat ((decodeF .fp32 (a i)).unscale (sc (i / 64))))
              else keep i)) f)) s

/-! ## Loads and stores (R174 to R178) -/

/-- The runs of active lanes. -/
def Vec.runs (v : Vec) (k : BitVec 3) : List (Nat × Nat) :=
  if k = 0 then [(0, 2048)] else bitRuns (v.mask k).getLsbD 2048

/-- The bytes of runs of lanes at an offset. -/
def laneBytes (off : Int) (l : List (Nat × Nat)) : List (Nat × Nat) :=
  l.map (fun r => ((off + 4 * r.1).toNat, 4 * r.2))

/-- Runs of lanes leave a handle. -/
def laneOut (h : Handle) (off : Int) (l : List (Nat × Nat)) : Bool :=
  match l.head?, l.getLast? with
  | some a, some b => decide (off + 4 * a.1 < 0) || decide ((h.len.toNat : Int) < off + 4 * (b.1 + b.2))
  | _, _ => false

/-- Bytes of runs of lanes read, each at its lane's place in the register. [DESIGN CHOICE, log 9] -/
def State.loadLanes (s : State) (src : Nat) (h : Handle) (off : Int) (l : List (Nat × Nat)) : Res' (State × Nat) :=
  match s.loadMany src h (laneBytes off l) (offW off) with
  | .error x => .error x
  | .ok (t, vs) => .ok (t, ((l.zip vs).map (fun e => e.2 * 2 ^ (32 * e.1.1))).sum)

/-- The checks of R174 in order: record, right, bounds, alignment; then the handle's format, then the tiles. [DESIGN CHOICE, log 9; DEDUCED, log 10] -/
def lsCheck (s : State) (ho : Option Handle) (right : Nat) (f : Fmt) (k : BitVec 3) (off : Int)
    (early : Bool) (tag : Option (BitVec 16)) : Res' (Handle × Option Fmt) :=
  match ho with
  | none => .error (.trap s tNOHANDLE (offW off))
  | some h =>
    let runs := s.ctx.vec.runs k
    let span := vspan .pl (h.pc.toNat + 1)
    if !h.has right then .error (.trap s tRIGHTS (offW off))
    else if (if f = .pl then decide (off < 0) || decide ((h.len.toNat : Int) < off + span) else laneOut h off runs) then
      .error (.trap s tBOUNDS (offW off))
    else if off % 64 ≠ 0 then .error (.trap s tMISALIGN (offW off))
    else
      match (if f = .pl then (if h.fmt = .pl then some none else none) else tagCheck s.ctx.tagmode h.fmt f) with
      | none => .error (.trap s tTAG (tagInfo 4 h.fmt f))
      | some c =>
        let bytes := if f = .pl then [(off.toNat, span)] else laneBytes off runs
        match s.tileCheck h bytes early tag with
        | some (code, ti) => .error (.trap s code ti)
        | none => .ok (h, c)

/-- A read of runs waits (R268, R408). -/
def State.readParked (s : State) (h : Handle) (l : List (Nat × Nat)) : Bool :=
  l.any (fun r => s.readWaits h r.1 r.2)

/-- What a load of format f, but PL, gives (R174), rounding in mode m: shared by VLD and GLD. -/
def loadReg (src : Nat) (m : RMode) (x : VR) (h : Handle) (c : Option Fmt) (f : Fmt) (k : BitVec 3) (off : Int) (s : State) :
    Res' (State × List Push) :=
  match s.keepTyped x k f m false with
  | .error e => .error e
  | .ok keep =>
    let runs := s.ctx.vec.runs k
    if s.readParked h (laneBytes off runs) then .error (.hold s)
    else
      match s.loadLanes src h off runs with
      | .error e => .error e
      | .ok (t, raw) =>
        let w := fbytes f
        let data := BitVec.ofNat 65536 raw
        .ok (t.putTyped x k f keep (fun i => readAs c f m false (vget data w i)))

/-- What a load of PL gives (R178). -/
def loadPl (src : Nat) (x : VR) (h : Handle) (k : BitVec 3) (off : Int) (s : State) : Res' (State × List Push) :=
  let p := h.pc.toNat + 1
  match s.keepPl x k s.ctx.vec.mode with
  | .error e => .error e
  | .ok keep =>
    let span := vspan .pl p
    if s.readParked h [(off.toNat, span)] then .error (.hold s)
    else
      match s.load src h off.toNat span (offW off) with
      | .error e => .error e
      | .ok (t, mem) =>
        .ok (t.result x
          (plReg (fun i => if t.ctx.vec.active k i then plElem mem 2048 p i else keep i) (plScaleAt mem) p) .pl)

/-- VLD (R174, R175, R178). The tag of a merged destination is checked after that of the tile. [DESIGN CHOICE, log 101] -/
def execVld (f : Fmt) (o : MOp) (s : State) : Ans :=
  vecOp 4 (fun s =>
    let off := (s.sc o.a).toInt + o.i.toInt
    match lsCheck s (s.hrec o.h) rRD f o.k off true o.tag with
    | .error e => .error e
    | .ok (h, c) => if f = .pl then loadPl 0 o.x h o.k off s else loadReg 0 s.ctx.vec.mode o.x h c f o.k off s) s

/-- The bytes that a store of X writes in a handle's format: none of them outside the active lanes (R174). -/
def storePieces (rd : Nat → Nat) (c : Option Fmt) (f : Fmt) (mode : RMode) (off : Int) (runs : List (Nat × Nat)) :
    List Seg :=
  let w := fbytes f
  let data := vreg w (8192 / w) (fun i => match c with | some g => convert f g mode false (rd i) | none => rd i)
  runs.map (fun r => ⟨(off + 4 * r.1).toNat, 4 * r.2, data.toNat / 2 ^ (32 * r.1) % 2 ^ (32 * r.2)⟩)

/-- A PL tensor of n elements with p planes, as stored (R108): scales, then planes. -/
def plTensor (n : Nat) (q : Nat → Nat) (scale : Nat → Nat) (p : Nat) : Nat :=
  packElems 1 (n / 64) scale
    + (List.range p).foldl (fun a j =>
        a + (List.range n).foldl (fun b i => if bit (q i) (7 - j) then b + 2 ^ i else b) 0
          * 2 ^ (8 * (plArea n + n / 8 * j))) 0

/-- What a store of X gives (R174; `c` is the handle's format where it differs), but PL, rounding in mode m: shared by VST and GST. [DEDUCED, log 10] -/
def storeReg (e : Engine) (m : RMode) (x : VR) (c : Option Fmt) (f : Fmt) (k : BitVec 3) (off : Int)
    (s : State) : Res' (State × List Seg) :=
  let d := s.opnd e x
  match s.readOp d 0 f m false with
  | .error t => .error t
  | .ok rd => .ok (s, storePieces rd c f m off (s.ctx.vec.runs k))

/-- What a store of a PL register gives (R178): the scale area, the plane bits of active elements, and the bits that it
leaves as they are, which are read where their page can be read. -/
def storePl (e : Engine) (x : VR) (h : Handle) (k : BitVec 3) (off : Int) (s : State) : Res' (State × List Seg × Nat) :=
  let p := h.pc.toNat + 1
  let d := s.opnd e x
  match s.readOp d 0 .pl s.ctx.vec.mode false with
  | .error t => .error t
  | .ok q =>
    if vget d.1 1 2080 < p then .error (.trap s tTAG (tagInfo 5 d.2 .pl))
    else
      let span := vspan .pl p
      let sc (g : Nat) := vget d.1 1 (2048 + g)
      if k = 0 then .ok (s, [⟨off.toNat, span, plTensor 2048 q sc p⟩], 0)
      else
        let on (i : Nat) := s.ctx.vec.active k i
        let keep := plTensor 2048 (fun i => if on i then 0 else 255) (fun _ => 0) p
        match s.load (Config.engIdx e) h off.toNat span (offW off) with
        | .error (.trap t code ti) =>
          if code = tPAGEFAULT then .ok (s, [⟨off.toNat, span, plTensor 2048 (fun i => if on i then q i else 0) sc p⟩], keep)
          else .error (.trap t code ti)
        | .error t => .error t
        | .ok (t, old) =>
          .ok (t, [⟨off.toNat, span,
            plTensor 2048 (fun i => if t.ctx.vec.active k i then q i else plElem old 2048 p i) sc p⟩], keep)

/-- The pieces of a store posted by an engine; nothing where no lane is active. -/
def State.postPieces (s : State) (e : Engine) (h : Handle) (pieces : List Seg) (keep : Nat) (tinfo : Word) : Res' State :=
  if pieces.isEmpty then .ok s
  else s.post (Config.engIdx e) s.iss.age h (s.ranges s.iss) pieces tinfo keep s.dcc.toNat

/-- VST (R174, R176, R178). -/
def execVst (f : Fmt) (o : MOp) (s : State) : Ans :=
  vecOp 4 (noPush (fun s =>
    let off := (s.sc o.a).toInt + o.i.toInt
    match lsCheck s (s.hrec o.h) rWR f o.k off false o.tag with
    | .error e => .error e
    | .ok (h, c) =>
      if f = .pl then
        match storePl .vector o.x h o.k off s with
        | .error e => .error e
        | .ok (t, pieces, keep) => t.postPieces .vector h pieces keep (offW off)
      else
        match storeReg .vector s.ctx.vec.mode o.x c f o.k off s with
        | .error e => .error e
        | .ok (t, pieces) => t.postPieces .vector h pieces 0 (offW off))) s

/-! ## Gather and scatter (R181) -/

/-- Bytes of an element of a gather or scatter. -/
def widthBytes : Width → Nat
  | .w4 => 4
  | .h2 => 2
  | .b1 => 1

/-- A format tag that is w bytes wide, or untyped. -/
def widthOk (f : Fmt) (w : Nat) : Bool :=
  match f with
  | .untyped => true
  | .g4 | .pl => false
  | _ => fbytes f = w

/-- The offsets of the active elements, or the trap of the first that fails (R181). -/
def ixOffsets (s : State) (h : Handle) (w : Nat) (k : BitVec 3) (base : Int) (ix : Nat → Nat) :
    Res' (List (Nat × Nat)) :=
  let l := ((List.range 2048).filter (s.ctx.vec.active k)).map (fun i => (i, base + signedOf 32 (ix i) * (w : Int)))
  match l.find? (fun e => e.2 < 0 ∨ (h.len.toNat : Int) < e.2 + w ∨ e.2 % (w : Int) ≠ 0) with
  | some (_, o) =>
    if o < 0 ∨ (h.len.toNat : Int) < o + w then .error (.trap s tBOUNDS (offW o))
    else .error (.trap s tMISALIGN (offW o))
  | none => .ok (l.map (fun e => (e.1, e.2.toNat)))

/-- The handle and the offsets of a gather or scatter. [DEDUCED, log 10] -/
def ixCheck (s : State) (right : Nat) (w : Nat) (o : GOp) : Res' (Handle × List (Nat × Nat)) :=
  let base := (s.sc o.a).toInt
  match s.hrec o.h with
  | none => .error (.trap s tNOHANDLE (offW base))
  | some h =>
    if !h.has right then .error (.trap s tRIGHTS (offW base))
    else
      match s.readOp (s.vsrc o.ix) 1 .int32 s.ctx.vec.mode false with
      | .error e => .error e
      | .ok ix =>
        match ixOffsets s h w o.k base ix with
        | .error e => .error e
        | .ok l => .ok (h, l)

/-- Elements read one by one, as elements of the register. [DESIGN CHOICE, log 9] -/
def State.loadElems (s : State) (h : Handle) (w : Nat) (l : List (Nat × Nat)) (tinfo : Word) : Res' (State × SMap Nat) :=
  match s.loadMany 0 h (l.map (fun e => (e.2, w))) tinfo with
  | .error x => .error x
  | .ok (t, vs) => .ok (t, (l.map (·.1)).zip vs)

/-- Elements of sparse data over kept ones, n of them from i on; the elements come in rising order. -/
def mixElems (w : Nat) (keep : Nat → Nat) : Nat → Nat → SMap Nat → Nat
  | 0, _, _ => 0
  | n + 1, i, [] => keep i % 2 ^ (8 * w) + mixElems w keep n (i + 1) [] * 2 ^ (8 * w)
  | n + 1, i, (j, v) :: m =>
    if i = j then v % 2 ^ (8 * w) + mixElems w keep n (i + 1) m * 2 ^ (8 * w)
    else keep i % 2 ^ (8 * w) + mixElems w keep n (i + 1) ((j, v) :: m) * 2 ^ (8 * w)

/-- The bank of a byte of a handle: bits 10:6 of its physical offset (R238); at a level without banks, of its address. -/
def Handle.bankOf (h : Handle) (o : Nat) : Nat := (if h.level = 0 then h.cist o else h.base.toNat + o) / 64 % 32

/-- The occupancy G of a gather or scatter (R184): the most loaded of 32 banks, at least 4. -/
def bankLoad (h : Handle) (l : List (Nat × Nat)) : Nat :=
  (List.range 32).foldl (fun g b => Nat.max g (l.filter (fun e => h.bankOf e.2 = b)).length) 4

/-- VGATHER (R181). -/
def execVgather (wd : Width) (o : GOp) (s : State) : Ans :=
  vecOp 4 (fun s =>
    let w := widthBytes wd
    match ixCheck s rRD w o with
    | .error e => .error e
    | .ok (h, l) =>
      if !widthOk h.fmt w then .error (.trap s tTAG (tagInfo 4 h.fmt .untyped))
      else
        let bytes := l.map (fun e => (e.2, w))
        match s.tileCheck h bytes true none with
        | some (code, ti) => .error (.trap s code ti)
        | none =>
          if s.readParked h bytes then .error (.hold s)
          else
            let failed := l.find? (fun e => match s.resolve h e.2 w false with | .ok _ _ => false | _ => true)
            match s.loadElems h w l (offW ((failed.map (·.2)).getD 0)) with
            | .error e => .error e
            | .ok (t, m) =>
              let t := t.charge t.cur 3 (bankLoad h l - 4)
              .ok (t.result o.x (BitVec.ofNat 65536 (mixElems w (fun i => t.keepRaw o.x w i) 2048 0 m)) h.fmt)) s

/-- VSCATTER (R181): elements are posted in ascending order, so the highest-numbered of several stays. -/
def execVscatter (wd : Width) (o : GOp) (s : State) : Ans :=
  vecOp 4 (noPush (fun s =>
    let w := widthBytes wd
    match ixCheck s rWR w o with
    | .error e => .error e
    | .ok (h, l) =>
      let x := s.vsrc o.x
      if !widthOk x.2 w then .error (.trap s tTAG (tagInfo 0 x.2 .untyped))
      else
        (s.charge s.cur 3 (bankLoad h l - 4)).postPieces .vector h (l.map (fun e => ⟨e.2, w, vget x.1 w e.1⟩)) 0
          (offW (s.sc o.a).toInt))) s

end Sys2Proof.Machine
end

