-- ==== Sys2Proof/Machine/Matrix.lean ====
section
/-! DEFINITION. The matrix engine's instructions (R185 to R212), but the streaming drain of R203. -/

namespace Sys2Proof.Machine

/-! ## Accumulators and the weight buffer (R144, R185) -/

/-- The first of the eight slots of an accumulator. -/
def Vec.accBase (v : Vec) (a : Nat) : Nat :=
  if a < 8 then 256 + 8 * a
  else
    match v.lend (BitVec.ofNat 1 ((a - 8) / 4)) with
    | some b => 32 * b.toNat + 8 * (a % 4)
    | none => 256

/-- Element (i, j) of 128 × 128 FP32 values held in eight slots. -/
def Vec.tile (v : Vec) (base i j : Nat) : Nat := vget (SMap.get 0 v.r (base + i / 16)) 4 (i % 16 * 128 + j)
/-- Eight slots set to 128 × 128 FP32 values. -/
def Vec.setTile (v : Vec) (base : Nat) (f : Nat → Nat → Nat) : Vec :=
  { v with r := (List.range 8).foldl (fun m t =>
      SMap.set 0 m (base + t) (vreg 4 2048 (fun n => f (16 * t + n / 128) (n % 128)))) v.r }

/-- Element (i, j) of an accumulator. -/
def Vec.acc (v : Vec) (a i j : Nat) : Nat := v.tile (v.accBase a) i j
/-- An accumulator written. -/
def Vec.setAcc (v : Vec) (a : Nat) (f : Nat → Nat → Nat) : Vec := v.setTile (v.accBase a) f
/-- Weight b[k][j]. [DEDUCED, log 12] -/
def Vec.weight (v : Vec) (k j : Nat) : Nat := v.tile 320 k j

/-- Positions after a write of an accumulator that is not MMULQ's (R186). -/
def Mat.written (m : Mat) (a : Nat) : Mat := { m with inn := SMap.set 0 m.inn a 0, out := SMap.set 0 m.out a 0 }

/-- An accumulator written by an instruction (R186). -/
def State.writeAcc (s : State) (a : BitVec 4) (f : Vec → Nat → Nat → Nat) : State :=
  (s.onVec (fun v => v.setAcc a.toNat (f v))).onMat (fun m => m.written a.toNat)

/-- A matrix instruction. [DEDUCED, log 13] -/
def matOp (body : Body) (s : State) : Ans := engineOp .matrix body s

/-! ## Operands (R188, R189) -/

/-- FOUND of LEVEL for a region that an operand may not lie in (R189). -/
def State.levelFound (s : State) (h : Handle) (hbm : Bool) : Option Nat :=
  if h.level = 0 then (if pathClass (coreId (coreOf s.cur)) h.core ≤ 1 then none else some 0)
  else if h.level = 1 then (if hbm then none else some 2)
  else if h.level = 2 then some 1 else some 2

/-- TINFO of LEVEL (R189). [DEDUCED, log 31] -/
def levelInfo (found opnd : Nat) : Word := word (found * 4 + opnd)

/-- The offset of an MH operand. -/
def State.mhOff (s : State) (o : MHOp) : Int := (s.sc o.s).toInt + o.i.toInt * 64
/-- The offset of an MDH operand. -/
def State.mdOff (s : State) (o : MDOp) : Int := (s.sc o.s).toInt + o.i.toInt * 64

/-- Steps 1 to 3 of R189. [DESIGN CHOICE, log 9] -/
def matHandle (s : State) (ho : Option Handle) (right opnd : Nat) (hbm : Bool) (off : Int) : Res' Handle :=
  match ho with
  | none => .error (.trap s tNOHANDLE (offW off))
  | some h =>
    if !h.has right then .error (.trap s tRIGHTS (offW off))
    else
      match s.levelFound h hbm with
      | some f => .error (.trap s tLEVEL (levelInfo f opnd))
      | none => .ok h

/-- Steps 4 to 6 of R189 for a span and an expected format; the format that data is converted from or to. -/
def matSpan (s : State) (h : Handle) (off : Int) (span : Nat) (f : Fmt) : Res' (Option Fmt) :=
  if off < 0 ∨ (h.len.toNat : Int) < off + span then .error (.trap s tBOUNDS (offW off))
  else if off % 64 ≠ 0 then .error (.trap s tMISALIGN (offW off))
  else
    match tagCheck s.ctx.tagmode h.fmt f with
    | none => .error (.trap s tTAG (tagInfo 4 h.fmt f))
    | some c => .ok c

/-- Rows of bytes read at a pitch. -/
def State.loadRows (s : State) (src : Nat) (h : Handle) (off : Nat) (g : Geo) (tinfo : Word) : Res' (State × List Nat) :=
  s.loadMany src h ((List.range g.rows).map (fun i => (off + i * g.pitch, g.len))) tinfo

/-! ## Multicast (R198) -/

/-- The cycle of the most recent acquire completed by a strand. -/
def Ctrl.lastAcquire (c : Ctrl) : Nat := c.acquired.foldl (fun a e => Nat.max a e.2) 0

/-- What a request offers for sharing. [DEDUCED, log 14] -/
def State.shareOf (s : State) (h : Handle) (off op : Nat) (o : MHOp) (rows : List Nat) : Shared :=
  let m := s.ctx.mat
  { cluster := coreOf s.cur / 8, mct := o.mct, world := h.world, base := h.base, len := h.len, gen := h.gen
    off := off, op := op, tr := o.tr, pc := o.pc, tm := m.tm, tk := m.tk, tn := m.tn, start := s.dcc, rows := rows }

/-- Two requests agree. [DEDUCED, log 14] -/
def Shared.same (a b : Shared) : Bool := { a with start := b.start, rows := b.rows } = b

/-- The rows of an operand: of a shared read that the request joins, or of a read of its own, which starts a
shared read where none is open. [DEDUCED, log 14] -/
def State.readShared (s : State) (h : Handle) (off op : Nat) (o : MHOp) (g : Geo) : Res' (State × List Nat) :=
  let me := s.shareOf h off op o []
  let open_ := if o.mct = 0 then none
    else s.shared.find? (fun x => x.same me ∧ s.dcc.toNat ≤ x.start.toNat + 64)
  if h.level = 0 ∧ !s.inPartition h off g.span then .error (.trap (s.refusedAt h off) tPARTITION (offW off))
  else
  match open_ with
  | some x =>
    if s.ctx.ctl.lastAcquire ≤ x.start.toNat then .ok (s, x.rows)
    else s.loadRows 1 h off g (offW off)
  | none =>
    match s.loadRows 1 h off g (offW off) with
    | .error e => .error e
    | .ok (t, rows) =>
      if o.mct = 0 then .ok (t, rows)
      else
        let l := t.shared.filter (fun x => !x.same me && decide (t.dcc.toNat ≤ x.start.toNat + 64))
        .ok ({ t with shared := l ++ [{ me with rows := rows }] }, rows)

/-- What an operand's element reads as: a pattern of its format, of BF16 for G4 (the prologue's result), and for PL the
scale times 256 plus the integer of the planes read. -/
def operandElem (f : Fmt) (tr : Bool) (k n : Nat) (c : Option Fmt) (m : RMode) (rows : List Nat) (x y : Nat) : Nat :=
  let r := if tr then y else x
  let e := if tr then x else y
  let w := fbytes f
  match f with
  | .pl =>
    let i := 128 * r + e
    plScaleAt (rows.getD 0 0) (i / 64) * 256 + plElem (rows.getD 0 0) n k i
  | .g4 => g4Value (rows.getD y 0) x
  | _ => readAs c f m false (rows.getD r 0 / 2 ^ (8 * w * e) % 2 ^ (8 * w))

/-- The value of an element read so (R107, R109). A PL activation enters its products exactly, also where its value leaves FP32's
range, for the rules name no format that it would be rounded to. [DEDUCED, log 90] -/
def elemVal (f : Fmt) (k x : Nat) : FVal :=
  match f with
  | .pl => plValue k (x / 256) (x % 256)
  | .g4 => decodeF .bf16 x
  | _ => decodeF f x

/-- The checks of R189 on an operand of `nr` logical rows of `ne` elements: its record, geometry, and the format it is
converted from. -/
def matCheck (s : State) (o : MHOp) (opnd : Nat) (f : Fmt) (nr ne : Nat) : Res' (Handle × Geo × Option Fmt) :=
  let off := s.mhOff o
  match matHandle s (s.hrec o.h) rRD opnd true off with
  | .error e => .error e
  | .ok h =>
    let g := operandGeo h f o.tr nr ne
    match matSpan s h off g.span f with
    | .error e => .error e
    | .ok c =>
      if f = .pl ∧ h.pc.toNat + 1 < o.pc.toNat + 1 then .error (.trap s tTAG (tagInfo 5 h.fmt .pl)) else .ok (h, g, c)

/-- An operand read through all checks (R189, R208), by its logical element (x, y). -/
def matRead (s : State) (o : MHOp) (op opnd : Nat) (f : Fmt) (nr ne : Nat) : Res' (State × (Nat → Nat → Nat)) :=
  match matCheck s o opnd f nr ne with
  | .error e => .error e
  | .ok (h, g, c) =>
    let off := s.mhOff o
    if s.readParked h [(off.toNat, g.span)] then .error (.hold s)
    else
      match s.readShared h off.toNat op o g with
      | .error e => .error e
      | .ok (t, rows) =>
        .ok (t, operandElem f o.tr (o.pc.toNat + 1) (128 * if o.tr then ne else nr) c t.ctx.mat.mode rows)

/-! ## Weights (R191 to R193) -/

/-- The weight buffer set from the values of a TK × TN tile, +0 elsewhere; its format and plane count. [DEDUCED, log 12] -/
def State.setWeights (s : State) (val : Nat → Nat → FVal) (f : Fmt) (pc : BitVec 3) : State :=
  let m := s.ctx.mat
  (s.onVec (fun v => v.setTile 320 (fun k j =>
    if k < m.tk ∧ j < m.tn then roundF .fp32 m.mode false (val k j) else 0))).onMat
      (fun m => { m with wfmt := f, wpc := pc })

/-- MLDW (R191). -/
def execMldw (f : Fmt) (o : MHOp) (s : State) : Ans :=
  matOp (noPush (fun s =>
    match matRead s o (Config.fmtCode f) 1 f s.ctx.mat.tk s.ctx.mat.tn with
    | .error e => .error e
    | .ok (t, x) =>
      .ok (t.setWeights (fun k j => elemVal f (o.pc.toNat + 1) (x k j)) f (if f = .pl then o.pc else 0)))) s

/-- MLDG (R192): an FP32 tile rounded to BF16 in the current mode. -/
def execMldg (o : MHOp) (s : State) : Ans :=
  matOp (noPush (fun s =>
    match matRead s o 16 1 .fp32 s.ctx.mat.tk s.ctx.mat.tn with
    | .error e => .error e
    | .ok (t, x) =>
      .ok (t.setWeights (fun k j => decodeF .bf16 (convert .fp32 .bf16 t.ctx.mat.mode false (x k j))) .bf16 0))) s

/-- Rows of 128 elements in an entry of a format (R193). -/
def rowsPerEntry (f : Fmt) : Nat := 64 / fbytes f

/-- The eight slots of the weight buffer. -/
def Vec.weights (v : Vec) : List VReg := (List.range 8).map (fun t => SMap.get 0 v.r (320 + t))

/-- An entry popped by MLDWQ, remembered with the weights before the first. -/
def Mat.took (m : Mat) (old : List VReg) (e : Nat) (x : VReg × Fmt) : Mat :=
  if e = 0 then { m with before := old, popped := [x] } else { m with popped := m.popped ++ [x] }

/-- MLDWQ without effect after a TAG of a later entry (R119): the weights are those before its first pop, and the entries
popped are back at the head. [DEDUCED, log 89] -/
def State.mldwqBack (q : Nat) (s : State) : State :=
  let m := s.ctx.mat
  if (s.eng .matrix).made = 0 then s
  else
    ((s.onVec (fun v =>
      m.popped.foldr (fun x v => v.unpop q x.1 x.2)
        { v with r := (List.range 8).foldl (fun r t => SMap.set 0 r (320 + t) (m.before.getD t 0)) v.r })).onMat
      (fun m => { m with before := [], popped := [] })).onEng .matrix (fun x => { x with made := 0 })

/-- The pops of MLDWQ from the e-th on, each a step of its own: entry e supplies rows from e times rpe. -/
def mldwqPops (f : Fmt) (q : Nat) : Nat → State → Res' State
  | 0, s => .ok s
  | n + 1, s =>
    let e := (s.eng .matrix).made
    let v := s.ctx.vec
    if v.qcount q = 0 then .error (.hold (s.stall .matrix (.read q)))
    else
      let x := v.front q
      let m := s.ctx.mat
      match s.readOp x 0 f m.mode false with
      | .error (.trap t code ti) => .error (.trap (t.mldwqBack q) code ti)
      | .error (.hold t) => .error (.hold t)
      | .ok rd =>
        let rpe := rowsPerEntry f
        let t := (s.onMat (fun m => m.took v.weights e x)).onVec (fun v =>
          (v.setTile 320 (fun k j =>
            if e * rpe ≤ k ∧ k < (e + 1) * rpe ∧ k < m.tk ∧ j < m.tn then
              roundF .fp32 m.mode false (decodeF f (rd ((k - e * rpe) * 128 + j)))
            else v.weight k j)).pop q)
        mldwqPops f q n
          (t.onEng .matrix (fun x => { x with made := x.made + 1, stall := .none, stalled := 0 }))

/-- MLDWQ (R193): outside the tile the weights are +0 in the end. -/
def execMldwq (f : Fmt) (q : BitVec 5) (_ : BitVec 3) (s : State) : Ans :=
  matOp (noPush (fun s =>
    let n := ceilDiv s.ctx.mat.tk (rowsPerEntry f)
    match mldwqPops f q.toNat (n - (s.eng .matrix).made) s with
    | .error e => .error e
    | .ok t =>
      .ok ((t.setWeights (fun k j => decodeF .fp32 (t.ctx.vec.weight k j)) f 0).onMat
        (fun m => { m with before := [], popped := [] })))) s

/-- MPRE (R212): only its checks are visible. -/
def execMpre (o : MHOp) (s : State) : Ans :=
  matOp (noPush (fun s =>
    let off := s.mhOff o
    match matHandle s (s.hrec o.h) rRD 0 true off with
    | .error e => .error e
    | .ok h =>
      if off < 0 ∨ (h.len.toNat : Int) ≤ off then .error (.trap s tBOUNDS (offW off))
      else if off % 64 ≠ 0 then .error (.trap s tMISALIGN (offW off))
      else
        let n := Nat.min 65536 (h.len.toNat - off.toNat)
        if h.level = 0 ∧ !s.inPartition h off.toNat n then .error (.trap (s.refusedAt h off.toNat) tPARTITION (offW off))
        else .ok s)) s

/-! ## Passes (R190, R195 to R197) -/

/-- An activation format pairs with a weight format. -/
def pairOk (a w : Fmt) : Bool :=
  match w with
  | .untyped => true
  | _ =>
    match a with
    | .bf16 => w = .bf16 || w = .g4
    | .fp16 => w = .fp16
    | .fp8e4 | .fp8e5 => w = .fp8e4 || w = .fp8e5
    | .pl => w = .pl || w = .g4
    | _ => false

/-- TAG of a pair that R190 does not list. -/
def pairCheck (s : State) (a : Fmt) : Res' Unit :=
  if pairOk a s.ctx.mat.wfmt then .ok () else .error (.trap s tTAG (tagInfo 1 s.ctx.mat.wfmt a))

/-- The products of row values and a weight column, as terms. [DEDUCED, log 12] -/
def products (a b : List FVal) : List FVal := (a.zip b).map (fun e => mulF e.1 e.2)

/-- The sum of R121: the accumulator's element, or +0, and all products, rounded once. -/
def passSum (mode : RMode) (acc : Nat) (a b : List FVal) : Nat :=
  roundF .fp32 mode false (sumF mode (decodeF .fp32 acc :: products a b))

/-- Weight columns j < TN as values. -/
def Vec.columns (v : Vec) (tk tn : Nat) : List (List FVal) :=
  (List.range tn).map (fun j => (List.range tk).map (fun k => decodeF .fp32 (v.weight k j)))

/-- The energy class of an activation row (R386). -/
def rowClass (f : Fmt) (k : Nat) : Nat :=
  match f with
  | .bf16 | .fp16 => 0
  | .pl => if k ≤ 4 then 2 else 1
  | _ => 1

/-- MMUL (R195, R208). ZS changes no result (R197). -/
def execMmul (f : Fmt) (a : BitVec 4) (o : MHOp) (s : State) : Ans :=
  matOp (noPush (fun s =>
    let m := s.ctx.mat
    match matCheck s o 0 f m.tm m.tk with
    | .error e => .error e
    | .ok _ =>
      match pairCheck s f with
      | .error e => .error e
      | .ok () =>
        match matRead s o (32 + Config.fmtCode f) 0 f m.tm m.tk with
        | .error e => .error e
        | .ok (t, x) =>
          let v := t.ctx.vec
          let cols := v.columns m.tk m.tn
          let rows := (List.range m.tm).map (fun i =>
            (List.range m.tk).map (fun k => elemVal f (o.pc.toNat + 1) (x i k)))
          .ok ((t.writeAcc a (fun v i j =>
            if i < m.tm ∧ j < m.tn then
              passSum m.mode (if o.ac then v.acc a.toNat i j else 0) (rows.getD i []) (cols.getD j [])
            else v.acc a.toNat i j)).charge t.cur (rowClass f (o.pc.toNat + 1)) m.tm))) s

/-- MMULQ (R196): the entry's tag is checked before the pair, in the order of the rule's text. [DEDUCED, log 91] -/
def execMmulq (f : Fmt) (a : BitVec 4) (q : BitVec 5) (pk : Bool) (_ : BitVec 3) (s : State) : Ans :=
  matOp (noPush (fun s =>
    let m := s.ctx.mat
    match s.readOp (s.opnd .matrix (if pk then .pk q else .q q)) 0 f m.mode false with
    | .error e => .error e
    | .ok rd =>
      match pairCheck s f with
      | .error e => .error e
      | .ok () =>
        let n := Nat.min m.tm (rowsPerEntry f)
        let r0 := SMap.get 0 m.inn a.toNat
        let cols := s.ctx.vec.columns m.tk m.tn
        let rows := (List.range n).map (fun t => (List.range m.tk).map (fun k => decodeF f (rd (t * 128 + k))))
        let t := s.onVec (fun v => v.setAcc a.toNat (fun i j =>
          let t := (i + 128 - r0) % 128
          if t < n ∧ j < m.tn then passSum m.mode (v.acc a.toNat i j) (rows.getD t []) (cols.getD j [])
          else v.acc a.toNat i j))
        .ok ((t.onMat (fun m =>
          { m with inn := SMap.set 0 m.inn a.toNat ((r0 + n) % 128), out := SMap.set 0 m.out a.toNat 0 })).charge
            t.cur (rowClass f 8) n))) s

/-- MLDACC (R211). -/
def execMldacc (a : BitVec 4) (o : MHOp) (s : State) : Ans :=
  matOp (noPush (fun s =>
    let m := s.ctx.mat
    match matRead s o 48 0 .fp32 m.tm m.tn with
    | .error e => .error e
    | .ok (t, x) =>
      .ok (t.writeAcc a (fun v i j =>
        if i < m.tm ∧ j < m.tn then
          (if o.ac then addE .fp32 m.mode false (v.acc a.toNat i j) (x i j) else x i j)
        else v.acc a.toNat i j)))) s

/-! ## Drains (R199 to R202) -/

/-- Drained row q, column j, of an accumulator in a format: +0 at columns from TN on. [DEDUCED, log 13] -/
def drained (v : Vec) (m : Mat) (a : Nat) (f : Fmt) (mode : RMode) (sat : Bool) (q j : Nat) : Nat :=
  if j < m.tn then convert .fp32 f mode sat (v.acc a ((SMap.get 0 m.out a + q) % 128) j) else 0

/-- OUT after a drain (R199). -/
def Mat.drainedPast (m : Mat) (a rows : Nat) : Mat :=
  { m with out := SMap.set 0 m.out a ((SMap.get 0 m.out a + rows) % 128) }

/-- MDRAIN (R200): one push per entry, OUT advancing with each. -/
def execMdrain (f : Fmt) (a : BitVec 4) (q : BitVec 5) (rows : BitVec 8) (_ : BitVec 3) (s : State) : Ans :=
  matOp (fun s =>
    let m := s.ctx.mat
    let v := s.ctx.vec
    let n := drainRows rows
    let rpe := rowsPerEntry f
    let r0 := SMap.get 0 m.out a.toNat
    let w := fbytes f
    let entry (e : Nat) : Push :=
      ⟨q.toNat,
        vreg w (8192 / w) (fun i =>
          let r := e * rpe + i / 128
          if r < n then drained v m a.toNat f m.mode false r (i % 128) else 0),
        f, some (a.toNat, (r0 + Nat.min n ((e + 1) * rpe)) % 128)⟩
    .ok (s, (List.range (ceilDiv n rpe)).map entry)) s

/-- MDRAINC (R201). -/
def execMdrainc (f : Fmt) (a : BitVec 4) (o : MDOp) (s : State) : Ans :=
  matOp (noPush (fun s =>
    let m := s.ctx.mat
    let mode := o.rm.getD m.mode
    let off := s.mdOff o
    let n := drainRows o.rows
    let w := fbytes f
    match matHandle s (s.hrec o.h) rWR 2 false off with
    | .error e => .error e
    | .ok h =>
      let g : Geo := ⟨n, m.tn * w, h.pitch (m.tn * w)⟩
      match matSpan s h off g.span f with
      | .error e => .error e
      | .ok c =>
        let elem (q j : Nat) : Nat :=
          let x := drained s.ctx.vec m a.toNat f mode o.sat q j
          match c with | some d => convert f d mode false x | none => x
        let pieces := (List.range n).map (fun q =>
          (⟨off.toNat + q * g.pitch, m.tn * w, packElems w m.tn (elem q)⟩ : Seg))
        match s.post 1 s.iss.age h (s.ranges s.iss) pieces (offW off) 0 s.dcc.toNat with
        | .error e => .error e
        | .ok t => .ok (t.onMat (fun m => m.drainedPast a.toNat n)))) s

/-- Drained rows as a PL tensor (R202): scales and integers group by group. -/
def drainedPl (v : Vec) (m : Mat) (a : Nat) (mode : RMode) (n p : Nat) : Nat :=
  let groups := (List.range (2 * n)).map (fun g =>
    plGroup mode ((List.range 64).map (fun i =>
      decodeF .fp32 (drained v m a .fp32 mode false (g / 2) (g % 2 * 64 + i)))))
  let qs := packList 1 (groups.flatMap (fun e => e.2.map (plKeep p)))
  plTensor (128 * n) (fun i => qs / 2 ^ (8 * i)) (fun g => (groups.map (·.1)).getD g 0) p

/-- MDRAINP (R202). -/
def execMdrainp (a : BitVec 4) (o : MDOp) (s : State) : Ans :=
  matOp (noPush (fun s =>
    let m := s.ctx.mat
    let mode := o.rm.getD m.mode
    let off := s.mdOff o
    let n := drainRows o.rows
    match matHandle s (s.hrec o.h) rWR 2 false off with
    | .error e => .error e
    | .ok h =>
      let p := h.pc.toNat + 1
      let span := plArea (128 * n) + p * (16 * n)
      match matSpan s h off span .pl with
      | .error e => .error e
      | .ok _ =>
        if h.fmt ≠ .pl then .error (.trap s tTAG (tagInfo 4 h.fmt .pl))
        else
        match s.post 1 s.iss.age h (s.ranges s.iss)
            [⟨off.toNat, span, drainedPl s.ctx.vec m a.toNat mode n p⟩] (offW off) 0 s.dcc.toNat with
        | .error e => .error e
        | .ok t => .ok (t.onMat (fun m => m.drainedPast a.toNat n)))) s

/-! ## Accumulators, configuration (R204, R205) -/

/-- MZERO (R204). -/
def execMzero (a : BitVec 4) (_ : BitVec 3) (s : State) : Ans :=
  matOp (noPush (fun s => .ok (s.writeAcc a (fun _ _ _ => 0)))) s
/-- MACCMOV (R204). -/
def execMaccmov (a b : BitVec 4) (_ : BitVec 3) (s : State) : Ans :=
  matOp (noPush (fun s => .ok (s.writeAcc a (fun v i j => v.acc b.toNat i j)))) s
/-- MSWAP (R204). -/
def execMswap (a b : BitVec 4) (_ : BitVec 3) (s : State) : Ans :=
  matOp (noPush (fun s =>
    let v := s.ctx.vec
    .ok ((s.writeAcc a (fun _ i j => v.acc b.toNat i j)).writeAcc b (fun _ i j => v.acc a.toNat i j)))) s

/-- The effect of MSCALE and MBIAS: each column by element j of X. [DEDUCED, log 13] -/
def columnOp (fn : RMode → FVal → FVal → FVal) (a : BitVec 4) (x : VR) (s : State) : Res' State :=
  let m := s.ctx.mat.mode
  match s.readOp (s.opnd .matrix x) 0 .fp32 m false with
  | .error e => .error e
  | .ok rd =>
    .ok (s.writeAcc a (fun v i j => roundF .fp32 m false (fn m (decodeF .fp32 (v.acc a.toNat i j)) (decodeF .fp32 (rd j)))))

/-- MSCALE (R204). -/
def execMscale (a : BitVec 4) (x : VR) (_ : BitVec 3) (s : State) : Ans :=
  matOp (noPush (columnOp (fun _ p q => mulF p q) a x)) s
/-- MBIAS (R204). -/
def execMbias (a : BitVec 4) (x : VR) (_ : BitVec 3) (s : State) : Ans :=
  matOp (noPush (columnOp (fun m p q => sumF m [p, q]) a x)) s

/-- MCFG (R205). -/
def execMcfg (m k n : BitVec 7) (_ : BitVec 3) (s : State) : Ans :=
  matOp (noPush (fun s => .ok (s.onMat (fun x => { x with tm := m.toNat + 1, tk := k.toNat + 1, tn := n.toNat + 1 })))) s
/-- MRND (R205). -/
def execMrnd (rm : RMode) (_ : BitVec 3) (s : State) : Ans :=
  matOp (noPush (fun s => .ok (s.onMat (fun x => { x with mode := rm })))) s

end Sys2Proof.Machine
end

