-- ==== Sys2Proof/Machine/Signature.lean ====
section
/-! DEFINITION. The signature engine's instructions (R341 to R358). -/

namespace Sys2Proof.Machine

/-! ## Levels (R341, R342) -/

/-- Level k as a number of FP32 elements. -/
def Sig.level (g : Sig) : Nat → Nat
  | 1 => g.l1
  | 2 => g.l2
  | 3 => g.l3
  | _ => g.l4
/-- Element e of level k. -/
def Sig.at_ (g : Sig) (k e : Nat) : Nat := g.level k / 2 ^ (32 * e) % 2 ^ 32
/-- Levels 1 to SIGDEPTH set. -/
def Sig.setLevels (g : Sig) (f : Nat → Nat → Nat) : Sig :=
  let lv (k : Nat) (old : Nat) := if k ≤ g.depth then packElems 4 (g.dim ^ k) (f k) else old
  { g with l1 := lv 1 g.l1, l2 := lv 2 g.l2, l3 := lv 3 g.l3, l4 := lv 4 g.l4 }

/-- FP32 sum and product of the unit, RNE (R125). -/
def sAdd : Nat → Nat → Nat := addE .fp32 .rne false
/-- The product. -/
def sMul : Nat → Nat → Nat := mulE .fp32 .rne false

/-- A signature by level and element. -/
abbrev Levels := Nat → Nat → Nat

/-- The truncated tensor product (R344) in dimension d. -/
def sigMul (d : Nat) (t u : Levels) : Levels := fun k e =>
  let acc := (List.range (k - 1)).foldl (fun a i =>
    let j := i + 1
    sAdd a (sMul (t j (e / d ^ (k - j))) (u (k - j) (e % d ^ (k - j))))) (u k e)
  sAdd acc (t k e)

/-- 1/k! rounded to FP32 (R345, R346). -/
def cCoef : Nat → Nat
  | 1 => 0x3F800000
  | 2 => 0x3F000000
  | 3 => 0x3E2AAAAB
  | _ => 0x3D2AAAAB
/-- The coefficients of the logarithm (R346). -/
def dCoef : Nat → Nat
  | 1 => 0x3F800000
  | 2 => 0xBF000000
  | 3 => 0x3EAAAAAB
  | _ => 0xBE800000

/-- Product of the components of an increment along an index of k places, left to right. -/
def sigProd (d : Nat) (delta : Nat → Nat) : Nat → Nat → Nat
  | 0, _ => 0x3F800000
  | 1, e => delta e
  | k + 1, e => sMul (sigProd d delta k (e / d)) (delta (e % d))

/-- The exponential of an increment (R345). -/
def sigExpInc (d : Nat) (delta : Nat → Nat) : Levels := fun k e =>
  if k = 1 then delta e else sMul (sigProd d delta k e) (cCoef k)

/-- A sum in ascending order: the first term exactly. -/
def sigSum : List Nat → Nat
  | [] => 0
  | x :: l => l.foldl sAdd x

/-- The powers of R346: n + 1 of X at level k. -/
def sigPow (d : Nat) (x : Levels) : Nat → Levels
  | 0 => x
  | n + 1 => fun k e =>
    sigSum ((List.range (k - 1 - n)).map (fun i =>
      let j := n + 1 + i
      sMul (sigPow d x n j (e / d ^ (k - j))) (x (k - j) (e % d ^ (k - j)))))

/-- A power series with coefficients (R346). -/
def sigSeries (d : Nat) (coef : Nat → Nat) (x : Levels) : Levels := fun k e =>
  sigSum ((List.range k).map (fun i => sMul (coef (i + 1)) (sigPow d x i k e)))

/-! ## Stored signatures (R343) -/

/-- A valid header: all fields in range and zero fields zero. -/
def sigHeaderOk (x : Nat) : Bool :=
  let d := bits x 71 64
  let n := bits x 79 72
  let f := bits x 87 80
  decide (1 ≤ d ∧ d ≤ 16 ∧ 1 ≤ n ∧ n ≤ 4 ∧ (f = 1 ∨ f = 3)) && decide (x / 2 ^ 89 = 0)

/-- The state with the accumulator changed. -/
def State.onSig (s : State) (f : Sig → Sig) : State := s.setCtx { s.ctx with sig := f s.ctx.sig }

/-- A signature instruction. -/
def sigOp (body : Body) (s : State) : Ans := engineOp .signature body s

/-- SIGSTATE (R355). -/
def sigState (s : State) (reason : Nat) : Stop := .trap s tSIGSTATE (word reason)

/-! ## Configuration and increments (R347 to R349) -/

/-- SIGCFG (R347). -/
def execSigcfg (dim : BitVec 4) (dep : BitVec 2) (_ : BitVec 3) (s : State) : Ans :=
  sigOp (noPush (fun s => .ok (s.onSig (fun _ =>
    { Sig.reset with dim := dim.toNat + 1, depth := dep.toNat + 1 })))) s

/-- SIGZERO (R347). -/
def execSigzero (a : BitVec 5) (_ : BitVec 3) (s : State) : Ans :=
  sigOp (noPush (fun s =>
    let lo := (s.sc a).setWidth 32
    .ok (s.onSig (fun g => { g.setLevels (fun _ _ => 0) with log := false, lo := lo, hi := lo - 1 })))) s

/-- SIGSEG (R347). -/
def execSigseg (a b : BitVec 5) (_ : BitVec 3) (s : State) : Ans :=
  sigOp (noPush (fun s => .ok (s.onSig (fun g => { g with lo := (s.sc a).setWidth 32, hi := (s.sc b).setWidth 32 })))) s

/-- One increment applied (R348). -/
def Sig.inc (g : Sig) (delta : Nat → Nat) : Sig :=
  { g.setLevels (sigMul g.dim g.at_ (sigExpInc g.dim delta)) with hi := g.hi + 1 }

/-- A pattern of FP32 or BF16 widened to FP32. -/
def widen (f : Fmt) (x : Nat) : Nat := if f = .bf16 then convert .bf16 .fp32 .rne false x else x

/-- SIGINC (R348). -/
def execSiginc (f : Fmt) (x : VR) (_ : BitVec 3) (s : State) : Ans :=
  sigOp (noPush (fun s =>
    if s.ctx.sig.log then .error (sigState s 0)
    else
      match s.readOp (s.opnd .signature x) 0 f .rne false with
      | .error e => .error e
      | .ok rd => .ok (s.onSig (fun g => g.inc (fun i => widen f (rd i)))))) s

/-! ## Memory operands (R353) -/

/-- Steps 2 and 3 of R353. -/
def sigHandle (s : State) (ho : Option Handle) (right : Nat) (off : Int) : Res' Handle :=
  match ho with
  | none => .error (.trap s tNOHANDLE (offW off))
  | some h =>
    if !h.has right then .error (.trap s tRIGHTS (offW off))
    else if h.level = 2 then .error (.trap s tLEVEL (levelInfo 1 (if right = rWR then 2 else 0)))
    else if off % 64 ≠ 0 then .error (.trap s tMISALIGN (offW off))
    else .ok h

/-- Steps 5 and 6 of R353 for a span. -/
def sigBounds (s : State) (h : Handle) (off : Int) (n : Nat) : Res' Unit :=
  if off < 0 ∨ (h.len.toNat : Int) < off + n then .error (.trap s tBOUNDS (offW off))
  else if h.level = 0 ∧ !s.inPartition h off.toNat n then .error (.trap (s.refusedAt h off.toNat) tPARTITION (offW off))
  else .ok ()

/-- The offset of the first faulting byte, from the recorded fault. -/
def State.faultOff (s : State) (h : Handle) : Word :=
  offW (((s.world h.world.toNat).x.fva.toNat : Int) - h.base.toNat)

/-- A span read; a fault names the offset of the first faulting byte (R353). -/
def State.sigLoad (s : State) (h : Handle) (o n : Nat) : Res' (State × Nat) :=
  if s.readParked h [(o, n)] then .error (.hold s)
  else
    match s.load 4 h o n (offW o) with
    | .error (.trap t code ti) => .error (.trap t code (if code = tPAGEFAULT then t.faultOff h else ti))
    | r => r

/-- SIGINCB (R349). -/
def execSigincb (f : Fmt) (ho : BitVec 6) (a b : BitVec 5) (_ : BitVec 3) (s : State) : Ans :=
  sigOp (noPush (fun s =>
    let off := (s.sc a).toInt
    let c := (s.sc b).toNat
    if 2 ^ 32 ≤ c then .error (.trap s tBOUNDS (s.sc b))
    else if s.ctx.sig.log then .error (sigState s 0)
    else if c = 0 then .ok s
    else
      match sigHandle s (s.hrec ho) rRD off with
      | .error e => .error e
      | .ok h =>
        let d := s.ctx.sig.dim
        let w := fbytes f
        match sigBounds s h off (c * d * w) with
        | .error e => .error e
        | .ok () =>
          match tagCheck s.ctx.tagmode h.fmt f with
          | none => .error (.trap s tTAG (tagInfo 4 h.fmt f))
          | some cv =>
            match s.sigLoad h off.toNat (c * d * w) with
            | .error e => .error e
            | .ok (t, mem) =>
              .ok (t.onSig (fun g => (List.range c).foldl (fun g m => g.inc (fun i =>
                widen f (readAs cv f .rne false (mem / 2 ^ (8 * w * (m * d + i)) % 2 ^ (8 * w))))) g)))) s

/-- A stored signature read and checked (R353 steps 2 to 10): its levels, LO, HI and LOG. -/
def sigStored (s : State) (ho : Option Handle) (off : Int) (join : Bool) : Res' (State × Levels × Sig) :=
  match sigHandle s ho rRD off with
  | .error e => .error e
  | .ok h =>
    match sigBounds s h off 64 with
    | .error e => .error e
    | .ok () =>
      match s.sigLoad h off.toNat 64 with
      | .error (.trap t code ti) => .error (.trap t code (if code = tPAGEFAULT then offW off else ti))
      | .error e => .error e
      | .ok (t, hd) =>
        let g := s.ctx.sig
        if !sigHeaderOk hd then .error (sigState s 3)
        else if bits hd 71 64 ≠ g.dim ∨ bits hd 79 72 ≠ g.depth then .error (sigState s 2)
        else
          let f : Fmt := if bits hd 87 80 = 1 then .fp32 else .bf16
          let w := fbytes f
          match sigBounds s h off (sigBytes g.dim g.depth w) with
          | .error e => .error e
          | .ok () =>
            if h.fmt ≠ .untyped ∧ h.fmt ≠ f then .error (.trap s tTAG (tagInfo 4 h.fmt f))
            else if join ∧ bit hd 88 then .error (sigState s 4)
            else
              match t.sigLoad h off.toNat (sigBytes g.dim g.depth w) with
              | .error e => .error e
              | .ok (u, mem) =>
                .ok (u,
                  (fun k e => widen f (mem / 2 ^ (8 * (sigStart g.dim w k + w * e)) % 2 ^ (8 * w))),
                  { g with lo := BitVec.ofNat 32 hd, hi := BitVec.ofNat 32 (hd / 2 ^ 32), log := bit hd 88 })

/-- SIGJOIN (R350). -/
def execSigjoin (left : Bool) (ho : BitVec 6) (a : BitVec 5) (_ : BitVec 3) (s : State) : Ans :=
  sigOp (noPush (fun s =>
    let g := s.ctx.sig
    if g.log then .error (sigState s 0)
    else
      match sigStored s (s.hrec ho) (s.sc a).toInt true with
      | .error e => .error e
      | .ok (t, lv, st) =>
        let (lo, mid, nxt, hi) := if left then (st.lo, st.hi + 1, g.lo, g.hi) else (g.lo, g.hi + 1, st.lo, st.hi)
        if mid ≠ nxt then .error (.trap s tSEGORDER (word (nxt.toNat * 2 ^ 32 + mid.toNat)))
        else
          .ok (t.onSig (fun g =>
            { g.setLevels (if left then sigMul g.dim lv g.at_ else sigMul g.dim g.at_ lv) with lo := lo, hi := hi })))) s

/-- SIGLOG (R351). -/
def execSiglog (_ : BitVec 3) (s : State) : Ans :=
  sigOp (noPush (fun s =>
    if s.ctx.sig.log then .error (sigState s 0)
    else .ok (s.onSig (fun g => { g.setLevels (sigSeries g.dim dCoef g.at_) with log := true })))) s

/-- SIGEXP (R351). -/
def execSigexp (_ : BitVec 3) (s : State) : Ans :=
  sigOp (noPush (fun s =>
    if s.ctx.sig.log then .ok (s.onSig (fun g => { g.setLevels (sigSeries g.dim cCoef g.at_) with log := false }))
    else .error (sigState s 1))) s

/-- SIGLD (R352). -/
def execSigld (ho : BitVec 6) (a : BitVec 5) (_ : BitVec 3) (s : State) : Ans :=
  sigOp (noPush (fun s =>
    match sigStored s (s.hrec ho) (s.sc a).toInt false with
    | .error e => .error e
    | .ok (t, lv, st) => .ok (t.onSig (fun _ => st.setLevels lv)))) s

/-- A write posted through the translation unit: a fault is precise, a blocked page lets the write wait (R247, R353), and so does
a partition whose bytes are still to be placed (R408). -/
def State.postWait (s : State) (src age : Nat) (h : Handle) (rngs : List Rng) (o n v : Nat) : Res' State :=
  if s.unplaced h o n then .error (.hold s)
  else
  match s.resolve h o n true with
  | .denied t => .error (.trap t tPARTITION (offW o))
  | .page t _ => .error (.trap t tPAGEFAULT (t.faultOff h))
  | .blocked t _ =>
    .ok (t.setCtx { t.ctx with
      fl := t.ctx.fl ++ [⟨src, age, h.sync, h.world, rngs, s.dcc.toNat, 0, offW o, [], [⟨h.base.toNat + o, n, v⟩], false, s.iss.line, s.iss.lane⟩] })
  | .ok t runs =>
    .ok (t.setCtx { t.ctx with fl := t.ctx.fl ++ [⟨src, age, h.sync, h.world, rngs, s.dcc.toNat, 0, offW o, cutRuns runs v, [], false, s.iss.line, s.iss.lane⟩] })

/-- The accumulator as a stored signature of a format (R343, R352). -/
def Sig.stored (g : Sig) (f : Fmt) : Nat :=
  let w := fbytes f
  let hd := g.lo.toNat + g.hi.toNat * 2 ^ 32 + g.dim * 2 ^ 64 + g.depth * 2 ^ 72 + Config.fmtCode f * 2 ^ 80
    + (if g.log then 2 ^ 88 else 0)
  (List.range g.depth).foldl (fun a i =>
    let k := i + 1
    a + packElems w (g.dim ^ k) (fun e => if f = .bf16 then convert .fp32 .bf16 .rne false (g.at_ k e) else g.at_ k e)
      * 2 ^ (8 * sigStart g.dim w k)) hd

/-- SIGST (R352). -/
def execSigst (f : Fmt) (ho : BitVec 6) (a : BitVec 5) (_ : BitVec 3) (s : State) : Ans :=
  sigOp (noPush (fun s =>
    let off := (s.sc a).toInt
    let g := s.ctx.sig
    let n := sigBytes g.dim g.depth (fbytes f)
    match sigHandle s (s.hrec ho) rWR off with
    | .error e => .error e
    | .ok h =>
      match sigBounds s h off n with
      | .error e => .error e
      | .ok () =>
        if h.fmt ≠ .untyped ∧ h.fmt ≠ f then .error (.trap s tTAG (tagInfo 4 h.fmt f))
        else s.postWait 4 s.iss.age h (s.ranges s.iss) off.toNat n (g.stored f))) s

/-- SIGDRAIN (R354). -/
def execSigdrain (q : BitVec 5) (lvl : BitVec 2) (_ : BitVec 3) (s : State) : Ans :=
  sigOp (fun s =>
    let g := s.ctx.sig
    let k := lvl.toNat + 1
    if g.depth < k then .error (sigState s 5)
    else
      let n := g.dim ^ k
      .ok (s, (List.range (ceilDiv n 2048)).map (fun e =>
        ⟨q.toNat, BitVec.ofNat 65536 (g.level k / 2 ^ (65536 * e)), .fp32, none⟩))) s

end Sys2Proof.Machine
end

