-- ==== Sys2Proof/Machine/Halo.lean ====
section
/-! DEFINITION. The halo engine (R317 to R339): grids, their layout, declaration, exchange and step-tagged accesses,
and the events of an exchange. -/

namespace Sys2Proof.Machine

/-! ## Faces and layout (R318, R319) -/

/-- The opposite face. -/
def opposite (f : Nat) : Nat := if f % 2 = 0 then f + 1 else f - 1

/-- The bytes of a box. -/
def Grid.bytes (g : Grid) (b : Box) : Nat := (b.x1 - b.x0) * (b.y1 - b.y0) * (b.z1 - b.z0) * g.ew

/-- Flat runs of bytes of a grid's record. -/
def Grid.runs (g : Grid) (l : List (Nat × Nat)) : List (Nat × Nat) :=
  match coreIdx g.hd.core with
  | some ci => l.flatMap (fun r => g.hd.cistRuns ci (r.2 / 64 + 2) r.1 r.2)
  | none => []

/-- The face to whose ghost layer a byte of the record belongs; none for interior bytes and bytes beyond the
padded block (R319). -/
def Grid.faceAt (g : Grid) (byte : Nat) : Option Nat :=
  if g.size ≤ byte then none
  else
    let e := byte / g.ew
    let x := e % g.padded 0
    let y := e / g.padded 0 % g.padded 1
    let z := e / (g.padded 0 * g.padded 1)
    let side (d c : Nat) : Option Nat :=
      if c < g.pad d then some (2 * d) else if g.pad d + g.extent d ≤ c then some (2 * d + 1) else none
    match side 2 z with
    | some f => some f
    | none =>
      match side 1 y with
      | some f => some f
      | none => side 0 x

/-! ## Grids of the moving context, traps -/

/-- A grid of a context. -/
def Ctx.grid (c : Ctx) (g : Nat) : Option Grid := SMap.get none c.grids g
/-- A grid of a context replaced. -/
def Ctx.setGrid (c : Ctx) (g : Nat) (x : Option Grid) : Ctx := { c with grids := SMap.set none c.grids g x }
/-- A grid of the moving context. -/
def State.grid (s : State) (g : BitVec 4) : Option Grid := s.ctx.grid g.toNat
/-- A grid of the moving context replaced. -/
def State.setGrid (s : State) (g : BitVec 4) (x : Option Grid) : State := s.setCtx (s.ctx.setGrid g.toNat x)

/-- TINFO of GRIDSTATE (R337). -/
def gridInfo (reason face : Nat) (g : BitVec 4) : Word := word (reason * 256 + face * 32 + g.toNat)
/-- GRIDSTATE. -/
def gridState (s : State) (reason face : Nat) (g : BitVec 4) : Stop := .trap s tGRIDSTATE (gridInfo reason face g)

/-- TINFO of STALEHALO and OVERRUN (R336). -/
def haloInfo (found : Option (BitVec 32)) (need : BitVec 32) (face : Nat) (g : BitVec 4) : Word :=
  word ((match found with | some x => x.toNat * 2 ^ 32 + 2 ^ 15 | none => 0) + need.toNat % 65536 * 65536 + face * 256
    + g.toNat)

/-- a ≥ b as serial steps (R321). -/
def stepGe (a b : BitVec 32) : Bool := meets a b
/-- a > b as serial steps. -/
def stepGt (a b : BitVec 32) : Bool := stepGe a b && a ≠ b

/-- A halo instruction. -/
def haloOp (body : Body) (s : State) : Ans := engineOp .halo body s

/-! ## Declaring (R329) -/

/-- The fields of GEO1 (R234). -/
def Handle.nx (h : Handle) : Nat := bits h.geo1.toNat 20 0
/-- NY. -/
def Handle.ny (h : Handle) : Nat := bits h.geo1.toNat 41 21
/-- NZ. -/
def Handle.nz (h : Handle) : Nat := bits h.geo1.toNat 62 42

/-- A grid as GDECL leaves it (R317). -/
def Grid.declared (h : Handle) : Grid :=
  { hd := h, dims := if h.ny = 0 then 1 else if h.nz = 0 then 2 else 3
    nx := h.nx, ny := if h.ny = 0 then 1 else h.ny, nz := if h.nz = 0 then 1 else h.nz
    ew := fbytes h.fmt, rad := 1, depth := 1, w := 1, faces := [], step := 0, xstep := none, active := false
    bind := none, phase := 0, sent := 0, read := 0, waiting := 0, incp := false, failed := false, issued := 0, line := 0, lane := 0
    age := 0 }

/-- GDECL (R329). -/
def execGdecl (g : BitVec 4) (h : BitVec 6) (_ : BitVec 3) (s : State) : Ans :=
  haloOp (noPush (fun s =>
    if (s.grid g).isSome then .error (gridState s 1 0 g)
    else
      match s.hrec h with
      | none => .error (.trap s tNOHANDLE 0)
      | some r =>
        if !r.has rRD ∨ !r.has rWR then .error (.trap s tRIGHTS 0)
        else if !s.isOwn r ∨ r.nx = 0 ∨ (r.nz ≠ 0 ∧ r.ny = 0) then .error (gridState s 9 0 g)
        else if r.fmt ≠ .fp32 ∧ r.fmt ≠ .fp16 ∧ r.fmt ≠ .bf16 then .error (.trap s tTAG (tagInfo 4 r.fmt .untyped))
        else .ok (s.setGrid g (some (Grid.declared r))))) s

/-- A declaration of a grid that is declared and not active (R329). [DESIGN CHOICE, log 9] -/
def declare (g : BitVec 4) (s : State) (f : Grid → Res' Grid) : Res' State :=
  match s.grid g with
  | none => .error (gridState s 0 0 g)
  | some r =>
    if r.active then .error (gridState s 2 0 g)
    else
      match f r with
      | .error e => .error e
      | .ok r => .ok (s.setGrid g (some r))

/-- GBIND (R329). -/
def execGbind (g : BitVec 4) (e : BitVec 6) (_ : BitVec 3) (s : State) : Ans :=
  haloOp (noPush (fun s => declare g s (fun r => .ok { r with bind := some e }))) s

/-- GBOUND (R329). -/
def execGbound (g : BitVec 4) (face : Face) (rule : Rule) (_ : BitVec 3) (s : State) : Ans :=
  haloOp (noPush (fun s => declare g s (fun r =>
    let x := r.face (faceNum face)
    .ok (r.setFace (faceNum face)
      { x with conn := false, rule := some rule, peer := if rule = .periodic then x.peer else none
               kind := if rule = .periodic then x.kind else .die })))) s

/-- GDEPTH (R329). -/
def execGdepth (g : BitVec 4) (bm1 : BitVec 2) (a : BitVec 5) (_ : BitVec 3) (s : State) : Ans :=
  haloOp (noPush (fun s => declare g s (fun r =>
    let n := (s.sc a).toNat
    if n < 1 ∨ 8 < n then .error (gridState s 3 0 g)
    else .ok { r with rad := n, depth := bm1.toNat + 1, w := (bm1.toNat + 1) * n }))) s

/-- GFACE (R329): a later one on a PERIODIC face keeps the rule. -/
def execGface (g : BitVec 4) (face : Face) (kind : Kind) (a : BitVec 5) (_ : BitVec 3) (s : State) : Ans :=
  haloOp (noPush (fun s => declare g s (fun r =>
    let x := r.face (faceNum face)
    let keep := x.rule = some .periodic
    .ok (r.setFace (faceNum face)
      { x with conn := !keep, rule := if keep then x.rule else none, kind := kind, peer := some (s.sc a) })))) s

/-! ## Peers (R323, R330) -/

/-- The partner of a face that sends: device, gang, strand; itself for PERIODIC without a named peer. -/
def State.partner (s : State) (x : FaceSt) : Option (Nat × Nat × Nat) :=
  let own := s.dev.num.toNat
  match x.peer with
  | none => if x.rule = some .periodic then some (own, s.bind.gang.toNat, s.bind.strand.toNat) else none
  | some t =>
    if x.kind = .device then some (bits t.toNat 40 32, bits t.toNat 31 16, bits t.toNat 15 0)
    else some (own, s.bind.gang.toNat, bits t.toNat 15 0)

/-- KIND agrees with the peer's location and the word names a strand (R329, R330). -/
def State.peerOk (s : State) (x : FaceSt) : Bool :=
  match x.peer with
  | none => true
  | some t =>
    let own := coreId (coreOf s.cur)
    match x.kind with
    | .device => decide (t.toNat < 2 ^ 41 ∧ bits t.toNat 40 32 ≤ 431 ∧ bits t.toNat 40 32 ≠ s.dev.num.toNat)
    | k =>
      decide (t.toNat < 65536 ∧ t.toNat < s.strandsOf s.bind.gang.toNat) &&
        (match s.keyOf s.bind.gang.toNat t.toNat with
          | some j => (pathClass own (coreId (coreOf j)) ≤ 2) = (k = .die)
          | none => t.toNat = s.bind.strand.toNat && k = .die)

/-- A face is declared. -/
def FaceSt.defined (x : FaceSt) : Bool := x.conn || x.rule.isSome

/-- The first failure of R330: its reason and face. [DESIGN CHOICE, log 9] -/
def State.gridCheck (s : State) (g : Grid) : Option (Nat × Nat) :=
  match g.used.find? (fun f => !(g.face f).defined) with
  | some f => some (3, f)
  | none =>
    match (List.range 6).find? (fun f => decide (2 * g.dims ≤ f) && ((g.face f).defined || (g.face f).peer.isSome)) with
    | some f => some (3, f)
    | none =>
      if (List.range g.dims).any (fun d => g.extent d < g.w) then some (3, 0)
      else if g.hd.len.toNat < g.size then some (4, 0)
      else (g.used.find? (fun f => !s.peerOk (g.face f))).map (fun f => (7, f))

/-! ## Stepping and exchanging (R322, R332) -/

/-- GSTEP (R332). -/
def execGstep (g : BitVec 4) (_ : BitVec 3) (s : State) : Ans :=
  haloOp (noPush (fun s =>
    match s.grid g with
    | none => .error (gridState s 0 0 g)
    | some r =>
      if !r.active ∨ r.depth < (r.step + 1 - r.xstep.getD 0).toNat then .error (gridState s 5 0 g)
      else .ok (s.setGrid g (some { r with step := r.step + 1 })))) s

/-- The step that a grid's exchange is for: STEP as its gxchg issued (R322, R332). -/
def Grid.tag (g : Grid) : BitVec 32 := g.xstep.getD g.step

/-- A phase starts: FIXED faces of its dimension hold the step at once (R323). -/
def Grid.startPhase (g : Grid) (p : Nat) : Grid :=
  [2 * p - 2, 2 * p - 1].foldl (fun g f =>
    let x := g.face f
    if x.rule = some .fixed then
      { g.setFace f { x with hstep := some g.tag } with
        sent := g.sent ||| BitVec.twoPow 6 f, read := g.read ||| BitVec.twoPow 6 f }
    else g) { g with phase := p }

/-- GXCHG (R332): the exchange starts; its bytes stay held in the range checker until it completes (R326). -/
def execGxchg (g : BitVec 4) (_ : BitVec 3) (s : State) : Ans :=
  haloOp (noPush (fun s =>
    match s.grid g with
    | none => .error (gridState s 0 0 g)
    | some r =>
      if r.phase ≠ 0 then .error (.hold s)
      else if (s.live (some r.hd)).isNone then .error (.trap s tNOHANDLE 0)
      else
        match (if r.active then (if (r.step - r.xstep.getD 0).toNat ≠ r.depth then some (6, 0) else none)
               else s.gridCheck r) with
        | some (reason, f) => .error (gridState s reason f g)
        | none =>
          if !s.inPartition r.hd 0 r.size then .error (.trap (s.refusedAt r.hd 0) tPARTITION 0)
          else
            let r := { r with
              active := true, xstep := some r.step, sent := 0, read := 0, waiting := 0, incp := r.bind.isSome, failed := false
              issued := s.dcc, line := s.iss.line, lane := s.iss.lane, age := s.iss.age }
            let t := s.setGrid g (some (r.startPhase 1))
            .ok (t.setCtx { t.ctx with
              fl := t.ctx.fl ++ [⟨3, s.iss.age, none, r.hd.world, s.memRanges s.iss, 0, 0, 0, [], [], false, s.iss.line, s.iss.lane⟩] }))) s

/-- GRESET (R331). -/
def execGreset (g : BitVec 4) (_ : BitVec 3) (s : State) : Ans :=
  haloOp (noPush (fun s =>
    match s.grid g with
    | none => .error (gridState s 0 0 g)
    | some r =>
      if r.phase ≠ 0 then .error (.hold s)
      else
        let faces := r.faces.map (fun e => (e.1, { e.2 with hstep := none }))
        .ok (s.setGrid g (some { r with step := 0, xstep := none, active := false, faces := faces })))) s

/-- GFREE (R331). -/
def execGfree (g : BitVec 4) (_ : BitVec 3) (s : State) : Ans :=
  haloOp (noPush (fun s =>
    match s.grid g with
    | none => .error (gridState s 0 0 g)
    | some r => if r.phase ≠ 0 then .error (.hold s) else .ok (s.setGrid g none))) s

/-! ## Waiting for steps (R333, R335) -/

/-- What the faces of a list say of a step: an overrun, the lowest face not ready, or that all hold it. -/
inductive Faces where
  | over (f : Nat)
  | wait (f : Nat)
  | ready
deriving DecidableEq, Repr

/-- Faces examined in order against a step: an overrun, or the first that is not ready (R335). -/
def Grid.check (g : Grid) (n : BitVec 32) : List Nat → Faces
  | [] => .ready
  | f :: l =>
    match (g.face f).hstep with
    | some h =>
      if stepGt h (n + BitVec.ofNat 32 g.depth) then .over f
      else if stepGe h n then g.check n l
      else .wait f
    | none => .wait f

/-- A face whose step exceeds n + DEPTH. -/
def Grid.over (g : Grid) (n : BitVec 32) (f : Nat) : Bool :=
  match (g.face f).hstep with
  | some h => stepGt h (n + BitVec.ofNat 32 g.depth)
  | none => false

/-- A face check's consequence: OVERRUN, a hold of the halo queue, or the effect. -/
def faceWait (s : State) (g : BitVec 4) (r : Grid) (n : BitVec 32) (l : List Nat) (k : State → Res' α) : Res' α :=
  match r.check n l with
  | .over f => .error (.trap s tOVERRUN (haloInfo (r.face f).hstep n f g))
  | .wait f => .error (.hold (s.stall .halo (.halo g f)))
  | .ready => k s

/-- GWAIT (R333). -/
def execGwait (g : BitVec 4) (st : BitVec 5) (e : BitVec 6) (_ : BitVec 3) (s : State) : Ans :=
  haloOp (noPush (fun s =>
    match s.grid g with
    | none => .error (gridState s 0 0 g)
    | some r =>
      let n := (s.sc st).setWidth 32
      match r.used.find? (r.over n) with
      | some f => .error (.trap s tOVERRUN (haloInfo (r.face f).hstep n f g))
      | none =>
        faceWait s g r n r.used (fun s => .ok (s.sendIncr s.cur s.bind.gang.toNat s.bind.strand.toNat e 1)))) s

/-- The offset in a handle of the byte at a physical cistern offset (R238, R239): none where the handle starts after it. -/
def Handle.offsetOf (h : Handle) (p : Nat) : Option Nat :=
  let base := h.base.toNat % 2 ^ 23
  if h.geo0.toNat / 2 ^ 62 = 0 then (if base ≤ p then some (p - base) else none)
  else
    ((List.range 32).map (fun j => p / 2048 * 2048 + 64 * j + p % 64)).findSome? (fun u =>
      if base ≤ u ∧ h.cist (u - base) = p then some (u - base) else none)

/-- A held load or store goes on in the cycle after the one in which the last step it waits for is set (R335). -/
def afterHold (k : State → Res' α) (s : State) : Res' α :=
  match (s.eng .halo).stall with
  | .halo _ _ => .error (.hold (s.stall .halo .none))
  | _ => k s

/-- The bytes of the active lanes in a grid's record, every second one, or none where one lies outside it (R335): what they share is
decided by physical offsets (R239). [DEDUCED, log 19] -/
def gridBytes (r : Grid) (h : Handle) (off : Int) (v : Vec) (k : BitVec 3) : Option (List Nat) :=
  ((v.runs k).flatMap (fun x => (List.range (2 * x.2)).map (fun i => off.toNat + 4 * x.1 + 2 * i))).mapM (fun o =>
    if h.level ≠ 0 ∨ h.core ≠ r.hd.core then none
    else (r.hd.offsetOf (h.cist o)).bind (fun b => if b < r.hd.len.toNat then some b else none))

/-- The faces touched, ascending. [DEDUCED, log 19] -/
def touched (r : Grid) (l : List Nat) : List Nat :=
  (List.range 6).filter (fun f => l.any (fun b => r.faceAt b = some f))

/-- The additions of R335 to a load or store; what goes on then is told the bytes. -/
def gridAccess (s : State) (g : BitVec 4) (n : BitVec 32) (store : Bool) (h : Handle) (off : Int) (k : BitVec 3)
    (go : Grid → List Nat → State → Res' α) : Res' α :=
  match s.grid g with
  | none => .error (gridState s 0 0 g)
  | some r =>
    if !r.active then .error (gridState s 5 0 g)
    else if (s.live (some r.hd)).isNone then .error (.trap s tNOHANDLE (offW off))
    else
      match gridBytes r h off s.ctx.vec k with
      | none => .error (gridState s 8 0 g)
      | some bytes =>
        let x := r.xstep.getD 0
        if store ∧ !(stepGt n x && stepGe (x + BitVec.ofNat 32 r.depth) n) then
          .error (.trap s tOVERRUN (haloInfo r.xstep n 7 g))
        else
          let need := if store then x else n
          faceWait s g r need (touched r bytes) (afterHold (go r bytes))

/-- GLD (R335): it rounds in RNE (R113), and a register that it would merge into is checked before the grid is. -/
def execGld (f : Fmt) (o : GMOp) (s : State) : Ans :=
  haloOp (fun s =>
    let off := (s.sc o.a).toInt + o.i.toInt * 64
    match lsCheck s (s.hrec o.h) rRD f o.k off false none with
    | .error e => .error e
    | .ok (h, c) =>
      match s.keepTyped o.x o.k f .rne false with
      | .error e => .error e
      | .ok _ => gridAccess s o.g ((s.sc o.st).setWidth 32) false h off o.k (fun _ _ s => loadReg 3 .rne o.x h c f o.k off s)) s

/-- A store overlaps interior bytes of a layer that an exchange in progress has still to read; ghost bytes are ordered by their steps
alone (R327). -/
def Grid.unread (g : Grid) (bytes : List Nat) : Bool :=
  g.phase ≠ 0 && g.used.any (fun f =>
    !g.read.getLsbD f && (g.face f).rule ≠ some .fixed &&
      (let rows := g.rows (g.inner f)
       bytes.any (fun b => g.faceAt b = none && rows.any (fun r => decide (r.1 ≤ b ∧ b < r.1 + r.2)))))

/-- GST (R335, R327): it rounds in RNE (R113), and the register that it stores is checked before the grid is. -/
def execGst (f : Fmt) (o : GMOp) (s : State) : Ans :=
  haloOp (noPush (fun s =>
    let off := (s.sc o.a).toInt + o.i.toInt * 64
    match lsCheck s (s.hrec o.h) rWR f o.k off false none with
    | .error e => .error e
    | .ok (h, c) =>
      match storeReg .halo .rne o.x c f o.k off s with
      | .error e => .error e
      | .ok (t, pieces) =>
        gridAccess t o.g ((s.sc o.st).setWidth 32) true h off o.k (fun r bytes s =>
          if r.unread bytes then .error (.hold (s.stall .halo .none)) else s.postPieces .halo h pieces 0 (offW off)))) s

/-! ## The events of an exchange (R322 to R326) -/

/-- B and W of a path class (R283); 4 is HBM. -/
def pathB (p : Nat) : Nat := [24, 40, 64, 144, 900].getD p 900
/-- W. -/
def pathW (p : Nat) : Nat := [256, 128, 128, 64, 64].getD p 64

/-- Data of a box of a grid as its strand's halo engine reads it. -/
def State.readBox (s : State) (c : Ctx) (g : Grid) (b : Box) : Nat := readRuns (c.view 3 s.mem) (g.runs (g.rows b))

/-- The ghost data of a locally ruled face (R323): rows of the interior, mirrored, repeated or zero. -/
def State.ruledData (s : State) (c : Ctx) (g : Grid) (f : Nat) (rule : Rule) : Nat :=
  let b := g.ghost f
  let d := f / 2
  let m := c.view 3 s.mem
  -- the interior coordinate that ghost coordinate c receives
  let src (x : Nat) : Nat :=
    let lo := g.w
    let hi := g.w + g.extent d - 1
    match rule with
    | .reflect => if f % 2 = 0 then lo + (lo - 1 - x) else hi - (x - hi - 1)
    | _ => if f % 2 = 0 then lo else hi
  let elem (x y z : Nat) : Nat :=
    let o := g.ew * ((z * g.padded 1 + y) * g.padded 0 + x)
    readRuns m (g.runs [(o, g.ew)])
  if rule = .zero then 0
  else
    let nx := b.x1 - b.x0
    let ny := b.y1 - b.y0
    packElems g.ew (nx * ny * (b.z1 - b.z0)) (fun i =>
      let x := b.x0 + i % nx
      let y := b.y0 + i / nx % ny
      let z := b.z0 + i / (nx * ny)
      elem (if d = 0 then src x else x) (if d = 1 then src y else y) (if d = 2 then src z else z))

/-- The exchange of a step, or of a later one, has issued on a grid (R324). -/
def Grid.began (g : Grid) (step : BitVec 32) : Bool :=
  g.active && (match g.xstep with | some x => stepGe x step | none => false)

/-- The layer may start: R324's acceptance by a partner on this device whose exchange of the step has issued. Whether
one on another device has issued, that device knows: a free value. [DESIGN CHOICE, log 86] -/
def State.accepted (s : State) (p : Nat × Nat × Nat) (g : BitVec 4) (step : BitVec 32) : Bool :=
  if p.1 ≠ s.dev.num.toNat then Config.peerBegan p g.toNat step s.dcc.toNat
  else
    match s.keyOf p.2.1 p.2.2 with
    | none => false
    | some j => (match (s.ctxAt j).grid g.toNat with | some q => q.began step | none => false)

/-- The path class from the moving core to a strand's cistern. -/
def State.classTo (s : State) (gang strand : Nat) : Nat :=
  match s.keyOf gang strand with
  | some j => pathClass (coreId (coreOf s.cur)) (coreId (coreOf j))
  | none => 0

/-- A layer of a face of the moving context's grid, to a face of a strand. -/
def State.layer (s : State) (g : BitVec 4) (r : Grid) (b : Box) (p : Nat × Nat × Nat) (face : Nat) (ruled : Bool) (data delay : Nat) : LayerMsg :=
  { srcDev := s.dev.num, srcGang := s.bind.gang.toNat, srcStrand := s.bind.strand.toNat, dev := BitVec.ofNat 9 p.1, gang := p.2.1
    strand := p.2.2, g := g, face := faceOf face, step := r.tag, w := r.w, ew := r.ew, ex := b.x1 - b.x0, ey := b.y1 - b.y0
    ez := b.z1 - b.z0, revoked := (s.live (some r.hd)).isNone, gen := r.hd.gen, world := s.bind.world, ruled := ruled, data := data
    due := s.dcc.toNat + delay }

/-- A layer put on its way: over the lateral network, or as flits of the strand's world (R325). -/
def State.sendLayer (s : State) (l : LayerMsg) : State :=
  if l.dev = s.dev.num then { s with layers := s.layers ++ [l] }
  else
    s.inject (coreId (coreOf s.cur)) l.dev.toNat (s.bind.gang.toNat * 65536 + s.bind.strand.toNat) ((gotOfLayer l).flits l.world l.dev.toNat)

/-- HALO_LAYER_SEND (R322, R323, R325): the layer is read and put on its way, while the context runs (R373); one that its partner does
not accept yet waits here (R324). -/
def execHaloLayerSend (g : BitVec 4) (face : Face) (s : State) : Ans :=
  .next (match s.grid g with
    | none => s
    | some r =>
      let f := faceNum face
      let x := r.face f
      if s.ctx.phase = .running ∧ r.phase = f / 2 + 1 ∧ f < 2 * r.dims ∧ !r.sent.getLsbD f ∧ r.issued.toNat + 2 ≤ s.dcc.toNat then
        let b := r.inner f
        let send (l : LayerMsg) : State :=
          let t := (s.chargeRuns s.cur (r.runs (r.rows b))).sendLayer l
          t.setCtx (t.ctx.setGrid g.toNat (some { r with
            sent := r.sent ||| BitVec.twoPow 6 f, read := r.read ||| BitVec.twoPow 6 f, waiting := r.waiting &&& ~~~BitVec.twoPow 6 f }))
        let away : State :=
          match s.partner x with
          | some p =>
            if s.accepted p g r.tag then
              let cls := s.classTo p.2.1 p.2.2
              send (s.layer g r b p (opposite f) false (s.readBox s.ctx r b) (pathB cls + ceilDiv (r.bytes b) (pathW cls)))
            else s.setGrid g (some { r with waiting := r.waiting ||| BitVec.twoPow 6 f })
          | none => s
        match x.rule with
        | some .fixed => s
        | some .periodic | none => away
        | some rule =>
          send (s.layer g r b (s.dev.num.toNat, s.bind.gang.toNat, s.bind.strand.toNat) f true (s.ruledData s.ctx r f rule)
            (4 + ceilDiv (r.bytes b) 256))
      else s)

/-- The receiving face takes a layer of this sender (R324): connected or PERIODIC with it; a ruled face its own local writes alone. -/
def State.takes (s : State) (k : Nat) (x : FaceSt) (l : LayerMsg) : Bool :=
  let b := s.bindAt k
  let self := l.srcDev = s.dev.num && l.srcGang = b.gang.toNat && l.srcStrand = b.strand.toNat
  match x.rule with
  | some .periodic | none =>
    !l.ruled &&
    (match x.peer with
      | none => x.rule = some .periodic && self
      | some t =>
        if x.kind = .device then
          decide (bits t.toNat 40 32 = l.srcDev.toNat ∧ bits t.toNat 31 16 = l.srcGang ∧ bits t.toNat 15 0 = l.srcStrand)
        else l.srcDev = s.dev.num && l.srcGang = b.gang.toNat && bits t.toNat 15 0 = l.srcStrand)
  | some _ => l.ruled && self

/-- The sender's record is revoked as the receiver checks the layer (R324, R338); of a sender on another device, as it was sent. -/
def State.layerRevoked (s : State) (l : LayerMsg) : Bool :=
  l.revoked || (l.srcDev = s.dev.num && s.revoked l.world.toNat l.gen)

/-- HALO_LAYER_ARRIVAL (R324, R389): checked, written, and HSTEP set; or discarded, with GRIDSTATE reason 7 reported
against the exchange; it waits while the receiver's exchange of the step has not issued. Link ingress reaches only the partitions of
the world that it carries. -/
def execHaloLayerArrival (l : LayerMsg) (s : State) : Ans :=
  .next (
    if l.srcDev = s.dev.num ∧ !(s.layers.contains l && decide (l.due ≤ s.dcc.toNat)) then s
    else
      let gone := { s with layers := s.layers.erase l, rx := s.rx.filter (fun x => !(x.op = opLAYER && layerOfGot s.dev.num x = l)) }
      match s.keyOf l.gang l.strand with
      | none => gone
      | some k =>
        if l.srcDev ≠ s.dev.num ∧ l.world ≠ (s.bindAt k).world then gone.logged logRefusal 0
        else
          match (s.ctxAt k).grid l.g.toNat with
          | none => s
          | some r =>
            if !r.began l.step then s
            else if (s.live (some r.hd)).isNone then gone
            else
              let f := faceNum l.face
              let x := r.face f
              let b := r.ghost f
              if s.layerRevoked l ∨ !s.takes k x l ∨ 2 * r.dims ≤ f ∨ l.w ≠ r.w ∨ l.ew ≠ r.ew ∨ l.ex ≠ b.x1 - b.x0
                  ∨ l.ey ≠ b.y1 - b.y0 ∨ l.ez ≠ b.z1 - b.z0 then
                let t := gone.setAt k ((gone.ctxAt k).setGrid l.g.toNat (some { r with failed := true }))
                t.raiseA k .halo tGRIDSTATE (gridInfo 7 f l.g) r.line r.lane
              else
                let runs := r.runs (r.rows b)
                let t := (gone.storeSegs (cutRuns runs l.data)).chargeRuns k runs
                t.setAt k ((t.ctxAt k).setGrid l.g.toNat (some (r.setFace f { x with hstep := some l.step }))))

/-- Both ghost layers of a dimension hold the step of the exchange. -/
def Grid.holds (g : Grid) (f : Nat) : Bool := (g.face f).hstep = g.xstep

/-- HALO_PHASE_ADVANCE (R322), while the context runs (R373). -/
def execHaloPhaseAdvance (g : BitVec 4) (s : State) : Ans :=
  .next (match s.grid g with
    | none => s
    | some r =>
      if s.ctx.phase = .running ∧ r.phase ≠ 0 ∧ r.phase < r.dims ∧ r.holds (2 * r.phase - 2) ∧ r.holds (2 * r.phase - 1) then
        s.setGrid g (some (r.startPhase (r.phase + 1)))
      else s)

/-- Everything of an exchange but its increment is done (R326). -/
def Grid.exchanged (g : Grid) : Bool :=
  decide (g.phase = g.dims ∧ g.phase ≠ 0) && g.used.all (fun f => g.holds f && g.read.getLsbD f)

/-- GXCHG_COMPLETE (R326, R332), while the context runs: the bound counter is raised and the bytes are released. [DESIGN CHOICE, log 108] -/
def execGxchgComplete (g : BitVec 4) (s : State) : Ans :=
  .next (match s.grid g with
    | none => s
    | some r =>
      if r.exchanged ∧ s.ctx.phase = .running then
        let t := match r.incp, r.bind with
          | true, some e => s.sendIncr s.cur s.bind.gang.toNat s.bind.strand.toNat e 1
          | _, _ => s
        let t := t.setGrid g (some { r with phase := 0, incp := false })
        t.setCtx { t.ctx with fl := t.ctx.fl.filter (fun f => !(f.src = 3 && f.age = r.age && f.segs.isEmpty)) }
      else s)

/-- The head of the halo queue issued now. -/
def State.haloHead (s : State) : Option State :=
  match (s.eng .halo).head with
  | some (c, _) => some { s with iss := c }
  | none => none

/-- GWAIT_MET (R333): a held wait finds its condition met. -/
def execGwaitMet (s : State) : Ans :=
  match s.haloHead with
  | some t =>
    match t.iss.instr with
    | .gwait g st e dp =>
      match t.grid g with
      | some r =>
        if (s.eng .halo).frozen = false ∧ r.check ((t.sc st).setWidth 32) r.used = .ready then execGwait g st e dp t
        else .next s
      | none => .next s
    | _ => .next s
  | none => .next s

/-- STALEHALO (R333, R335): a halo hold has lasted HSTALL.LIMIT resident cycles. The engine has examined the faces in this cycle. -/
def execStalehalo (s : State) : Ans :=
  let x := s.eng .halo
  let lim := s.ctx.csr.hstall.toNat
  match x.stall with
  | .halo g f =>
    if lim ≠ 0 ∧ lim ≤ x.stalled then
      match s.haloHead, s.grid g with
      | some t, some r =>
        let need := match t.iss.instr with
          | .gwait _ st _ _ => (t.sc st).setWidth 32
          | .gld _ o => (t.sc o.st).setWidth 32
          | _ => r.xstep.getD 0
        .next ((t.unread .halo).freeze .halo tSTALEHALO (haloInfo (r.face f).hstep need f g))
      | _, _ => .next s
    else .next s
  | _ => .next s

end Sys2Proof.Machine
end

