-- ==== Sys2Proof/Machine/Pump.lean ====
section
/-! DEFINITION. The pump (R282 to R315): commands entering the time-sorted buffer, their starts, write windows and
ends, sequence tags and READY, cancellation, code tables and decoding. -/

namespace Sys2Proof.Machine

/-! ## Geometry of a command (R282, R283, R298, R299) -/

/-- The memory sides of a command: operands, rows and pitches. -/
structure PGeo where
  hd : Option (Option Handle)
  hs : Option (Option Handle)
  od : Int
  os : Int
  rows : Nat
  n : Nat
  pd : Nat
  ps : Nat
  be : Bool
  tags : Bool
  seq : BitVec 16

/-- The operand block of a PC command, with rows and whether it is best-effort or a host copy. -/
def pop? : Instr → Option (POp × Nat × Bool)
  | .pcopy be o => some (o, 1, be)
  | .pcopy2d be r o => some (o, r.toNat, be)
  | .pcopyd be o => some (o, 1, be)
  | .pcopyhIn o | .pcopyhOut o => some (o, 1, true)
  | .pover o | .pcmd o | .pfill o | .ptagset o | .ptagchk o | .pprefetch o => some (o, 1, false)
  | _ => none

/-- The captured record of a command. -/
def Cap.rec_ (c : Cap) (h : BitVec 6) : Option Handle := SMap.get none c.h h.toNat

/-- The geometry of a PC command, its records as a filter passes them. -/
def Cap.pgeo (c : Cap) (live : Option Handle → Option Handle) : PGeo :=
  match pop? c.instr with
  | none => ⟨none, none, 0, 0, 1, 0, 0, 0, false, false, 0⟩
  | some (o, rows, be) =>
    let n := c.count o
    let d := live (c.rec_ o.hd)
    let r := live (c.rec_ o.hs)
    let pitch (h : Option Handle) : Nat := match h with | some h => h.pitch n | none => n
    let two := match c.instr with | .pcopy2d _ _ _ => true | _ => false
    let dst : Bool := match c.instr with
      | .pover _ | .pcmd _ | .ptagchk _ | .pprefetch _ => false
      | _ => true
    let src : Bool := match c.instr with
      | .pfill _ | .ptagset _ => false
      | _ => true
    let tags : Bool := match c.instr with
      | .pcopy _ _ | .pcopy2d _ _ _ | .pcopyd _ _ | .pcopyhIn _ | .pfill _ | .ptagset _ => true
      | _ => false
    { hd := if dst then some d else none, hs := if src then some r else none
      od := (c.sc o.od).toInt, os := (c.sc o.os).toInt, rows := rows, n := n
      pd := if two then pitch d else n, ps := if two then pitch r else n, be := be, tags := tags, seq := o.seq }

/-- The geometry of a command that has not started: a revoked record is an empty one. -/
def State.pgeo (s : State) (c : Cap) : PGeo := c.pgeo s.live

/-- Where a handle lies for the pump's path class (R282): 0 to 3 cisterns, 4 HBM, 5 host. -/
def State.pathOf (s : State) (h : Handle) : Nat :=
  if h.level = 0 then pathClass (coreId (coreOf s.cur)) h.core else if h.level = 1 then 4 else 5

/-- The path class of a command: the farther side. -/
def State.pclass (s : State) (g : PGeo) : Nat :=
  let c (h : Option (Option Handle)) : Nat := match h with | some (some h) => s.pathOf h | _ => 0
  Nat.max (c g.hd) (c g.hs)

/-- Channels per cistern side (R283). -/
def pathCh (p : Nat) : Nat := [4, 2, 2, 1, 1].getD p 1

/-- The length L of a command's windows, and its whole duration E − s (R283, R302, R303, R311). [DESIGN CHOICE, log 18] -/
def State.ptime (s : State) (c : Cap) (g : PGeo) : Nat × Nat :=
  let p := s.pclass g
  let b := pathB p
  let w := pathW p
  match c.instr with
  | .ptagset _ | .ptagchk _ => (1, b + 1)
  | .pcopyd _ _ =>
    let d := if 128 ≤ w then ceilDiv g.n 64 else ceilDiv (3 * g.n) (2 * w)
    (d, b + 8 + d)
  | .pprefetch _ => (0, if p ≤ 3 then 1 else b)
  | .pevent _ _ _ _ => (0, 0)
  | _ => let l := ceilDiv (g.rows * g.n) w; (l, b + l)

/-- The tiles whose tags a command writes (R291). -/
def PGeo.tiles (g : PGeo) : List Nat :=
  if g.tags then
    match g.hd with
    | some (some h) => h.tiles [(g.od.toNat, copySpan g.rows g.pd g.n)]
    | _ => []
  else []

/-! ## Issue (R285, R299 to R303, R311) -/

/-- NOHANDLE and RIGHTS of a side. -/
def sideCheck (s : State) (h : Option (Option Handle)) (right : Nat) (o : Int) : Option Stop :=
  match h with
  | none => none
  | some none => some (.trap s tNOHANDLE (offW o))
  | some (some r) => if r.has right then none else some (.trap s tRIGHTS (offW o))

/-- FOUND and OPND of LEVEL for a command (R299 to R303, R311). -/
def State.plevel (s : State) (i : Instr) (g : PGeo) : Option (Nat × Nat) :=
  let lv (h : Option (Option Handle)) : Option Nat := match h with | some (some h) => some (s.pathOf h) | _ => none
  let d := lv g.hd
  let r := lv g.hs
  match i with
  | .pcopyhIn _ => if r ≠ some 5 then some (2, 0) else if d = some 5 then some (1, 2) else none
  | .pcopyhOut _ => if d ≠ some 5 then some (2, 2) else if r = some 5 then some (1, 0) else none
  | .pcopyd _ _ => if d ≠ some 0 then some (2, 2) else if r = some 5 then some (1, 0) else none
  | .ptagset _ => if d = some 4 ∨ d = some 5 then some (2, 2) else none
  | .ptagchk _ => if r = some 5 then some (1, 0) else if r = some 4 then some (2, 0) else none
  | .pprefetch _ => none
  | _ => if d = some 5 then some (1, 2) else if r = some 5 then some (1, 0) else none

/-- The destination's limit: its handle, the code handle for POVER, the command store for PCMD (R301). -/
def State.plimit (s : State) (i : Instr) (g : PGeo) : Option Nat :=
  match i with
  | .pover _ => some (match s.slot 0 with | some h => h.len.toNat | none => 0)
  | .pcmd _ => some 65536
  | _ => match g.hd with | some (some h) => some h.len.toNat | _ => none

/-- The bytes of the source that a command may read. -/
def PGeo.srcSpan (g : PGeo) (i : Instr) : Nat :=
  match i, g.hs with
  | .pcopyd _ _, some (some h) => h.len.toNat - g.os.toNat
  | _, _ => copySpan g.rows g.ps g.n

/-- The first operand of MISALIGN among those a command uses. -/
def PGeo.misaligned (g : PGeo) (i : Instr) (dst : Bool) : Option Int :=
  let two := match i with | .pcopy2d _ _ _ => true | _ => false
  ((if dst then [g.od] else []) ++ (if g.hs.isSome then [g.os] else []) ++ [(g.n : Int)]
    ++ (if two then [(g.pd : Int), (g.ps : Int)] else [])).find? (fun v => v % 64 ≠ 0)

/-- Every page of a span of HBM translates (R299). -/
def State.translates (s : State) (h : Option (Option Handle)) (o n : Nat) : Res' State :=
  match h with
  | some (some r) =>
    if r.level = 1 then
      match s.pagesOf r.world.toNat (r.base.toNat + o) n with
      | .fault va l w ln =>
        let t := s.recordFault r.world.toNat va l w ln
        .error (.trap t tPAGEFAULT (t.faultOff r))
      | .refused => .error (.trap (s.refusedAt r o) tPARTITION (offW o))
      | .ok l => .ok (l.foldl (fun s e =>
          (cachesAt s.cur).foldl (fun s c => s.keepIn r.world.toNat e.1 c) (s.cacheSet r.world.toNat e.1)) s)
    else .ok s
  | _ => .ok s

/-- The checks at issue of a PC command (R299 to R303, R311). -/
def pumpChecks (s : State) (c : Cap) (o : POp) (g : PGeo) : Res' State :=
  match (sideCheck s g.hd rWR g.od).or (sideCheck s g.hs rRD g.os) with
  | some e => .error e
  | none =>
    match s.plevel c.instr g with
    | some (f, p) => .error (.trap s tLEVEL (levelInfo f p))
    | none =>
      if !o.ni ∧ 2 ^ 32 ≤ g.n then .error (.trap s tBOUNDS (c.sc o.n))
      else
        let lim := s.plimit c.instr g
        let dspan := copySpan g.rows g.pd g.n
        let sspan := g.srcSpan c.instr
        if lim.any (fun l => g.od < 0 ∨ (l : Int) < g.od + dspan) then .error (.trap s tBOUNDS (offW g.od))
        else if (match g.hs with | some (some h) => decide (g.os < 0 ∨ (h.len.toNat : Int) < g.os + sspan) | _ => false) then
          .error (.trap s tBOUNDS (offW g.os))
        else
          match g.misaligned c.instr lim.isSome with
          | some v => .error (.trap s tMISALIGN (offW v))
          | none =>
            if g.be || (match c.instr with | .pprefetch _ => true | _ => false) then .ok s
            else
              match s.translates g.hd g.od.toNat dspan with
              | .error e => .error e
              | .ok t => t.translates g.hs g.os.toNat sspan

/-- The generation that a PCOPYD issuing now is bound to (R310). -/
def Pump.genOf (p : Pump) (i : Instr) : Bool :=
  match i with
  | .pcopyd _ o => (SMap.get Tab.reset p.tabs o.tab.toNat).cur
  | _ => false

/-- A number as a cycle, at most 2^64 − 1. -/
def cycle (n : Nat) : Word := word (Nat.min n (2 ^ 64 - 1))

/-- The estimate of a command put into READY of the tiles it writes (R294). -/
def State.estimate (s : State) (c : Cap) (tiles : List Nat) (e : Word) : State :=
  tiles.foldl (fun s k => let t := s.tile k; s.setTile k { t with ests := t.ests ++ [(estId s.cur c.age, e)] }) s

/-- A command enters the buffer (R285). -/
def State.buffer (s : State) (c : Cap) : State :=
  let p := s.ctx.pump
  let x : PCmd :=
    { cap := c, issue := s.dcc, gen := p.genOf c.instr, start := 0, fin := 0, wait := false, page := (0, 0), inv := false, win := false, rd := []
      wr := [], data := 0, bad := none }
  s.setCtx { s.ctx with pump := { p with buf := p.buf ++ [x] } }

/-- T of a command (R286). -/
def Cap.time (c : Cap) : Word :=
  match pop? c.instr with
  | some (o, _, _) => c.sc o.t
  | none => match c.instr with | .pevent _ t _ _ => c.sc t | _ => 0

/-- The pump issues nothing while its buffer is full (R285). [DEDUCED, log 17] -/
def pumpOp (body : State → Res' State) (s : State) : Ans :=
  engineOp .pump (noPush (fun s => if 32 ≤ s.ctx.pump.buf.length then .error (.hold s) else body s)) s

/-- The issue of a PC command. -/
def pumpIssue (o : POp) (s : State) : Res' State :=
  let c := s.iss
  if s.ctx.pump.live o.cid.toNat then .error (.hold s)
  else
    let g := s.pgeo c
    match pumpChecks s c o g with
    | .error e => .error e
    | .ok t =>
      let e := if g.be then 0xFFFFFFFFFFFFFFFF
        else cycle (Nat.max c.time.toNat (s.dcc.toNat + 1) + (t.ptime c g).2)
      .ok ((t.estimate c g.tiles e).buffer c)

/-- PCOPY (R299). -/
def execPcopy (_ : Bool) (o : POp) (s : State) : Ans := pumpOp (pumpIssue o) s
/-- PCOPY2D (R299). -/
def execPcopy2d (_ : Bool) (_ : BitVec 10) (o : POp) (s : State) : Ans := pumpOp (pumpIssue o) s
/-- PCOPYD (R311). -/
def execPcopyd (_ : Bool) (o : POp) (s : State) : Ans := pumpOp (pumpIssue o) s
/-- PCOPYH.IN (R300). -/
def execPcopyhIn (o : POp) (s : State) : Ans := pumpOp (pumpIssue o) s
/-- PCOPYH.OUT (R300). -/
def execPcopyhOut (o : POp) (s : State) : Ans := pumpOp (pumpIssue o) s
/-- POVER (R301). -/
def execPover (o : POp) (s : State) : Ans := pumpOp (pumpIssue o) s
/-- PCMD (R301). -/
def execPcmd (o : POp) (s : State) : Ans := pumpOp (pumpIssue o) s
/-- PFILL (R302). -/
def execPfill (o : POp) (s : State) : Ans := pumpOp (pumpIssue o) s
/-- PTAGSET (R302). -/
def execPtagset (o : POp) (s : State) : Ans := pumpOp (pumpIssue o) s
/-- PTAGCHK (R303). -/
def execPtagchk (o : POp) (s : State) : Ans := pumpOp (pumpIssue o) s
/-- PPREFETCH (R304). -/
def execPprefetch (o : POp) (s : State) : Ans := pumpOp (pumpIssue o) s

/-- PEVENT (R305). -/
def execPevent (_ : BitVec 6) (_ a : BitVec 5) (_ : BitVec 3) (s : State) : Ans :=
  pumpOp (fun s =>
    match s.target (s.sc a) with
    | none => .error (.trap s tEVTARGET (s.sc a))
    | some _ => .ok (s.buffer s.iss)) s

/-! ## Code tables (R308, R310) -/

/-- A generation of a slot. -/
def Tab.gen (t : Tab) (g : Bool) : TabGen := if g then t.g1 else t.g0
/-- A generation replaced. -/
def Tab.setGen (t : Tab) (g : Bool) (x : TabGen) : Tab := if g then { t with g1 := x } else { t with g0 := x }

/-- A command still uses a generation of a slot. -/
def Pump.uses (p : Pump) (t : Nat) (g : Bool) : Bool :=
  (p.buf ++ p.fly).any (fun x => match x.cap.instr with
    | .pcopyd _ o => o.tab.toNat = t && x.gen = g
    | _ => false)

/-- PTAB (R310). -/
def execPtab (h : BitVec 6) (t : BitVec 4) (_ : BitVec 3) (s : State) : Ans :=
  pumpOp (fun s =>
    let p := s.ctx.pump
    let slot := SMap.get Tab.reset p.tabs t.toNat
    let g := !slot.cur
    if (slot.gen g).present ∧ p.uses t.toNat g then .error (.hold s)
    else
      match s.hrec h with
      | none => .error (.trap s tNOHANDLE 0)
      | some r =>
        if !r.has rRD then .error (.trap s tRIGHTS 0)
        else if r.level = 2 then .error (.trap s tLEVEL (levelInfo 1 0))
        else if r.len.toNat < 256 then .error (.trap s tBOUNDS 0)
        else if s.readWaits r 0 256 then .error (.hold s)
        else
          match s.load 2 r 0 256 0 with
          | .error e => .error e
          | .ok (u, data) =>
            let c := u.pathOf r
            let gen : TabGen :=
              { present := true, invalid := false
                loading := some (cycle (u.dcc.toNat + pathB c + ceilDiv 256 (pathW c)))
                data := data, line := u.iss.line, lane := u.iss.lane, src := some r }
            let p := u.ctx.pump
            .ok (u.setCtx { u.ctx with pump := { p with
              tabs := SMap.set Tab.reset p.tabs t.toNat { (slot.setGen g gen) with cur := g } } })) s

/-- The code lengths of a table. -/
def codeLens (data : Nat) : List Nat := (List.range 256).map (fun i => data / 2 ^ (8 * i) % 256)

/-- The TINFO of an invalid table (R310): its first byte above 12, or 256; none for a valid one (R308). -/
def tableBad (lens : List Nat) : Option Nat :=
  match lens.findIdx? (fun l => 12 < l) with
  | some i => some i
  | none =>
    if lens.all (· = 0) then some 256
    else if 4096 < (lens.map (fun l => if l = 0 then 0 else 2 ^ (12 - l))).sum then some 256 else none

/-- A context is at its core: its loads go on (R373, R381). -/
def Ctx.resident (c : Ctx) : Bool := decide (c.phase ≠ .saving ∧ c.phase ≠ .out ∧ c.phase ≠ .restoring ∧ c.phase ≠ .restored)

/-- PTAB_LOAD_END (R310). -/
def execPtabLoadEnd (t : BitVec 4) (s : State) : Ans :=
  .next (
    if !s.ctx.resident then s
    else
    let p := s.ctx.pump
    let slot := SMap.get Tab.reset p.tabs t.toNat
    let due (g : Bool) : Bool := match (slot.gen g).loading with
      | some c => decide (c.toNat ≤ s.dcc.toNat)
      | none => false
    let pick : Option Bool := if due (!slot.cur) then some (!slot.cur) else if due slot.cur then some slot.cur else none
    match pick with
    | none => s
    | some g =>
      let x := slot.gen g
      let bad := tableBad (codeLens x.data)
      let u := s.setCtx { s.ctx with pump := { p with
        tabs := SMap.set Tab.reset p.tabs t.toNat (slot.setGen g { x with loading := none, invalid := bad.isSome }) } }
      match bad with
      | some i => u.raiseA u.cur .pump tCODETAB (word i) x.line x.lane
      | none => u)

/-- Symbols of a code length, ascending. -/
def symsOf (lens : List Nat) (l : Nat) : List Nat := (lens.zipIdx.filter (fun e => e.1 = l)).map (·.2)

/-- The first canonical code of each length 1 to 12 (R308), with the symbols of that length. -/
def canonical (lens : List Nat) : List (Nat × List Nat) :=
  ((List.range 12).foldl (fun (acc : Nat × Nat × List (Nat × List Nat)) i =>
    let syms := symsOf lens (i + 1)
    let code := (acc.1 + acc.2.1) * 2
    (code, syms.length, acc.2.2 ++ [(code, syms)])) (0, 0, [])).2.2

/-- How a symbol's decoding ends. -/
inductive Sym where
  | ok (sym pos : Nat)
  | noCode
  | exhausted

/-- One symbol matched, shortest code first (R309): the codes still to try, the bits read, the bit position. [DEDUCED, log 15] -/
def symbol (data nbits : Nat) : List (Nat × List Nat) → Nat → Nat → Sym
  | [], _, _ => .noCode
  | (first, syms) :: l, code, pos =>
    if nbits ≤ pos then .exhausted
    else
      let code := 2 * code + (if bit data (8 * (pos / 8) + 7 - pos % 8) then 1 else 0)
      match (if first ≤ code then syms[code - first]? else none) with
      | some i => .ok i (pos + 1)
      | none => symbol data nbits l code (pos + 1)

/-- n symbols decoded, or the symbols before a failure with its reason (R309, R312). [DEDUCED, log 15] -/
def decodeStream (data nbits : Nat) (codes : List (Nat × List Nat)) : Nat → Nat → List Nat × Option Nat
  | 0, _ => ([], none)
  | n + 1, pos =>
    match symbol data nbits codes 0 pos with
    | .noCode => ([], some 0)
    | .exhausted => ([], some 1)
    | .ok i pos =>
      let (l, e) := decodeStream data nbits codes n pos
      (i :: l, e)

/-! ## Starts (R286 to R290) -/

/-- Runs of the rows of a side. -/
def State.resolveRowsAt (s : State) (h : Handle) (o pitch n : Nat) (write : Bool) : Nat → Acc
  | 0 => .ok s []
  | r + 1 =>
    match s.resolveRowsAt h o pitch n write r with
    | .ok t l =>
      match t.resolve h (o + r * pitch) n write with
      | .ok u m => .ok u (l ++ m)
      | e => e
    | e => e

/-- The physical bytes of a destination whose page blocks writes or does not all translate, as far as they translate: what other copies
of the pump are held behind while it waits (R289, R299). -/
def State.destKnown (s : State) (h : Handle) (o pitch n rows : Nat) : List (Nat × Nat) :=
  let va := h.base.toNat + o
  (List.range rows).flatMap (fun r =>
    let lo := va + r * pitch
    if n = 0 then []
    else (List.range ((lo + n - 1) / 2 ^ 19 - lo / 2 ^ 19 + 1)).flatMap (fun i =>
      let a := Nat.max lo ((lo / 2 ^ 19 + i) * 2 ^ 19)
      let b := Nat.min (lo + n) ((lo / 2 ^ 19 + i + 1) * 2 ^ 19)
      match s.trace (cachesAt s.cur) h.world.toNat a (b - a) false with
      | .ok _ l => l
      | _ => []))

/-- Two lists of flat runs overlap. -/
def runsOverlap (a b : List (Nat × Nat)) : Bool :=
  a.any (fun x => b.any (fun y => decide (0 < x.2 ∧ 0 < y.2 ∧ x.1 < y.1 + y.2 ∧ y.1 < x.1 + x.2)))

/-- The runs of cistern and HBM bytes. -/
def sharedRuns (l : List (Nat × Nat)) : List (Nat × Nat) := l.filter (fun r => decide (r.1 < Config.imemBase))

/-- A copy is held by one that has started and has not ended before this cycle (R289). -/
def Pump.overlapped (p : Pump) (now : Nat) (rd wr : List (Nat × Nat)) : Bool :=
  let rd := sharedRuns rd
  let wr := sharedRuns wr
  (p.fly ++ (p.ended.filter (fun e => decide (now ≤ e.2))).map (·.1)).any (fun x =>
    runsOverlap wr (x.rd ++ x.wr) || runsOverlap rd x.wr)

/-- The channels a reserved command needs when it starts in a cycle (R290), each with its limit: L = ceil(n / W) cycles from the
start at its source, and L cycles up to its end at its destination, where PCOPYD takes one channel for D cycles (R311). -/
def State.channels (s : State) (c : Cap) (g : PGeo) (start : Nat) : List (Nat × Chan) :=
  let p := s.pclass g
  let (dl, d) := s.ptime c g
  let own := coreOf s.cur
  let len := ceilDiv (g.rows * g.n) (pathW p)
  let side (h : Option (Option Handle)) (w : Nat) (n lo l : Nat) : List (Nat × Chan) :=
    match h with
    | some (some h) =>
      if l = 0 then []
      else if h.level = 0 then
        match coreIdx h.core with
        | some ci => [(4, ⟨2 * ci + w, n, lo, lo + l - 1⟩)]
        | none => []
      else if h.level = 1 then [(1, ⟨1000 + 2 * own + w, 1, lo, lo + l - 1⟩)] else []
    | _ => []
  match c.instr with
  | .pcopyd _ _ => side g.hs 0 (pathCh p) start len ++ side g.hd 1 1 (start + d - dl) dl
  | _ => side g.hs 0 (pathCh p) start len ++ side g.hd 1 (pathCh p) (start + d - len) len

/-- A window is free at a limit: at no cycle of it do reservations exceed it. -/
def chanFree (l : List Chan) (limit : Nat) (x : Chan) : Bool :=
  let m := l.filter (fun c => c.key = x.key && decide (c.lo ≤ x.hi ∧ x.lo ≤ c.hi))
  (x.lo :: (m.map (·.lo)).filter (fun p => x.lo ≤ p ∧ p ≤ x.hi)).all (fun p =>
    decide (((m.filter (fun c => c.lo ≤ p ∧ p ≤ c.hi)).map (·.n)).sum + x.n ≤ limit))

/-- EW of a command meets its threshold (R286). -/
def State.ewMet (s : State) (c : Cap) : Bool :=
  match pop? c.instr with
  | some (o, _, _) => o.ew = 0 || meets (s.ctx.ctl.getE o.ew) ((c.sc o.th).setWidth 32)
  | none => true

/-- The pump with LATE recorded (R287). [DEDUCED, log 17] -/
def Pump.recordLate (p : Pump) : Pump :=
  { p with late := true, lcount := if p.lcount = 0xFFFF then p.lcount else p.lcount + 1 }
/-- The pump with a drop recorded (R313). -/
def Pump.recordDrop (p : Pump) : Pump :=
  { p with drop := true, drops := if p.drops = 0xFFFF then p.drops else p.drops + 1 }

/-- The state with the pump of the moving context changed. -/
def State.onPump (s : State) (f : Pump → Pump) : State := s.setCtx { s.ctx with pump := f s.ctx.pump }

/-- A command taken out of the buffer. -/
def State.unbuffer (s : State) (age : Nat) : State :=
  s.onPump (fun p => { p with buf := p.buf.filter (fun x => x.cap.age ≠ age) })

/-- A command dropped, removed or trapped before it starts: it counts for the range checker in this cycle still (R412). -/
def State.removed (s : State) (age : Nat) : State :=
  (s.onPump (fun p => { p with
    ended := p.ended ++ (p.buf.filter (fun x => x.cap.age = age)).map (fun x => (x, s.dcc.toNat)) })).unbuffer age

/-- A record of a command has been revoked (R313). -/
def State.anyRevoked (s : State) (c : Cap) : Bool :=
  match pop? c.instr with
  | none => false
  | some (o, _, _) =>
    let u := uses c.instr
    let g := s.pgeo c
    u.h.any (fun h => (c.rec_ h).isSome && (s.live (c.rec_ h)).isNone
      && ((h = o.hd && g.hd.isSome) || (h = o.hs && g.hs.isSome)))

/-- The data that a command has to write, from its source runs (R299, R302, R311); a decoding failure. -/
def State.pdata (s : State) (c : Cap) (x : PCmd) (g : PGeo) (rd : List (Nat × Nat)) : Nat × Option (Nat × Nat) :=
  match c.instr with
  | .pfill o => (packElems 8 (g.n / 8) (fun _ => (c.sc o.os).toNat), none)
  | .ptagset _ | .ptagchk _ | .pprefetch _ | .pevent _ _ _ _ => (0, none)
  | .pcopyd _ o =>
    let gen := (SMap.get Tab.reset s.ctx.pump.tabs o.tab.toNat).gen x.gen
    if !gen.present ∨ gen.invalid then (0, some (2, 0))
    else
      let src := readRuns s.mem rd
      let n := (rd.map (·.2)).sum
      let (l, e) := decodeStream src (8 * n) (canonical (codeLens gen.data)) g.n 0
      (packList 1 l, e.map (fun r => (r, l.length)))
  | _ => (readRuns s.mem rd, none)

/-- The bytes that a coded source may need: at most 12 bits a symbol (R311). [DEDUCED, log 15] -/
def PGeo.reads (g : PGeo) (i : Instr) : Nat :=
  match i with
  | .pcopyd _ _ => Nat.min (g.srcSpan i) (ceilDiv (12 * g.n) 8)
  | _ => g.n

/-- The conditions of R286 that do not need the translation; no parked write lies over the bytes that it reads (R268), and no byte is still to be
placed (R408). -/
def State.mayStart (s : State) (x : PCmd) : Bool :=
  let c := x.cap
  let isEvent : Bool := match c.instr with | .pevent _ _ _ _ => true | _ => false
  let g := s.pgeo c
  let parked : Bool := (match g.hs with
    | some (some h) => s.readWaits h g.os.toNat (g.srcSpan c.instr)
    | _ => false) || (match g.hd with
    | some (some h) => s.unplaced h g.od.toNat (copySpan g.rows g.pd g.n)
    | _ => false)
  decide (c.time.toNat ≤ s.dcc.toNat) && decide (x.issue.toNat < s.dcc.toNat) &&
    (isEvent ||
      (s.ewMet c && !parked && !s.rangeHeld (some .pump) c.age (s.ranges c) false
        && decide (s.ctx.fl.length + s.ctx.pump.fly.length < 128)
        && (match c.instr with
          | .pcopyd _ o => ((SMap.get Tab.reset s.ctx.pump.tabs o.tab.toNat).gen x.gen).loading.isNone
          | _ => true)))

/-- READY replaced by the actual end of a reserved command (R294). -/
def State.replaceReady (s : State) (c : Cap) (tiles : List Nat) (e : Word) : State :=
  tiles.foldl (fun s k =>
    let t := s.tile k
    s.setTile k { base := if t.base.toNat < e.toNat then e else t.base, tag := t.tag
                  ests := t.ests.filter (fun x => x.1 ≠ estId s.cur c.age) }) s

/-- A command starts with its translated runs; `dwait` is the page (world and address) for which its destination still waits. -/
def State.pstart (s : State) (x : PCmd) (g : PGeo) (rd wr : List (Nat × Nat)) (dwait : Option (Nat × Nat)) : State :=
  let c := x.cap
  let (_, d) := s.ptime c g
  let late := !g.be && c.time ≠ 0 && decide (c.time.toNat < s.dcc.toNat)
  let e := cycle (s.dcc.toNat + d)
  let (data, bad) := s.pdata c x g rd
  let y : PCmd := { x with start := s.dcc, fin := e, wait := dwait.isSome, page := dwait.getD (0, 0), inv := false, rd := rd, wr := wr, data := data, bad := bad }
  let t := (s.unbuffer c.age).onPump (fun p =>
    let p := { p with fly := p.fly ++ [y] }
    if late then p.recordLate else p)
  let t := if (hostRuns rd).isEmpty then t else t.request 2 c.age (hostRuns rd) e
  let t := if g.be then t else t.replaceReady c g.tiles e
  if g.be then t else { t with chans := t.chans ++ (s.channels c g s.dcc.toNat).map (·.2) }

/-- A command waits in the translation unit until an invalidation covers its pages (R299, R369). -/
def State.pwait (t : State) (x : PCmd) (w : BitVec 8) (va : Nat) : State :=
  t.onPump (fun p => { p with
    buf := p.buf.map (fun y => if y.cap.age = x.cap.age then { y with wait := true, page := (w.toNat, va), inv := false } else y) })

/-- What starting a translated command needs besides (R289, R290), and the start. -/
def State.ptry (s t : State) (x : PCmd) (g : PGeo) (rd wr : List (Nat × Nat)) (dwait : Option (Nat × Nat)) : State :=
  if s.ctx.pump.overlapped s.dcc.toNat rd wr then s
  else if !g.be ∧ !(s.channels x.cap g s.dcc.toNat).all (fun e => chanFree s.chans e.1 e.2) then s
  else t.pstart x g rd wr dwait

/-- An A trap at a start: the command has no effect (R313). -/
def State.ptrap (s : State) (x : PCmd) (code : BitVec 8) (ti : Word) : State :=
  ((s.removed x.cap.age).settle s.cur [x.cap.age]).raiseA s.cur .pump code ti x.cap.line x.cap.lane

/-- The destination of POVER and PCMD (R301). -/
def State.pdest (s : State) (i : Instr) (g : PGeo) : Option (List (Nat × Nat)) :=
  match i with
  | .pover _ => some [(Config.imemBase + s.cur * 2 ^ 18 + g.od.toNat, g.n)]
  | .pcmd _ => some [(Config.cmdBase + s.cur * 2 ^ 16 + g.od.toNat, g.n)]
  | _ => none

/-- The start of a command whose source runs are known: the destination is translated too. -/
def State.pstartDst (s t : State) (x : PCmd) (g : PGeo) (rd : List (Nat × Nat)) : State :=
  match s.pdest x.cap.instr g with
  | some wr => s.ptry t x g rd wr none
  | none =>
    match g.hd with
    | some (some h) =>
      match x.cap.instr with
      | .ptagset _ => s.ptry t x g rd [] none
      | _ =>
        match t.resolveRowsAt h g.od.toNat g.pd g.n true g.rows with
        | .ok u wr => s.ptry u x g rd wr none
        | .denied u => u.ptrap x tPARTITION (offW g.od)
        | .page u va | .blocked u va => s.ptry u x g rd (u.destKnown h g.od.toNat g.pd g.n g.rows) (some (h.world.toNat, va))
    | _ => s.ptry t x g rd [] none

/-- The pages of bytes of a handle walked one by one into the translation caches of the core; a walk that faults is dropped (R304), its
failed check or its refusal recorded all the same (R390, R400). -/
def State.prefetch (s : State) (h : Handle) (o n : Nat) : State :=
  let va := h.base.toNat + o
  if h.level = 0 ∨ n = 0 then s
  else
    (List.range ((va + n - 1) / 2 ^ 19 - va / 2 ^ 19 + 1)).foldl
      (fun s i =>
        let va := (va / 2 ^ 19 + i) * 2 ^ 19
        match s.lookup h.world.toNat va with
        | .leaf t => (cachesAt s.cur).foldl (fun s c => s.keepIn h.world.toNat t c) (s.cacheSet h.world.toNat t)
        | .fault _ _ ln => (match ln with | some ln => s.integrity h.world.toNat ln | none => s)
        | .refused => s.logged logRefusal (word va)) s

/-- The start of a command other than PEVENT: drop, PARTITION, translation, then the rest (R286, R313). -/
def State.pbegin (s : State) (x : PCmd) : State :=
  let c := x.cap
  let g := s.pgeo c
  if s.anyRevoked c then ((s.removed c.age).settle s.cur [c.age]).onPump Pump.recordDrop
  else
    match c.instr with
    | .pprefetch _ =>
      match g.hs with
      | some (some h) => s.ptry (s.prefetch h g.os.toNat g.n) x g [] [] none
      | _ => s
    | .ptagset _ =>
      match g.hd with
      | some (some h) =>
        if s.inPartition h g.od.toNat g.n ∨ g.n = 0 then s.pstartDst s x g []
        else (s.refusedAt h g.od.toNat).ptrap x tPARTITION (offW g.od)
      | _ => s
    | .ptagchk _ =>
      match g.hs with
      | some (some h) =>
        if s.inPartition h g.os.toNat g.n ∨ g.n = 0 then s.ptry s x g [] [] none
        else (s.refusedAt h g.os.toNat).ptrap x tPARTITION (offW g.os)
      | _ => s
    | _ =>
      match g.hs with
      | some (some h) =>
        let n := g.reads c.instr
        if x.wait && !x.inv then s
        else
          match s.resolveRowsAt h g.os.toNat g.ps n false g.rows with
          | .denied u => u.ptrap x tPARTITION (offW g.os)
          | .page u va | .blocked u va => u.pwait x h.world va
          | .ok t rd =>
            match t.badRun rd with
            | some ln => t.integrityStop t.cur h.world.toNat ln
            | none => s.pstartDst t { x with wait := false } g rd
      | _ => s.pstartDst s x g []

/-- The start of PEVENT: the increment is sent (R305). -/
def State.pevent (s : State) (x : PCmd) : State :=
  match x.cap.instr with
  | .pevent e _ a _ =>
    match s.target (x.cap.sc a) with
    | some (g, i) => (s.unbuffer x.cap.age).sendIncr s.cur g i e 1
    | none => s.unbuffer x.cap.age
  | _ => s

/-- PUMP_START (R286). -/
def execPumpStart (age : Nat) (s : State) : Ans :=
  .next (match s.ctx.pump.buf.find? (fun x => x.cap.age = age) with
    | none => s
    | some x =>
      if s.ctx.phase = .running ∧ s.mayStart x then
        (match x.cap.instr with
          | .pevent _ _ _ _ => s.pevent x
          | _ => s.pbegin x)
      else s)

/-! ## Windows and ends (R284, R291, R296, R303, R312) -/

/-- A command in flight replaced. -/
def Pump.setFly (p : Pump) (x : PCmd) : Pump :=
  { p with fly := p.fly.map (fun y => if y.cap.age = x.cap.age then x else y) }
/-- A command in flight removed. -/
def State.unfly (s : State) (age : Nat) : State :=
  s.onPump (fun p => { p with fly := p.fly.filter (fun x => x.cap.age ≠ age) })

/-- A command in flight ends: what it holds back may go on in the cycle after a cycle (R137, R289, R412). -/
def State.endFly (s : State) (age last : Nat) : State :=
  (s.onPump (fun p => { p with
    ended := p.ended ++ (p.fly.filter (fun x => x.cap.age = age)).map (fun x => (x, last)) })).unfly age

/-- Tags of tiles set. -/
def State.setTags (s : State) (l : List Nat) (x : BitVec 16) : State :=
  l.foldl (fun s k => s.setTile k { s.tile k with tag := x }) s

/-- WRITE_WINDOW_START (R291): PTAGSET has no such phase. A best-effort or host copy, which has no formula, begins its window in
the cycle after its start at the earliest. [DESIGN CHOICE, log 18] -/
def execWriteWindowStart (age : Nat) (s : State) : Ans :=
  .next (match s.ctx.pump.fly.find? (fun x => x.cap.age = age) with
    | none => s
    | some x =>
      let g := x.cap.pgeo id
      let isSet : Bool := match x.cap.instr with | .ptagset _ | .ptagchk _ => true | _ => false
      let (l, _) := s.ptime x.cap g
      if x.win ∨ isSet ∨ (if g.be then s.dcc.toNat ≤ x.start.toNat else s.dcc.toNat + l < x.fin.toNat) then s
      else (s.onPump (fun p => p.setFly { x with win := true })).setTags g.tiles 0xFFFF)

/-- The increment of EI at an end, in that cycle: it waits for no entry of the replay queue (R296). [DESIGN CHOICE, log 108] -/
def State.pincr (s : State) (c : Cap) : State :=
  match pop? c.instr with
  | some (o, _, _) =>
    if o.ei = 0 then s
    else s.incrPut ⟨s.bind.gang.toNat, s.bind.strand.toNat, o.ei, 1, s.dcc.toNat⟩
  | none => s

/-- A command ends with its data in place: bytes, tags, READY of a best-effort copy, the increment (R284, R294). [DEDUCED, log 15; DESIGN CHOICE, log 18; DEDUCED, log 78] -/
def State.pfinish (s : State) (x : PCmd) (g : PGeo) (wr : List (Nat × Nat)) : State :=
  let c := x.cap
  match x.bad with
  | some (reason, done) =>
    let t := s.storeSegs ((cutRuns wr x.data).filterMap (fun q =>
      let before := (wr.takeWhile (fun r => r.1 ≠ q.a)).foldl (fun a r => a + r.2) 0
      if before < done then some { q with n := Nat.min q.n (done - before), v := q.v % 2 ^ (8 * Nat.min q.n (done - before)) }
      else none))
    let t := if g.be then t.replaceReady c g.tiles s.dcc else t
    (t.endFly c.age s.dcc.toNat).raiseA s.cur .pump tCODEERR (word (reason * 2 ^ 32 + done)) c.line c.lane
  | none =>
    let t := (s.storeSegs (cutRuns wr x.data)).setTags g.tiles g.seq
    let t := if g.be then t.replaceReady c g.tiles s.dcc else t
    (t.endFly c.age s.dcc.toNat).pincr c

/-- The end of PTAGCHK (R303): the comparison at s + B, the increment a cycle later. -/
def State.ptagEnd (s : State) (x : PCmd) (g : PGeo) : State :=
  if x.win then (if x.fin.toNat ≤ s.dcc.toNat then (s.endFly x.cap.age s.dcc.toNat).pincr x.cap else s)
  else if s.dcc.toNat + 1 < x.fin.toNat then s
  else
    let tiles := match g.hs with
      | some (some h) => h.tiles [(g.os.toNat, g.n)]
      | _ => []
    match s.tagFails tiles g.seq with
    | some ti => (s.endFly x.cap.age s.dcc.toNat).raiseA s.cur .pump tSCHEDULE ti x.cap.line x.cap.lane
    | none =>
      let t := s.onPump (fun p => p.setFly { x with win := true })
      if x.fin.toNat ≤ s.dcc.toNat then (t.endFly x.cap.age s.dcc.toNat).pincr x.cap else t

/-- The cycle in which a command is due to end: E, the cycle in which a decoding failure is found, its symbols spread evenly over the
window, or for a command without a formula the cycle after its window began (R284, R312). [DEDUCED, log 15; DESIGN CHOICE, log 18] -/
def State.pdue (s : State) (x : PCmd) (g : PGeo) : Nat :=
  let l := (s.ptime x.cap g).1
  if g.be then x.start.toNat + 2
  else
    match x.bad with
    | some (_, done) => x.fin.toNat - l + done * l / Nat.max 1 g.n
    | none => x.fin.toNat

/-- PUMP_END (R284): a command ends when it is due; one whose destination waited ends after that, once its page translates, LATE (R287, R299);
one whose host read is outstanding waits for its completion (R482). -/
def execPumpEnd (age : Nat) (s : State) : Ans :=
  .next (match s.ctx.pump.fly.find? (fun x => x.cap.age = age) with
    | none => s
    | some x =>
      let g := x.cap.pgeo id
      match x.cap.instr with
      | .ptagchk _ => s.ptagEnd x g
      | _ =>
        if s.dev.reqs.any (fun r => r.key = some s.cur ∧ r.src = 2 ∧ r.age = age) then s
        else if s.dcc.toNat < s.pdue x g then s
        else if x.wait then
          if s.dcc.toNat ≤ s.pdue x g then s
          else match (match pop? x.cap.instr with | some (o, _, _) => x.cap.rec_ o.hd | none => none) with
          | some h =>
            if x.inv then
              (match s.resolveRowsAt h g.od.toNat g.pd g.n true g.rows with
                | .ok t wr =>
                  let u := t.pfinish x g wr
                  let t := x.cap.time
                  if g.be ∨ t = 0 ∨ t.toNat < x.start.toNat then u else u.onPump Pump.recordLate
                | .page t va | .blocked t va =>
                  t.onPump (fun p => p.setFly { x with inv := false, page := (h.world.toNat, va), wr := t.destKnown h g.od.toNat g.pd g.n g.rows })
                | .denied t => (t.endFly x.cap.age s.dcc.toNat).raiseA s.cur .pump tPARTITION (offW g.od) x.cap.line x.cap.lane)
            else s
          | none => s
        else s.pfinish x g x.wr)

/-! ## Cancelling (R306, R307) -/

/-- Destination bytes of a write window cut short: free values, one a byte. [DESIGN CHOICE, log 16] -/
def State.undefine (s : State) (wr : List (Nat × Nat)) : State :=
  wr.foldl (fun s r =>
    let d := s.dev.draws
    { s.store r.1 r.2 (packElems 1 r.2 (fun i => (Config.cancelledByte (d + i)).toNat)) with
      dev := { s.dev with draws := d + r.2 } }) s

/-- PCANCEL (R306). -/
def execPcancel (c : BitVec 4) (_ : BitVec 3) (s : State) : Ans :=
  pumpOp (fun s =>
    let p := s.ctx.pump
    let note (s : State) (hit : Bool) : State :=
      s.onPump (fun p => { p with cancels := p.cancels ++ [(c.toNat, s.dcc + 4, hit)] })
    match p.buf.find? (fun x => x.cid = c.toNat) with
    | some x => .ok (note ((s.removed x.cap.age).settle s.cur [x.cap.age]) true)
    | none =>
      match p.fly.find? (fun x => x.cid = c.toNat) with
      | some x =>
        let t := (s.endFly x.cap.age (s.dcc.toNat + 4)).settle s.cur [x.cap.age]
        .ok (note (if x.win ∧ !x.wait then t.undefine x.wr else t) true)
      | none => .ok (note s false)) s

/-- CANCEL_ACK (R306). -/
def execCancelAck (c : BitVec 4) (s : State) : Ans :=
  .next (match s.ctx.pump.cancels.find? (fun e => e.1 = c.toNat ∧ e.2.1.toNat ≤ s.dcc.toNat) with
    | none => s
    | some e =>
      let b := BitVec.twoPow 16 c.toNat
      s.onPump (fun p => { p with
        cancels := p.cancels.erase e, ack := p.ack ||| b, hit := if e.2.2 then p.hit ||| b else p.hit }))

/-- PFLUSH (R307). -/
def execPflush (_ : BitVec 3) (s : State) : Ans :=
  engineOp .pump (noPush (fun s =>
    let p := s.ctx.pump
    if 32 ≤ p.buf.length then .error (.hold s)
    else
      let m := p.buf.foldl (fun m x => if x.cid = 0 then m else m ||| BitVec.twoPow 16 x.cid) (0 : BitVec 16)
      .ok ((s.settle s.cur (p.buf.map (fun x => x.cap.age))).onPump (fun p =>
        { p with
          buf := [], ended := p.ended ++ p.buf.map (fun x => (x, s.dcc.toNat))
          ack := p.ack ||| m, hit := p.hit ||| m })))) s

end Sys2Proof.Machine
end

