-- ==== Sys2Proof/Machine/Remote.lean ====
section
/-! DEFINITION. Messages between strands (R442 to R450): peer words, the export table, the way of a message inside the
device and into flits, the checks and effects at the peer, and acknowledgements. -/

namespace Sys2Proof.Machine

/-! ## Peers (R442 to R445) -/

/-- DEVICE, GANG and STRAND of a peer word. -/
def peerDev (t : Nat) : Nat := bits t 40 32
/-- GANG. -/
def peerGang (t : Nat) : Nat := bits t 31 16
/-- STRAND. -/
def peerStrand (t : Nat) : Nat := bits t 15 0
/-- The peer word of a context of this device. -/
def State.peerWord (s : State) (k : Nat) : Nat :=
  let b := s.bindAt k
  s.dev.num.toNat * 2 ^ 32 + b.gang.toNat * 2 ^ 16 + b.strand.toNat

/-- TINFO of PEER. [DEDUCED, log 30] -/
def peerInfo (reason info : Nat) : Word := word (reason * 2 ^ 60 + info % 2 ^ 41)
/-- TINFO of REMOTE. [DEDUCED, log 30] -/
def remoteInfo (reason dev off : Nat) : Word := word (reason * 2 ^ 60 + dev % 512 * 2 ^ 51 + off % 2 ^ 48)

/-- TINFO of PEER where a peer word fails the check of R444. -/
def State.peerFails (s : State) (t : Word) : Option Word :=
  let n := t.toNat
  if n / 2 ^ 41 ≠ 0 then some (peerInfo 0 n)
  else if 432 ≤ peerDev n then some (peerInfo 1 n)
  else if peerDev n = s.dev.num.toNat then
    match s.keyOf (peerGang n) (peerStrand n) with
    | some j => if (s.bindAt j).world = s.bind.world then none else some (peerInfo 2 n)
    | none => some (peerInfo 2 n)
  else none

/-! ## Flits of a message (R447) -/

/-- OP of the message header. -/
def msgCode : MsgOp → Nat
  | .write => 0
  | .tile .copy => 0
  | .tile .addF32 => 1
  | .tile .addBf16 => 2
  | .tile .maxF32 => 3
  | .read => 4
  | .atomic _ _ _ _ _ => 6
  | .incr => 7

/-- The code of an atomic operator (R46). -/
def aopCode : AOp → Nat
  | .add => 0
  | .and => 1
  | .or => 2
  | .xor => 3
  | .min => 4
  | .max => 5
  | .swap => 6

/-- ARG of a write, a tile or a read: the format of the data, which the peer compares with its record's, and 16 where a message of OP 0 raises
the counter bound to that record. R447 gives ARG no meaning there. [DESIGN CHOICE, log 109] -/
def wireArg (m : Msg) : Nat :=
  let copies : Bool := match m.op with | .tile .copy => true | _ => false
  Config.fmtCode m.fmt + if m.sync || copies then 16 else 0

/-- The transfers of a message: one header for each run of its bytes. [DEDUCED, log 34] -/
def gotsOf (m : Msg) : List Got :=
  let one (op arg off len data : Nat) : Got :=
    ⟨m.world.toNat, op, m.slot.toNat, m.gang.toNat, m.strand.toNat, off % 2 ^ 48, arg, len, m.flags % 2 ^ 8, m.srcDev.toNat, m.srcGang.toNat, m.srcStrand.toNat,
      m.txn % 2 ^ 48, data⟩
  let segs := if m.segs.isEmpty then [(0, 0, 0)] else m.segs
  match m.op with
  | .read => segs.map (fun g => one 4 (wireArg m) (m.off.toNat + g.1) g.2.1 0)
  | .incr => [one 7 m.ctr.toNat 0 0 0]
  | .atomic cas dw op b c =>
    [one 6 (aopCode op + (if cas then 8 else 0) + if dw then 16 else 0) m.off.toNat 16 (b.toNat + c.toNat * 2 ^ 64)]
  | op => segs.map (fun g => one (msgCode op) (wireArg m) (m.off.toNat + g.1) g.2.1 g.2.2)

/-- The message that a transfer from another device stands for; a tile whose operator copies comes as a write that raises the counter. [DESIGN CHOICE, log 109] -/
def msgOfGot (dev : BitVec 9) (g : Got) : Option Msg :=
  let op : Option MsgOp :=
    match g.op with
    | 0 => some .write
    | 1 => some (.tile .addF32)
    | 2 => some (.tile .addBf16)
    | 3 => some (.tile .maxF32)
    | 4 => some .read
    | 6 => ([AOp.add, .and, .or, .xor, .min, .max, .swap][g.arg % 8]?).map (fun o =>
        .atomic (bit g.arg 3) (bit g.arg 4) o (word g.data) (word (g.data / 2 ^ 64)))
    | 7 => some .incr
    | _ => none
  op.map (fun o =>
    { dev := dev, gang := BitVec.ofNat 16 g.toGang, strand := BitVec.ofNat 16 g.toStrand, slot := BitVec.ofNat 6 g.slot, op := o
      off := BitVec.ofNat 48 g.off, ctr := BitVec.ofNat 6 g.arg, fmt := if g.op ≤ 4 then Config.fmtOfCode (g.arg % 16) else .untyped
      world := BitVec.ofNat 8 g.world
      segs := if g.op = 7 then [] else if g.op = 6 then [(0, if bit g.arg 4 then 8 else 4, 0)] else [(0, g.len, g.data)], len := g.len
      srcDev := BitVec.ofNat 9 g.dev, srcGang := BitVec.ofNat 16 g.gang, srcStrand := BitVec.ofNat 16 g.strand, txn := g.txn
      sync := decide (g.op ≤ 4) && bit g.arg 4, flags := g.flags, due := 0, wait := none })

/-- The transfers in which a message travels, each of which is answered: one within the device (R446, R447). [DEDUCED, log 34] -/
def State.transfers (s : State) (m : Msg) : Nat := if m.dev = s.dev.num then 1 else (gotsOf m).length

/-- A message as flits. -/
def flitsOf (m : Msg) : List Flit := (gotsOf m).flatMap (Got.flits m.world m.dev.toNat)

/-! ## Sending (R446) -/

/-- The path class from a core to what a message reaches at a peer of this device. -/
def State.msgClass (s : State) (core : Nat) (m : Msg) : Nat :=
  match s.keyOf m.gang.toNat m.strand.toNat with
  | none => 3
  | some j =>
    match (if m.op = .incr then none else SMap.get none (s.ctxAt j).exp m.slot.toNat) with
    | some h => if h.level = 0 then pathClass core h.core else 4
    | none => pathClass core (coreId (coreOf j))

/-- A message leaves the moving context: within the device with the cycle at which it is due, or as flits. -/
def State.sendMsg (s : State) (m : Msg) : State :=
  let core := coreId (coreOf s.cur)
  if m.dev = s.dev.num then
    let p := s.msgClass core m
    { s with net := s.net ++ [{ m with due := s.dcc.toNat + 2 + pathB p + ceilDiv m.len (pathW p) }] }
  else s.inject core m.dev.toNat (s.bind.gang.toNat * 65536 + s.bind.strand.toNat) (flitsOf m)

/-- A message of the moving context to a peer; a request carries no data bytes (R446, R473). -/
def State.mkMsg (s : State) (pr : Nat) (slot : BitVec 6) (op : MsgOp) (off : Nat) (f : Fmt)
    (segs : List (Nat × Nat × Nat)) (txn : Nat) : Msg :=
  { dev := BitVec.ofNat 9 (peerDev pr), gang := BitVec.ofNat 16 (peerGang pr), strand := BitVec.ofNat 16 (peerStrand pr)
    slot := slot, op := op, off := BitVec.ofNat 48 off, ctr := 0, fmt := f, world := s.bind.world, segs := segs
    len := match op with | .write | .tile _ => (segs.map (fun g => g.2.1)).sum | _ => 0, srcDev := s.dev.num, srcGang := s.bind.gang, srcStrand := s.bind.strand
    txn := txn, sync := false, flags := 0, due := 0, wait := none }

/-! ## At the peer (R444, R448 to R450) -/

/-- The right that a message needs. [DEDUCED, log 29] -/
def msgRight : MsgOp → Nat
  | .read => rRD
  | .atomic _ _ _ _ _ => rAT
  | _ => rWR

/-- The bytes of a message from its offset on. -/
def msgSpan (m : Msg) : Nat := m.segs.foldl (fun a g => Nat.max a (g.1 + g.2.1)) 0

/-- Two messages touch a byte of a peer on this device, through whichever slots of its export table (R448). [DEDUCED, log 27] -/
def State.msgsMeet (s : State) (m o : Msg) : Bool :=
  let rec_ (x : Msg) : Option Handle := (s.keyOf m.gang.toNat m.strand.toNat).bind (fun j => SMap.get none (s.ctxAt j).exp x.slot.toNat)
  decide (msgSpan m ≠ 0 ∧ msgSpan o ≠ 0) &&
    (match rec_ m, rec_ o with
      | some a, some b => meetAt a m.off.toNat (msgSpan m) b o.off.toNat (msgSpan o)
      | _, _ => false)

/-- Two messages of one sender touch a byte of one peer (R448), or the later raises the counter of the record it goes
through. [DEDUCED, log 27] -/
def State.msgAfter (s : State) (m : Msg) (o : Msg) : Bool :=
  decide (o.srcDev = m.srcDev ∧ o.srcGang = m.srcGang ∧ o.srcStrand = m.srcStrand ∧ o.gang = m.gang ∧ o.strand = m.strand) &&
  ((m.sync && o.slot = m.slot) || s.msgsMeet m o)

/-- The messages that stand before a message among those on their way. -/
def before (m : Msg) : List Msg → List Msg
  | [] => []
  | o :: l => if o = m then [] else o :: before m l

/-- The first failure of the checks at the peer, by its reason: the record, or why not. [DEDUCED, log 28; DEDUCED, log 29] -/
def State.exported (s : State) (j : Nat) (m : Msg) : Except Nat Handle :=
  match s.live (SMap.get none (s.ctxAt j).exp m.slot.toNat) with
  | none => .error 2
  | some h =>
    if !h.has (msgRight m.op) then .error 3
    else if h.len.toNat < m.off.toNat + (msgSpan m) then .error 4
    else if 2 ≤ h.level.toNat then .error 5
    else if h.level = 0 ∧ (msgSpan m) ≠ 0 ∧ !s.inPartition h m.off.toNat (msgSpan m) then .error 7
    else if m.fmt ≠ .untyped ∧ h.fmt ≠ .untyped ∧ h.fmt ≠ m.fmt then .error 10
    else .ok h

/-- An answer as a transfer, of a strand, with n bytes of data where it is the response to a read. ARG says how the access went, and the format
of the record that was read. [DESIGN CHOICE, log 109] -/
def ackGot (a : Ack) (world gang strand : Nat) (n : Option Nat) : Got :=
  ⟨world, if n.isSome then 5 else 8, 0, a.gang.toNat, a.strand.toNat, a.off.toNat,
    (if a.ok then 0 else 1) + (if a.wrote then 2 else 0) + a.reason.toNat * 4 + Config.fmtCode a.fmt * 64, n.getD 0, 0, a.dev.toNat, gang, strand,
    a.txn % 2 ^ 48, if n.isSome then a.data else 0⟩

/-- The answer to a message goes back: due the message's B cycles later within the device, and those of the bytes that it brings, else as
flits (R446, R455, R473). [DEDUCED, log 96] -/
def State.reply (s : State) (j : Nat) (m : Msg) (a : Ack) : State :=
  let core := coreId (coreOf j)
  if m.srcDev = s.dev.num then
    let p := match s.keyOf m.srcGang.toNat m.srcStrand.toNat with
      | some i => s.msgClass (coreId (coreOf i)) m
      | none => 3
    { s with acks := s.acks ++ [{ a with due := s.dcc.toNat + pathB p + if m.op = .read ∧ a.ok then ceilDiv (msgSpan m) (pathW p) else 0 }] }
  else
    s.inject core m.srcDev.toNat 0
      ((ackGot a m.world.toNat m.gang.toNat m.strand.toNat (if m.op = .read ∧ a.ok then some (msgSpan m) else none)).flits m.world
        m.srcDev.toNat)

/-- An answer to a message. -/
def State.ackOf (s : State) (m : Msg) (ok : Bool) (reason : Nat) : Ack :=
  { dst := m.srcDev, gang := m.srcGang, strand := m.srcStrand, txn := m.txn, ok := ok, reason := BitVec.ofNat 4 reason
    dev := s.dev.num, off := m.off, wrote := false, fmt := .untyped, data := 0, due := 0 }

/-- The core nearest to a message whose strand does not exist: core 0. [DEDUCED, log 29] -/
def State.refuse (s : State) (j : Nat) (m : Msg) (reason : Nat) : State := s.reply j m (s.ackOf m false reason)

/-- The context on whose behalf a message works: its sender's where that is on this device. -/
def State.payer (s : State) (j : Nat) (m : Msg) : Nat :=
  if m.srcDev = s.dev.num then (s.keyOf m.srcGang.toNat m.srcStrand.toNat).getD j else j

/-- The flat runs of a message's segments, resolved, or what stops the access. -/
def State.msgRuns (s : State) (k : Nat) (h : Handle) (m : Msg) (write : Bool) : Except Acc (State × List (List (Nat × Nat))) :=
  s.resolveMany k h (m.segs.map (fun g => (m.off.toNat + g.1, g.2.1))) write

/-- A message that cannot take effect yet stays on its way; one that met a fault or a blocked page waits for an invalidation that
covers that address (R247, R369). -/
def State.msgWaits (s t : State) (m : Msg) (va : Option Nat) : State :=
  let m' := { m with wait := va, due := 0 }
  if s.net.contains m then { t with net := t.net.map (fun x => if x = m then m' else x) }
  else { t with net := t.net ++ [m'], rx := t.rx.filter (fun x => !(gotsOf m).contains x) }

/-- An increment of a counter of a strand of this device, in this cycle. -/
def State.incrNow (s : State) (j : Nat) (n : BitVec 6) (amt : BitVec 32) : State :=
  let b := s.bindAt j
  s.incrPut ⟨b.gang.toNat, b.strand.toNat, n, amt, s.dcc.toNat⟩

/-- The counter bound to a record gains 1 (R462, R464). -/
def State.syncIncr (s : State) (j : Nat) (h : Handle) : State :=
  match h.sync with
  | some n => s.incrNow j n 1
  | none => s

/-- A tile applied element by element (R462): the new bytes of n bytes. -/
def tileBytes (opr : Opr) (n old new : Nat) : Nat :=
  let each (w : Nat) (f : Nat → Nat → Nat) : Nat :=
    packElems w (n / w) (fun i => f (old / 2 ^ (8 * w * i) % 2 ^ (8 * w)) (new / 2 ^ (8 * w * i) % 2 ^ (8 * w)))
  match opr with
  | .copy => new
  | .addF32 => each 4 (addE .fp32 .rne false)
  | .addBf16 => each 2 (addE .bf16 .rne false)
  | .maxF32 => each 4 (maxE .fp32 .rne false)

/-- What a message does at its peer once its bytes are resolved: the bytes written and the answer. [DEDUCED, log 28; DEDUCED, log 79] -/
def State.msgEffect (s : State) (j : Nat) (h : Handle) (m : Msg) (runs : List (List (Nat × Nat))) : State :=
  let ok := s.ackOf m true 0
  match m.op with
  | .incr => s
  | .read =>
    let data := (m.segs.zip runs).foldl (fun a e => a + readRuns s.mem e.2 * 2 ^ (8 * e.1.1)) 0
    s.reply j m { ok with fmt := h.fmt, data := data }
  | .atomic cas dw op b c =>
    let x : Atom := ⟨0, false, cas, dw, op, b, c⟩
    let l := runs.flatten
    let old := readRuns s.mem l
    match x.result old with
    | some v => (s.storeSegs (cutRuns l v)).reply j m { ok with wrote := true }
    | none => s.reply j m ok
  | .write =>
    let t := (m.segs.zip runs).foldl (fun s e => s.storeSegs (cutRuns e.2 e.1.2.2)) s
    (if m.sync then t.syncIncr j h else t).reply j m ok
  | .tile opr =>
    let t := (m.segs.zip runs).foldl (fun s e =>
      s.storeSegs (cutRuns e.2 (tileBytes opr e.1.2.1 (readRuns s.mem e.2) e.1.2.2))) s
    (t.syncIncr j h).reply j m ok

/-- A message that writes or updates memory. -/
def msgWrites : MsgOp → Bool
  | .read | .incr => false
  | _ => true

/-- A message at its peer (R444, R446, R449, R450, R455). A refusal by an access table is logged (R390), and what reads for a strand of
this device waits for its parked writes (R268). -/
def State.msgArrives (s : State) (m : Msg) : State :=
  let gone := { s with net := s.net.erase m, rx := s.rx.filter (fun x => !(gotsOf m).contains x) }
  match s.keyOf m.gang.toNat m.strand.toNat with
  | none => gone.refuse 0 m 0
  | some j =>
    if (s.bindAt j).world ≠ m.world then (gone.logged logRefusal (m.off.setWidth 64)).refuse j m 1
    else if (s.ctxAt j).phase = .loading then s.msgWaits s m none
    else if m.op = .incr then (gone.incrNow j m.ctr 1).reply j m (s.ackOf m true 0)
    else
      match s.exported j m with
      | .error r => (if r = 7 then gone.logged logRefusal (m.off.setWidth 64) else gone).refuse j m r
      | .ok h =>
        let k := s.payer j m
        if m.srcDev = s.dev.num ∧ m.op ≠ .write ∧ (s.ctxAt k).overParked h m.off.toNat (msgSpan m) then s
        else
        match gone.msgRuns k h m (msgWrites m.op) with
        | .error (.denied t) => t.refuse j m 7
        | .error (.page t va) => if m.op = .read then t.refuse j m 6 else s.msgWaits { t with net := s.net, rx := s.rx } m (some va)
        | .error (.blocked t va) => s.msgWaits { t with net := s.net, rx := s.rx } m (some va)
        | .error (.ok t _) => t
        | .ok (t, runs) =>
          match (if m.op = .write then none else t.badRun runs.flatten) with
          | some ln => if m.srcDev = s.dev.num then t.integrityStop k h.world.toNat ln else t.integrity h.world.toNat ln
          | none => t.msgEffect j h m runs

/-- A message may take effect: one of this device is on its way, due, and behind no older one that it must follow;
one of another device has reached it whole, behind no older one likewise. [DEDUCED, log 35] -/
def State.msgReady (s : State) (m : Msg) : Bool :=
  if s.net.contains m then
    decide (m.due ≤ s.dcc.toNat) && m.wait.isNone && !(before m s.net).any (s.msgAfter m)
  else m.srcDev ≠ s.dev.num && m.dev = s.dev.num && (gotsOf m).all s.rx.contains
    && !(s.net ++ (s.rx.takeWhile (fun g => !(gotsOf m).contains g)).filterMap (msgOfGot s.dev.num)).any (s.msgAfter m)

end Sys2Proof.Machine
end

