-- ==== Sys2Proof/Machine/Schedule.lean ====
section
/-! DEFINITION. Schedule tables of Briwen ports (R424 to R426, R465): the fields of an entry, the table that loads
leave, and the conditions on which a load is refused. -/

namespace Sys2Proof.Machine

/-- OFF. -/
def entOff (e : Word) : Nat := bits e.toNat 63 44
/-- NFL. -/
def entNfl (e : Word) : Nat := bits e.toNat 43 32
/-- WORLD, or the group index j of a replay slot. -/
def entWorld (e : Word) : Nat := bits e.toNat 31 24
/-- KIND. -/
def entKind (e : Word) : Nat := bits e.toNat 23 20
/-- INPORT. -/
def entIn (e : Word) : Nat := bits e.toNat 19 16
/-- LINK. -/
def entLink (e : Word) : Nat := bits e.toNat 11 0

/-- The world to which an entry counts: its owner's for a replay slot, none for a spare one. -/
def entOwner (t : SMap Word) (e : Word) : Option Nat :=
  match entKind e with
  | 0 => some (entWorld e)
  | 1 => some (entWorld e)
  | 2 => some (entWorld (SMap.get 0 t (entLink e)))
  | _ => none

/-- The table after a load: the entries of the load's world replaced, all others and the spares kept (R425). -/
def applyLoad (t : SMap Word) (l : Load) : SMap Word :=
  l.ents.foldl (fun t e => SMap.set 0 t e.1 e.2) (t.filter (fun e => entOwner t e.2 ≠ some l.world.toNat))

/-- An injection source that exists on the device (R447). -/
def sourceOk (n : Nat) : Bool := (coreIdx n).isSome || (0x400 ≤ n && n ≤ 0x40B) || (0x500 ≤ n && n ≤ 0x503)

/-- Condition 1 of R426 of an entry of a table, under a period, given which ports are UP. [DEDUCED, log 33] -/
def entFields (t : SMap Word) (per : Nat) (up : Nat → Bool) (e : Word) : Bool :=
  decide (bits e.toNat 15 12 = 0 ∧ entNfl e ≠ 0 ∧ entOff e + entNfl e ≤ per) &&
  (match entKind e with
    | 0 => entIn e = 0 && entWorld e ≤ 191 && sourceOk (entLink e)
    | 1 => entWorld e ≤ 191 && up (entIn e)
    | 2 => entIn e = 0 && entNfl e = 1 && entKind (SMap.get 0 t (entLink e)) ≤ 1 && SMap.get 0 t (entLink e) ≠ 0
    | 3 => entIn e = 0 && entNfl e = 1 && entWorld e = 0 && entLink e = 0
    | _ => false)

/-- Two entries share a slot. -/
def sharesSlot (a b : Word) : Bool :=
  decide (entOff a < entOff b + entNfl b ∧ entOff b < entOff a + entNfl a)

/-- Every slot of an entry lies in bands that belong to its world (condition 3). -/
def inBands (t : SMap Word) (own : Nat → BitVec 8) (per : Nat) (e : Word) : Bool :=
  match entOwner t e with
  | none => true
  | some w =>
    let band (x : Nat) := x / (per / 64)
    (List.range (band (entOff e + entNfl e - 1) - band (entOff e) + 1)).all (fun i =>
      (own (band (entOff e) + i)).toNat = w)

/-- Condition 4: exactly one replay slot for each group, late enough in the same period. -/
def replaysOk (t : SMap Word) (rtt : Nat) (i : Nat) (e : Word) : Bool :=
  if 2 ≤ entKind e then true
  else
    let n := ceilDiv (entNfl e) 64
    let mine := t.filter (fun x => entKind x.2 = 2 ∧ entLink x.2 = i)
    mine.all (fun x => entWorld x.2 < n) && (List.range n).all (fun j =>
      match mine.filter (fun x => entWorld x.2 = j) with
      | [x] => entOff e + Nat.min (64 * j + 63) (entNfl e - 1) + rtt + 2 ≤ entOff x.2
      | _ => false)

/-- The first entry of a table that breaks a condition of R426, with the condition: `old` is the table before, `new` the
entries of the load. An empty table has no entry to name: entry 0 is. -/
def loadRefused (x : Port) (up : Nat → Bool) (l : Load) : Option (Nat × Nat) :=
  let old := x.next.foldl applyLoad x.table
  let kept := old.filter (fun e => entOwner old e.2 ≠ some l.world.toNat)
  let t := applyLoad old l
  let per := x.pernext
  let spare := t.any (fun e => entKind e.2 = 3)
  if t.isEmpty then some (0, 5)
  else t.findSome? (fun e =>
    let new := l.ents.any (fun n => n.1 = e.1)
    if !entFields t per up e.2 ∨ (new ∧ entKind e.2 ≤ 1 ∧ entWorld e.2 ≠ l.world.toNat) then some (e.1, 1)
    else if (new ∧ kept.any (fun k => k.1 = e.1 ∧ k.2 ≠ e.2)) ∨ t.any (fun o => o.1 ≠ e.1 ∧ sharesSlot o.2 e.2) then
      some (e.1, 2)
    else if !inBands t (fun b => SMap.get 0xFF x.own b) per e.2 then some (e.1, 3)
    else if !replaysOk t (x.txlat + x.rxlat) e.1 e.2 then some (e.1, 4)
    else if !spare then some (e.1, 5)
    else if entKind e.2 = 1 ∧ t.any (fun o =>
        o.1 ≠ e.1 ∧ entKind o.2 = 1 ∧ entIn o.2 = entIn e.2 ∧ entLink o.2 = entLink e.2) then some (e.1, 6)
    else none)

/-- The entries that n words supply: word i is entry i, and a zero word supplies none. [DEDUCED, log 33] -/
def loadEnts (n data : Nat) : SMap Word :=
  (List.range n).filterMap (fun i => let e := word (data / 2 ^ (64 * i)); if e = 0 then none else some (i, e))

/-- The spare entries that the loads of a world still waiting supply: no load removes a spare (R465). -/
def Port.spares (x : Port) (w : BitVec 8) : SMap Word :=
  (x.next.filter (fun o => o.world = w)).flatMap (fun o => o.ents.filter (fun e => entKind e.2 = 3))

/-- A load accepted: of two for one world, the later one governs, with the spares of the earlier. [DEDUCED, log 33; DEDUCED, log 56] -/
def Port.load (x : Port) (l : Load) : Port :=
  { x with next := x.next.filter (fun o => o.world ≠ l.world)
      ++ [{ l with ents := l.ents.foldl (fun t e => SMap.set 0 t e.1 e.2) (x.spares l.world) }] }

end Sys2Proof.Machine
end

