-- ==== Sys2Proof/Machine/Fabric.lean ====
section
/-! DEFINITION. The fabric engine's instructions (R451 to R471) and the streaming drain MDRAINS (R203, R463); how its
commands start; and what their answers do. -/

namespace Sys2Proof.Machine

/-! ## Commands in flight (R446, R452) -/

/-- The state with the fabric state of the moving context changed. -/
def State.onFab (s : State) (f : Fab → Fab) : State := s.setCtx { s.ctx with fab := f s.ctx.fab }
/-- The allowance of a window. [DEDUCED, log 26] -/
def Fab.allowance (f : Fab) (w : BitVec 4) : Nat := SMap.get 256 f.allow w.toNat
/-- The posted writes outstanding in a window. -/
def Fab.outOf (f : Fab) (w : BitVec 4) : Nat := SMap.get 0 f.out w.toNat
/-- The window of a slot. -/
def window (h : BitVec 6) : BitVec 4 := h.setWidth 4
/-- n more posted writes would exceed the allowance of a window (R452). [DEDUCED, log 26] -/
def State.overAllow (s : State) (w : BitVec 4) (n : Nat) : Bool :=
  decide (s.ctx.fab.allowance w < s.ctx.fab.outOf w + n)

/-- A command in flight of the moving context, by its age. -/
def State.xcmd (s : State) (age : Nat) : Option XCmd := s.ctx.fab.cmds.find? (fun x => x.cap.age = age)
/-- A command in flight replaced. -/
def State.setXcmd (s : State) (x : XCmd) : State :=
  s.onFab (fun f => { f with cmds := f.cmds.map (fun y => if y.cap.age = x.cap.age then x else y) })

/-- The waiting fences once a posted write of an age has issued: those of its window that are younger wait for it too (R453). -/
def Fab.awaiting (f : Fab) (age : Nat) (what : Remote) (txns : List Nat) : List XFence :=
  match what with
  | .write w => f.fences.map (fun x => if x.w = w ∧ age < x.age then { x with writes := x.writes ++ txns } else x)
  | _ => f.fences

/-- The issuing instruction becomes a command in flight with n transactions; a posted write is counted in its window;
what it touches of the core's own resources stays held until it ends (R138). -/
def State.addXcmd (s : State) (what : Remote) (n : Nat) (ei : BitVec 6) (binds : List (Option (BitVec 6)))
    (tile : Option TileReg) (rngs : List Rng) : State :=
  let f := s.ctx.fab
  let x : XCmd :=
    { cap := s.iss, what := what, first := f.nextTxn, txns := (List.range n).map (· + f.nextTxn), ei := ei
      started := false, wait := false, page := (0, 0), inv := false, failed := false, binds := binds, tile := tile, data := none, tag := .untyped, msgs := [], got := [], sent := 0 }
  let out := match what with
    | .write w => SMap.set 0 f.out w.toNat (f.outOf w + n)
    | _ => f.out
  let t := s.onFab (fun f => { f with cmds := f.cmds ++ [x], nextTxn := f.nextTxn + n, out := out, fences := f.awaiting s.iss.age what x.txns })
  if rngs.isEmpty then t
  else t.setCtx { t.ctx with fl := t.ctx.fl ++ [⟨5, s.iss.age, none, s.bind.world, rngs, 0, 0, 0, [], [], false, s.iss.line, s.iss.lane⟩] }

/-- A command leaves, and with it what it held. -/
def State.endXcmd (s : State) (age : Nat) : State :=
  let c := s.ctx
  s.setCtx { c with
    fab := { c.fab with cmds := c.fab.cmds.filter (fun x => x.cap.age ≠ age) }
    fl := c.fl.filter (fun f => !(f.src = 5 && f.age = age && f.segs.isEmpty && f.wait.isEmpty)) }

/-- A command ends; its counter gains an amount unless it failed. [DESIGN CHOICE, log 108] -/
def State.finish (s : State) (x : XCmd) (amt : BitVec 32) : State :=
  let t := s.endXcmd x.cap.age
  if x.failed ∨ x.ei = 0 then t else t.incrNow s.cur x.ei amt

/-- REMOTE of a command of the moving context (R445). -/
def State.remoteTrap (s : State) (x : XCmd) (reason dev off : Nat) : State :=
  s.raiseA s.cur ((engineOf x.cap.instr).getD .fabric) tREMOTE (remoteInfo reason dev off) x.cap.line x.cap.lane

/-- A remote read whose push has been made ends (R135, R455). -/
def State.placed (s : State) : State :=
  if (s.eng .fabric).pushes.isEmpty then
    match s.ctx.fab.cmds.find? (fun x => x.what = .load ∧ x.sent = 1) with
    | some x => s.finish x 1
    | none => s
  else s

/-- The counter and threshold scalar that a command awaits (R456, R466, R468). -/
def awaits : Instr → BitVec 6 × BitVec 5
  | .xput o | .xget o => (o.ew, o.th)
  | .xring _ _ _ _ _ _ ew th _ => (ew, th)
  | .xcoll _ o => (o.ew, o.th)
  | _ => (0, 0)

/-- The threshold of a command is met. -/
def State.awaited (s : State) (c : Cap) : Bool :=
  let (ew, th) := awaits c.instr
  ew = 0 || meets (s.ctx.ctl.getE ew) ((c.sc th).setWidth 32)

/-- The bytes of a peer that a command reads or writes: the peer word, the record through which they are named, the offset of
the first, how many, and whether it writes. -/
structure Reach where
  pr : Nat
  h : Handle
  o : Int
  n : Nat
  w : Bool

/-- The record by which a peer's bytes behind a slot are compared: the export record of a strand of this device; of another device
the sender's own, for one offset reaches the same object on every peer that minted it there (R443). [DEDUCED, log 27] -/
def State.peerRec (s : State) (pr : Nat) (slot : BitVec 6) (own : Option Handle) : Option Handle :=
  if peerDev pr = s.dev.num.toNat then
    (s.keyOf (peerGang pr) (peerStrand pr)).bind (fun j => SMap.get none (s.ctxAt j).exp slot.toNat)
  else own

/-- The bytes of its peer that a command reads or writes; a firing tile's place is the one given. [DEDUCED, log 27] -/
def State.peerSpan (s : State) (c : Cap) (tile : Option TileReg) : Option Reach :=
  let at_ (pr : Nat) (slot : BitVec 6) (own : Option Handle) (o : Int) (n : Nat) (w : Bool) : Option Reach :=
    (s.peerRec pr slot own).map (fun h => ⟨pr, h, o, n, w⟩)
  let own (h : BitVec 6) : Option Handle := SMap.get none c.h h.toNat
  let fm (o : FMOp) (f : Fmt) (w : Bool) := at_ (c.sc o.pr).toNat o.h (own o.h) ((c.sc o.a).toInt + o.i.toInt * 64) (2048 * fbytes f) w
  match c.instr with
  | .xst f o => fm o f true
  | .xld f o _ => fm o f false
  | .xput o => at_ (c.sc o.pr).toNat o.hd (own o.hd) (c.sc o.od).toInt (c.sc o.n).toNat true
  | .xget o => at_ (c.sc o.pr).toNat o.hs (own o.hs) (c.sc o.os).toInt (c.sc o.n).toNat false
  | .xamo dw _ o | .xacas dw _ o => at_ (c.sc o.pr).toNat o.h (own o.h) (c.sc o.a).toInt (if dw then 8 else 4) true
  | .xport pr h f _ _ =>
    at_ (c.sc pr).toNat h (own h) 0 (match own h with | some r => r.len.toNat / fbytes r.fmt * fbytes f | none => 0) true
  | .xready _ _ => tile.bind (fun t => at_ t.pr.toNat t.slot (some t.hd) t.off 4096 true)
  | .mdrains f _ pr o =>
    let size := match own o.h with
      | some r => if f = .pl then 64 + 16 * (r.pc.toNat + 1) else s.ctx.mat.tn * fbytes f
      | none => 0
    let pitch := match own o.h with | some r => r.pitch size | none => 0
    at_ (c.sc pr).toNat o.h (own o.h) ((c.sc o.s).toInt + o.i.toInt * 64) ((drainRows o.rows - 1) * pitch + size) true
  | _ => none

/-- Two commands touch a byte of one peer, and one of them writes it. -/
def Reach.clash (a b : Reach) : Bool := a.pr = b.pr && (a.w || b.w) && meetAt a.h a.o a.n b.h b.o b.n

/-- Two posted writes. -/
def Reach.both (a b : Reach) : Bool := a.w && b.w && a.clash b

/-- The tile that a queued instruction is to fire. -/
def State.tileAt (s : State) (c : Cap) : Option TileReg :=
  match c.instr with
  | .xready t _ => SMap.get none s.ctx.fab.tiles (c.sc t).toNat
  | _ => none

/-- A command must wait for an older one of its strand that touches the same byte of the same peer (R139, R448): one of the fabric engine
that has yet to start, or that goes to another device and is not yet answered, for those to this device keep their order on the way; and a
posted write of the other engine that is still queued. [DEDUCED, log 27] -/
def State.olderPut (s : State) (e : Engine) (c : Cap) (tile : Option TileReg) : Bool :=
  match s.peerSpan c tile with
  | none => false
  | some r =>
    s.ctx.fab.cmds.any (fun y => decide (y.cap.age < c.age) && (!y.started || decide (peerDev r.pr ≠ s.dev.num.toNat))
      && (match s.peerSpan y.cap y.tile with
        | some q => if e = .fabric ∧ engineOf y.cap.instr = some .fabric then q.clash r else q.both r
        | none => false))
    || ((s.eng (if e = .fabric then .matrix else .fabric)).olderThan c.age).any (fun d =>
      match s.peerSpan d.1 (s.tileAt d.1) with | some q => q.both r | none => false)

/-- A command in flight that has yet to start stands behind an older one. [DEDUCED, log 27] -/
def State.behind (s : State) (x : XCmd) : Bool := s.olderPut .fabric x.cap x.tile

/-- The local bytes that a command in flight still reads or writes (R139): it has read them once it has started, and a posted receive is
written by its port. [DEDUCED, log 99] -/
def State.stillTouches (s : State) (x : XCmd) : List Touch :=
  let l : List Touch := match x.what, x.tile, x.cap.instr with
    | .recv, _, _ => []
    | _, some t, _ => [⟨t.hd, t.off, 4096, false⟩]
    | .coll p rank _, _, .xcoll op o =>
      let (rd, wr) := collSpans op (x.cap.sc o.n).toNat p.length rank
      let one (h : BitVec 6) (n : Nat) (w : Bool) : List Touch := match SMap.get none x.cap.h h.toNat with | some r => [⟨r, 0, n, w⟩] | none => []
      one o.hs rd false ++ one o.hr wr true
    | _, _, _ => s.touches x.cap
  l.filter (fun t => t.w || !x.started)

/-- The fabric engine holds an instruction behind its own older command whose register or local bytes it touches, so that they take effect in
queue order (R139). [DEDUCED, log 99] -/
def State.fabHeld (s : State) (c : Cap) : Bool :=
  let l := s.touches c
  s.ctx.fab.cmds.any (fun x => decide (x.cap.age < c.age)
    && ((decide (x.what = .load) && clashes x.cap.regRanges c.regRanges) || (s.stillTouches x).any (fun a => l.any a.clash)))

/-- A campus port. -/
def State.campusPort (s : State) (q : BitVec 2) : Campus := SMap.get Campus.reset s.campus q.toNat
/-- A campus port replaced. -/
def State.setCampus (s : State) (q : BitVec 2) (x : Campus) : State :=
  { s with campus := SMap.set Campus.reset s.campus q.toNat x }

/-- A compression or residual command of a campus port that is older than an age is still to complete, or the port's unit is
at work (R469, R471). -/
def State.olderComp (s : State) (age : Nat) (cp : BitVec 2) : Bool :=
  s.ctx.fab.cmds.any (fun x => x.cap.age < age && x.what = .comp cp) || decide (s.dcc.toNat < (s.campusPort cp).unit)

/-- The latency of a vector load of a record's level (R184, R473); no number is given for host memory. [DEDUCED, log 7] -/
def State.spanCycles (s : State) (h : Handle) : Nat := s.pathCycles h [12, 34, 56, 132] 384

/-! ## Starting (R456, R462, R464, R466 to R471) -/

/-- A command that waits in the translation unit for an invalidation that covers an address of a world (R247, R369). -/
def State.waitPage (s : State) (x : XCmd) (w : BitVec 8) (va : Nat) : State :=
  s.setXcmd { x with wait := true, page := (w.toNat, va), inv := false }

/-- n bytes of a local record read for a command that starts; it waits for an invalidation that
covers a page that faults (R369), and for a parked write of a byte that it reads (R268). [DEDUCED, log 25] -/
def State.fabRead (s : State) (x : XCmd) (h : Handle) (o n : Nat) : Res' (State × Nat) :=
  if (x.wait ∧ !x.inv) ∨ s.readWaits h o n then .error (.hold s)
  else
    match s.resolve h o n false with
    | .denied t => .error (.trap t tPARTITION (offW o))
    | .page t va => .error (.hold (t.waitPage x h.world va))
    | .blocked _ _ => .error (.hold s)
    | .ok t l =>
      match t.badRun l with
      | some ln => .error (.hold (t.integrityStop t.cur h.world.toNat ln))
      | none =>
        match s.asked 5 x.cap.age l with
        | some u => .error (.hold u)
        | none => .ok (t, readRuns (t.ctx.view 5 t.mem) l)

/-- The bytes of one message of a transfer (R456). -/
def msgChunk : Nat := 4096
/-- The messages of n bytes. -/
def chunks (n : Nat) : Nat := ceilDiv n msgChunk

/-- Data sent in messages to an offset of a peer's slot, one behind the other (R473); the last raises the counter of the record where
`sync`. [DEDUCED, log 34] -/
def State.sendChunks (s : State) (pr : Nat) (slot : BitVec 6) (f : Fmt) (off n data first : Nat) (sync : Bool) : State :=
  (List.range (Nat.max 1 (chunks n))).foldl
    (fun s i =>
      let m := Nat.min msgChunk (n - i * msgChunk)
      s.sendMsg { s.mkMsg pr slot .write (off + i * msgChunk) f
          [(0, m, data / 2 ^ (8 * msgChunk * i) % 2 ^ (8 * m))] (first + i) with
        sync := sync && i + 1 = Nat.max 1 (chunks n), len := Nat.min n ((i + 1) * msgChunk) }) s

/-- The one message of a command sent: an answer is due for each transfer in which it travels. [DEDUCED, log 34] -/
def State.sendOne (s : State) (x : XCmd) (m : Msg) : State :=
  (s.setXcmd { x with started := true, txns := List.replicate (s.transfers m) m.txn, msgs := [m] }).sendMsg m

/-- FLAGS of a message (R447): REL and SC. [DESIGN CHOICE, log 109] -/
def flagsOf (rel : Bool) (sc : Scope) : Nat := (if rel then 1 else 0) + 2 * sc.code

/-- The receiving end of a stream. -/
def Campus.stream (c : Campus) (st : BitVec 16) : Stream := SMap.get Stream.reset c.rx st.toNat
/-- The frames missing before the first one received beyond the gap (R438). -/
def Stream.missing (x : Stream) : Nat :=
  match x.got with
  | [] => 0
  | a :: l => (l.foldl (fun m b => if b.toNat < m then b.toNat else m) a.toNat) - x.next.toNat

/-- The frames of a region still to be sent, as far as the retry buffer of 128 MiB takes them (R439, R469); each departs after the cycles
of R473. -/
def State.sendFrames (s : State) (x : XCmd) (h : Handle) (cp : BitVec 2) (stream : BitVec 16) (rtag : Nat) :
    Nat → Nat → State × Nat
  | 0, f => (s, f)
  | fuel + 1, f =>
    let n := h.len.toNat
    if n ≤ 8192 * f then (s, f)
    else
      let len := Nat.min 8192 (n - 8192 * f)
      let c := s.campusPort cp
      if 2 ^ 27 < (c.buf.map (fun b => b.f.len)).sum + len then (s, f)
      else
        match s.fabRead { x with wait := false } h (8192 * f) len with
        | .error _ => (s, f)
        | .ok (t, data) =>
          let w := h.world
          let k := stream.toNat
          let seq := SMap.get 0 c.seq k
          let rx := c.stream stream
          let last := decide (n ≤ 8192 * (f + 1))
          let fr : Frame :=
            { world := w, keyidx := SMap.get false c.keyidx w.toNat, ackonly := false, seq := BitVec.ofNat 48 seq
              stream := stream, ack := rx.next, ncnt := BitVec.ofNat 16 rx.missing, nseq := rx.next
              dest := word ((if last then 2 ^ 63 else 0) + f * 2 ^ 32 + rtag), len := len, data := data, verified := true }
          let c := { c with
            buf := c.buf ++ [⟨s.cur, x.cap.age, fr, s.dcc + word (s.spanCycles h + ceilDiv (8192 * f + len) 256 + 12), 1⟩], seq := SMap.set 0 c.seq k (seq + 1), lastAck := SMap.set 0 c.lastAck k s.dcc }
          State.sendFrames (t.setCampus cp c) x h cp stream rtag fuel (f + 1)

/-- The groups of 64 elements of n FP32 elements in bytes. -/
def gradGroups (n data : Nat) : List (List FVal) :=
  (List.range (n / 64)).map (fun g => (List.range 64).map (fun i => decodeF .fp32 (data / 2 ^ (32 * (64 * g + i)) % 2 ^ 32)))

/-- What XCOMP writes (R471): the PL tensor with k planes, its length, and the residuals. -/
def compress (n k data : Nat) : Nat × Nat × Nat :=
  let gs := (gradGroups n data).map (fun l => (l, plGroup .rne l))
  let qs := packList 1 (gs.flatMap (fun g => g.2.2.map (plKeep k)))
  let scales := gs.map (fun g => g.2.1)
  let tensor := plTensor n (fun i => qs / 2 ^ (8 * i) % 256) (fun g => scales.getD g 0) k
  let res := gs.flatMap (fun g => (g.1.zip g.2.2).map (fun e =>
    roundF .fp32 .rne false (sumF .rne [e.1, (plValue k g.2.1 (plKeep k e.2)).negate])))
  (tensor, plBytes n k, packList 4 res)

/-- Writes through handles (offset, bytes, value) resolved together, or what stops the first that is stopped. -/
def State.resolveAll (s : State) (l : List (Handle × Nat × Nat × Nat)) : Except Acc (State × List Seg) :=
  l.foldl
    (fun (acc : Except Acc (State × List Seg)) (e : Handle × Nat × Nat × Nat) =>
      match acc with
      | .error x => .error x
      | .ok (t, segs) =>
        match t.resolve e.1 e.2.1 e.2.2.1 true with
        | .ok u runs => .ok (u, segs ++ cutRuns runs e.2.2.2)
        | x => .error x) (.ok (s, []))

/-- The writes of a compression or residual command on a port, where both regions resolve; else it waits, or is refused. They are in place,
and the unit is free again, after the cycles of R473. -/
def State.compWrites (s : State) (x : XCmd) (cp : BitVec 2) (w : BitVec 8) (hs hr : Handle) (l : List (Handle × Nat × Nat)) : Res' State :=
  match s.resolveAll (l.map (fun e => (e.1, 0, e.2.1, e.2.2))) with
  | .error (.denied t) => .error (.trap t tPARTITION 0)
  | .error (.page t va) | .error (.blocked t va) => .error (.hold (t.waitPage x w va))
  | .error (.ok t _) => .ok t
  | .ok (t, segs) =>
    let due := t.dcc.toNat + t.spanCycles hs + t.spanCycles hr + 16 + ceilDiv hs.len.toNat 256
    let t := (t.setXcmd { x with started := true }).setCampus cp { t.campusPort cp with unit := due + 1 }
    .ok (t.setCtx { t.ctx with
      fl := t.ctx.fl.map (fun f => if f.src = 5 ∧ f.age = x.cap.age then { f with segs := segs, due := due } else f) })

/-- The devices of the torus dimension of a port (R466). -/
def ringSize (port : BitVec 4) : Nat := [6, 8, 9].getD (port.toNat / 4) 9
/-- The position of a device in the dimension of a port. -/
def ringPos (port : BitVec 4) (dev : Nat) : Nat :=
  let (x, y, z) := torus dev
  [x, y, z].getD (port.toNat / 4) z

/-- The OP of a ring chunk (R447). -/
def opRING : Nat := 9

/-- The code of a ring operation, in the order of its opcodes. [DESIGN CHOICE, log 94] -/
def ringCode : RingOp → Nat
  | .rs => 0
  | .ag => 1
  | .ar => 2

/-- The pieces in which a chunk of m bytes travels. [DESIGN CHOICE, log 94] -/
def ringPieces (m : Nat) : Nat := ceilDiv m msgChunk
/-- The bytes of piece i. -/
def ringLen (m i : Nat) : Nat := Nat.min msgChunk (m - i * msgChunk)

/-- The steps of a ring of p devices, each of which brings a device one chunk (R466). -/
def ringSteps (op : RingOp) (p : Nat) : Nat := match op with | .ar => 2 * (p - 1) | _ => p - 1

/-- A step, from 1 on, in which partial sums travel. -/
def ringSums (op : RingOp) (p t : Nat) : Bool := match op with | .rs => true | .ag => false | .ar => decide (t < p)

/-- A port of a negative direction, to whose flits the position falls by one from device to device (R415). -/
def ringBack (port : BitVec 4) : Bool := 2 ≤ port.toNat % 4

/-- The position, among p, of the device to which a port sends. [DESIGN CHOICE, log 94] -/
def ringNextPos (port : BitVec 4) (p r : Nat) : Nat := if ringBack port then (r + p - 1) % p else (r + 1) % p

/-- The chunk that a step brings the device at position r where sums run in the order of the positions: of a sum, which started behind chunk
c's own device, the chunk r - 1 - t; of a result, which starts at its own device, the chunk as many places back as steps of results. -/
def ringChunk (op : RingOp) (p r t : Nat) : Nat :=
  if ringSums op p t then (r + 2 * p - 1 - t) % p else (r + 2 * p - (match op with | .ar => t - (p - 1) | _ => t)) % p

/-- The chunks that a step brings the device at position r, in their order. The order of R466's sum is that of the positions, against which a
port of a negative direction runs: there every device's bytes go as they are to the chunk's own device, which makes the sum, and a step
brings those of the device that many places on for every chunk that they have yet to pass. [DESIGN CHOICE, log 94] -/
def ringChunks (op : RingOp) (port : BitVec 4) (p r t : Nat) : List Nat :=
  if !ringBack port then [ringChunk op p r t]
  else if ringSums op p t then (List.range (p - t)).map (fun k => (r + p - k) % p)
  else [(r + (match op with | .ar => t - (p - 1) | _ => t)) % p]

/-- A step that brings a result (R466). -/
def ringFinal (op : RingOp) (p t : Nat) : Bool := match op with | .ag => true | _ => decide (p - 1 ≤ t)

/-- Piece i of chunk c of step t, sent to the next device from injection source 0x400 + port along the port (R447, R466). [DESIGN CHOICE, log 94] -/
def State.ringSend (s : State) (op : RingOp) (port : BitVec 4) (n t c i v : Nat) : State :=
  let m := n / ringSize port
  let dst := (wired s.dev.num.toNat port.toNat).1
  let g : Got :=
    { world := s.bind.world.toNat, op := opRING, slot := port.toNat, toGang := 0, toStrand := 0
      off := c * m + i * msgChunk, arg := t + 256 * ringCode op, len := ringLen m i, flags := 0
      dev := s.dev.num.toNat, gang := s.bind.gang.toNat, strand := s.bind.strand.toNat, txn := n, data := v }
  s.injectAt port.toNat (0x400 + port.toNat) (s.bind.gang.toNat * 65536 + s.bind.strand.toNat) (g.flits s.bind.world dst)

/-- The first step's chunks sent, from the buffer. -/
def State.ringFirst (s : State) (op : RingOp) (port : BitVec 4) (n data : Nat) : State :=
  let p := ringSize port
  let m := n / p
  (ringChunks op port p (ringNextPos port p (ringPos port s.dev.num.toNat)) 1).foldl (fun s c =>
    (List.range (ringPieces m)).foldl (fun s i =>
      s.ringSend op port n 1 c i (data / 2 ^ (8 * (c * m + i * msgChunk)) % 2 ^ (8 * ringLen m i))) s) s

/-- A port's sequencer is at work for a command (R466). [DESIGN CHOICE, log 94] -/
def State.ringBusy (s : State) (port : BitVec 4) : Bool :=
  s.ctxs.any (fun e => e.2.fab.cmds.any (fun x => x.started && (match x.cap.instr with | .xring _ q _ _ _ _ _ _ _ => q = port | _ => false)))

/-- Two records reach a byte in common. -/
def Handle.over (a b : Handle) : Bool :=
  a.level = b.level && a.world = b.world &&
    decide (a.base.toNat < b.base.toNat + b.len.toNat ∧ b.base.toNat < a.base.toNat + a.len.toNat)

/-- A participant still has a write to make to the buffers that its collective names, its own or those of another participant as far as they
are known here, of a command older than the collective (R265). [DEDUCED, log 46] -/
def State.owes (s : State) (x : Cap) : Bool :=
  let c := s.ctx
  let age := x.age
  let hs := x.h.filterMap (·.2)
  let hit (h : Option Handle) : Bool := match h with | some r => hs.any r.over | none => false
  let put (d : Cap) (t : Option TileReg) : Bool := match s.peerSpan d t with
    | some r => r.w && hs.any (fun h => meetAt r.h r.o r.n h 0 h.len.toNat)
    | none => false
  let cap (d : Cap) : Bool := match d.instr with
    | .gxchg g _ => hit (s.gridRec d.age g)
    | i => (destHandles i).any (fun n => hit (SMap.get none d.h n.toNat)) || put d (s.tileAt d)
  let bytes (w : BitVec 8) (l : List Seg) : Bool :=
    l.any (fun g => hs.any (fun h => h.world = w ∧ g.a < h.base.toNat + h.len.toNat ∧ h.base.toNat < g.a + g.n))
  Config.engines.any (fun e => ((c.engAt e).olderThan age).any (fun d => cap d.1))
    || c.fl.any (fun f => decide (f.age < age) && (!f.segs.isEmpty || bytes f.world f.wait))
    || c.rq.any (fun p => decide (p.age < age) && bytes p.world p.segs)
    || (c.pump.buf ++ c.pump.fly).any (fun p => decide (p.cap.age < age) && cap p.cap)
    || c.fab.cmds.any (fun y => decide (y.cap.age < age) && (match y.what with | .write _ | .atomic => put y.cap y.tile | _ => cap y.cap))
    || c.grids.any (fun g => match g.2 with | some r => r.phase ≠ 0 && decide (r.age < age) && hs.any r.hd.over | none => false)

/-- A command starts, where its counter, its pages and its older commands let it. [DEDUCED, log 96] -/
def State.startBody (s : State) (x : XCmd) : Res' State :=
  let c := x.cap
  let rec_ (h : BitVec 6) : Option Handle := SMap.get none c.h h.toNat
  match c.instr with
  | .xput o =>
    match rec_ o.hs with
    | none => .ok s
    | some h =>
      let n := (c.sc o.n).toNat
      match s.fabRead x h (c.sc o.os).toNat n with
      | .error e => .error e
      | .ok (t, data) =>
        let fmt := h.fmt
        let t := (t.setXcmd { x with started := true, wait := false }).sendChunks (c.sc o.pr).toNat o.hd fmt
          (c.sc o.od).toNat n data x.first false
        .ok (t.setCtx { t.ctx with fl := t.ctx.fl.filter (fun f => !(f.src = 5 && f.age = c.age)) })
  | .xget o =>
    match rec_ o.hd with
    | none => .ok s
    | some h =>
    let n := (c.sc o.n).toNat
    if h.level = 0 ∧ n ≠ 0 ∧ !s.inPartition h (c.sc o.od).toNat n then
      .error (.trap (s.refusedAt h (c.sc o.od).toNat) tPARTITION (offW (c.sc o.od).toNat))
    else
    let fmt := h.fmt
    let msgs := (List.range (chunks n)).map (fun i =>
      { s.mkMsg (c.sc o.pr).toNat o.hs .read ((c.sc o.os).toNat + i * msgChunk) fmt
          [(0, Nat.min msgChunk (n - i * msgChunk), 0)] (x.first + i) with len := i * msgChunk })
    let y := { x with started := true, msgs := msgs }
    .ok (if n = 0 then s.finish y 1 else msgs.foldl State.sendMsg (s.setXcmd y))
  | .xready _ _ =>
    match x.tile with
    | none => .ok s
    | some tl =>
      match s.fabRead x tl.hd tl.off 4096 with
      | .error e => .error e
      | .ok (t, data) =>
        let fmt := match tl.opr with
          | .copy => tl.hd.fmt
          | .addBf16 => .bf16
          | _ => .fp32
        .ok ((t.setXcmd { x with started := true }).sendMsg
          (t.mkMsg tl.pr.toNat tl.slot (.tile tl.opr) tl.off fmt [(0, 4096, data)] x.first))
  | .xport pr hf f rm _ =>
    match rec_ hf with
    | none => .ok s
    | some h =>
      match s.fabRead x h 0 h.len.toNat with
      | .error e => .error e
      | .ok (t, data) =>
        let w := fbytes h.fmt
        let n := h.len.toNat / w
        let out := packElems (fbytes f) n (fun i => convert h.fmt f rm false (data / 2 ^ (8 * w * i) % 2 ^ (8 * w)))
        .ok ((t.setXcmd { x with started := true }).sendChunks (c.sc pr).toNat hf f 0 (n * fbytes f) out x.first true)
  | .xring op port hf a b _ _ _ _ =>
    match rec_ hf with
    | none => .ok s
    | some h =>
      if s.ringBusy port ∨ s.owes x.cap then .ok s
      else
        match s.fabRead x h (c.sc a).toNat (c.sc b).toNat with
        | .error e => .error e
        | .ok (t, data) => .ok ((t.setXcmd { x with started := true, data := some data }).ringFirst op port (c.sc b).toNat data)
  | .xcoll op o =>
    match rec_ o.hs, x.what with
    | some h, .coll _ rank _ =>
      match s.fabRead x h 0 (if op = .bc ∧ rank ≠ 0 then 0 else (c.sc o.n).toNat) with
      | .error e => .error e
      | .ok (t, data) =>
        match rec_ o.hr with
        | some r =>
          let wr := (collSpans op (c.sc o.n).toNat (match x.what with | .coll p _ _ => p.length | _ => 1) rank).2
          if r.level = 0 ∧ wr ≠ 0 ∧ !s.inPartition r 0 wr then .error (.trap (t.refusedAt r 0) tPARTITION 0)
          else .ok (t.setXcmd { x with started := true, data := some data })
        | none => .ok t
    | _, _ => .ok s
  | .xsend hf cp a _ _ =>
    match rec_ hf with
    | none => .ok s
    | some h =>
      if s.olderComp c.age cp then .ok s
      else
        let st := c.sc a
        match s.fabRead x h (8192 * x.sent) (Nat.min 8192 (h.len.toNat - 8192 * x.sent)) with
        | .error e => .error e
        | .ok _ =>
          let (t, f) := s.sendFrames x h cp (BitVec.ofNat 16 (st.toNat / 2 ^ 32)) (st.toNat % 2 ^ 32) 16385 x.sent
          .ok (t.setXcmd { x with sent := f, wait := false, started := decide (h.len.toNat ≤ 8192 * f) })
  | .xcomp hsf hrf kp cp _ _ =>
    match rec_ hsf, rec_ hrf with
    | some hs, some hr =>
      if s.olderComp c.age cp then .ok s
      else
        match s.fabRead x hs 0 hs.len.toNat with
        | .error e => .error e
        | .ok (t, g) =>
          match t.fabRead x hr 0 hr.len.toNat with
          | .error e => .error e
          | .ok (t, _) =>
            let (tensor, tn, res) := compress (hs.len.toNat / 4) (kp.toNat + 1) g
            t.compWrites x cp hs.world hs hr [(hs, tn, tensor), (hr, hr.len.toNat, res)]
    | _, _ => .ok s
  | .xresid hsf hrf cp _ _ =>
    match rec_ hsf, rec_ hrf with
    | some hs, some hr =>
      if s.olderComp c.age cp then .ok s
      else
        match s.fabRead x hs 0 hs.len.toNat with
        | .error e => .error e
        | .ok (t, g) =>
          match t.fabRead x hr 0 hr.len.toNat with
          | .error e => .error e
          | .ok (t, r) =>
            let n := hs.len.toNat / 4
            let sum := packElems 4 n (fun i => addE .fp32 .rne false (g / 2 ^ (32 * i) % 2 ^ 32) (r / 2 ^ (32 * i) % 2 ^ 32))
            t.compWrites x cp hs.world hs hr [(hs, 4 * n, sum), (hr, 4 * n, 0)]
    | _, _ => .ok s
  | _ => .ok (s.setXcmd { x with started := true })

/-- One command of the moving context tries to start; a trap then is an A trap, and the command has no effect. [DEDUCED, log 25] -/
def State.tryStart (s : State) (x : XCmd) : State :=
  if x.started ∨ !s.awaited x.cap ∨ s.behind x then s
  else
    match s.startBody x with
    | .ok t => t
    | .error (.hold t) => t
    | .error (.trap t code ti) =>
      let t := t.endXcmd x.cap.age
      let t := match x.what with
        | .write w => t.onFab (fun f => { f with out := SMap.set 0 f.out w.toNat (f.outOf w - x.txns.length) })
        | _ => t
      t.raiseA s.cur .fabric code ti x.cap.line x.cap.lane

/-- Every command of the moving context that waits tries to start, oldest first. [DEDUCED, log 25] -/
def State.startWaiting (s : State) : State :=
  (s.ctx.fab.cmds.map (fun x => x.cap.age)).foldl (fun s age =>
    match s.xcmd age with
    | some x => s.tryStart x
    | none => s) s

/-- The issuing instruction, now a command in flight, tries to start at once. -/
def State.startIssued (s : State) : State :=
  match s.xcmd s.iss.age with
  | some x => s.tryStart x
  | none => s

/-! ## Checks at issue (R444) -/

/-- A fabric instruction. -/
def fabOp (body : Body) (s : State) : Ans := engineOp .fabric body s

/-- The record and its right: step 1 of R444. [DEDUCED, log 29] -/
def fabHandle (s : State) (ho : Option Handle) (rights : List Nat) (off : Word) : Res' Handle :=
  match ho with
  | none => .error (.trap s tNOHANDLE off)
  | some h => if rights.all h.has then .ok h else .error (.trap s tRIGHTS off)

/-- Bounds and alignment of n bytes at an offset: step 2 of R444. [DEDUCED, log 30] -/
def fabSpan (s : State) (h : Handle) (off : Int) (n align : Nat) : Res' Unit :=
  if off < 0 ∨ (h.len.toNat : Int) < off + n then .error (.trap s tBOUNDS (offW off))
  else if off % (align : Int) ≠ 0 then .error (.trap s tMISALIGN (offW off))
  else .ok ()

/-- The peer word: step 3 of R444. [DEDUCED, log 30] -/
def fabPeer (s : State) (pr : Word) : Res' Unit :=
  match s.peerFails pr with
  | some ti => .error (.trap s tPEER ti)
  | none => .ok ()

/-- The issuing command starts as it issues: nothing makes it wait. -/
def State.startsNow (s : State) : Bool :=
  s.awaited s.iss && !s.olderPut .fabric s.iss (s.tileAt s.iss)
    && (match s.iss.instr with
      | .xring _ port _ _ _ _ _ _ _ => !s.ringBusy port && !s.owes s.iss
      | .xsend _ cp _ _ _ | .xcomp _ _ _ cp _ _ | .xresid _ _ cp _ _ => !s.olderComp s.iss.age cp
      | _ => true)

/-- A cistern record's bytes lie in a partition of its world, checked where the command starts as it issues; one that waits is
checked when it starts (R236). -/
def fabPartition (s : State) (h : Handle) (o n : Nat) : Res' Unit :=
  if s.startsNow ∧ h.level = 0 ∧ n ≠ 0 ∧ !s.inPartition h o n then .error (.trap (s.refusedAt h o) tPARTITION (offW o))
  else .ok ()

/-- The offset of an FM operand. -/
def State.fmOff (s : State) (o : FMOp) : Int := (s.sc o.a).toInt + o.i.toInt * 64

/-- The checks of XST and XLD, and the runs of active lanes. [DEDUCED, log 28] -/
def fmCheck (s : State) (o : FMOp) (right : Nat) : Res' (Handle × List (Nat × Nat)) :=
  let off := s.fmOff o
  match fabHandle s (s.hrec o.h) [right] (offW off) with
  | .error e => .error e
  | .ok h =>
    let runs := s.ctx.vec.runs o.k
    if laneOut h off runs then .error (.trap s tBOUNDS (offW off))
    else if off % 64 ≠ 0 then .error (.trap s tMISALIGN (offW off))
    else
      match fabPeer s (s.sc o.pr) with
      | .error e => .error e
      | .ok () => .ok (h, runs)

/-! ## Posted writes (R451 to R453) -/

/-- XST (R451). -/
def execXst (f : Fmt) (o : FMOp) (s : State) : Ans :=
  fabOp (noPush (fun s =>
    match fmCheck s o rWR with
    | .error e => .error e
    | .ok (h, runs) =>
      let off := s.fmOff o
      let d := s.opnd .fabric o.x
      match (if f = .untyped then .ok (fun i => vget d.1 4 i) else s.readOp d 0 f .rne false) with
      | .error e => .error e
      | .ok rd =>
        if s.overAllow (window o.h) 1 ∨ s.olderPut .fabric s.iss none then .error (.hold s)
        else
          let segs := (storePieces rd none (if f = .untyped then .fp32 else f) .rne off runs).map (fun g =>
            (g.a - off.toNat, g.n, g.v))
          let t := s.addXcmd (.write (window o.h)) 1 0 [h.sync] none []
          match t.xcmd s.iss.age with
          | none => .ok t
          | some x => .ok (t.sendOne x (t.mkMsg (s.sc o.pr).toNat o.h .write off.toNat f segs x.first)))) s

/-- XALLOW (R452). -/
def execXallow (w : BitVec 4) (a : BitVec 5) (_ : BitVec 3) (s : State) : Ans :=
  fabOp (noPush (fun s =>
    let n := (s.sc a).toNat
    if n = 0 ∨ 65535 < n then .error (.trap s tBOUNDS (s.sc a))
    else .ok (s.onFab (fun f => { f with allow := SMap.set 256 f.allow w.toNat n })))) s

/-- XFENCE (R453). -/
def execXfence (w : BitVec 4) (e : BitVec 6) (_ : BitVec 3) (s : State) : Ans :=
  fabOp (noPush (fun s =>
    if 8 ≤ s.ctx.fab.fences.length then .error (.hold s)
    else
      let writes := s.ctx.fab.cmds.flatMap (fun x => if x.what = .write w ∧ x.cap.age < s.iss.age then x.txns else [])
      .ok (s.onFab (fun f => { f with fences := f.fences ++ [⟨w, e, writes, s.iss.age⟩] })))) s

/-! ## Reads, copies, atomics, counters (R455 to R458) -/

/-- What a response of XLD gives X: the active lanes by the sender's mask, others by R153 (R455). [DEDUCED, log 28] -/
def xldResult (f tag : Fmt) (o : FMOp) (data : Nat) (s : State) : Res' (State × List Push) :=
  let raw : VReg := BitVec.ofNat 65536 data
  if f = .untyped then .ok (s.putRaw o.x o.k tag (vget raw 4))
  else
    match s.keepTyped o.x o.k f .rne false with
    | .error e => .error e
    | .ok keep => .ok (s.putTyped o.x o.k f keep (vget raw (fbytes f)))

/-- The effect of XLD. -/
def xldBody (f : Fmt) (o : FMOp) (ei : BitVec 6) : Body := fun s =>
  let queue := (VR.queue o.x).isSome
  match s.xcmd s.iss.age with
  | some x =>
    if x.failed then .ok (s.endXcmd x.cap.age, [])
    else
      match (if x.txns.isEmpty then x.data else none) with
      | none => .error (.hold s)
      | some d =>
        match xldResult f x.tag o d s with
        | .error e => .error e
        | .ok (t, l) => .ok (t.setXcmd { x with sent := 1 }, l)
  | none =>
    match fmCheck s o rRD with
    | .error e => .error e
    | .ok (_, runs) =>
      let off := s.fmOff o
      match (if f = .untyped then .ok (fun _ => 0) else s.keepTyped o.x o.k f .rne false) with
      | .error e => .error e
      | .ok _ =>
        if s.olderPut .fabric s.iss none then .error (.hold s)
        else
          let t := s.addXcmd .load 1 ei [] none (s.ranges s.iss)
          match t.xcmd s.iss.age with
          | none => .ok (t, [])
          | some x =>
            let t := t.sendOne x (t.mkMsg (s.sc o.pr).toNat o.h .read off.toNat f (runs.map (fun r => (4 * r.1, 4 * r.2, 0))) x.first)
            if queue then .error (.hold t) else .ok (t, [])

/-- XLD (R455): into a queue register, the instruction stays at the head until its response has come, and its counter gains 1 once
its push is made. -/
def execXld (f : Fmt) (o : FMOp) (ei : BitVec 6) (s : State) : Ans :=
  match fabOp (xldBody f o ei) s with
  | .next t => .next t.placed
  | a => a

/-- The checks of XPUT and XGET (R456): the right of each record, the multiples of 64, and n. -/
def fbCheck (s : State) (o : FBOp) : Res' (Handle × Handle) :=
  let n := (s.sc o.n).toNat
  match fabHandle s (s.hrec o.hd) [rWR] (s.sc o.od) with
  | .error e => .error e
  | .ok hd =>
    match fabHandle s (s.hrec o.hs) [rRD] (s.sc o.os) with
    | .error e => .error e
    | .ok hs =>
      if 2 ^ 32 ≤ n then .error (.trap s tBOUNDS (s.sc o.n))
      else if n % 64 ≠ 0 then .error (.trap s tMISALIGN (s.sc o.n))
      else
        match fabSpan s hd (s.sc o.od).toInt n 64 with
        | .error e => .error e
        | .ok () =>
          match fabSpan s hs (s.sc o.os).toInt n 64 with
          | .error e => .error e
          | .ok () =>
            match fabPeer s (s.sc o.pr) with
            | .error e => .error e
            | .ok () => .ok (hd, hs)

/-- XPUT (R456). -/
def execXput (o : FBOp) (s : State) : Ans :=
  fabOp (noPush (fun s =>
    match fbCheck s o with
    | .error e => .error e
    | .ok (hd, hs) =>
      let n := (s.sc o.n).toNat
      let m := Nat.max 1 (chunks n)
      match fabPartition s hs (s.sc o.os).toNat n with
      | .error e => .error e
      | .ok () =>
        if s.overAllow (window o.hd) m then .error (.hold s)
        else
          .ok (s.addXcmd (.write (window o.hd)) m o.ei [hd.sync] none (s.spanOf s.iss o.hs (s.sc o.os).toInt n false)).startIssued)) s

/-- XGET (R456). -/
def execXget (o : FBOp) (s : State) : Ans :=
  fabOp (noPush (fun s =>
    match fbCheck s o with
    | .error e => .error e
    | .ok (hd, _) =>
      let n := (s.sc o.n).toNat
      match fabPartition s hd (s.sc o.od).toNat n with
      | .error e => .error e
      | .ok () =>
        .ok (s.addXcmd .get (chunks n) o.ei [hd.sync] none (s.spanOf s.iss o.hd (s.sc o.od).toInt n true)).startIssued)) s

/-- The effect of a remote atomic (R457). [DEDUCED, log 34] -/
def remoteAtomic (o : FAOp) (dw cas : Bool) (op : AOp) (c : Word) (s : State) : Res' State :=
  let off := (s.sc o.a).toInt
  let n := if dw then 8 else 4
  match fabHandle s (s.hrec o.h) [rAT] (offW off) with
  | .error e => .error e
  | .ok h =>
    match fabSpan s h off n n with
    | .error e => .error e
    | .ok () =>
      match fabPeer s (s.sc o.pr) with
      | .error e => .error e
      | .ok () =>
        if (o.ord.releases ∧ !s.releaseReady s.iss.age h.sync) ∨ s.olderPut .fabric s.iss none then .error (.hold s)
        else
          let t := s.addXcmd .atomic 1 o.ei [h.sync] none []
          match t.xcmd s.iss.age with
          | none => .ok t
          | some x => .ok ((t.setXcmd { x with started := true }).sendMsg
              { t.mkMsg (s.sc o.pr).toNat o.h (.atomic cas dw op (s.sc o.b) c) off.toNat .untyped [(0, n, 0)] x.first with
                flags := flagsOf o.ord.releases o.sc })

/-- XAMO (R457). -/
def execXamo (dw : Bool) (op : AOp) (o : FAOp) (s : State) : Ans :=
  fabOp (noPush (remoteAtomic o dw false op 0)) s

/-- XACAS (R457). -/
def execXacas (dw : Bool) (c : BitVec 5) (o : FAOp) (s : State) : Ans :=
  fabOp (noPush (fun s => remoteAtomic o dw true .add (s.sc c) s)) s

/-- XEVINC (R458). -/
def execXevinc (e : BitVec 6) (pr : BitVec 5) (sc : Scope) (rel : Bool) (_ : BitVec 3) (s : State) : Ans :=
  fabOp (noPush (fun s =>
    match fabPeer s (s.sc pr) with
    | .error x => .error x
    | .ok () =>
      if rel ∧ !s.releaseReady s.iss.age (some e) then .error (.hold s)
      else
        let t := s.addXcmd .incr 1 0 [] none []
        match t.xcmd s.iss.age with
        | none => .ok t
        | some x => .ok ((t.setXcmd { x with started := true }).sendMsg
            { t.mkMsg (s.sc pr).toNat 0 .incr 0 .untyped [] x.first with ctr := e, flags := flagsOf rel sc }))) s

/-! ## Triggers (R459, R460) -/

/-- XTRIG (R460). -/
def execXtrig (ew : BitVec 6) (th : BitVec 5) (slot : BitVec 6) (_ : BitVec 3) (s : State) : Ans :=
  fabOp (noPush (fun s =>
    if 16 ≤ (s.ctx.fab.trigs.filter (fun t => t.fired.isNone)).length then .error (.hold s)
    else
      let t : Trig := ⟨ew, (s.sc th).setWidth 32, slot, s.iss.line, s.iss.lane, none, [], 0⟩
      .ok (s.onFab (fun f => { f with trigs := f.trigs ++ [t] })))) s

/-- An engine instruction with its scalar fields, in the order of R378, numbered from s1 on. -/
def renumber : Instr → Instr
  | .vgather w o => .vgather w { o with a := 1 }
  | .vscatter w o => .vscatter w { o with a := 1 }
  | .vld f o => .vld f { o with a := 1 }
  | .vst f o => .vst f { o with a := 1 }
  | .mldw f o => .mldw f { o with s := 1 }
  | .mldg o => .mldg { o with s := 1 }
  | .mpre o => .mpre { o with s := 1 }
  | .mmul f a o => .mmul f a { o with s := 1 }
  | .mldacc a o => .mldacc a { o with s := 1 }
  | .mdrainc f a o => .mdrainc f a { o with s := 1 }
  | .mdrainp a o => .mdrainp a { o with s := 1 }
  | .mdrains f a _ o => .mdrains f a 2 { o with s := 1 }
  | .gdepth g b _ dp => .gdepth g b 1 dp
  | .gface g f k _ dp => .gface g f k 1 dp
  | .gwait g _ e dp => .gwait g 1 e dp
  | .gld f o => .gld f { o with a := 1, st := 2 }
  | .gst f o => .gst f { o with a := 1, st := 2 }
  | .sigzero _ dp => .sigzero 1 dp
  | .sigseg _ _ dp => .sigseg 1 2 dp
  | .sigincb f h _ _ dp => .sigincb f h 1 2 dp
  | .sigjoin l h _ dp => .sigjoin l h 1 dp
  | .sigld h _ dp => .sigld h 1 dp
  | .sigst f h _ dp => .sigst f h 1 dp
  | .pcopy be o => .pcopy be { o with od := 1, os := 2, t := 3, n := 4, th := 5 }
  | .pcopy2d be r o => .pcopy2d be r { o with od := 1, os := 2, t := 3, n := 4, th := 5 }
  | .pcopyd be o => .pcopyd be { o with od := 1, os := 2, t := 3, n := 4, th := 5 }
  | .pcopyhIn o => .pcopyhIn { o with od := 1, os := 2, t := 3, n := 4, th := 5 }
  | .pcopyhOut o => .pcopyhOut { o with od := 1, os := 2, t := 3, n := 4, th := 5 }
  | .pover o => .pover { o with od := 1, os := 2, t := 3, n := 4, th := 5 }
  | .pcmd o => .pcmd { o with od := 1, os := 2, t := 3, n := 4, th := 5 }
  | .pfill o => .pfill { o with od := 1, os := 2, t := 3, n := 4, th := 5 }
  | .ptagset o => .ptagset { o with od := 1, os := 2, t := 3, n := 4, th := 5 }
  | .ptagchk o => .ptagchk { o with od := 1, os := 2, t := 3, n := 4, th := 5 }
  | .pprefetch o => .pprefetch { o with od := 1, os := 2, t := 3, n := 4, th := 5 }
  | .pevent e _ _ dp => .pevent e 1 2 dp
  | .xst f o => .xst f { o with a := 1, pr := 2 }
  | .xld f o ei => .xld f { o with a := 1, pr := 2 } ei
  | .xamo dw op o => .xamo dw op { o with a := 1, pr := 2, b := 3 }
  | .xacas dw _ o => .xacas dw 4 { o with a := 1, pr := 2, b := 3 }
  | .xevinc e _ sc rel dp => .xevinc e 1 sc rel dp
  | .xtrig ew _ slot dp => .xtrig ew 1 slot dp
  | .xtile _ h _ opr _ dp => .xtile 1 h 2 opr 3 dp
  | .xready _ dp => .xready 1 dp
  | .xring op r h _ _ ei ew _ dp => .xring op r h 1 2 ei ew 3 dp
  | .xsched p h _ dp => .xsched p h 1 dp
  | .xport _ h f rm dp => .xport 1 h f rm dp
  | .xallow w _ dp => .xallow w 1 dp
  | .xcoll op o => .xcoll op { o with n := 1, th := 2 }
  | .xsend h cp _ ei dp => .xsend h cp 1 ei dp
  | .xrecv h cp _ ei dp => .xrecv h cp 1 ei dp
  | .xput o => .xput { o with pr := 1, n := 2, od := 3, os := 4, th := 5 }
  | .xget o => .xget { o with pr := 1, n := 2, od := 3, os := 4, th := 5 }
  | i => i

/-- What record i of trigger entry `slot` of a context holds: the end, a bad record, or an instruction with its lanes
and its captured values. -/
inductive TrigRec where
  | stop
  | bad
  | push (e : Engine) (c : Cap)

/-- A record read (R459). -/
def State.trigRec (s : State) (t : Trig) : TrigRec :=
  let a := Config.cmdBase + s.cur * 2 ^ 16 + 896 * t.slot.toNat + 64 * t.next
  let lanes := lanesOfNat (s.mem.read a 16)
  if 14 ≤ t.next ∨ lanes.head? = some 0xE0000000#32 then .stop
  else
    match decodeLanes lanes with
    | .ok i n =>
      match engineOf i with
      | some e =>
        if (e = .pump ∨ e = .fabric) ∧ (uses i).dp = 0 then
          let j := renumber i
          let vals := (List.range 6).foldl (fun m k => SMap.set 0 m (k + 1) (word (s.mem.read (a + 16 + 8 * k) 8))) []
          let u := uses j
          .push e
            { instr := j, lanes := lanes.take n, line := t.line, lane := t.lane
              age := t.fired.getD 0 + t.next
              s := u.s.foldl (fun m r => SMap.set 0 m r.toNat (SMap.get 0 vals r.toNat)) []
              h := u.h.foldl (fun m r => SMap.set none m r.toNat (SMap.get none t.h r.toNat)) [] }
        else .bad
      | none => .bad
    | _ => .bad

/-- The records of the trigger that fires are pushed while there is room (R460). [DEDUCED, log 32] -/
def State.fire (i : Nat) : Nat → State → State
  | 0, s => s
  | fuel + 1, s =>
    match s.ctx.fab.trigs[i]? with
    | none => s
    | some t =>
      let gone (s : State) : State := s.onFab (fun f => { f with trigs := f.trigs.eraseIdx i })
      match s.trigRec t with
      | .stop => gone s
      | .bad => (gone s).onFab (fun f => { f with badrec := true })
      | .push e c =>
        if s.ctx.room e then
          let s := s.setCtx (s.ctx.push e (.instr c true))
          State.fire i fuel (s.onFab (fun f => { f with trigs := f.trigs.set i { t with next := t.next + 1 } }))
        else s

/-- The trigger that fires next: one already firing, or the first armed one whose counter meets its threshold. One armed with EW = 0 names
no counter (R46) and never fires. [DEDUCED, log 32; DEDUCED, log 98] -/
def State.nextTrig (s : State) : Option Nat :=
  let l := s.ctx.fab.trigs
  (l.findIdx? (fun t => t.fired.isSome)).or (l.findIdx? (fun t => t.ctr ≠ 0 ∧ meets (s.ctx.ctl.getE t.ctr) t.th))

/-- TRIGGER_FIRE (R460). -/
def execTriggerFire (s : State) : Ans :=
  .next (if s.ctx.phase ≠ .running then s
    else
      match s.nextTrig with
      | none => s
      | some i =>
        match s.ctx.fab.trigs[i]? with
        | none => s
        | some t =>
          if t.fired.isSome then State.fire i 15 s
          else
            let (u, age) := s.newAge
            let t := { t with fired := some age, h := u.ctx.ctl.h.map (fun e => (e.1, u.live e.2)) }
            State.fire i 15 (u.onFab (fun f => { f with trigs := f.trigs.set i t })))

/-! ## Tiles, the streaming port (R461 to R464) -/

/-- XTILE (R461). -/
def execXtile (ti : BitVec 5) (hf : BitVec 6) (pr : BitVec 5) (opr : Opr) (a : BitVec 5) (_ : BitVec 3) (s : State) :
    Ans :=
  fabOp (noPush (fun s =>
    let off := (s.sc a).toInt
    match fabHandle s (s.hrec hf) [rRD] (s.sc a) with
    | .error e => .error e
    | .ok h =>
      if 256 ≤ (s.sc ti).toNat then .error (.trap s tBOUNDS (s.sc ti))
      else
        match fabSpan s h off 4096 4096 with
        | .error e => .error e
        | .ok () =>
          match fabPeer s (s.sc pr) with
          | .error e => .error e
          | .ok () => .ok (s.onFab (fun f => { f with
              tiles := SMap.set none f.tiles (s.sc ti).toNat (some ⟨s.sc pr, hf, h, off.toNat, opr⟩) })))) s

/-- XREADY (R462). -/
def execXready (ti : BitVec 5) (_ : BitVec 3) (s : State) : Ans :=
  fabOp (noPush (fun s =>
    match SMap.get none s.ctx.fab.tiles (s.sc ti).toNat with
    | none => .error (.trap s tPEER (peerInfo 3 (s.sc ti).toNat))
    | some t =>
      if (s.live (some t.hd)).isNone then .error (.trap s tNOHANDLE (offW t.off))
      else
        match fabPartition s t.hd t.off 4096 with
        | .error e => .error e
        | .ok () =>
          if s.overAllow (window t.slot) 1 then .error (.hold s)
          else .ok (s.addXcmd (.write (window t.slot)) 1 0 [t.hd.sync] (some t) (s.memRanges s.iss)).startIssued)) s

/-- The formats that XPORT converts from and to (R464). -/
def portFmt (src dst : Fmt) : Bool :=
  (src = .fp32 || src = .bf16 || src = .fp16) &&
  (dst = .fp32 || dst = .fp16 || dst = .bf16 || dst = .fp8e4 || dst = .fp8e5)

/-- XPORT (R464). -/
def execXport (pr : BitVec 5) (hf : BitVec 6) (f : Fmt) (_ : RMode) (_ : BitVec 3) (s : State) : Ans :=
  fabOp (noPush (fun s =>
    match fabHandle s (s.hrec hf) [rRD, rWR] 0 with
    | .error e => .error e
    | .ok h =>
      match fabPeer s (s.sc pr) with
      | .error e => .error e
      | .ok () =>
        if !portFmt h.fmt f then .error (.trap s tTAG (tagInfo 4 h.fmt .untyped))
        else
          match fabPartition s h 0 h.len.toNat with
          | .error e => .error e
          | .ok () =>
            let m := Nat.max 1 (chunks (h.len.toNat / fbytes h.fmt * fbytes f))
            if s.overAllow (window hf) m then .error (.hold s)
            else .ok (s.addXcmd (.write (window hf)) m 0 [h.sync] none (s.memRanges s.iss)).startIssued)) s

/-- Step 4 to 6 of R189 for MDRAINS: bounds and alignment of the rows, and for PL the record's tag (R203). -/
def drainSpan (s : State) (h : Handle) (off : Int) (span : Nat) (f : Fmt) : Res' Unit :=
  match fabSpan s h off span 64 with
  | .error e => .error e
  | .ok () => if f = .pl ∧ h.fmt ≠ .pl ∧ h.fmt ≠ .untyped then .error (.trap s tTAG (tagInfo 4 h.fmt f)) else .ok ()

/-- MDRAINS (R203, R463). -/
def execMdrains (f : Fmt) (a : BitVec 4) (pr : BitVec 5) (o : MDOp) (s : State) : Ans :=
  matOp (noPush (fun s =>
    let m := s.ctx.mat
    let mode := o.rm.getD m.mode
    let off := s.mdOff o
    let n := drainRows o.rows
    match fabHandle s (s.hrec o.h) [rWR] (offW off) with
    | .error e => .error e
    | .ok h =>
      let p := h.pc.toNat + 1
      let size := if f = .pl then 64 + 16 * p else m.tn * fbytes f
      let pitch := h.pitch size
      match drainSpan s h off ((n - 1) * pitch + size) f with
      | .error e => .error e
      | .ok () =>
        match fabPeer s (s.sc pr) with
        | .error e => .error e
        | .ok () =>
          if s.overAllow (window o.h) n ∨ s.olderPut .matrix s.iss none then .error (.hold s)
          else
            let v := s.ctx.vec
            let row (q : Nat) : Nat :=
              if f = .pl then
                let gs := [0, 1].map (fun g => plGroup mode ((List.range 64).map (fun i =>
                  decodeF .fp32 (drained v m a.toNat .fp32 mode false q (64 * g + i)))))
                let qs := packList 1 (gs.flatMap (fun g => g.2.map (plKeep p)))
                plTensor 128 (fun i => qs / 2 ^ (8 * i) % 256) (fun g => (gs.map (·.1)).getD g 0) p
              else packElems (fbytes f) m.tn (drained v m a.toNat f mode o.sat q)
            let t := s.addXcmd (.write (window o.h)) n 0 [h.sync] none []
            match t.xcmd s.iss.age with
            | none => .ok t
            | some x =>
              let t := (List.range n).foldl
                (fun t q => t.sendMsg (t.mkMsg (s.sc pr).toNat o.h .write (off.toNat + q * pitch) f [(0, size, row q)]
                  (x.first + q))) (t.setXcmd { x with started := true })
              .ok (t.onMat (fun m => m.drainedPast a.toNat n)))) s

/-! ## Schedules and collectives (R465 to R468) -/

/-- XSCHED (R465). -/
def execXsched (port : BitVec 4) (hf : BitVec 6) (t : BitVec 5) (_ : BitVec 3) (s : State) : Ans :=
  fabOp (noPush (fun s =>
    match fabHandle s (s.hrec hf) [rRD] 0 with
    | .error e => .error e
    | .ok h =>
      let n := h.len.toNat
      if n % 8 ≠ 0 ∨ 32768 < n then .error (.trap s tBOUNDS 0)
      else if s.readWaits h 0 n then .error (.hold s)
      else
        match s.load 5 h 0 n 0 with
        | .error e => .error e
        | .ok (u, data) =>
          let l : Load := ⟨s.bind.world, loadEnts (n / 8) data, s.sc t⟩
          let x := u.port port.toNat
          match loadRefused x (fun p => p < 12 && (u.port p).st = 4) l with
          | some (i, c) => .error (.trap u tPEER (peerInfo 4 (c * 4096 + i)))
          | none => .ok (u.setPort port.toNat (x.load l)))) s

/-- XRING (R466). -/
def execXring (_ : RingOp) (port : BitVec 4) (hf : BitVec 6) (a b : BitVec 5) (ei _ : BitVec 6) (_ : BitVec 5)
    (_ : BitVec 3) (s : State) : Ans :=
  fabOp (noPush (fun s =>
    let n := (s.sc b).toNat
    match fabHandle s (s.hrec hf) [rRD, rWR] (s.sc a) with
    | .error e => .error e
    | .ok h =>
      match fabSpan s h (s.sc a).toInt n 1 with
      | .error e => .error e
      | .ok () =>
        if n % (64 * ringSize port) ≠ 0 then .error (.trap s tMISALIGN (s.sc b))
        else
          match fabPartition s h (s.sc a).toNat n with
          | .error e => .error e
          | .ok () => .ok (s.addXcmd .ring 0 ei [h.sync] none (s.memRanges s.iss)).startIssued)) s

/-- A value that no rule states, drawn anew. -/
def State.draw (s : State) : State × Word :=
  ({ s with dev := { s.dev with draws := s.dev.draws + 1 } }, Config.freeWord s.dev.draws)

/-- PEER with REASON 5 or 6, where no peer word stands: INFO is a free value. -/
def peerFree (s : State) (reason : Nat) : Stop :=
  let (t, w) := s.draw
  .trap t tPEER (peerInfo reason w.toNat)

/-- The peers of a group by rank, the entry being valid (R467). [DEDUCED, log 31] -/
def groupPeers (s : State) (g : BitVec 8) : Res' (State × GroupEnt × List Nat) :=
  match s.groupEnt g with
  | none => .error (peerFree s 5)
  | some e =>
    match s.slot e.list with
    | none => .error (peerFree s 5)
    | some h =>
      if !h.has rRD ∨ h.len.toNat < 8 * e.count then .error (peerFree s 5)
      else if s.readWaits h 0 (8 * e.count) then .error (.hold s)
      else
        match s.load 5 h 0 (8 * e.count) 0 with
        | .error x => .error x
        | .ok (t, v) =>
          let l := (List.range e.count).map (fun i => v / 2 ^ (64 * i) % 2 ^ 64)
          if l.getD e.rank 0 ≠ s.peerWord s.cur then .error (.trap t tPEER (peerInfo 5 (l.getD e.rank 0)))
          else .ok (t, e, l)

/-- The pairs of operator and format that reduce. -/
def collFmt (op : CollOp) (opr : Opr) (f : Fmt) : Bool :=
  match op with
  | .ar | .rs =>
    (match opr with
      | .addF32 => f = .fp32
      | .addBf16 => f = .bf16
      | .maxF32 => f = .fp32
      | .copy => false)
  | _ => true

/-- XCOLL (R467, R468). A pair of operator and format that does not reduce raises TAG with the tag of HS as FOUND and fmt as EXPECT. [DESIGN CHOICE, log 100] -/
def execXcoll (op : CollOp) (o : FKOp) (s : State) : Ans :=
  fabOp (noPush (fun s =>
    let n := (s.sc o.n).toNat
    match fabHandle s (s.hrec o.hs) [rRD] 0 with
    | .error e => .error e
    | .ok hs =>
      match fabHandle s (s.hrec o.hr) [rWR] 0 with
      | .error e => .error e
      | .ok hr =>
        if !collFmt op o.opr o.fmt then .error (.trap s tTAG (tagInfo 4 hs.fmt o.fmt))
        else
          match groupPeers s o.grp with
          | .error e => .error e
          | .ok (t, g, peers) =>
            let (rd, wr) := collSpans op n g.count g.rank
            if hs.len.toNat < rd ∨ hr.len.toNat < wr then .error (.trap t tBOUNDS 0)
            else if n % (if op = .rs ∨ op = .a2a then 64 * g.count else 64) ≠ 0 then .error (.trap t tMISALIGN (s.sc o.n))
            else
              match fabPartition t hs 0 rd with
              | .error e => .error e
              | .ok () =>
                match fabPartition t hr 0 wr with
                | .error e => .error e
                | .ok () =>
                  let k := SMap.get 0 t.ctx.fab.colls o.grp.toNat
                  let t := t.onFab (fun f => { f with colls := SMap.set 0 f.colls o.grp.toNat (k + 1) })
                  .ok (t.addXcmd (.coll peers g.rank k) 0 o.ei [hr.sync] none (s.memRanges s.iss)).startIssued)) s

/-! ## Campus transfers (R469 to R471) -/

/-- XSEND (R469). -/
def execXsend (hf : BitVec 6) (cp : BitVec 2) (a : BitVec 5) (ei : BitVec 6) (_ : BitVec 3) (s : State) : Ans :=
  fabOp (noPush (fun s =>
    match fabHandle s (s.hrec hf) [rRD] 0 with
    | .error e => .error e
    | .ok h =>
      if h.len.toNat % 64 ≠ 0 ∨ h.len = 0 then .error (.trap s tMISALIGN 0)
      else if (s.campusPort cp).st ≠ 4 then .error (peerFree s 6)
      else
        match fabPartition s h 0 h.len.toNat with
        | .error e => .error e
        | .ok () =>
          .ok (s.addXcmd (.send cp (BitVec.ofNat 16 ((s.sc a).toNat / 2 ^ 32))) 0 ei [] none (s.memRanges s.iss)).startIssued)) s

/-- XRECV (R470). -/
def execXrecv (hf : BitVec 6) (cp : BitVec 2) (a : BitVec 5) (ei : BitVec 6) (_ : BitVec 3) (s : State) : Ans :=
  fabOp (noPush (fun s =>
    match fabHandle s (s.hrec hf) [rWR] 0 with
    | .error e => .error e
    | .ok h =>
      let c := s.campusPort cp
      if 256 ≤ c.posts.length then .error (.hold s)
      else
        match fabPartition s h 0 h.len.toNat with
        | .error e => .error e
        | .ok () =>
          let p : Post := ⟨s.cur, s.iss.age, s.bind.world, (s.sc a).setWidth 32, h, none, 0, none⟩
          .ok ((s.setCampus cp { c with posts := c.posts ++ [p] }).addXcmd .recv 0 ei [h.sync] none
            (s.memRanges s.iss)).startIssued)) s

/-- TINFO of LEVEL for a region in host memory (R189, R471). -/
def hostLevel (h : Handle) : Bool := 2 ≤ h.level.toNat

/-- The checks of XCOMP and XRESID (R471), and the command. [DEDUCED, log 31] -/
def compOp (hsf hrf : BitVec 6) (cp : BitVec 2) (ei : BitVec 6) (s : State) : Res' State :=
  match fabHandle s (s.hrec hsf) [rRD, rWR] 0 with
  | .error e => .error e
  | .ok hs =>
    match fabHandle s (s.hrec hrf) [rRD, rWR] 0 with
    | .error e => .error e
    | .ok hr =>
      if hs.len ≠ hr.len ∨ hs.len.toNat % 256 ≠ 0 then .error (.trap s tMISALIGN 0)
      else if hostLevel hs then .error (.trap s tLEVEL (levelInfo 1 0))
      else if hostLevel hr then .error (.trap s tLEVEL (levelInfo 1 1))
      else
        match fabPartition s hs 0 hs.len.toNat with
        | .error e => .error e
        | .ok () =>
          match fabPartition s hr 0 hr.len.toNat with
          | .error e => .error e
          | .ok () =>
            let t := s.addXcmd (.comp cp) 0 ei [hs.sync, hr.sync] none []
            .ok (t.setCtx { t.ctx with
              fl := t.ctx.fl ++ [⟨5, s.iss.age, none, s.bind.world, s.memRanges s.iss, 0, 0, 0, [], [], false, s.iss.line, s.iss.lane⟩] }).startIssued

/-- XCOMP (R471). -/
def execXcomp (hsf hrf : BitVec 6) (_ : BitVec 3) (cp : BitVec 2) (ei : BitVec 6) (_ : BitVec 3) (s : State) : Ans :=
  fabOp (noPush (compOp hsf hrf cp ei)) s

/-- XRESID (R471). -/
def execXresid (hsf hrf : BitVec 6) (cp : BitVec 2) (ei : BitVec 6) (_ : BitVec 3) (s : State) : Ans :=
  fabOp (noPush (compOp hsf hrf cp ei)) s

end Sys2Proof.Machine
end

