-- ==== Sys2Proof/Machine/Answers.lean ====
section
/-! DEFINITION. The events of remote traffic: messages reaching their peers, answers reaching their senders, fences,
and the ends of collectives (R446, R453, R455 to R458, R462, R466, R468). -/

namespace Sys2Proof.Machine

/-- An effect on behalf of another context than the moving one. -/
def State.within (s : State) (k : Nat) (f : State → State) : State :=
  { f { s with cur := k } with cur := s.cur }

/-- REMOTE_WRITE_ARRIVAL (R446): every message but a tile. -/
def execRemoteWriteArrival (m : Msg) (s : State) : Ans :=
  .next (match m.op with
    | .tile _ => s
    | _ => if s.msgReady m then s.msgArrives m else s)

/-- TILE_APPLY (R462). -/
def execTileApply (m : Msg) (s : State) : Ans :=
  .next (match m.op with
    | .tile _ => if s.msgReady m then s.msgArrives m else s
    | _ => s)

/-- A transfer that has reached this device is an answer. -/
def ackIs (a : Ack) (x : Got) : Bool :=
  x = ackGot a x.world x.gang x.strand (if x.op = 5 then some x.len else none)

/-- An answer has come: one of this device is due, one of another device has arrived whole. -/
def State.ackReady (s : State) (a : Ack) : Bool :=
  if s.acks.contains a then decide (a.due ≤ s.dcc.toNat)
  else decide (a.dst = s.dev.num ∧ a.dev ≠ s.dev.num) && s.rx.any (ackIs a)

/-- The answer taken. -/
def State.ackGone (s : State) (a : Ack) : State :=
  { s with acks := s.acks.erase a, rx := s.rx.filter (fun x => !ackIs a x) }

/-- A posted write is answered: its window and the fences that wait for it (R452, R453). -/
def Fab.answered (f : Fab) (w : BitVec 4) (txn : Nat) : Fab :=
  { f with
    out := SMap.set 0 f.out w.toNat (f.outOf w - 1)
    fences := f.fences.map (fun x => { x with writes := x.writes.filter (· ≠ txn) }) }

/-- The command with one answer of a transaction less to come, failed where that one was refused; REMOTE is raised then. -/
def State.settleTxn (s : State) (x : XCmd) (a : Ack) : State × XCmd :=
  let y := { x with txns := x.txns.erase a.txn, failed := x.failed || !a.ok }
  let t := s.setXcmd y
  (if a.ok then t else t.remoteTrap x a.reason.toNat a.dev.toNat a.off.toNat, y)

/-- The end of a command whose transactions are all answered. -/
def State.endIfDone (s : State) (y : XCmd) (amt : BitVec 32) : State :=
  if y.txns.isEmpty ∧ y.started then s.finish y amt else s

/-- The answer of a posted write, an atomic or an increment (R446, R452, R457, R458). -/
def State.answerWrite (s : State) (x : XCmd) (a : Ack) : State :=
  let (t, y) := s.settleTxn x a
  match x.what with
  | .write w => (if y.txns.contains a.txn then t else t.onFab (fun f => f.answered w a.txn)).endIfDone y 1
  | .atomic =>
    let cas : Bool := match x.cap.instr with | .xacas _ _ _ => true | _ => false
    t.endIfDone y (if cas ∧ a.wrote then 0x10000 else 1)
  | _ => t.endIfDone y 1

/-- REMOTE_ACK (R446). -/
def execRemoteAck (a : Ack) (s : State) : Ans :=
  .next (
    if !s.ackReady a then s
    else
      let gone := s.ackGone a
      match s.keyOf a.gang.toNat a.strand.toNat with
      | none => gone
      | some k =>
        match (s.ctxAt k).fab.cmds.find? (fun x => x.txns.contains a.txn) with
        | none => gone
        | some x =>
          match x.what with
          | .load | .get => s
          | _ => gone.within k (fun s => s.answerWrite x a))

/-- What a response of XLD brings, with what came before it, each at its place in X. [DEDUCED, log 34] -/
def XCmd.gathered (x : XCmd) (a : Ack) : Nat :=
  let base := match x.msgs.head? with | some m => m.off.toNat | none => a.off.toNat
  x.data.getD 0 + (if a.ok then a.data * 2 ^ (8 * (a.off.toNat - base)) else 0)

/-- The response of XLD (R455): once every part of it has come, X is written, or the data is kept for the push of the instruction at the
head. -/
def State.loaded (s : State) (x : XCmd) (a : Ack) : State :=
  match x.cap.instr with
  | .xld f o _ =>
    let (t, y) := s.settleTxn x a
    let d := x.gathered a
    if !y.txns.isEmpty then t.setXcmd { y with data := some d, tag := a.fmt }
    else if (VR.queue o.x).isSome then t.setXcmd { y with data := some d, tag := a.fmt }
    else if y.failed then t.endXcmd x.cap.age
    else
      match xldResult f a.fmt o d t with
      | .ok (u, _) => u.finish y 1
      | .error (.trap u code ti) => (u.endXcmd x.cap.age).raiseA s.cur .fabric code ti x.cap.line x.cap.lane
      | .error (.hold u) => u
  | _ => s

/-- The response to one message of XGET (R456): its bytes are written; where their page faults, the response waits
for an invalidation. -/
def State.gotten (s : State) (x : XCmd) (a : Ack) : Option State :=
  match x.cap.instr with
  | .xget o =>
    let (t, y) := s.settleTxn x a
    if !a.ok then some (t.endIfDone y 1)
    else
      match SMap.get none x.cap.h o.hd.toNat with
      | none => some (t.endIfDone y 1)
      | some h =>
        let i := a.txn - x.first
        let n := Nat.min msgChunk ((x.cap.sc o.n).toNat - i * msgChunk)
        let off := (x.cap.sc o.od).toNat + i * msgChunk
        if x.wait ∧ !x.inv then none
        else
          match t.resolve h off n true with
          | .ok u runs => some ((u.storeSegs (cutRuns runs a.data)).endIfDone y 1)
          | .denied u => some ((u.endXcmd x.cap.age).raiseA s.cur .fabric tPARTITION (offW off) x.cap.line x.cap.lane)
          | _ => none
  | _ => none

/-- The fault of a response that must wait, recorded in its command. -/
def State.getFault (s : State) (x : XCmd) (a : Ack) : State :=
  match x.cap.instr with
  | .xget o =>
    if x.wait ∧ !x.inv then s
    else
      match SMap.get none x.cap.h o.hd.toNat with
      | none => s
      | some h =>
        let i := a.txn - x.first
        match s.resolve h ((x.cap.sc o.od).toNat + i * msgChunk) (Nat.min msgChunk ((x.cap.sc o.n).toNat - i * msgChunk)) true with
        | .page u va | .blocked u va => u.waitPage x h.world va
        | _ => s
  | _ => s

/-- XLD_RESPONSE (R455, R456); data that comes while the context is out is lost, and read again at the resumption (R373). -/
def execXldResponse (a : Ack) (s : State) : Ans :=
  .next (
    if !s.ackReady a then s
    else
      let gone := s.ackGone a
      match s.keyOf a.gang.toNat a.strand.toNat with
      | none => gone
      | some k =>
        match (s.ctxAt k).fab.cmds.find? (fun x => x.txns.contains a.txn) with
        | none => gone
        | some x =>
          match x.what, decide ((s.ctxAt k).phase = .running) with
          | .load, true => gone.within k (fun s => s.loaded x a)
          | .load, false | .get, false => gone
          | .get, true =>
            match State.gotten { gone with cur := k } x a with
            | some t => { t with cur := s.cur }
            | none =>
              let t := s.within k (fun s => s.getFault x a)
              if t.acks.contains a then t else { t.ackGone a with acks := t.acks ++ [{ a with due := 0 }] }
          | _, _ => s)

/-- Every posted write of a fence's window that is older than it has issued and is acknowledged: no drain to the window is
still queued before it (R453). -/
def State.fenceMet (s : State) (f : XFence) : Bool :=
  f.writes.isEmpty && !((s.eng .matrix).olderThan f.age).any (fun d =>
    match d.1.instr with | .mdrains _ _ _ o => window o.h = f.w | _ => false)

/-- XFENCE_RELEASE (R453). -/
def execXfenceRelease (w : BitVec 4) (s : State) : Ans :=
  .next (
    let l := s.ctx.fab.fences
    match l.findIdx? (fun f => f.w = w ∧ s.fenceMet f) with
    | none => s
    | some i =>
      match l[i]? with
      | none => s
      | some f => (s.onFab (fun x => { x with fences := x.fences.eraseIdx i })).incrNow s.cur f.ctr 1)

/-! ## Collectives -/

/-- n bytes at a place of a number. -/
def sub (x o n : Nat) : Nat := x / 2 ^ (8 * o) % 2 ^ (8 * n)

/-- Elementwise combination of n bytes of FP32 elements. -/
def each32 (f : Nat → Nat → Nat) (n x y : Nat) : Nat :=
  packElems 4 (n / 4) (fun i => f (sub x (4 * i) 4) (sub y (4 * i) 4))

/-- The offset of the first of some writes through a handle that the access tables refuse. -/
def State.firstDenied (s : State) (h : Handle) (l : List (Nat × Nat × Nat)) : Nat :=
  ((l.find? (fun e => match s.resolve h e.1 e.2.1 true with | .denied _ => true | _ => false)).map (·.1)).getD 0

/-- Results written through a handle, all of them or, where a page faults, none yet. The participant's older writes to the
collective's buffers come first, and the completion is an acquire (R265). -/
def State.writeResults (s : State) (x : XCmd) (h : Handle) (l : List (Nat × Nat × Nat)) : State :=
  if (x.wait ∧ !x.inv) ∨ s.owes x.cap then s
  else
    match s.resolveAll (l.map (fun e => (h, e))) with
    | .ok (t, segs) => ((t.storeSegs segs).acquire acqAtomic).finish x 1
    | .error (.denied t) =>
      (t.endXcmd x.cap.age).raiseA s.cur .fabric tPARTITION (word (s.firstDenied h l)) x.cap.line x.cap.lane
    | .error (.page t va) | .error (.blocked t va) => t.waitPage x h.world va
    | .error (.ok t _) => t

/-- A collective whose participants disagree (R466, R468). -/
def State.collFails (s : State) (x : XCmd) : State :=
  (s.endXcmd x.cap.age).remoteTrap x 8 s.dev.num.toNat 0

/-- The chunk piece that a ring of a world waits for next on a port. -/
def State.ringNext (s : State) (port : BitVec 4) (world : BitVec 8) : Option Got :=
  s.rx.find? (fun g => g.op = opRING ∧ g.slot = port.toNat ∧ g.world = world.toNat)

/-- The steps and the chunks that they bring a device, in the order in which they come (R466). -/
def ringOrder (op : RingOp) (port : BitVec 4) (dev : Nat) : List (Nat × Nat) :=
  let p := ringSize port
  (List.range (ringSteps op p)).flatMap (fun t => (ringChunks op port p (ringPos port dev) (t + 1)).map (fun c => (t + 1, c)))

/-- Piece j that a device receives, in the order in which they come: step, offset, and its length (R466). -/
def ringPlace (op : RingOp) (port : BitVec 4) (dev n j : Nat) : Nat × Nat × Nat :=
  let m := n / ringSize port
  let i := j % ringPieces m
  let (t, c) := (ringOrder op port dev).getD (j / ringPieces m) (0, 0)
  (t, c * m + i * msgChunk, ringLen m i)

/-- The chunk of piece j. -/
def ringOf (op : RingOp) (port : BitVec 4) (dev n j : Nat) : Nat :=
  ((ringOrder op port dev).getD (j / ringPieces (n / ringSize port)) (0, 0)).2

/-- The header of a piece agrees with the command in op and count (R466). [DESIGN CHOICE, log 94] -/
def ringAgrees (op : RingOp) (port : BitVec 4) (dev n j : Nat) (g : Got) : Bool :=
  let (t, o, l) := ringPlace op port dev n j
  decide (g.txn = n % 2 ^ 48 ∧ g.arg = t + 256 * ringCode op ∧ g.off = o % 2 ^ 48 ∧ g.len = l)

/-- The piece that a device makes of one that comes, with the pieces kept so far: in a step of sums the sum with its own bytes, in FP32 RNE, or
on a port of a negative direction, for its own chunk and once the last have come, the sum of those of all devices in the order of R466; else the
piece as it is. [DESIGN CHOICE, log 94] -/
def ringMade (op : RingOp) (port : BitVec 4) (dev n j own data : Nat) (got : List (Nat × Nat)) : Nat :=
  let p := ringSize port
  let m := n / p
  let (t, o, l) := ringPlace op port dev n j
  if !ringSums op p t then data
  else if !ringBack port then each32 (addE .fp32 .rne false) l data (sub own o l)
  else if t < p - 1 then data
  else
    match (got.filter (fun e => e.1 % ringPieces m = j % ringPieces m)).map (·.2) ++ [data, sub own o l] with
    | [] => data
    | x :: xs => xs.foldl (each32 (addE .fp32 .rne false) l) x

/-- The pieces that a device receives in a ring step. -/
def ringCount (op : RingOp) (port : BitVec 4) (n : Nat) : Nat := (ringOrder op port 0).length * ringPieces (n / ringSize port)

/-- What a ring step writes on a device once it has received every piece: offsets and bytes, of the results that came and, where all
buffers are gathered, its own chunk (R466). -/
def ringResult (op : RingOp) (port : BitVec 4) (dev n own : Nat) (got : List (Nat × Nat)) : List (Nat × Nat × Nat) :=
  let p := ringSize port
  let m := n / p
  let r := ringPos port dev
  (if op = .ag then [(r * m, m, sub own (r * m) m)] else [])
    ++ (got.filter (fun e => ringFinal op p (ringPlace op port dev n e.1).1)).map (fun e =>
      let (_, o, l) := ringPlace op port dev n e.1; (o, l, e.2))

/-- A device keeps the piece that it makes in a step of a chunk: a result, or on a port of a negative direction what comes for its own chunk. [DESIGN CHOICE, log 94] -/
def ringKeeps (op : RingOp) (port : BitVec 4) (dev t c : Nat) : Bool :=
  ringFinal op (ringSize port) t || (ringBack port && c = ringPos port dev)

/-- A device sends the piece that it makes on to the next: not in the last step, nor what it keeps to sum later. -/
def ringSendsOn (op : RingOp) (port : BitVec 4) (dev t c : Nat) : Bool :=
  let p := ringSize port
  decide (t < ringSteps op p) && !(ringBack port && ringSums op p t && decide (c = ringPos port dev ∧ t < p - 1))

/-- A piece taken by a command whose buffer is `own`: it is kept until the last step, sent on, or both. -/
def State.ringTake (s : State) (x : XCmd) (op : RingOp) (port : BitVec 4) (n own : Nat) (g : Got) : State :=
  let dev := s.dev.num.toNat
  let m := n / ringSize port
  let t := (ringPlace op port dev n x.sent).1
  let c := ringOf op port dev n x.sent
  let v := ringMade op port dev n x.sent own g.data x.got
  let y := { x with sent := x.sent + 1, got := if ringKeeps op port dev t c then x.got ++ [(x.sent, v)] else x.got }
  let u := { s with rx := s.rx.erase g }.setXcmd y
  if ringSendsOn op port dev t c then u.ringSend op port n (t + 1) c (x.sent % ringPieces m) v else u

/-- RING_COMPLETE (R466): the next piece that has come is taken; once every one has, the results are written. -/
def execRingComplete (age : Nat) (_ : List Nat) (_ : Bool) (s : State) : Ans :=
  .next (match s.xcmd age with
    | none => s
    | some x =>
      match x.started, x.data, x.cap.instr with
      | true, some own, .xring op port hf a b _ _ _ _ =>
        let n := (x.cap.sc b).toNat
        let dev := s.dev.num.toNat
        if ringCount op port n ≤ x.sent then
          match SMap.get none x.cap.h hf.toNat with
          | none => s
          | some h => s.writeResults x h ((ringResult op port dev n own x.got).map (fun e => ((x.cap.sc a).toNat + e.1, e.2)))
        else
          match s.ringNext port s.bind.world with
          | none => s
          | some g =>
            if ringAgrees op port dev n x.sent g then s.ringTake x op port n own g
            else { s with rx := s.rx.erase g }.collFails x
      | _, _, _ => s)

/-- A reduction over the ranks in ascending order of n bytes (R468). -/
def reduceRanks (opr : Opr) (n : Nat) (xs : List Nat) : Nat :=
  match xs with
  | [] => 0
  | x :: l =>
    match opr with
    | .addF32 => l.foldl (each32 (addE .fp32 .rne false) n) x
    | .maxF32 => l.foldl (each32 (maxE .fp32 .rne false) n) x
    | .addBf16 =>
      packElems 2 (n / 2) (fun i =>
        let e (v : Nat) := sub v (2 * i) 2 * 65536
        convert .fp32 .bf16 .rne false (l.foldl (fun a v => addE .fp32 .rne false a (e v)) (e x)))
    | .copy => x

/-- What rank r of a group collective writes, from every rank's bytes (R468). -/
def collResult (op : CollOp) (opr : Opr) (n r : Nat) (xs : List Nat) : List (Nat × Nat × Nat) :=
  let c := xs.length
  let m := n / Nat.max 1 c
  match op with
  | .ar => [(0, n, reduceRanks opr n xs)]
  | .rs => [(0, m, reduceRanks opr m (xs.map (fun x => sub x (r * m) m)))]
  | .ag => xs.zipIdx.map (fun e => (e.2 * n, n, e.1))
  | .a2a => xs.zipIdx.map (fun e => (e.2 * m, m, sub e.1 (r * m) m))
  | .bc => [(0, n, xs.headD 0)]

/-- The OP of a contribution to a collective (R447). -/
def opCOLL : Nat := 10

/-- The code of a collective, in the order of its opcodes. -/
def collCode : CollOp → Nat
  | .ar => 0
  | .ag => 1
  | .rs => 2
  | .a2a => 3
  | .bc => 4

/-- The code of an operator (R46). -/
def oprCode : Opr → Nat
  | .copy => 0
  | .addF32 => 1
  | .addBf16 => 2
  | .maxF32 => 3

/-- What two matched commands must agree in: op, fmt, opr, COUNT and n (R468), as the 16 bytes before a contribution. [DESIGN CHOICE, log 94] -/
def collWord (op : CollOp) (fmt : Fmt) (opr : Opr) (count n : Nat) : Nat :=
  collCode op + Config.fmtCode fmt * 2 ^ 8 + oprCode opr * 2 ^ 16 + count * 2 ^ 32 + n % 2 ^ 64 * 2 ^ 64

/-- The same of a command in flight. -/
def XCmd.collWord (x : XCmd) : Nat :=
  match x.what, x.cap.instr with
  | .coll peers _ _, .xcoll op o => Sys2Proof.Machine.collWord op o.fmt o.opr peers.length (x.cap.sc o.n).toNat
  | _, _ => 0

/-- The bytes that rank i contributes. -/
def collBytes (op : CollOp) (n count i : Nat) : Nat := (collSpans op n count i).1

/-- The pieces of a contribution of b bytes: at least one, which says what the command is. -/
def collPieces (b : Nat) : Nat := Nat.max 1 (chunks b)

/-- Piece i of a contribution of the moving strand to a peer on another device (R447, R468). [DESIGN CHOICE, log 94] -/
def State.collPiece (s : State) (x : XCmd) (peer grp seq b data i : Nat) : Got :=
  let l := Nat.min msgChunk (b - i * msgChunk)
  { world := s.bind.world.toNat, op := opCOLL, slot := 0, toGang := peerGang peer, toStrand := peerStrand peer, off := seq, arg := grp
    len := 16 + l, flags := 0, dev := s.dev.num.toNat, gang := s.bind.gang.toNat, strand := s.bind.strand.toNat, txn := i
    data := x.collWord + data / 2 ^ (8 * msgChunk * i) % 2 ^ (8 * l) * 2 ^ 128 }

/-- A participant's bytes sent to every rank on another device. [DESIGN CHOICE, log 94] -/
def State.contribute (s : State) (x : XCmd) (peers : List Nat) (grp seq b data : Nat) : State :=
  (peers.filter (fun p => peerDev p ≠ s.dev.num.toNat)).foldl
    (fun s p => s.inject (coreId (coreOf s.cur)) (peerDev p) (s.bind.gang.toNat * 65536 + s.bind.strand.toNat)
      ((List.range (collPieces b)).flatMap (fun i => (s.collPiece x p grp seq b data i).flits s.bind.world (peerDev p)))) s

/-- The pieces of a peer's contribution that have come to the moving strand for a collective. -/
def State.contributed (s : State) (peer grp seq : Nat) : List Got :=
  let w := s.peerWord s.cur
  s.rx.filter (fun g => decide (g.op = opCOLL ∧ g.world = s.bind.world.toNat ∧ g.toGang = peerGang w ∧ g.toStrand = peerStrand w
    ∧ g.dev = peerDev peer ∧ g.gang = peerGang peer ∧ g.strand = peerStrand peer ∧ g.arg = grp ∧ g.off = seq))

/-- A peer's contribution of b bytes, once all of its pieces have come. -/
def contribution (l : List Got) (b : Nat) : Option Nat :=
  ((List.range (collPieces b)).map (fun i => (l.find? (fun g => g.txn = i)).map (fun g => g.data / 2 ^ 128))).foldr
    (fun o a => match o, a with | some v, some r => some (v + r * 2 ^ (8 * msgChunk)) | _, _ => none) (some 0)

/-- The command of a participant on this device that matches a collective of a group. -/
def State.matched (s : State) (peer : Nat) (grp : BitVec 8) (seq : Nat) : Option (Nat × XCmd) :=
  match s.keyOf (peerGang peer) (peerStrand peer) with
  | none => none
  | some k =>
    ((s.ctxAt k).fab.cmds.find? (fun x =>
      match x.what, x.cap.instr with
      | .coll _ _ q, .xcoll _ o => q = seq && o.grp = grp
      | _, _ => false)).map (fun x => (k, x))

/-- A matched command of another context changed. -/
def State.onMatched (s : State) (k age : Nat) (f : XCmd → XCmd) : State :=
  let c := s.ctxAt k
  s.setAt k { c with fab := { c.fab with cmds := c.fab.cmds.map (fun x => if x.cap.age = age then f x else x) } }

/-- The other ranks of a collective that are on this device and whose command is in flight: rank, context and command. -/
def State.locals (s : State) (peers : List Nat) (r : Nat) (grp : BitVec 8) (q : Nat) : List (Nat × Nat × XCmd) :=
  peers.zipIdx.filterMap (fun e =>
    if peerDev e.1 = s.dev.num.toNat ∧ e.2 ≠ r then (s.matched e.1 grp q).map (fun m => (e.2, m.1, m.2)) else none)

/-- Rank i's bytes, as far as they are there: the own, those that a participant of this device holds or gave before it ended, or the
contribution of another device. -/
def State.rankData (s : State) (x : XCmd) (op : CollOp) (o : FKOp) (peers : List Nat) (r q d i p : Nat) : Option Nat :=
  if i = r then some d
  else if peerDev p ≠ s.dev.num.toNat then
    contribution (s.contributed p o.grp.toNat q) (collBytes op (x.cap.sc o.n).toNat peers.length i)
  else
    match x.got.find? (fun e => e.1 = i) with
    | some e => some e.2
    | none => ((s.locals peers r o.grp q).find? (fun e => e.1 = i)).bind (fun e => e.2.2.data)

/-- A participant disagrees in op, fmt, opr, n or COUNT (R468). [DESIGN CHOICE, log 94] -/
def State.disagree (s : State) (x : XCmd) (o : FKOp) (peers : List Nat) (r q : Nat) : Bool :=
  (s.locals peers r o.grp q).any (fun e => e.2.2.collWord ≠ x.collWord)
    || peers.any (fun p => peerDev p ≠ s.dev.num.toNat && (s.contributed p o.grp.toNat q).any (fun g => g.data % 2 ^ 128 ≠ x.collWord))

/-- What came for a collective is no longer needed. -/
def State.forget (s : State) (o : FKOp) (peers : List Nat) (q : Nat) : State :=
  { s with rx := s.rx.filter (fun g => !peers.any (fun p => (s.contributed p o.grp.toNat q).contains g)) }

/-- COLLECTIVE_COMPLETE (R468): the participant's bytes go to the ranks of other devices once no older write of its own to the named
buffers is still to be made (R265); the collective ends when every rank's bytes are there. -/
def execCollectiveComplete (age : Nat) (_ : List Nat) (_ : Bool) (s : State) : Ans :=
  .next (match s.xcmd age with
    | none => s
    | some x =>
      match x.what, x.data, x.cap.instr with
      | .coll peers r q, some d, .xcoll op o =>
        let locals := s.locals peers r o.grp q
        let n := (x.cap.sc o.n).toNat
        if x.failed then (s.forget o peers q).collFails x
        else if s.disagree x o peers r q then
          (locals.foldl (fun s e => s.onMatched e.2.1 e.2.2.cap.age (fun y => { y with failed := true })) (s.forget o peers q)).collFails x
        else if s.owes x.cap then s
        else if x.sent = 0 then
          let y := { x with sent := 1 }
          (s.setXcmd y).contribute y peers o.grp.toNat q (collBytes op n peers.length r) d
        else
          let vals := peers.zipIdx.map (fun e => s.rankData x op o peers r q d e.2 e.1)
          if vals.any (fun v => v.isNone) ∨ locals.any (fun e => { s with cur := e.2.1 }.owes e.2.2.cap) then s
          else
            match SMap.get none x.cap.h o.hr.toNat with
            | none => s
            | some h =>
              let t := s.writeResults x h (collResult op o.opr n r (vals.map (fun v => v.getD 0)))
              if (t.xcmd age).isSome then t
              else locals.foldl (fun t e => t.onMatched e.2.1 e.2.2.cap.age (fun y => { y with got := y.got ++ [(r, d)] })) (t.forget o peers q)
      | _, _, _ => s)

end Sys2Proof.Machine
end

