-- ==== Sys2Proof/Machine/Links.lean ====
section
/-! DEFINITION. Briwen ports at run time: schedule slots, deliveries, groups, replays and lane health (R416 to R432), and
the states of a port (R433 to R435). Codewords, frames, keys and tags are not state: what the decoder, the CRC and the
verification found comes with the event. -/

namespace Sys2Proof.Machine

/-! ## Going DOWN (R416, R430, R433) -/

/-- TINFO of TIMESLIP (R430). [DESIGN CHOICE, log 55] -/
def slipInfo (dev port ent fidx reason : Nat) : Word :=
  word (dev % 512 * 2 ^ 55 + port % 16 * 2 ^ 51 + ent % 4096 * 2 ^ 39 + fidx % 4096 * 2 ^ 27 + reason * 2 ^ 24)

/-- TIMESLIP raised to a context. No rule says which instruction it is reported with: line and lane are free values. [DESIGN CHOICE, log 55] -/
def State.timeslip (s : State) (k : Nat) (ti : Word) : State :=
  let (t, w) := s.draw
  if t.ctxAt k = Ctx.reset then t else t.raiseA k .fabric tTIMESLIP ti (32 * bits w.toNat 12 0) (bits w.toNat 15 13)

/-- TIMESLIP raised to a strand of this device, named by GANG times 65536 plus STRAND. [DESIGN CHOICE, log 55] -/
def State.slipTo (s : State) (who : Nat) (ti : Word) : State :=
  match s.keyOf (who / 65536) (who % 65536) with
  | some k => if who = 0 then s else s.timeslip k ti
  | none => s

/-- A table without the entries that forward from a port, and without their replay slots. -/
def dropInport (p : Nat) (t : SMap Word) : SMap Word :=
  let gone (e : Word) : Bool := decide (entKind e = 1 ∧ entIn e = p)
  t.filter (fun e => !gone e.2 && !(entKind e.2 = 2 && gone (SMap.get 0 t (entLink e.2))))

/-- One flit of every transfer that waits at an injection source: the first of each, and the first flit there of one whose first has left. -/
def firsts (l : List Inj) : List Inj :=
  let at_ (i : Inj) (r : List Inj) : List Inj := if i.head then r else i :: r.filter (·.head)
  (l.map (·.f.world)).eraseDups.flatMap (fun w =>
    match l.filter (fun i => i.f.world = w) with
    | i :: r => if i.head then (i :: r).filter (·.head) else at_ i r
    | [] => [])

/-- The entry from which a port sends what an injection source holds of a world, and the index that flit number j there gets: one of those that
missed their slots, else the next to come, for which the place in the source stands. [DESIGN CHOICE, log 55] -/
def Port.slotFor (x : Port) (link w j : Nat) : Nat × Nat :=
  match x.table.find? (fun e => entKind e.2 = 0 ∧ entLink e.2 = link ∧ entWorld e.2 = w) with
  | none => (0, j)
  | some e =>
    let missed := x.needs.filter (fun n => n.ent.toNat = e.1 && n.copy.isNone)
    (e.1, match missed[j]? with | some n => n.fidx.toNat | none => j - missed.length)

/-- What a port still had to send for strands of this device: strand, entry and index of a flit of each transfer (R430); flits to be sent
again of one strand and entry are of one transfer. -/
def Port.owedTo (x : Port) : List (Nat × Nat × Nat) :=
  let at_ (link : Nat) (l : List Inj) (i : Inj) : Nat × Nat :=
    x.slotFor link i.f.world.toNat ((l.filter (fun o => o.f.world = i.f.world)).idxOf i)
  let q := x.inject.flatMap (fun e => (firsts e.2).map (fun i => (i.who, at_ e.1 e.2 i)))
  let n := x.needs.foldl (fun (l : List (Nat × Nat × Nat)) i =>
    if l.any (fun o => o.1 = i.who ∧ o.2.1 = i.ent.toNat) then l else l ++ [(i.who, i.ent.toNat, i.fidx.toNat)]) []
  (q ++ n).filter (fun e => e.1 ≠ 0)

/-- The strands of this device to which a port was delivering a transfer, with its entry and next index. -/
def Port.owedFrom (x : Port) : List (Nat × Nat × Nat) :=
  x.parts.filterMap (fun e => e.2.cur.map (fun c => (c.2.toGang * 65536 + c.2.toStrand, e.1, e.2.next)))

/-- A step of a migration; where MIGSTAT changes, it is logged, and counted on PF vector 4 (R480, R489). [DEDUCED, log 68] -/
def State.migTo (s : State) (f : Mig → Mig) : State :=
  let m := s.dev.mig
  let t := { s with dev := { s.dev with mig := f m } }
  let n := t.dev.mig
  if n.world = m.world ∧ n.err = m.err ∧ n.state = m.state then t else (t.logged logMigration (word n.state.toNat)).pfIrq 4

/-- The link of a migration that waits for its receipt goes DOWN: the source reaches ABORTED (R489, R490). [DEDUCED, log 68] -/
def State.migLink (s : State) (port : Nat) : State :=
  if s.dev.mig.state = 1 ∧ !s.dev.mig.receipt ∧ s.dev.mig.ctlPort.toNat = port then s.migTo (fun m => { m with state := 6, err := 1 }) else s

/-- A port goes to DOWN with a cause (R430, R433). -/
def State.portDown (s : State) (p : Nat) (err : Nat) : State :=
  let x := s.port p
  let t := (s.migLink p).setPort p
    { x with
      st := 0, err := BitVec.ofNat 4 err, table := [], next := [], kept := [], needs := [], naks := [], inbuf := [], groups := [], closed := []
      inject := [], served := [], parts := [], newkey := [], secret := 0, lkeys := [], grpkey := [], done := [], lost := [], out := none }
  let t := (List.range 12).foldl (fun t q =>
    let y := t.port q
    t.setPort q { y with
      table := dropInport p y.table, next := y.next.map (fun l => { l with ents := dropInport p l.ents })
      needs := y.needs.filter (fun n =>
      !(entKind (SMap.get 0 y.table n.ent.toNat) = 1 && entIn (SMap.get 0 y.table n.ent.toNat) = p)) }) t
  (x.owedTo ++ x.owedFrom).foldl (fun t e => t.slipTo e.1 (slipInfo s.dev.num.toNat p e.2.1 e.2.2 2)) t

/-! ## Sending in a slot (R424, R427 to R429) -/

/-- The entry whose slot an offset of the period is, with its number. [DEDUCED, log 56] -/
def slotEntry (t : SMap Word) (o : Nat) : Option (Nat × Word) :=
  t.find? (fun e => entOff e.2 ≤ o ∧ o < entOff e.2 + entNfl e.2)

/-- The flits of an entry's world that its injection source holds. -/
def Port.holds (x : Port) (e : Word) : List Inj :=
  (SMap.get [] x.inject (entLink e)).filter (fun i => i.f.world.toNat = entWorld e)

/-- How many flits of an entry missed their slots before a cycle and are still to come from its source. -/
def Port.missing (x : Port) (i : Nat) (c : Word) : Nat :=
  (x.needs.filter (fun o => o.ent.toNat = i && o.copy.isNone && decide (o.arose.toNat < c.toNat))).length

/-- Flit idx of entry number i, whose slot was that of cycle c, ready to depart, with the strand that issued it, and the state without it at
its source (R427): from an injection source the flit of the entry's world that stands behind those which missed their slots before, from an
input port the flit of that index of the upstream entry. -/
def State.ready (s : State) (p i : Nat) (e : Word) (idx : Nat) (c : Word) : Option (Flit × Nat × State) :=
  let x := s.port p
  match entKind e with
  | 0 =>
    match (x.holds e)[x.missing i c]? with
    | some f => some (f.f, f.who, s.setPort p { x with
        inject := SMap.set [] x.inject (entLink e) ((SMap.get [] x.inject (entLink e)).erase f) })
    | none => none
  | 1 =>
    let y := s.port (entIn e)
    match y.inbuf.find? (fun b => b.f.ent.toNat = entLink e ∧ b.f.fidx.toNat = idx ∧ b.at_.toNat + 4 ≤ s.dcc.toNat) with
    | some b => some (b.f, 0, s.setPort (entIn e) { y with inbuf := y.inbuf.erase b })
    | none => none
  | _ => none

/-- The NAK that a header of this cycle carries: the oldest whose four headers are not over (R428). [DEDUCED, log 53] -/
def Port.nakNow (x : Port) (dcc : Word) : Option (BitVec 16) :=
  (x.naks.find? (fun n => n.at_.toNat < dcc.toNat ∧ dcc.toNat ≤ n.at_.toNat + 4)).map (·.cyc)

/-- A flit departs in this cycle, and is kept (R428). [DEDUCED, log 53] -/
def State.depart (s : State) (p : Nat) (f : Flit) (who : Nat) : State :=
  let x := s.port p
  let n := x.nakNow s.dcc
  let f := { f with nakv := n.isSome, nakcyc := n.getD 0 }
  let t := s.setPort p { x with
    out := some (s.dcc, f), kept := if f.empty then x.kept else x.kept ++ [⟨s.dcc, f, false, who⟩] }
  match t.keyOf (who / 65536) (who % 65536) with
  | some k => if f.empty ∨ who = 0 then t else t.charge k 6 1
  | none => t

/-- The EMPTY flit. -/
def emptyFlit : Flit := ⟨0xFF, false, false, true, false, false, false, 0, 0, 0, 0⟩

/-- Whether every other flit of its group has departed when flit idx of entry i does: this one completes the group and carries its tag
(R422). In its own slot (`late` false) it is the last of the group; in a replay or spare slot every slot of the group has passed, and no other
flit of it is still to come. A group ends where the source holds no more flits of the entry's world, or where the verified group that is
forwarded ended. -/
def State.endsGroup (s : State) (p i : Nat) (e : Word) (idx : Nat) (late : Bool) : Bool :=
  let x := s.port p
  let last := Nat.min (idx / 8 * 8 + 7) (entNfl e - 1)
  let others := x.needs.any (fun n => n.ent.toNat = i && n.copy.isNone && n.fidx.toNat / 8 = idx / 8 && n.fidx.toNat ≠ idx)
  let ended := entKind e = 1 && (s.port (entIn e)).closed.any (fun c => c.1.toNat = entLink e && c.2.1 = idx / 8 && c.2.2 = idx)
  (!others && (late || idx = last || ended)) || (entKind e = 0 && (x.holds e).isEmpty)

/-- A flit that does not exist: its group ended before it, at its source or where it is forwarded from. -/
def State.pastEnd (s : State) (p i : Nat) (e : Word) (idx : Nat) : Bool :=
  (s.port p).done.contains (512 * i + idx / 8) || entKind e = 1 && (s.port (entIn e)).closed.any (fun c => c.1.toNat = entLink e && c.2.1 = idx / 8 && decide (c.2.2 < idx))

/-- A need of an entry arises (R429); of an entry that forwards, one of an earlier period for the same index that never had a flit lapses. -/
def Port.need (x : Port) (n : Need) (kind : Nat) : Port :=
  { x with needs := x.needs.filter (fun o => !(kind = 1 && o.ent = n.ent && o.fidx = n.fidx && o.copy.isNone)) ++ [n] }

/-- A flit of an entry departs: where it completes a group that its source ends early, the others of that group are no flits (R422). [DEDUCED, log 56] -/
def Port.ended (x : Port) (i idx kind : Nat) (tagged : Bool) : Port :=
  if kind = 0 ∧ tagged then
    { x with
      done := x.done.filter (· ≠ 512 * i + idx / 8) ++ [512 * i + idx / 8]
      needs := x.needs.filter (fun o => !(o.ent.toNat = i && o.copy.isNone && o.fidx.toNat / 8 = idx / 8)) }
  else x

/-- The key slot of the group of flit idx of entry i of a world (R435): a group keeps the one under which its first flit departed. -/
def Port.keyFor (x : Port) (i idx w : Nat) : Bool :=
  (SMap.get none x.grpkey (512 * i + idx / 8)).getD (SMap.get false x.keyidx w)

/-- A flit of that group departs. -/
def Port.keyed (x : Port) (i idx w : Nat) : Port :=
  { x with grpkey := SMap.set none x.grpkey (512 * i + idx / 8) (some (x.keyFor i idx w)) }

/-- A group begins anew in the slot of its first flit. -/
def Port.unkeyed (x : Port) (i idx : Nat) : Port :=
  if idx % 8 = 0 then { x with grpkey := SMap.erase x.grpkey (512 * i + idx / 8), done := x.done.filter (· ≠ 512 * i + idx / 8) } else x

/-- A period of an entry begins: what its injection source did not hold in the last one is no flit of that period. -/
def Port.period (x : Port) (i : Nat) (e : Word) : Port :=
  { x with needs := x.needs.filter (fun o => !(o.ent.toNat = i && o.copy.isNone) || decide (x.missing i o.arose < (x.holds e).length)) }

/-- The slot of flit idx of entry number i (R427). -/
def State.dataSlot (s : State) (p i : Nat) (e : Word) (idx : Nat) : State :=
  let x := (s.port p).unkeyed i idx
  let s := s.setPort p (if idx = 0 ∧ entKind e = 0 then x.period i e else x)
  match (if s.pastEnd p i e idx then none else s.ready p i e idx s.dcc) with
  | some (f, who, t) =>
    let x := t.port p
    let x := if entKind e = 0 then x else
      { x with needs := x.needs.filter (fun o => !(o.ent.toNat = i && o.fidx.toNat = idx && o.copy.isNone)) }
    let tagged := (t.setPort p x).endsGroup p i e idx false
    let g : Flit :=
      { f with
        world := BitVec.ofNat 8 (entWorld e), keyidx := x.keyFor i idx (entWorld e), tagv := tagged
        rpl := false, ent := BitVec.ofNat 12 i, fidx := BitVec.ofNat 12 idx }
    (t.setPort p ((x.keyed i idx (entWorld e)).ended i idx (entKind e) tagged)).depart p g who
  | none =>
    if s.pastEnd p i e idx then s.depart p emptyFlit 0
    else
      (s.setPort p ((s.port p).need ⟨BitVec.ofNat 12 i, BitVec.ofNat 12 idx, s.dcc, none, false, 0⟩ (entKind e))).depart p emptyFlit 0

/-- One need comes before another: the earlier arisen, among equals the lower FIDX (R429). [DEDUCED, log 53] -/
def Need.before (a b : Need) : Bool :=
  decide (a.arose.toNat < b.arose.toNat ∨ (a.arose = b.arose ∧ a.fidx.toNat < b.fidx.toNat))
/-- The first of some needs. [DEDUCED, log 53] -/
def firstNeed (l : List Need) : Option Need :=
  l.foldl (fun a n => match a with
    | none => some n
    | some b => if n.before b then some n else some b) none

/-- A need met in a replay or spare slot, if its flit is there. [DEDUCED, log 53] -/
def State.serve (s : State) (p : Nat) (n : Need) (slip : Bool) : Option State :=
  let x := s.port p
  let e := SMap.get 0 x.table n.ent.toNat
  let r : Option (Flit × Nat × State) :=
    match n.copy with
    | some f => some (f, n.who, s)
    | none => (s.ready p n.ent.toNat e n.fidx.toNat n.arose).map (fun r =>
        ({ r.1 with
           world := BitVec.ofNat 8 (entWorld e), keyidx := x.keyFor n.ent.toNat n.fidx.toNat (entWorld e)
           tagv := r.2.2.endsGroup p n.ent.toNat e n.fidx.toNat true, ent := n.ent, fidx := n.fidx }, r.2.1, r.2.2))
  r.map (fun r =>
    let t := r.2.2
    let y := t.port p
    let y := if n.copy.isNone then (y.keyed n.ent.toNat n.fidx.toNat (entWorld e)).ended n.ent.toNat n.fidx.toNat (entKind e) r.1.tagv else y
    let y := { y with
      needs := y.needs.erase n
      slips := if slip then BitVec.ofNat 16 (Nat.min 0xFFFF (y.slips.toNat + 1)) else y.slips
      replays := if slip then y.replays else BitVec.ofNat 16 (Nat.min 0xFFFF (y.replays.toNat + 1)) }
    (t.setPort p y).depart p { r.1 with rpl := true, slip := r.1.slip || slip } r.2.1)

/-- The replay slot of group j of an entry (R429). [DEDUCED, log 53] -/
def State.replaySlot (s : State) (p ent j : Nat) : State :=
  let x := s.port p
  let x := { x with served := x.served.filter (fun v => !(v.1.toNat = ent && v.2.1 = j)) ++ [(BitVec.ofNat 12 ent, j, s.dcc)] }
  let s := s.setPort p x
  match firstNeed (x.needs.filter (fun n => n.ent.toNat = ent && n.fidx.toNat / 64 = j && !n.again)) with
  | some n => (s.serve p n false).getD (s.depart p emptyFlit 0)
  | none => s.depart p emptyFlit 0

/-- A need that goes in a spare slot: its copy failed again, its group's replay slot is taken by an earlier one, or that
slot has passed (R429). -/
def Port.toSpare (x : Port) (n : Need) : Bool :=
  n.again
    || x.needs.any (fun o => o.ent = n.ent && o.fidx.toNat / 64 = n.fidx.toNat / 64 && !o.again && o.before n)
    || x.served.any (fun v => v.1 = n.ent && v.2.1 = n.fidx.toNat / 64 && decide (n.arose.toNat < v.2.2.toNat))

/-- A spare slot: the needs in their order, the first whose flit is there. [DEDUCED, log 53] -/
def State.spareSlot (s : State) (p : Nat) : Nat → List Need → State
  | 0, _ => s.depart p emptyFlit 0
  | fuel + 1, l =>
    match firstNeed l with
    | none => s.depart p emptyFlit 0
    | some n => (s.serve p n true).getD (State.spareSlot s p fuel (l.erase n))

/-- What is kept no longer (R428). [DEDUCED, log 53] -/
def Port.prune (x : Port) (dcc : Word) : Port :=
  { x with
    kept := x.kept.filter (fun k => dcc.toNat ≤ k.d.toNat + x.txlat + x.rxlat + 5)
    naks := x.naks.filter (fun n => dcc.toNat ≤ n.at_.toNat + 4)
    served := x.served.filter (fun v => dcc.toNat ≤ v.2.2.toNat + x.per) }

/-- A failed flit whose replay slot has passed without it (R428). The slot is the peer's, whose table this device does not know: its cycle is a
free value. [DESIGN CHOICE, log 54] -/
def Port.overdue (x : Port) (dcc : Word) : Bool := x.st = 4 && x.lost.any (fun l => decide (l.limit ≤ dcc.toNat))

/-- FLIT_SLOT (R427): the flit of this cycle; a port sends one flit a cycle, and none of a world unless it is UP. Where a flit for which it
still waits can no longer come, the port goes to DOWN (R428). [DESIGN CHOICE, log 54] -/
def execFlitSlot (port : BitVec 4) (s : State) : Ans :=
  let p := port.toNat
  let x := s.port p
  .next (if 12 ≤ p ∨ x.st = 0 ∨ x.out.any (fun o => o.1 = s.dcc) then s
    else if x.overdue s.dcc then s.portDown p 5
    else
      let s := s.setPort p (x.prune s.dcc)
      if x.st ≠ 4 then s.depart p emptyFlit 0
      else
        match slotEntry x.table (s.dcc.toNat % x.per) with
        | none => s.depart p emptyFlit 0
        | some (i, e) =>
          let idx := s.dcc.toNat % x.per - entOff e
          if entKind e ≤ 1 then s.dataSlot p i e idx
          else if entKind e = 2 then s.replaySlot p (entLink e) (entWorld e)
          else
            let l := (s.port p).needs.filter (s.port p).toSpare
            s.spareSlot p l.length l)

/-! ## Deliveries (R418, R421, R423, R427, R428, R430) -/

/-- The port on which a flit delivered on an input port goes on. -/
def State.forwards (s : State) (p : Nat) (ent : Nat) : Bool :=
  (List.range 12).any (fun q => (s.port q).table.any (fun e => entKind e.2 = 1 ∧ entIn e.2 = p ∧ entLink e.2 = ent))

/-- A count of a port that stops at 0xFFFF (R436). -/
def bump16 (c : BitVec 16) : BitVec 16 := BitVec.ofNat 16 (Nat.min 0xFFFF (c.toNat + 1))

/-- A NAK acted on (R428): the kept flit that departed in that cycle needs sending again. -/
def Port.asked (x : Port) (cyc : BitVec 16) : Port :=
  match x.kept.find? (fun k => k.d.setWidth 16 = cyc) with
  | some k =>
    if k.asked then x
    else
      { x with
        kept := x.kept.map (fun o => if o.d = k.d then { o with asked := true } else o)
        needs := x.needs ++ [⟨k.f.ent, k.f.fidx, k.d + word x.txlat, some k.f, k.f.rpl, k.who⟩] }
  | none => x

/-- A flit joins the group to which it belongs (R423): one sent again the oldest that lacks it, another the newest, where its index goes on
from those there; else it begins a group. [DEDUCED, log 56] -/
def Port.collect (x : Port) (f : Flit) (dcc : Word) : Port :=
  let g := f.fidx.toNat / 8
  let mine := x.groups.filter (fun o => o.ent = f.ent && o.grp = g)
  let lacks (o : Group) : Bool := o.flits.all (fun b => b.f.fidx ≠ f.fidx)
  let goesOn (o : Group) : Bool := !o.failed && o.flits.all (fun b => b.f.rpl || decide (b.f.fidx.toNat < f.fidx.toNat))
  match if f.rpl then mine.find? lacks else mine.getLast?.filter (fun o => lacks o && goesOn o) with
  | some o =>
    let n : Group := { o with flits := o.flits ++ [⟨f, dcc⟩] }
    { x with groups := x.groups.map (fun y => if y = o then n else y) }
  | none =>
    let n : Group := ⟨f.ent, g, [⟨f, dcc⟩], false⟩
    { x with groups := x.groups ++ [n], closed := x.closed.filter (fun c => !(c.1 = f.ent && c.2.1 = g)) }

/-- The highest index of a group's flits. -/
def Group.top (g : Group) : Nat := (g.flits.map (·.f.fidx.toNat)).foldl Nat.max (8 * g.grp)

/-- Every flit of a group is there (R423): one carries the tag, and from flit 8g on no index is left out up to the last that came. [DEDUCED, log 56] -/
def Group.whole (g : Group) : Bool := g.flits.any (·.f.tagv) && g.flits.length = g.top + 1 - 8 * g.grp

/-- A group can be verified (R423): it is whole, none of its flits failed and is still to come again, the two cycles have passed, and no older
group of a later index of its entry, which an earlier period left, is still to come. [DEDUCED, log 56] -/
def Port.verifies (x : Port) (g : Group) (dcc : Word) : Bool :=
  g.whole && !x.lost.any (fun l => l.ent = g.ent ∧ l.fidx.toNat / 8 = g.grp) && g.flits.all (fun b => decide (b.at_.toNat + 2 ≤ dcc.toNat))
    && !(x.groups.takeWhile (fun o => o ≠ g)).any (fun o => o.ent = g.ent && decide (g.grp ≤ o.grp))

/-- The header in the first 32 bytes of a payload: destination device and transfer (R447). -/
def headerOf (world : BitVec 8) (v : Nat) : Nat × Got :=
  let f (hi lo : Nat) : Nat := bits v hi lo
  (f 8 0, ⟨world.toNat, f 63 56, f 53 48, f 31 16, f 47 32, f 111 64, f 127 112, f 151 128, f 159 152, f 168 160, f 191 176, f 207 192, f 255 208, 0⟩)

/-- TIMESLIP of a transfer is its destination strand's (R448): it raises a counter there, or answers a command of that strand, which raises the
command's counter or none. -/
def State.counts (s : State) (g : Got) : Bool :=
  g.op = 5 || g.op = 7 || g.op = 8 || (decide (g.op ≤ 3) && (g.op ≠ 0 || bit g.arg 4) && (match s.keyOf g.toGang g.toStrand with
    | some k => (match SMap.get none (s.ctxAt k).exp g.slot with | some h => h.sync.isSome | none => false)
    | none => false))

/-- TIMESLIP of a transfer whose header is there (R430, R448): to its destination strand or not, and by a slip notice to the strand that issued
it; no strand issued an answer. [DESIGN CHOICE, log 55] -/
def State.slipFor (s : State) (world : BitVec 8) (g : Got) (ti : Word) : State :=
  let t := if s.counts g then s.slipTo (g.toGang * 65536 + g.toStrand) ti else s
  if g.op = 5 ∨ g.op = 8 then t
  else if g.dev = t.dev.num.toNat then t.slipTo (g.gang * 65536 + g.strand) ti
  else t.inject 0 g.dev 0 ((slipGot world.toNat g.gang g.strand t.dev.num.toNat ti).flits world g.dev)

/-- The next flit of an entry taken: a header, or more data of the transfer in progress; and the transfer that it completes, with its
destination device. Behind a group that ended early comes the next one. -/
def Part.feed (q : Part) (f : Flit) : Part × Option (Nat × Got) :=
  let v := f.payload.toNat
  let (dev, g, n) := match q.cur with
    | some (dev, g) => (dev, { g with data := g.data + v * 2 ^ (8 * q.have_) }, q.have_ + 128)
    | none => let (dev, g) := headerOf f.world v; (dev, { g with data := v / 2 ^ 256 }, 96)
  let whole := decide (g.sent ≤ n)
  ({ q with
     next := if q.ends.contains q.next then (q.next / 8 + 1) * 8 else q.next + 1, ends := q.ends.filter (· ≠ q.next)
     cur := if whole then none else some (dev, g), have_ := if whole then 0 else n },
   if whole then some (dev, { g with data := g.data % 2 ^ (8 * g.sent) }) else none)

/-- The header of the transfer to which a flit belongs, as far as the flits before it are there. -/
def Part.headerFor (l : List Flit) (f : Flit) : Nat → Part → Option Got
  | 0, _ => none
  | n + 1, q =>
    if q.next = f.fidx.toNat then some (match q.cur with | some c => c.2 | none => (headerOf f.world f.payload.toNat).2)
    else match l.find? (fun o => o.fidx.toNat = q.next) with
      | some o => Part.headerFor l f n (q.feed o).1
      | none => none

/-- TIMESLIP of a flit delivered with SLIP at its final receiver (R430). The receiver knows the port's peer, and REASON from whether the copy
that came before this one failed; where an earlier hop used the spare slot, no field of R420 says which, or why: free values. Where the header
of its transfer is not there yet, TIMESLIP follows when it is. [DESIGN CHOICE, log 55] -/
def State.slipDelivered (s : State) (p : Nat) (f : Flit) (again : Bool) : State :=
  let x := s.port p
  let (t, w) := s.draw
  let n := w.toNat
  let ti := if f.rpl then slipInfo x.peerdev.toNat x.peerport.toNat f.ent.toNat f.fidx.toNat (if again then 1 else 0)
    else slipInfo (n / 2) (n / 2 ^ 10) (n / 2 ^ 14) f.fidx.toNat (n % 2)
  let q := SMap.get Part.reset x.parts f.ent.toNat
  let l := q.flits ++ (x.groups.filter (fun g => g.ent = f.ent)).flatMap (fun g => g.flits.map (·.f))
  match Part.headerFor l f 4096 (if f.fidx.toNat < q.next then { q with next := 0 } else q) with
  | some g => t.slipFor f.world g ti
  | none => t.setPort p { x with parts := SMap.set Part.reset x.parts f.ent.toNat { q with late := q.late ++ [(f.fidx.toNat, ti)] } }

/-- A failed flit (R421, R428): it counts, the NAK follows, and one of a world has yet to come again. [DESIGN CHOICE, log 54] -/
def State.flitFailed (s : State) (p : Nat) (f : Flit) : State :=
  let (t, w) := s.draw
  let x := t.port p
  t.setPort p { x with
    crcfail := bump16 x.crcfail
    naks := x.naks ++ [⟨BitVec.ofNat 16 (t.dcc.toNat + 2 ^ 16 - x.rxlat), t.dcc⟩]
    lost := if x.st ≠ 4 ∨ f.empty then x.lost
      else x.lost.filter (fun l => !(l.ent = f.ent && l.fidx = f.fidx)) ++ [⟨f.ent, f.fidx, f.rpl, t.dcc.toNat + 5 + w.toNat⟩] }

/-- FLIT_DELIVERY (R418, R421, R432, R436), in every state in which the port receives: `errs` lists the erroneous bytes; more than eight, or a
CRC that then fails, which the event names as nine or more, make the flit a failed one. -/
def execFlitDelivery (port : BitVec 4) (f : Flit) (errs : List (Nat × Nat)) (s : State) : Ans :=
  let p := port.toNat
  let x := s.port p
  .next (if 12 ≤ p ∨ x.st < 2 then s
    else if 8 < errs.length then s.flitFailed p f
    else
      let x : Port := { x with corr := errs.foldl (fun m e => SMap.set 0 m (e.1 % 8) (SMap.get 0 m (e.1 % 8) + 1)) x.corr }
      let x : Port := if f.nakv then x.asked f.nakcyc else x
      let mine (l : Lost) : Bool := f.rpl && l.ent = f.ent && l.fidx = f.fidx
      if f.empty ∨ x.st ≠ 4 then s.setPort p x
      else
        let y : Port := { x with lost := x.lost.filter (fun l => !mine l) }
        if s.forwards p f.ent.toNat then
          let b : Fwd := ⟨f, s.dcc⟩
          let y : Port := if y.inbuf.length < 64 then { y with inbuf := y.inbuf ++ [b] } else y
          s.setPort p (y.collect f s.dcc)
        else
          let t := s.setPort p (y.collect f s.dcc)
          if f.slip then t.slipDelivered p f (x.lost.any (fun l => mine l && l.again)) else t)

/-- A transfer that has arrived whole: it is this device's, in place 8 cycles later, or its sender receives REMOTE with REASON 9 (R447). -/
def State.arrived (s : State) (world : BitVec 8) (dev : Nat) (g : Got) : State :=
  if dev = s.dev.num.toNat then { s with landing := s.landing ++ [(s.dcc.toNat + 8, g)] }
  else
    let a : Ack := ⟨BitVec.ofNat 9 g.dev, BitVec.ofNat 16 g.gang, BitVec.ofNat 16 g.strand, g.txn, false, 9, s.dev.num,
      BitVec.ofNat 48 g.off, false, .untyped, 0, 0⟩
    s.inject 0 g.dev 0 ((ackGot a world.toNat g.toGang g.toStrand none).flits world g.dev)

/-- A verified flit of an entry in its order: with the header of its transfer there, TIMESLIP that waited for it follows. [DESIGN CHOICE, log 23] -/
def State.takeFlit (s : State) (p : Nat) (ent : Nat) (f : Flit) : State :=
  let x := s.port p
  let q := SMap.get Part.reset x.parts ent
  let hdr := match q.cur with | some c => c.2 | none => (headerOf f.world f.payload.toNat).2
  let slips := q.late.filter (fun l => l.1 = f.fidx.toNat)
  let (r, whole) := { q with late := q.late.filter (fun l => l.1 ≠ f.fidx.toNat) }.feed f
  let t := slips.foldl (fun t l => t.slipFor f.world hdr l.2) (s.setPort p { x with parts := SMap.set Part.reset x.parts ent r })
  match whole with
  | some (dev, g) => t.arrived f.world dev g
  | none => t

/-- The verified flits of an entry taken as far as they follow one another. -/
def State.takeFlits (s : State) (p ent : Nat) : Nat → State
  | 0 => s
  | fuel + 1 =>
    let x := s.port p
    let q := SMap.get Part.reset x.parts ent
    match q.flits.find? (fun f => f.fidx.toNat = q.next) with
    | some f =>
      let t := s.setPort p { x with parts := SMap.set Part.reset x.parts ent { q with flits := q.flits.erase f } }
      State.takeFlits (t.takeFlit p ent f) p ent fuel
    | none => s

/-- A forwarded group has been verified: its last index is known, and no flit beyond it is still to come (R422, R423). -/
def State.close (s : State) (p : Nat) (g : Group) : State :=
  let hi := g.top
  let t := (List.range 12).foldl (fun t q =>
    let y := t.port q
    t.setPort q { y with needs := y.needs.filter (fun n =>
      let e := SMap.get 0 y.table n.ent.toNat
      !(entKind e = 1 && entIn e = p && entLink e = g.ent.toNat && n.copy.isNone && n.fidx.toNat / 8 = g.grp && decide (hi < n.fidx.toNat))) }) s
  let x := t.port p
  t.setPort p { x with
    groups := x.groups.erase g, closed := x.closed.filter (fun c => !(c.1 = g.ent && c.2.1 = g.grp)) ++ [(g.ent, g.grp, hi)] }

/-- A group begins a new period of its entry at this receiver: its place was passed, or another group of that period is not verified yet whose
place was passed. -/
def Port.renews (x : Port) (g : Group) (next : Nat) : Bool :=
  let past (o : Nat) : Bool := decide (8 * o < next)
  past g.grp || (x.groups.takeWhile (fun o => o ≠ g)).any (fun o => o.ent = g.ent && past o.grp)
    || x.lost.any (fun l => l.ent = g.ent && past (l.fidx.toNat / 8))

/-- GROUP_VERIFY (R423). Of several groups of an entry's index the oldest is meant. A failure is an integrity interrupt, and is logged (R486). -/
def execGroupVerify (port : BitVec 4) (ent : BitVec 12) (grp : Nat) (ok : Bool) (s : State) : Ans :=
  let p := port.toNat
  let x := s.port p
  .next (if 12 ≤ p ∨ x.st ≠ 4 then s
    else
      match x.groups.find? (fun g => g.ent = ent ∧ g.grp = grp) with
      | none => s
      | some g =>
        let q := SMap.get Part.reset x.parts ent.toNat
        let new := x.renews g q.next
        if !x.verifies g s.dcc ∨ (new ∧ q.flits ≠ []) then s
        else
          let rest := { x with groups := x.groups.erase g }
          let world := match g.flits.head? with | some b => b.f.world.toNat | none => 0
          if s.forwards p ent.toNat then s.close p g
          else if ok then
            let q := { q with
              next := if new then 0 else q.next, flits := q.flits ++ g.flits.map (·.f)
              ends := if g.top % 8 = 7 then q.ends else q.ends.filter (· ≠ g.top) ++ [g.top] }
            let t := s.setPort p { rest with parts := SMap.set Part.reset rest.parts ent.toNat q }
            t.takeFlits p ent.toNat q.flits.length
          else
            let y := { rest with authfail := bump16 x.authfail }
            if g.failed then (((s.setPort p y).portDown p 7).irq world 3).logged logIntegrity (word (p * 2 ^ 32 + ent.toNat * 2 ^ 16 + grp))
            else
              s.setPort p { y with
                groups := y.groups ++ [{ g with flits := [], failed := true }]
                naks := y.naks ++ g.flits.zipIdx.map (fun b =>
                  ⟨BitVec.ofNat 16 (b.1.at_.toNat + 2 ^ 16 - x.rxlat), s.dcc + word b.2⟩) })

/-- LANE_LOCK_LOSS (R416); while the port trains, its lanes have yet to lock. -/
def execLaneLockLoss (port : BitVec 4) (_ : BitVec 3) (s : State) : Ans :=
  .next (if 12 ≤ port.toNat ∨ (s.port port.toNat).st < 2 then s else s.portDown port.toNat 5)

/-- The score of a lane after a window with c corrections (R432). -/
def laneScore (c : Nat) : BitVec 8 := BitVec.ofNat 8 (255 - Nat.min 255 (c / 64))

/-- HEALTH_WINDOW (R432): once for each window of 2^20 cycles, at its end. -/
def execHealthWindow (port : BitVec 4) (s : State) : Ans :=
  let p := port.toNat
  let x := s.port p
  .next (if 12 ≤ p ∨ s.dcc.toNat % 2 ^ 20 ≠ 0 ∨ s.dcc = x.window then s
    else
      let lane := (List.range 8).foldl (fun m n => SMap.set 255 m n (laneScore (SMap.get 0 x.corr n))) x.lane
      let t := s.setPort p { x with lane := lane, corr := [], window := s.dcc }
      if (List.range 8).any (fun n => (SMap.get 255 lane n).toNat < x.thresh.toNat) then t.pfIrq 0 else t)

/-- SCHEDULE_TABLE_SWITCH (R425, R436): at a period start, the loads whose stated cycle has come. -/
def execScheduleTableSwitch (port : BitVec 4) (s : State) : Ans :=
  let p := port.toNat
  let x := s.port p
  let due := x.next.filter (fun l => l.at_.toNat ≤ s.dcc.toNat)
  .next (if 12 ≤ p ∨ s.dcc.toNat % x.per ≠ 0 ∨ due.isEmpty then s
    else
      s.setPort p { x with
        table := due.foldl applyLoad x.table, next := x.next.filter (fun l => !due.contains l), per := x.pernext, served := [] })

/-! ## States of a port (R433 to R435) -/

/-- PORT_OPEN (R433, R436). -/
def execPortOpen (port : BitVec 4) (s : State) : Ans :=
  let p := port.toNat
  let x := s.port p
  .next (if 12 ≤ p ∨ x.st ≠ 0 ∨ !s.dev.ready then s
    else s.setPort p { x with st := 1, slips := 0, replays := 0, crcfail := 0, authfail := 0 })

/-- PORT_CLOSE (R433): no cause of the list of BPSTAT.ERR. -/
def execPortClose (port : BitVec 4) (s : State) : Ans :=
  .next (if 12 ≤ port.toNat ∨ (s.port port.toNat).st = 0 then s else s.portDown port.toNat 0)

/-- TRAIN_COMPLETE (R415, R417, R433): the peer is the one to which the port is wired. -/
def execTrainComplete (port : BitVec 4) (locked : Bool) (txlat rxlat : Nat) (peerDev : BitVec 9) (peerPort : BitVec 4)
    (s : State) : Ans :=
  let p := port.toNat
  let x := s.port p
  .next (if 12 ≤ p ∨ x.st ≠ 1 then s
    else if !locked then s.portDown p 1
    else if (peerDev.toNat, peerPort.toNat) ≠ wired s.dev.num.toNat p then s
    else if 1023 < txlat ∨ 1023 < rxlat then s.portDown p 2
    else s.setPort p { x with
      st := 2, txlat := Nat.max 48 txlat, rxlat := Nat.max 48 rxlat, peerdev := peerDev, peerport := peerPort })

/-- SLIP_NOTICE (R430): the notice that has arrived is taken in. -/
def execSlipNotice (key : Nat) (ti : Word) (s : State) : Ans :=
  let is (g : Got) : Bool := g.op = opSLIP && (s.keyOf g.toGang g.toStrand).getD 65536 = key && decide (word g.data = ti)
  .next ({ s with rx := match s.rx.find? is with | some g => s.rx.erase g | none => s.rx }.timeslip key ti)

end Sys2Proof.Machine
end

