-- ==== Sys2Proof/Machine/Frames.lean ====
section
/-! DEFINITION. Campus ports at run time: frames, acknowledgements, resending (R437 to R439, R469, R470), and the states,
attestation and keys of both kinds of port (R433 to R435, R440, R441). -/

namespace Sys2Proof.Machine

/-! ## Ends of transfers -/

/-- A command of a context ends by an effect within that context. -/
def State.onCmd (s : State) (k age : Nat) (f : State → XCmd → State) : State :=
  s.within k (fun t => match t.xcmd age with
    | some x => f t x
    | none => t)

/-- A command of a campus port that goes DOWN ends without an increment, with REMOTE REASON 11 (R469, R470). -/
def State.campusLost (s : State) (k age : Nat) : State :=
  s.onCmd k age (fun t x => (t.endXcmd age).remoteTrap x 11 s.dev.num.toNat 0)

/-- A command of a context that sends through a campus port. -/
def XCmd.sendsOn (cp : BitVec 2) (x : XCmd) : Bool := match x.what with | .send q _ => q = cp | _ => false

/-- A campus port goes to DOWN with a cause: its frames and posts are gone, and the transfers on it end. [DEDUCED, log 57] -/
def State.campusDown (s : State) (cp : BitVec 2) (err : Nat) : State :=
  let c := s.campusPort cp
  let sends := s.ctxs.flatMap (fun e => (e.2.fab.cmds.filter (XCmd.sendsOn cp)).map (fun x => (e.1, x.cap.age)))
  let posts := c.posts.map (fun p => (p.key, p.age))
  let t := (s.migLink (12 + cp.toNat)).setCampus cp { c with
    st := 0, err := BitVec.ofNat 4 err, buf := [], seq := [], rx := [], posts := [], lastAck := [], newkey := [], secret := 0, lkeys := [] }
  (sends ++ posts).foldl (fun t e => t.campusLost e.1 e.2) t

/-! ## Acknowledgements and resending (R439) -/

/-- A count that stops at 0xFFFF_FFFF (R441). -/
def bump32 (c : BitVec 32) : BitVec 32 := BitVec.ofNat 32 (Nat.min 0xFFFFFFFF (c.toNat + 1))

/-- A frame is sent again; after eight sendings the port goes to DOWN. -/
def State.resend (s : State) (cp : BitVec 2) (r : RFrame) : State :=
  let c := s.campusPort cp
  if !c.buf.contains r then s
  else if 8 ≤ r.sends then s.campusDown cp 5
  else
    s.setCampus cp { c with
      buf := c.buf.map (fun o => if o = r then { o with last := s.dcc, sends := o.sends + 1 } else o), resent := bump32 c.resent }

/-- Sends of a context whose frames have all left and are all acknowledged end (R469). -/
def State.sendsDone (s : State) (cp : BitVec 2) (l : List (Nat × Nat)) : State :=
  l.foldl (fun t e =>
    if (t.campusPort cp).buf.any (fun r => r.key = e.1 ∧ r.age = e.2) then t
    else t.onCmd e.1 e.2 (fun t x => if x.started then t.finish x 1 else t)) s

/-- An acknowledgement of a stream: frames below ACK are freed, those it shows missing are sent again. -/
def State.acked (s : State) (cp : BitVec 2) (stream : BitVec 16) (ack nseq : BitVec 48) (ncnt : BitVec 16) : State :=
  let c := s.campusPort cp
  let mine (r : RFrame) : Bool := r.f.stream = stream && decide (r.f.seq.toNat < ack.toNat)
  let t := s.setCampus cp { c with buf := c.buf.filter (fun r => !mine r) }
  let t := t.sendsDone cp (((c.buf.filter mine).map (fun r => (r.key, r.age))).eraseDups)
  ((t.campusPort cp).buf.filter (fun r => r.f.stream = stream ∧ nseq.toNat ≤ r.f.seq.toNat
    ∧ r.f.seq.toNat < nseq.toNat + ncnt.toNat)).foldl (fun t r => t.resend cp r) t

/-- CAMPUS_ACK_RECEIVE (R439). -/
def execCampusAckReceive (cp : BitVec 2) (stream : BitVec 16) (ack nseq : BitVec 48) (ncnt : BitVec 16) (s : State) : Ans :=
  .next (if (s.campusPort cp).st ≠ 4 then s else s.acked cp stream ack nseq ncnt)

/-- CAMPUS_RESEND_TIMEOUT (R439). -/
def execCampusResendTimeout (cp : BitVec 2) (stream : BitVec 16) (seq : BitVec 48) (s : State) : Ans :=
  let c := s.campusPort cp
  .next (match c.buf.find? (fun r => r.f.stream = stream ∧ r.f.seq = seq ∧ r.last.toNat + c.rto.toNat ≤ s.dcc.toNat) with
    | some r => if c.st = 4 then s.resend cp r else s
    | none => s)

/-- CAMPUS_ACKONLY (R439): at least every 12 000 cycles, where no frame of the stream carried an acknowledgement. -/
def execCampusAckonly (cp : BitVec 2) (stream : BitVec 16) (s : State) : Ans :=
  let c := s.campusPort cp
  .next (if c.st = 4 ∧ c.stream stream ≠ Stream.reset ∧ (SMap.get 0 c.lastAck stream.toNat).toNat + 12000 ≤ s.dcc.toNat then
      s.setCampus cp { c with lastAck := SMap.set 0 c.lastAck stream.toNat s.dcc }
    else s)

/-! ## Frames received (R438 to R440, R470) -/

/-- RTAG of DEST. [DEDUCED, log 57] -/
def destTag (d : Word) : BitVec 32 := d.setWidth 32
/-- FRAME of DEST. -/
def destFrame (d : Word) : Nat := bits d.toNat 55 32
/-- LAST of DEST. -/
def destLast (d : Word) : Bool := bit d.toNat 63

/-- The post that a verified frame matches: one that its message already fills, else the first one of its world and tag. [DEDUCED, log 57] -/
def Campus.postOf (c : Campus) (f : Frame) : Option Post :=
  let same (p : Post) : Bool := decide (p.world = f.world ∧ p.rtag = destTag f.dest)
  (c.posts.find? (fun p => same p && p.stream = some f.stream && decide (p.first + destFrame f.dest = f.seq.toNat))).or
    (c.posts.find? (fun p => same p && p.stream.isNone && decide (destFrame f.dest ≤ f.seq.toNat)))

/-- A frame counted (R439): the first frame not received moves past those received beyond it. -/
def Stream.take (x : Stream) (seq : BitVec 48) : Stream :=
  let rec go : Nat → Stream → Stream
    | 0, x => x
    | n + 1, x => if x.got.contains x.next then go n ⟨x.next + 1, x.got.erase x.next⟩ else x
  go (x.got.length + 1) ⟨x.next, x.got ++ [seq]⟩

/-- A frame was received before. -/
def Stream.has (x : Stream) (seq : BitVec 48) : Bool := decide (seq.toNat < x.next.toNat) || x.got.contains seq

/-- The posts of a port whose every frame is counted complete end (R470). -/
def State.postsDone (s : State) (cp : BitVec 2) : State :=
  let c := s.campusPort cp
  let done (p : Post) : Bool :=
    match p.last, p.stream with
    | some l, some st => decide (l < (c.stream st).next.toNat)
    | _, _ => false
  (c.posts.filter done).foldl (fun t p => t.onCmd p.key p.age (fun t x => t.finish x 1))
    (s.setCampus cp { c with posts := c.posts.filter (fun p => !done p) })

/-- A verified frame written to its post, unless it would run past the region or its page faults. [DEDUCED, log 57] -/
def State.writeFrame (s : State) (p : Post) (f : Frame) : State × Bool :=
  let o := 8192 * destFrame f.dest
  if p.hd.len.toNat < o + f.len then (s, false)
  else if (s.live (some p.hd)).isNone then (s, false)
  else
    match s.resolveAt p.key p.hd o f.len true with
    | .ok t runs => (t.storeSegs (cutRuns runs f.data), true)
    | .denied t | .page t _ | .blocked t _ => (t, false)

/-- CAMPUS_FRAME_RECEIVE (R439, R440, R470): every frame brings an acknowledgement of the reverse stream. -/
def execCampusFrameReceive (cp : BitVec 2) (f : Frame) (s : State) : Ans :=
  let c := s.campusPort cp
  .next (if c.st ≠ 4 then s
    else if !f.verified then s.setCampus cp { c with authfail := bump32 c.authfail }
    else
      let s := s.acked cp f.stream f.ack f.nseq f.ncnt
      let c := s.campusPort cp
      if f.ackonly ∨ c.st ≠ 4 ∨ (c.stream f.stream).has f.seq then s
      else
        match c.postOf f with
        | none => s
        | some p =>
          let (t, ok) := s.writeFrame p f
          if !ok then t
          else
            let c := t.campusPort cp
            let q : Post :=
              { p with
                stream := some f.stream, first := f.seq.toNat - destFrame f.dest
                last := if destLast f.dest then some f.seq.toNat else p.last }
            (t.setCampus cp { c with
              posts := c.posts.map (fun o => if o = p then q else o)
              rx := SMap.set Stream.reset c.rx f.stream.toNat ((c.stream f.stream).take f.seq) }).postsDone cp)

/-! ## Opening, attestation, keys (R433 to R435, R440, R441) -/

/-- CAMPUS_PORT_OPEN (R440, R441). -/
def execCampusPortOpen (cp : BitVec 2) (s : State) : Ans :=
  let c := s.campusPort cp
  .next (if c.st ≠ 0 ∨ !s.dev.ready ∨ c.etype.toNat < 0x600 then s else s.setCampus cp { c with st := 2 })

/-- CAMPUS_PORT_CLOSE (R441). -/
def execCampusPortClose (cp : BitVec 2) (s : State) : Ans :=
  .next (if (s.campusPort cp).st = 0 then s else s.campusDown cp 0)

/-- The state of a port of either kind; no port of a number that does not exist. -/
def State.portSt (s : State) (campus : Bool) (p : BitVec 4) : Nat :=
  if campus then (if p.toNat < 4 then (s.campusPort (p.setWidth 2)).st else 0) else if p.toNat < 12 then (s.port p.toNat).st else 0

/-- A port of either kind moves to a state. -/
def State.setPortSt (s : State) (campus : Bool) (p : BitVec 4) (st : Nat) : State :=
  if campus then s.setCampus (p.setWidth 2) { s.campusPort (p.setWidth 2) with st := st }
  else s.setPort p.toNat { s.port p.toNat with st := st }

/-- A port of either kind goes to DOWN. -/
def State.anyDown (s : State) (campus : Bool) (p : BitVec 4) (err : Nat) : State :=
  if campus then s.campusDown (p.setWidth 2) err else s.portDown p.toNat err

/-- An info string (R435, R440), as the number of its bytes in their order: a name of six letters, the sender's and the receiver's number of
n bytes each, their ports, the world and its EPOCH. [DESIGN CHOICE, log 95] -/
def keyInfo (name n src dst psrc pdst w : Nat) (epoch : BitVec 32) : Nat :=
  name + 2 ^ 48 * (src % 2 ^ (8 * n) + 2 ^ (8 * n) * (dst % 2 ^ (8 * n) + 2 ^ (8 * n) *
    (psrc % 2 ^ 8 + 2 ^ 8 * (pdst % 2 ^ 8) + 2 ^ 16 * (w % 2 ^ 8) + 2 ^ 24 * epoch.toNat)))

/-- "briwen" in ASCII. -/
def nameBriwen : Nat := 0x6E6577697262
/-- "campus" in ASCII. -/
def nameCampus : Nat := 0x737570_6D6163

/-- The keys of a world for both directions put into a key slot. -/
def putKeys (m : SMap (Option (BitVec 256))) (w : Nat) (slot : Bool) (tx rx : BitVec 256) : SMap (Option (BitVec 256)) :=
  let k := 4 * w + (if slot then 1 else 0)
  SMap.set none (SMap.set none m k (some tx)) (k + 2) (some rx)

/-- The link keys of a world at Briwen port p of a device, for an EPOCH: into the slot in use, or into the other one (R435). [DESIGN CHOICE, log 95] -/
def Port.derive (x : Port) (dev p w : Nat) (epoch : BitVec 32) (other : Bool) : Port :=
  let key (a b c d : Nat) : BitVec 256 := Config.linkKey x.secret (keyInfo nameBriwen 2 a b c d w epoch)
  { x with
    lkeys := putKeys x.lkeys w (SMap.get false x.keyidx w != other)
      (key dev x.peerdev.toNat p x.peerport.toNat) (key x.peerdev.toNat dev x.peerport.toNat p) }

/-- The campus keys of a world at campus port q (R440). [DESIGN CHOICE, log 95] -/
def Campus.derive (c : Campus) (q w : Nat) (epoch : BitVec 32) (other : Bool) : Campus :=
  let me := Config.deviceSerial.toNat
  let key (a b x y : Nat) : BitVec 256 := Config.linkKey c.secret (keyInfo nameCampus 8 a b x y w epoch)
  { c with
    lkeys := putKeys c.lkeys w (SMap.get false c.keyidx w != other)
      (key me c.peerserial.toNat q c.peerport.toNat) (key c.peerserial.toNat me c.peerport.toNat q) }

/-- A world's keys derived at every port that is UP (R435). [DESIGN CHOICE, log 95] -/
def State.deriveWorld (s : State) (w : Nat) (epoch : BitVec 32) (other : Bool) : State :=
  { s with
    ports := s.ports.map (fun (e : Nat × Port) => if e.2.st = 4 then (e.1, e.2.derive s.dev.num.toNat e.1 w epoch other) else e)
    campus := s.campus.map (fun (e : Nat × Campus) => if e.2.st = 4 then (e.1, e.2.derive e.1 w epoch other) else e) }

/-- PEER_CLOSED (R433, R440): ports 12 to 15 are the campus ports. -/
def execPeerClosed (port : BitVec 4) (s : State) : Ans :=
  .next (if port.toNat < 12 then if (s.port port.toNat).st = 4 then s.portDown port.toNat 6 else s
    else
      let q := BitVec.ofNat 2 (port.toNat - 12)
      if (s.campusPort q).st = 4 then s.campusDown q 6 else s)

/-- The keys of every open world derived at a port of either kind. -/
def State.deriveAll (s : State) (campus : Bool) (p : BitVec 4) : State :=
  ((List.range 192).filter (fun w => (s.world w).isOpen)).foldl (fun t w =>
    if campus then t.setCampus (p.setWidth 2) ((t.campusPort (p.setWidth 2)).derive (p.toNat % 4) w (s.world w).g.epoch false)
    else t.setPort p.toNat ((t.port p.toNat).derive s.dev.num.toNat p.toNat w (s.world w).g.epoch false)) s

/-- A session stands: its export master secret, and at a campus port the other end, which no register gives. [DESIGN CHOICE, log 95] -/
def State.session (s : State) (campus : Bool) (p : BitVec 4) : State :=
  let k := Config.sessionSecret s.dev.draws
  let (t, a) := s.draw
  let (t, b) := t.draw
  if campus then t.setCampus (p.setWidth 2) { t.campusPort (p.setWidth 2) with secret := k, peerserial := a, peerport := b.setWidth 8 }
  else t.setPort p.toNat { t.port p.toNat with secret := k }

/-- ATTEST_COMPLETE (R433, R434). -/
def execAttestComplete (campus : Bool) (port : BitVec 4) (ok : Bool) (s : State) : Ans :=
  .next (if s.portSt campus port ≠ 2 then s
    else if ok then (s.session campus port).setPortSt campus port 3 else s.anyDown campus port 3)

/-- KEYED_COMPLETE (R433, R435): the keys of every open world are in place. -/
def execKeyedComplete (campus : Bool) (port : BitVec 4) (ok : Bool) (s : State) : Ans :=
  .next (if s.portSt campus port ≠ 3 then s
    else if ok then (s.deriveAll campus port).setPortSt campus port 4 else s.anyDown campus port 4)

/-- HEARTBEAT_MISS (R434): of a session, which stands from the end of ATTEST on. -/
def execHeartbeatMiss (campus : Bool) (port : BitVec 4) (s : State) : Ans :=
  .next (if s.portSt campus port < 3 then s else s.anyDown campus port 3)

/-- LINK_KEY_SWITCH (R435): at a multiple of 2^20, where a key of the next EPOCH is in the other slot. -/
def execLinkKeySwitch (campus : Bool) (port : BitVec 4) (world : Nat) (s : State) : Ans :=
  .next (if s.portSt campus port ≠ 4 ∨ s.dcc.toNat % 2 ^ 20 ≠ 0 then s
    else if campus then
      let q := port.setWidth 2
      let c := s.campusPort q
      if SMap.get false c.newkey world then
        s.setCampus q { c with
          newkey := SMap.set false c.newkey world false, keyidx := SMap.set false c.keyidx world (!SMap.get false c.keyidx world) }
      else s
    else
      let c := s.port port.toNat
      if SMap.get false c.newkey world then
        s.setPort port.toNat { c with
          newkey := SMap.set false c.newkey world false, keyidx := SMap.set false c.keyidx world (!SMap.get false c.keyidx world) }
      else s)

end Sys2Proof.Machine
end

