-- ==== Sys2Proof/Machine/Fetch.lean ====
section
/-! DEFINITION. Fetch (R20 to R27, R31, R63, R64) and the delivery of engine instructions (R23 to R25, R86, R89, R90);
the events of the control stream and of the engines' instruction queues (R32, R75, R88, R89, R92, R132 to R142, R270,
R272, R365). -/

namespace Sys2Proof.Machine

/-! ## The place in the program -/

/-- The place after n lanes from the present one (R27). [DEDUCED, log 36] -/
def State.stepPast (s : State) (n : Nat) : State :=
  s.ctl (fun c =>
    if c.lane + n < 8 then { c with nline := c.line, nlane := c.lane + n }
    else { c with nline := c.line + 32, nlane := 0 })

/-- The lanes of the present line from the present lane on: those of the line's last bytes too where h0's LENGTH is no multiple of 32. [DEDUCED, log 36; DESIGN CHOICE, log 83] -/
def State.lanesHere (s : State) : List Lane :=
  let c := s.ctx.ctl
  (List.range (8 - c.lane)).map (fun i => s.laneAt c.line (c.lane + i))

/-- Fetch goes on at the present place: the context runs, fetch has not stopped, the last instruction's cycles are over
(R28, R98), and no hold but that of a fence for its
writes keeps it. [DEDUCED, log 36] -/
def State.canFetch (s : State) : Bool :=
  let c := s.ctx
  c.phase = .running && c.ctl.fetch = .run && decide (c.ctl.due ≤ s.dcc.toNat) && (c.ctl.hold = .none || c.ctl.hold = .writes)

/-- What fetch finds next: a control instruction to execute, an engine instruction with its lanes, or a state in
which something else was done: owed markers first (R89), then the end of the code (R31), fillers, which take no cycle (R22), and faults of
encoding (R33, R64). A revoked code handle acts as an empty slot (R395). -/
def State.fetchNext (s : State) : State × Option (Instr × List Lane) :=
  let c := s.ctx.ctl
  if !s.canFetch then (s, none)
  else if s.ctx.lp.owed ≠ 0 ∧ !s.ctx.csr.intrap then (s.pushOwed, none)
  else
    match s.slot 0 with
    | none => (s.controlTrap tNOHANDLE (word c.line), none)
    | some h =>
      if h.len.toNat ≤ c.line then (s.enterTrap tFETCHBOUND (word c.line) c.line 0 .none, none)
      else
        let l := s.lanesHere
        match decodeLanes l with
        | .filler => ((s.stepPast 1).advance.moveFirst (.fetch s.cur), none)
        | .bad reason lane => (s.controlTrap tILLEGAL (word (reason * 8 + c.lane + lane)), none)
        | .ok i n => (s.stepPast n, some (i, l.take n))

/-! ## Delivery (R23, R25, R86, R89, R90) -/

/-- An instruction delivered at a line joins the body of an engine's loop (R87, R89). -/
def LoopDel.inBody (l : LoopDel) (e : Engine) (line : Nat) : Bool :=
  l.open_ && l.mask.getLsbD (Config.engIdx e) && !l.owed.getLsbD (Config.engIdx e)
    && decide (l.first ≤ line ∧ line ≤ l.last)

/-- The instruction pushed into its engine's queue with what it captures. -/
def State.deliver (s : State) (i : Instr) (e : Engine) (lanes : List Lane) (body : Bool) : State :=
  let cap := s.capture i lanes s.ageNow
  let t := s.newAge.1
  let c := t.ctx.push e (.instr cap (!body))
  let k := Config.engIdx e
  t.setCtx (if body then { c with lp := { c.lp with counts := SMap.set 0 c.lp.counts k (SMap.get 0 c.lp.counts k + 1) } } else c)

/-- A fired trigger still has records to push: later items of the pump and the fabric engine wait for them (R460). [DEDUCED, log 32] -/
def State.firing (s : State) : Bool := s.ctx.fab.trigs.any (fun t => t.fired.isSome)

/-- DELIVER_ENGINE_INSTRUCTION (R23): dropped where its predicate is false, LOOPFAULT where a body would grow beyond
its queue, held where its queue has no room, else pushed. -/
def execDeliverEngineInstruction (lanes : List Lane) (s : State) : Ans :=
  if !s.canFetch ∨ s.ctx.ctl.hold ≠ .none then .next s
  else
    match decodeLanes lanes with
    | .ok i n =>
      match engineOf i with
      | none => .next s
      | some e =>
        let s := s.stepPast n
        if !s.ctx.ctl.getP (uses i).dp then .next s.advance
        else
          let body := s.ctx.lp.inBody e s.ctx.ctl.line
          let k := Config.engIdx e
          if body ∧ Config.queueDepth e ≤ SMap.get 0 s.ctx.lp.counts k + 2 then
            .next (s.closeLoop.controlTrap tLOOPFAULT (word (k * 16 + 1)))
          else if !s.ctx.room e ∨ ((e = .pump ∨ e = .fabric) ∧ s.firing) then .next (s.holdAs (.queue e))
          else .next (s.deliver i e (lanes.take n) body).advance
    | _ => .next s

/-! ## The control stream -/

/-- FETCH_HOLD_RELEASE (R25): the held instruction is handled again, and a fence pushes its next markers (R274). -/
def execFetchHoldRelease (s : State) : Ans :=
  .next (if s.ctx.phase ≠ .running ∨ s.ctx.ctl.fetch ≠ .run then s
    else
      match s.ctx.ctl.hold with
      | .queue e =>
        if s.ctx.room e ∧ !((e = .pump ∨ e = .fabric) ∧ s.firing) then
          (s.ctl (fun c => { c with hold := .none, held := 0 })).moveFirst (.fetch s.cur)
        else s
      | .marks todo left age f => if todo = 0 then s else State.pushMarks 6 todo left age f s
      | _ => s)

/-- TRAP_ENTRY (R365): two cycles after it was raised at the earliest, once the instruction in progress has completed,
and out of a trap; where TVEC.EN is 0 the strand and its gang stop at once, whatever control holds for. -/
def execTrapEntry (s : State) : Ans :=
  .next (match s.ctx.pending with
    | none => s
    | some (e, p) =>
      if s.ctx.phase = .running ∧ s.ctx.ctl.fetch ≠ .stopped ∧ !s.ctx.csr.intrap ∧ (!s.ctx.csr.tvecEn ∨
          (s.ctx.ctl.hold.abandoned ∧ s.ctx.ctl.due ≤ s.dcc.toNat ∧ p.at_.toNat + 2 ≤ s.dcc.toNat)) then s.enterPending e p
      else s)

/-- OWED_MARKER_PUSH (R89): after `tret`, or where `halt` has stopped fetch. -/
def execOwedMarkerPush (s : State) : Ans :=
  .next (if s.ctx.phase = .running ∧ (!s.ctx.csr.intrap ∨ s.ctx.ctl.fetch = .halted) then s.pushOwed else s)

/-- EVWAIT_MET (R272). -/
def execEvwaitMet (s : State) : Ans :=
  .next (match s.ctx.ctl.hold with
    | .evwait n t acq =>
      if s.ctx.phase = .running ∧ meets (s.ctx.ctl.getE n) t then (if acq then s.acquire n.toNat else s).advance else s
    | _ => s)

/-- WAITLIMIT (R272): the wait has lasted EVSTALL.LIMIT resident cycles unmet. -/
def execWaitlimit (s : State) : Ans :=
  .next (match s.ctx.ctl.hold with
    | .evwait n t _ =>
      let v := s.ctx.ctl.getE n
      let lim := s.ctx.csr.evstall.toNat
      if s.ctx.phase = .running ∧ lim ≠ 0 ∧ lim ≤ s.ctx.ctl.held ∧ !meets v t then
        s.controlTrap tWAITLIMIT (word (v.toNat * 2 ^ 32 + n.toNat))
      else s
    | _ => s)

/-- DCCWAIT_EXPIRY (R92): the next instruction is processed in the same cycle. -/
def execDccwaitExpiry (s : State) : Ans :=
  .next (match s.ctx.ctl.hold with
    | .dccwait t => if s.ctx.phase = .running ∧ t.toNat ≤ s.dcc.toNat then s.advance.moveFirst (.fetch s.cur) else s
    | _ => s)

/-! ## Posted writes and counters -/

/-- Runs of bytes overlap. -/
def segsOver (l m : List Seg) : Bool := l.any (fun a => m.any (fun b => decide (a.a < b.a + b.n ∧ b.a < a.a + a.n)))

/-- The oldest posted write of a source with an age, once its cycles are over (R98), it is translated, and no older write of
its source to the same bytes is still to be made (R76, R139). -/
def Ctx.ripe (c : Ctx) (now src age : Nat) : Option Flight :=
  let older := c.fl.takeWhile (fun f => !(f.src = src && f.age = age))
  match c.fl.find? (fun f => f.src = src ∧ f.age = age) with
  | some f =>
    if f.due ≤ now ∧ f.wait.isEmpty ∧ !older.any (fun o => o.src = src ∧ (!o.wait.isEmpty ∨ segsOver o.segs f.segs)) then some f else none
  | none => none

/-- A posted write is made, with the bits that it leaves as they are now (R178), and its item freed. [DESIGN CHOICE, log 8] -/
def State.land (s : State) (f : Flight) : State :=
  (s.setCtx { s.ctx with fl := s.ctx.fl.erase f }).storeSegs (keepBits s.mem f.keep f.segs)

/-- SCALAR_STORE_WRITTEN (R75). -/
def execScalarStoreWritten (age : Nat) (s : State) : Ans :=
  .next (match s.ctx.ripe s.dcc.toNat 6 age with
    | some f => s.land f
    | none => s)

/-- ENGINE_COMMAND_COMPLETE (R137): the command's bytes are written and its item freed. An exchange and a fabric
command still at work keep theirs; the end of compression or residual work raises its counter (R471). -/
def execEngineCommandComplete (e : Engine) (age : Nat) (s : State) : Ans :=
  .next (match s.ctx.ripe s.dcc.toNat (Config.engIdx e) age with
    | some f =>
      if e = .halo ∧ s.ctx.grids.any (fun g => match g.2 with | some r => r.age = age ∧ r.phase ≠ 0 | none => false) then s
      else
        match (if e = .fabric then s.xcmd age else none) with
        | none => s.land f
        | some x => if f.segs.isEmpty then s else (s.land f).finish x 1
    | none => s)

/-- COUNTER_INCREMENT_ARRIVAL (R270, R271, R450): at its cycle; one for a strand still being loaded waits, one for a
strand that has retired or does not exist is discarded. -/
def execCounterIncrementArrival (inc : Incr) (s : State) : Ans :=
  .next (if !s.incrs.contains inc ∨ s.dcc.toNat < inc.due then s
    else
      let t := { s with incrs := s.incrs.erase inc }
      match s.keyOf inc.gang inc.strand with
      | none => t
      | some k =>
        let c := s.ctxAt k
        if c.phase = .loading then s
        else t.setAt k { c with ctl := c.ctl.setE inc.ctr (c.ctl.getE inc.ctr + inc.amt) })

/-! ## Queue registers (R132 to R135) -/

/-- The instruction at an engine's head is the one being issued. -/
def State.issuing (s : State) (e : Engine) : Option State :=
  match (s.eng e).head with
  | some (c, _) => some { s with iss := c }
  | none => none

/-- QUEUE_PUSH (R132): the stalled push and those behind it are made as far as there is room; one that finds none after a
`tret` stalls anew, and its wait is counted (R135, R368). -/
def execQueuePush (e : Engine) (s : State) : Ans :=
  let x := s.eng e
  .next (match x.pushes with
    | p :: _ =>
      if s.ctx.phase ≠ .running ∨ x.frozen then s
      else if s.ctx.vec.qcount p.q < 4 then (State.pushAll e x.pushes s).placed
      else s.stall e (.push p.q)
    | [] => s)

/-- QUEUE_READ_STEP (R133): every queue the head reads holds an entry; the entries are read and popped in one step,
and the head goes on. -/
def execQueueReadStep (e : Engine) (s : State) : Ans :=
  .next (match s.issuing e with
    | none => s
    | some t =>
      let x := s.eng e
      let l := queueReads t.iss.instr
      match x.stall with
      | .read q =>
        if s.ctx.phase ≠ .running ∨ x.frozen ∨ s.ctx.vec.qcount q = 0 ∨ (s.ctx.vec.firstEmpty l).isSome then s
        else
          let u := if l.isEmpty then t.onEng e (fun x => { x with stall := .none, stalled := 0 }) else t.readAll e l
          u.moveFirst (.issue s.cur e)
      | _ => s)

/-- TINFO of QOVER and QUNDER (R135). -/
def stallInfo (step : Nat) (e : Engine) (q : Nat) : Word := word (step % 256 * 256 + Config.engIdx e * 32 + q)

/-- Pushes that a trap keeps: those of an instruction that has made one, and those whose command has ended. [DESIGN CHOICE, log 21] -/
def keepsPushes (e : Engine) (x : Eng) : Bool := x.made ≠ 0 || decide (1 < x.pushes.length) || e = .fabric

/-- QSTALL_LIMIT (R135): the stall of the head has lasted QSTALL.LIMIT resident cycles. While an A trap of the engine is pending the
trap waits, and with it the stall goes on (R366). -/
def execQstallLimit (e : Engine) (s : State) : Ans :=
  let x := s.eng e
  let lim := s.ctx.csr.qstall.toNat
  .next (if s.ctx.phase ≠ .running ∨ x.frozen ∨ x.pend.isSome ∨ lim = 0 ∨ x.stalled < lim then s
    else
      match s.issuing e with
      | none => s
      | some t =>
        match x.stall with
        | .read q =>
          let q := (s.ctx.vec.firstEmpty (queueReads t.iss.instr)).getD q
          t.freeze e tQUNDER (stallInfo 0 e q)
        | .push q =>
          let u := t.freeze e tQOVER (stallInfo x.made e q)
          if keepsPushes e x then u else (u.unread e).onEng e (fun x => { x with pushes := [] })
        | _ => s)

/-! ## Markers (R88, R142) -/

/-- LOOP_SKEW_END (R88): the marker leaves the head, and the body begins. -/
def execLoopSkewEnd (e : Engine) (s : State) : Ans :=
  let x := s.eng e
  .next (match x.q, x.loop with
    | .loopMark age n skew :: r, none =>
      if s.ctx.phase = .running ∧ skew ≤ x.stalled then
        s.onEng e (fun x => { x with q := r, stalled := 0, loop := some ⟨n, age, [], 0, 0, 0⟩ })
      else s
    | _, _ => s)

/-- LOOP_END_MARKER (R88): the first time, the kept body is to be executed N − 1 times more; after the last, the
marker leaves and the body is discarded. -/
def execLoopEndMarker (e : Engine) (s : State) : Ans :=
  let x := s.eng e
  .next (match x.q, x.loop with
    | .endMark age :: r, some l =>
      if s.ctx.phase ≠ .running then s
      else if (l.exec = 0 ∧ (l.n ≤ 1 ∨ l.body.isEmpty)) ∨ (l.exec ≠ 0 ∧ l.n ≤ l.exec) then
        s.onEng e (fun x => { x with q := r, loop := none })
      else if l.exec = 0 then s.onEng e (fun x => { x with loop := some { l with exec := 1, pos := 0, endAge := age } })
      else s
    | .endMark _ :: r, none => if s.ctx.phase ≠ .running then s else s.onEng e (fun x => { x with q := r })
    | _, _ => s)

/-- FENCE_MARKER_HEAD (R142, R274, R275): the marker leaves; with the last of them `fencem` ends, and `fence` goes on
to wait for its writes. A marker of an abandoned fence only leaves (R365). -/
def execFenceMarkerHead (e : Engine) (s : State) : Ans :=
  let x := s.eng e
  .next (match x.q with
    | .fenceMark age :: r =>
      if s.ctx.phase ≠ .running ∨ x.frozen then s
      else
        let t := s.onEng e (fun x => { x with q := r })
        match s.ctx.ctl.hold with
        | .marks todo left a f =>
          if a ≠ age then t
          else
            let left := dropBit left e
            if todo ≠ 0 ∨ left ≠ 0 then t.ctl (fun c => { c with hold := .marks todo left a f })
            else if f then t.ctl (fun c => { c with hold := .writes })
            else t.advance
        | _ => t
    | _ => s)

end Sys2Proof.Machine
end

