-- ==== Sys2Proof/Machine/Translate.lean ====
section
/-! DEFINITION. The translation unit's events (R244 to R248, R251, R267 to R269, R369), and the arithmetic clock with
the static energy of R386. -/

namespace Sys2Proof.Machine

/-! ## Invalidation (R246, R251) -/

/-- The addresses that a write to XINV covers: first and past the last. -/
def xinvRange (v : Nat) : Nat × Nat :=
  let va := bits v 56 19 * 2 ^ 19
  match v % 4 with
  | 0 => (va, va + 2 ^ 19)
  | 1 => (va / 2 ^ 25 * 2 ^ 25, va / 2 ^ 25 * 2 ^ 25 + 2 ^ 25)
  | 2 => (va / 2 ^ 30 * 2 ^ 30, va / 2 ^ 30 * 2 ^ 30 + 2 ^ 30)
  | _ => (0, 2 ^ 57)

/-- The translation registers of a world changed. -/
def State.onXlat (s : State) (w : Nat) (f : Xlat → Xlat) : State :=
  s.setWorld w { s.world w with x := f (s.world w).x }

/-- XINV (R246): an invalidation starts; one already running makes the write ignored. -/
def execXinv (_ w : Nat) (v : Word) (s : State) : Ans :=
  .next (if !s.dev.ready ∨ 191 < w then s
    else s.onXlat w (fun x => if x.inv.isSome then { x with drop := true } else { x with inv := some (xinvRange v.toNat) }))

/-- Two ranges of addresses meet. [DEDUCED, log 39] -/
def meetsRange (lo hi a n : Nat) : Bool := decide (a < hi ∧ lo < a + n)

/-- A record through which a range of a world's addresses is reached. -/
def Handle.inside (h : Handle) (w lo hi : Nat) : Bool :=
  h.level ≠ 0 && h.world.toNat = w && meetsRange lo hi h.base.toNat h.len.toNat

/-- A captured command names such a record. -/
def Cap.inside (c : Cap) (w lo hi : Nat) : Bool :=
  c.h.any (fun e => match e.2 with | some h => h.inside w lo hi | none => false)

/-- A context has accesses in progress that were translated, perhaps through the range (R246). [DEDUCED, log 39] -/
def Ctx.translated (c : Ctx) (w lo hi : Nat) : Bool :=
  c.fl.any (fun f => f.world.toNat = w ∧ !f.segs.isEmpty)
    || c.pump.fly.any (fun p => !p.wait && p.cap.inside w lo hi)

/-- Table entries of a world that an invalidation of a range makes effective (R246): all that lie in its regions, or those on the
walks of the pages covered. [DESIGN CHOICE, log 85] -/
def State.tell (s : State) (w lo hi : Nat) : State :=
  if lo = 0 ∧ hi = 2 ^ 57 then { s with told := s.told.filter (fun e => s.regionWorld (8 * e.1) ≠ some w) }
  else
    let x := (s.world w).x
    let path := (List.range ((hi - lo) / 2 ^ 19)).flatMap (fun i => s.pathFrom (lo + i * 2 ^ 19) 5 0 x.root)
    { s with told := path.foldl (fun m a => SMap.erase (SMap.erase m (a / 8)) (a / 8 + 1)) s.told }

/-- What waited for an invalidation of a range may try again (R268, R369). [DEDUCED, log 40] -/
def Ctx.retry (c : Ctx) (w lo hi : Nat) : Ctx :=
  let hit (p : Nat × Nat) : Bool := decide (p.1 = w ∧ lo ≤ p.2 ∧ p.2 < hi)
  { c with
    rq := c.rq.map (fun p =>
      let on (g : Nat) : Bool := decide (lo ≤ g * 2 ^ 19 ∧ (g + 1) * 2 ^ 19 ≤ hi)
      if p.world.toNat ≠ w then p
      else if (pagesOfSegs p.segs).all on then { p with covered := true, tried := false }
      else if (pagesOfSegs p.segs).any on then { p with tried := false } else p)
    fl := c.fl.map (fun f =>
      if f.world.toNat = w ∧ f.wait.any (fun g => meetsRange lo hi g.a g.n) then { f with stale := true } else f)
    pump := { c.pump with
      buf := c.pump.buf.map (fun p => if p.wait ∧ hit p.page then { p with inv := true } else p)
      fly := c.pump.fly.map (fun p => if p.wait ∧ hit p.page then { p with inv := true } else p) }
    fab := { c.fab with cmds := c.fab.cmds.map (fun x => if x.wait ∧ hit x.page then { x with inv := true } else x) } }

/-- INVALIDATION_COMPLETE (R246): the covered entries are gone, with their counts written back, and every access
translated through them has completed. -/
def execInvalidationComplete (w : Nat) (s : State) : Ans :=
  .next (match (s.world w).x.inv with
    | none => s
    | some (lo, hi) =>
      if s.ctxs.any (fun e => e.2.translated w lo hi) then s
      else
        let cache := (s.world w).x.cache
        let hit (t : Tlb) : Bool := meetsRange lo hi t.va t.size
        let t := ((cache.filter hit).foldl State.writeBack s).tell w lo hi
        let t := t.onXlat w (fun x => { x with cache := cache.filter (fun e => !hit e), inv := none })
        { t with
          ctxs := t.ctxs.map (fun e => (e.1, e.2.retry w lo hi))
          worlds := SMap.set World.reset t.worlds w { t.world w with cqWait := false }
          net := t.net.map (fun m => if m.world.toNat = w ∧ m.wait.any (fun va => lo ≤ va ∧ va < hi) then { m with wait := none } else m) })

/-! ## Walks, waiting writes and the replay queue -/

/-- TRANSLATION_WALK (R244, R245): the leaf is cached, a fault is recorded. -/
def execTranslationWalk (w : Nat) (va : BitVec 57) (s : State) : Ans :=
  .next (match s.lookup w va.toNat with
    | .leaf t => s.cacheSet w t
    | .fault l r ln => s.recordFault w va.toNat l r ln
    | .refused => s.logged logRefusal (va.setWidth 64))

/-- Virtual runs of a world resolved for writing, in order. [DEDUCED, log 40] -/
def State.resolveSegs (s : State) (w : Nat) (l : List Seg) : Except Acc (State × List Seg) :=
  match s.resolveVas s.cur w (l.map (fun g => (g.a, g.n))) true with
  | .ok (t, rs) => .ok (t, (rs.zip l).flatMap (fun e => cutRuns e.1 e.2.v))
  | .error e => .error e

/-- TRANSLATION_WAIT_RESUME (R369): a waiting write of a command is translated afresh; it waits again where it cannot
be, and is dropped with PARTITION where the access tables refuse it (R390). -/
def execTranslationWaitResume (age : Nat) (s : State) : Ans :=
  .next (match s.ctx.fl.find? (fun f => f.age = age ∧ f.stale) with
    | none => s
    | some f =>
      let put (t : State) (g : Flight) : State :=
        t.setCtx { t.ctx with fl := t.ctx.fl.map (fun x => if x = f then g else x) }
      match s.resolveSegs f.world.toNat f.wait with
      | .ok (t, l) => put t { f with segs := f.segs ++ l, wait := [], stale := false }
      | .error (.page t _) | .error (.blocked t _) => put t { f with stale := false }
      | .error (.denied t) =>
        let u := put t { f with wait := [], stale := false }
        (match Config.engines[f.src]? with
          | some e => u.raiseA u.cur e tPARTITION f.tinfo f.line f.lane
          | none => u)
      | .error (.ok t _) => t)

/-- REPLAY_ENTRY (R268, R269): a covered entry, none older of which shares a page, is translated afresh and written;
where it still faults it stays parked until another invalidation of one of its pages. A parked atomic lets control go on. One that the access
tables refuse has no effect and raises PARTITION (R390); a scalar store's trap is entered at an instruction boundary. [DESIGN CHOICE, log 84] -/
def execReplayEntry (idx : Nat) (s : State) : Ans :=
  .next (match s.ctx.rq[idx]? with
    | none => s
    | some p =>
      let pages := pagesOfSegs p.segs
      let older := (s.ctx.rq.take idx).any (fun o => o.world = p.world ∧ (pagesOfSegs o.segs).any pages.contains)
      if s.ctx.phase ≠ .running ∨ !p.covered ∨ p.tried ∨ older then s
      else
        let gone (t : State) : State := t.setCtx { t.ctx with rq := t.ctx.rq.eraseIdx idx }
        let back (t : State) : State := t.setCtx { t.ctx with rq := t.ctx.rq.set idx { p with tried := true } }
        match s.resolveSegs p.world.toNat p.segs with
        | .error (.page t _) | .error (.blocked t _) => back t
        | .error (.denied t) =>
          let u := gone t
          if p.atom.isSome then (if u.ctx.ctl.hold = .parked p.age then u.controlTrap tPARTITION p.tinfo else u)
          else
            (match Config.engines[p.src]? with
              | some e => u.raiseA u.cur e tPARTITION p.tinfo p.line p.lane
              | none =>
                if u.ctx.ctl.hold.abandoned ∧ u.ctx.ctl.due ≤ u.dcc.toNat then u.controlTrap tPARTITION p.tinfo else s)
        | .error (.ok t _) => t
        | .ok (t, l) =>
          match p.atom with
          | none => (gone t).storeSegs (keepBits t.mem p.keep l)
          | some x =>
            let runs := l.map (fun g => (g.a, g.n))
            match t.badRun runs with
            | some ln => (gone t).integrityStop t.cur p.world.toNat ln
            | none =>
              let u := (gone t).doAtom x runs
              if u.ctx.ctl.hold = .parked p.age then u.advance else u)

/-! ## The arithmetic clock -/

/-- The stall counts of an engine advance: a stalled head, or a loop marker at the head of its queue (R88, R135). -/
def Eng.tick (e : Eng) : Eng :=
  let skewing : Bool := match e.q, e.loop with
    | .loopMark _ _ _ :: _, none => true
    | _, _ => false
  if !e.frozen ∧ (e.stall ≠ .none ∨ skewing) then { e with stalled := e.stalled + 1 } else e

/-- A cycle of a resident context: counts of waits in which it runs (R135, R272, R333). -/
def Ctx.tick (c : Ctx) : Ctx :=
  if c.phase = .running then
    { c with
      ctl := if c.ctl.hold = .none then c.ctl else { c.ctl with held := c.ctl.held + 1 }
      eng := c.eng.map (fun e => (e.1, e.2.tick)) }
  else c

/-- The static energy of a cycle of a bound context (R386), in 1/128 pJ. [DEDUCED, log 39] -/
def State.static (s : State) (b : Bind) : Nat :=
  (if b.run then 128 * s.weight 7 else 0) + s.weight 8 * b.psize

/-- The energy of a cycle in which the vector engine stalls at a queue register, which adds to its occupancy (R135, R184, R386), in 1/128 pJ. -/
def State.stallEnergy (s : State) (c : Ctx) : Nat :=
  let x := c.engAt .vector
  let on : Bool := match x.stall with | .read _ | .push _ => true | _ => false
  if c.phase = .running ∧ on ∧ !x.frozen then 128 * s.weight 3 else 0

/-- ARITHMETIC_CLOCK_TICK (R4, R386, R491): the DCC advances, once it has started; windows that lie in the past are
forgotten. -/
def execArithmeticClockTick (s : State) : Ans :=
  .next (if !s.dev.ready then s else { s with
    dcc := s.dcc + 1
    dev := { s.dev with ew := s.dev.ewNext }
    ctxs := s.ctxs.map (fun e =>
      let b := s.bindAt e.1
      let c := e.2.tick
      let c := { c with pump := { c.pump with ended := c.pump.ended.filter (fun x => decide (s.dcc.toNat < x.2)) } }
      (e.1, { c with en := c.en.add128 ((if b.valid then s.static b else 0) + s.stallEnergy c) }))
    rx := s.rx ++ (s.landing.filter (fun x => decide (x.1 ≤ s.dcc.toNat + 1))).map (·.2)
    landing := s.landing.filter (fun x => decide (s.dcc.toNat + 1 < x.1))
    chans := s.chans.filter (fun x => s.dcc.toNat < x.hi) })

end Sys2Proof.Machine
end

