-- ==== Sys2Proof/Machine/Gangs.lean ====
section
/-! DEFINITION. From submission to retirement (R213 to R227, R391, R392, R404 to R407, R479, R484): launch records and
minting, the scheduler core's policy, dispatch, the start of a gang, its end, and service calls. -/

namespace Sys2Proof.Machine

/-! ## Memory of a world, as the scheduler core and dispatch reach it -/

/-- n bytes at a virtual address of a world, where every page translates and every line passes its check; what stops the read
is recorded (R244, R390, R400). [DESIGN CHOICE, log 62] -/
def State.readVa (s : State) (w va n : Nat) : State × Option Nat :=
  match s.reach [1024] w va n false with
  | .ok t runs =>
    match t.badRun runs with
    | some ln => (t.integrity w ln, none)
    | none => (t, some (readRuns t.mem runs))
  | .page t _ | .blocked t _ | .denied t => (t, none)

/-- n bytes written at a virtual address of a world, where every page translates and lets writes pass; what stops the write is
recorded (R244, R390). [DESIGN CHOICE, log 62] -/
def State.writeVa (s : State) (w va n v : Nat) : State × Bool :=
  match s.reach [1024] w va n true with
  | .ok t runs => (t.storeSegs (cutRuns runs v), true)
  | .page t _ | .blocked t _ | .denied t => (t, false)

/-! ## Launch records (R216, R217) -/

/-- Bits hi..lo of the little-endian word at a byte offset. -/
def fieldAt (v off hi lo : Nat) : Nat := bits (v >>> (8 * off)) hi lo

/-- Team t of a record. -/
def recTeam (v t : Nat) : Option Team :=
  let o := 0x20 + 4 * t
  if bit (v >>> (8 * o)) 16 then some ⟨BitVec.ofNat 8 (fieldAt v o 7 0), BitVec.ofNat 8 (fieldAt v o 15 8)⟩ else none

/-- Strand i of a record. -/
def recStrand (v i : Nat) : StrandRec :=
  let o := 0x60 + 80 * i
  { entry := fieldAt v o 12 0, stage := BitVec.ofNat 8 (fieldAt v o 23 16), pre := BitVec.ofNat 8 (fieldAt v o 31 24)
    val := (List.range 8).map (fun k => word (fieldAt v (o + 16 + 8 * k) 63 0)) }

/-- Handle table entry at an offset. -/
def recHandle (v o : Nat) : HandleRec :=
  let w (k : Nat) : Word := word (fieldAt v (o + 8 * k) 63 0)
  ⟨w 0, w 1, w 2, w 3, w 4, w 5, w 6, w 7⟩

/-- Strands and handles that a record's first bytes announce. -/
def recCounts (v : Nat) : Nat × Nat :=
  ((fieldAt v 0 26 25 + 1) * (fieldAt v 0 30 27 + 1) * (fieldAt v 0 33 31 + 1), fieldAt v 0 51 46)

/-- Bytes of a record (R216, R391). -/
def recBytes (v : Nat) : Nat := let (n, h) := recCounts v; 0x60 + 80 * n + 64 * (h + 1)

/-- The record's reserved bits are zero and its fields in range; its block fits R213. -/
def recOk (v : Nat) : Bool :=
  let (n, _) := recCounts v
  fieldAt v 0 15 0 = 1 && fieldAt v 0 63 52 = 0 && fieldAt v 0x10 63 16 = 0 && fieldAt v 0x18 63 0 = 0
    && decide (1 ≤ fieldAt v 0 45 38 ∧ fieldAt v 0 45 38 ≤ 128)
    && decide (fieldAt v 0 17 16 + fieldAt v 0 26 25 + 1 ≤ 4)
    && decide (fieldAt v 0 21 18 + fieldAt v 0 30 27 + 1 ≤ 12)
    && decide (fieldAt v 0 24 22 + fieldAt v 0 33 31 + 1 ≤ 8)
    && (List.range 15).all (fun i => fieldAt v (0x24 + 4 * i) 31 17 = 0)
    && (List.range n).all (fun i => fieldAt v (0x60 + 80 * i) 15 13 = 0 && fieldAt v (0x60 + 80 * i) 63 32 = 0
      && fieldAt v (0x68 + 80 * i) 63 0 = 0)

/-- The teams are valid (R217). -/
def teamsOk (r : LaunchRec) : Bool :=
  r.teams.all (fun e => match e.2 with
    | some t => decide (t.lo.toNat ≤ t.hi.toNat) && r.strands.any (fun x => t.has x.stage)
    | none => true)

/-- The record at an address, read and checked. [DEDUCED, log 42] -/
def State.readRecord (s : State) (w va : Nat) : State × Option LaunchRec :=
  match s.readVa w va 0x60 with
  | (s, none) => (s, none)
  | (s, some hd) =>
    match s.readVa w va (recBytes hd) with
    | (s, none) => (s, none)
    | (s, some v) =>
      let (n, nh) := recCounts v
      let r : LaunchRec :=
        { va := va, d0 := fieldAt v 0 17 16, c0 := fieldAt v 0 21 18, k0 := fieldAt v 0 24 22
          nd := fieldAt v 0 26 25 + 1, nc := fieldAt v 0 30 27 + 1, nk := fieldAt v 0 33 31 + 1
          tagmode := bit v 34, prio := fieldAt v 0 36 35
          link := if bit v 37 then some (BitVec.ofNat 16 (fieldAt v 0x10 15 0)) else none
          psize := fieldAt v 0 45 38, start := word (fieldAt v 8 63 0)
          teams := (List.range 15).foldl (fun m i => SMap.set none m (i + 1) (recTeam v (i + 1))) []
          strands := (List.range n).map (recStrand v)
          handles := (List.range (nh + 1)).map (fun i => recHandle v (0x60 + 80 * n + 64 * i)) }
      (s, if recOk v ∧ teamsOk r then some r else none)

/-! ## Minting (R391 to R393) -/

/-- Checks 1 to 7 of R392 on entry i of a record; 5 against the partition size. -/
def State.entryOk (s : State) (w : Nat) (r : LaunchRec) (i : Nat) (e : HandleRec) : Bool :=
  let f (x : Word) (hi lo : Nat) : Nat := bits x.toNat hi lo
  let n := r.strands.length
  let level := f e.w0 63 61
  let swz := f e.w3 63 62
  let pitch := f e.w3 19 0
  let len := f e.w1 47 0
  let rights := f e.w2 7 0
  let addr := f e.w0 22 0
  decide (level ≤ 2) && f e.w0 60 57 = 0 && f e.w1 63 48 = 0 && decide (1 ≤ len) && f e.w2 31 30 = 0 && f e.w2 15 8 = 0
    && f e.w3 61 40 = 0 && f e.w4 63 63 = 0 && f e.w5 31 6 = 0 && e.w6 = 0 && e.w7 = 0
    && decide (f e.w2 19 16 ≤ 10) && f e.w2 7 5 = 0
    && decide (1 ≤ f e.w2 63 32) && !s.revoked w (BitVec.ofNat 32 (f e.w2 63 32))
    && (swz = 0 || (decide (swz ≤ 2) && level = 0 && addr % 2048 = 0 && len % 2048 = 0
        && [128, 256, 512, 1024, 2048, 4096, 8192, 16384, 32768, 65536, 131072, 262144, 524288].contains pitch))
    && (level ≠ 0 || (f e.w0 56 23 = 0 && decide (addr + len ≤ r.psize * 65536 ∧ f e.w5 47 32 < n)))
    && (if i = 0 then level = 1 && bit rights 2 && !bit rights 1 && !bit rights 3 && decide (len ≤ 2 ^ 18)
          && f e.w5 63 48 = 0 && f e.w5 5 0 = 0
        else !bit rights 2 && decide (f e.w5 63 48 < n) && f e.w5 5 0 ≠ 0)

/-- Check 8: no two entries name the same owner and slot. -/
def distinctSlots (l : List HandleRec) : Bool :=
  let k := (l.drop 1).map (fun e => (bits e.w5.toNat 63 48, bits e.w5.toNat 5 0))
  k.eraseDups.length = k.length

/-- The record that an entry mints, with its serial number; `at_` gives a strand's core id and partition base. [DEDUCED, log 47] -/
def State.mint (s : State) (w : Nat) (at_ : Nat → Nat × Nat) (serial : Word) (e : HandleRec) : Handle :=
  let f (x : Word) (hi lo : Nat) : Nat := bits x.toNat hi lo
  let level := f e.w0 63 61
  let (core, pb) := at_ (f e.w5 47 32)
  s.sealed
    { level := BitVec.ofNat 3 level
      base := BitVec.ofNat 57 (if level = 0 then core * 2 ^ 23 + pb * 65536 + f e.w0 22 0 else f e.w0 56 0)
      len := BitVec.ofNat 48 (f e.w1 47 0), gen := BitVec.ofNat 32 (f e.w2 63 32)
      sync := if bit e.w2.toNat 29 then some (BitVec.ofNat 6 (f e.w2 28 23)) else none
      pc := BitVec.ofNat 3 (f e.w2 22 20), fmt := fmtOf (f e.w2 19 16), world := BitVec.ofNat 8 w
      rights := BitVec.ofNat 8 (f e.w2 7 0), geo0 := e.w3, geo1 := e.w4, w5 := serial, w6 := 0, mac := 0 }

/-! ## Completion entries (R224, R479) -/

/-- DONE, FAULT, REJECTED and LOST. -/
def stDONE : Nat := 0
def stFAULT : Nat := 1
def stREJECTED : Nat := 2
def stLOST : Nat := 3

/-- A completion entry kept until it can be written; its phase and its cycle are put in then. [DEDUCED, log 48] -/
def State.postEntry (s : State) (w : Nat) (status trap strand gang : Nat) (tag : BitVec 16) (sq : BitVec 2) : State :=
  let x := s.world w
  let e : Cqe := ⟨word (trap % 256 * 2 ^ 48 + strand % 65536 * 2 ^ 32 + gang % 65536 * 2 ^ 16 + tag.toNat),
    word (sq.toNat * 4 + status)⟩
  s.setWorld w { x with kept := x.kept ++ [e] }

/-- The queue is on (R479). -/
def Subq.on (q : Subq) : Bool := decide (4 ≤ q.log ∧ q.log ≤ 16)
/-- The next position of a queue. -/
def Subq.after (q : Subq) (p : BitVec 16) : BitVec 16 := BitVec.ofNat 16 ((p.toNat + 1) % 2 ^ q.log)

/-- COMPLETION_POST (R479): the oldest kept entry is written where the queue is on and has room; where its page faults or blocks
writes it is tried again after an invalidation or a write to CQBASE; here `head` is the
consumer's position and `tail` the device's. -/
def execCompletionPost (w : Nat) (s : State) : Ans :=
  let x := s.world w
  .next (match x.kept with
    | [] => s
    | e :: r =>
      let q := x.cq
      if !q.on ∨ q.after q.tail = q.head ∨ x.cqWait then s
      else
        let w0 := e.w0.toNat + (if x.phase then 2 ^ 63 else 0)
        let w1 := e.w1.toNat + s.dcc.toNat % 2 ^ 32 * 2 ^ 32
        match s.writeVa w (q.va + 16 * q.tail.toNat) 16 (w0 + w1 * 2 ^ 64) with
        | (t, false) => t.setWorld w { t.world w with cqWait := true }
        | (t, true) =>
          let t := t.setWorld w { t.world w with
            kept := r, cq := { q with tail := q.after q.tail }
            phase := if q.after q.tail = 0 then !x.phase else x.phase }
          t.irq w 0)

/-- The application hart whose accesses a number stands for: 0 and 1 are the host ports, and the harts follow (R483). [DESIGN CHOICE, log 80] -/
def State.hart (s : State) (port : Nat) : Option Hart :=
  if 2 ≤ port ∧ port < 18 then some (SMap.get Hart.reset s.dev.harts (port - 2)) else none
/-- A hart sees the page of a world: the world's own, and those of the physical function (R483). [DESIGN CHOICE, log 80] -/
def Hart.sees (h : Hart) (w : Nat) : Bool := h.pfNow || h.worldNow.toNat = w
/-- A write to a queue register of a world comes from the holder's port (R477), or from a hart that sees it (R483). [DESIGN CHOICE, log 80] -/
def State.rings (s : State) (port w : Nat) : Bool :=
  port = s.dev.holder || (match s.hart port with | some h => h.sees w | none => false)

/-- CQHEAD_WRITE (R477, R479, R483). -/
def execCqheadWrite (port w : Nat) (pos : BitVec 16) (s : State) : Ans :=
  let x := s.world w
  .next (if !s.rings port w ∨ !s.dev.ready ∨ 191 < w ∨ 2 ^ x.cq.log ≤ pos.toNat then s else s.setWorld w { x with cq := { x.cq with head := pos } })

/-! ## Submission (R218, R222, R479) -/

/-- A gang id is in use. [DESIGN CHOICE, log 43] -/
def State.idUsed (s : State) (g : Nat) : Bool := (s.gang g).isSome || s.launches.any (fun l => l.gang.toNat = g)

/-- The first free id from n on, ids going from 1 to 65535. [DESIGN CHOICE, log 43] -/
def State.freeId (s : State) : Nat → Nat → Nat
  | 0, n => n
  | k + 1, n => if s.idUsed n then s.freeId k (n % 65535 + 1) else n

/-- The gangs linked with a gang, itself among them, by ids (R222): k rounds over the link relation. -/
def State.linkedWith (s : State) : Nat → List Nat → List Nat
  | 0, l => l
  | k + 1, l =>
    let edges : List (Nat × Nat) :=
      s.gangs.filterMap (fun e => e.2.bind (fun g => g.link.map (fun x => (e.1, x.toNat))))
        ++ s.launches.filterMap (fun x => x.r.link.map (fun y => (x.gang.toNat, y.toNat)))
    let more := edges.filterMap (fun e =>
      if l.contains e.1 ∧ !l.contains e.2 then some e.2 else if l.contains e.2 ∧ !l.contains e.1 then some e.1 else none)
    match more with
    | [] => l
    | x :: _ => s.linkedWith k (l ++ [x])
/-- The linked set of a gang. -/
def State.linkedSet (s : State) (g : Nat) : List Nat := s.linkedWith (s.gangs.length + s.launches.length + 1) [g]

/-- The cores of a resident or pending gang. -/
def State.coresOfId (s : State) (g : Nat) : List Nat :=
  match s.gang g with
  | some x => x.r.cores
  | none => match s.launches.find? (fun l => l.gang.toNat = g) with | some l => l.r.cores | none => []

/-- A launch taken up, or rejected for a reason of R222. -/
def State.submit (s : State) (w k : Nat) (tag : BitVec 16) (ok : Bool) (va : Nat) : State :=
  let no (s : State) : State := s.postEntry w stREJECTED 0 0 0 tag (BitVec.ofNat 2 k)
  if !ok then no s
  else
    match s.readRecord w va with
    | (s, none) => no s
    | (s, some r) =>
      let linkOk : Bool := match r.link with | some g => s.idUsed g.toNat | none => true
      if r.prio ≠ k ∨ !linkOk then no s
      else
        let id := s.freeId (s.gangs.length + s.launches.length) (s.nextLaunch % 65535 + 1)
        let l : Launch :=
          { id := s.nextLaunch, world := w, tag := tag, sq := BitVec.ofNat 2 k, since := s.dcc, aged := 0
            gang := BitVec.ofNat 16 id, r := r }
        let t := { s with launches := s.launches ++ [l], nextLaunch := s.nextLaunch + 1 }
        if 384 < ((t.linkedSet id).map (fun g => (t.coresOfId g).length)).sum then no s else t

/-- The entry at SQHEAD read (R479). [DEDUCED, log 42] -/
def State.takeEntry (s : State) (w k : Nat) : State :=
  let x := s.world w
  let q := SMap.get Subq.reset x.sq k
  let t := s.setWorld w { x with sq := SMap.set Subq.reset x.sq k { q with head := q.after q.head } }
  match t.readVa w (q.va + 16 * q.head.toNat) 16 with
  | (t, none) => t.submit w k 0 false 0
  | (t, some v) =>
    t.submit w k (BitVec.ofNat 16 (fieldAt v 8 15 0)) (fieldAt v 0 63 57 = 0 && fieldAt v 8 63 16 = 0) (fieldAt v 0 56 0)

/-- Entries read from SQHEAD up to the tail. -/
def State.drain (w k : Nat) : Nat → State → State
  | 0, s => s
  | n + 1, s =>
    let q := SMap.get Subq.reset (s.world w).sq k
    if q.head = q.tail then s else State.drain w k n (s.takeEntry w k)

/-- The scheduler core reads a queue: not while its firmware drains, nor while the interface is locked (R481, R487). -/
def State.readQueue (s : State) (w k : Nat) : State :=
  let q := SMap.get Subq.reset (s.world w).sq k
  if s.dev.fw.state = 2 then { s with dev := { s.dev with fw := { s.dev.fw with bells := s.dev.fw.bells ++ [.queue w k] } } }
  else if (s.world w).tdisp = .locked ∨ (s.world w).tdisp = .error then s
  else State.drain w k ((q.tail.toNat + 2 ^ q.log - q.head.toNat) % 2 ^ q.log) s

/-- LAUNCH_SUBMIT (R218, R477, R479, R483): the doorbell of queue k. A write takes its place in memory when it is made, so that every earlier
write of the hart that rings is released (R252). [DESIGN CHOICE, log 52] -/
def execLaunchSubmit (port w k : Nat) (bell : Doorbell) (s : State) : Ans :=
  let x := s.world w
  let q := SMap.get Subq.reset x.sq k
  let tail := bell.pos
  .next (if !s.rings port w ∨ !s.dev.ready ∨ 4 ≤ k ∨ 191 < w ∨ 2 ^ q.log ≤ tail.toNat ∨ x.tdisp = .error then s
    else
      let t := s.setWorld w { x with sq := SMap.set Subq.reset x.sq k { q with tail := tail } }
      let t := { t with items := t.items ++ bell.items.filter (fun i => i.world = w) }
      if !q.on ∨ !x.isOpen ∨ x.closing then t else t.readQueue w k)

/-! ## Placement (R219 to R222) -/

/-- The slot and partition base that a core offers: a free slot beside a context that does not run. [DESIGN CHOICE, log 44] -/
def State.offer (s : State) (core psize : Nat) : Option (Nat × Nat) :=
  let a := s.bindAt (2 * core)
  let b := s.bindAt (2 * core + 1)
  if a.run ∨ b.run ∨ (a.valid ∧ b.valid) then none
  else
    let (k, o) := if a.valid then (2 * core + 1, a) else (2 * core, b)
    if (s.ctxAt k).phase ≠ .off then none
    else if !o.valid ∨ psize ≤ o.pbase then some (k, 0)
    else if o.pbase + o.psize + psize ≤ 128 then some (k, o.pbase + o.psize) else none

/-- Slots and partition bases for a whole gang, by strand index: all or none. [DESIGN CHOICE, log 44] -/
def State.place (s : State) (r : LaunchRec) : Option (List (Nat × Nat)) := r.cores.mapM (fun c => s.offer c r.psize)

/-- The level at which a launch is treated (R222). -/
def Launch.level (l : Launch) : Nat := l.r.prio - l.aged

/-- Two lists share an element. -/
def shares (a b : List Nat) : Bool := a.any b.contains

/-- A gang of a linked set is out, so that no other of the set may run (R222, R225). -/
def State.anyOut (s : State) (set : List Nat) : Bool :=
  set.any (fun i => match s.gang i with | some g => g.preempted | none => false)

/-- The pending launches of a linked set, which are placed together (R222). -/
def State.pendingOf (s : State) (set : List Nat) : List Launch := s.launches.filter (fun m => set.contains m.gang.toNat)

/-- The pending launches of a linked set could be placed now: each has its places, on cores that no other of them takes. [DESIGN CHOICE, log 44] -/
def State.canPlace (s : State) (set : List Nat) : Bool :=
  let p := s.pendingOf set
  !s.anyOut set && p.all (fun m => (s.place m.r).isSome) && decide ((p.flatMap (fun m => m.r.cores)).Nodup)

/-- The cores that a linked set reserves while cores that it needs are held (R222). [DESIGN CHOICE, log 44] -/
def State.reserves (s : State) (set : List Nat) : List Nat :=
  let p := s.pendingOf set
  if p.all (fun m => (s.place m.r).isSome) then [] else p.flatMap (fun m => m.r.cores)

/-- The level of a linked set's pending launches, the virtual function and the number of the oldest of them: what decides which of
two sets is placed first (R222). [DESIGN CHOICE, log 44] -/
def State.claim (s : State) (set : List Nat) : Nat × Nat × Nat :=
  match s.pendingOf set with
  | [] => (0, 0, 0)
  | m :: l => (l.foldl (fun n x => Nat.min n x.level) m.level, l.foldl (fun (a : Nat × Nat) x => if x.id < a.2 then (x.world, x.id) else a) (m.world, m.id))

/-- A claim goes before another: by level, by the turn of its virtual function at the level, and by age (R222). [DESIGN CHOICE, log 44] -/
def State.goesFirst (s : State) (a b : Nat × Nat × Nat) : Bool :=
  let d (w : Nat) : Nat := (w + 192 - SMap.get 0 s.turn b.1 % 192) % 192
  decide (a.1 < b.1 ∨ (a.1 = b.1 ∧ (d a.2.1 < d b.2.1 ∨ (a.2.1 = b.2.1 ∧ a.2.2 < b.2.2))))

/-- The policy of R222 lets the launches of a linked set be placed now: no other set that could be placed goes first, and none of
a higher level has reserved a core of it. [DESIGN CHOICE, log 44] -/
def State.mayPlace (s : State) (set : List Nat) : Bool :=
  let mine := s.claim set
  let cores := (s.pendingOf set).flatMap (fun m => m.r.cores)
  s.launches.all (fun m => set.contains m.gang.toNat ||
    (let other := s.linkedSet m.gang.toNat
     let c := s.claim other
     !((s.canPlace other && s.goesFirst c mine) || (decide (c.1 < mine.1) && shares (s.reserves other) cores))))

/-- A strand's context as its bind record is written: zero but for its minted handles, its entry and its preloads,
which dispatch loads (R18, R221, R392). -/
def newCtx (s : State) (r : LaunchRec) (i : Nat) (h : SMap (Option Handle)) : Ctx :=
  let e := r.strands.getD i ⟨0, 0, 0, []⟩
  let c := Ctx.reset
  { c with
    phase := .loading, tagmode := r.tagmode, exp := SMap.set none h 0 none, img := ⟨false, s.dcc, []⟩
    ctl := { c.ctl with
      line := 32 * e.entry, h := h
      s := (List.range 8).foldl (fun m k => if e.pre.getLsbD k then SMap.set 0 m (k + 1) (e.val.getD k 0) else m) [] } }

/-- The strands of a resident or pending gang. -/
def State.strandsNamed (s : State) (g : Nat) : Nat :=
  match s.gang g with
  | some x => x.r.cores.length
  | none => match s.launches.find? (fun l => l.gang.toNat = g) with | some l => l.r.cores.length | none => 0

/-- The records that a launch record of a world mints for strands at known places: strand, slot and record (R391). -/
def State.minted (s : State) (w : Nat) (r : LaunchRec) (p : List (Nat × Nat)) : List (Nat × Nat × Handle) :=
  let at_ (i : Nat) : Nat × Nat := let (k, pb) := p.getD i (0, 0); (coreId (coreOf k), pb)
  r.handles.zipIdx.map (fun e =>
    (bits e.1.w5.toNat 63 48, bits e.1.w5.toNat 5 0, s.mint w at_ (s.dev.serial + word e.2) e.1))

/-- The slots of strand i: the code record in h0 (R31), and the strand's own. -/
def slotsFor (hs : List (Nat × Nat × Handle)) (i : Nat) : SMap (Option Handle) :=
  (hs.drop 1).foldl (fun m e => if e.1 = i then SMap.set none m e.2.1 (some e.2.2) else m) (SMap.set none [] 0 (hs.head?.map (fun e => e.2.2)))

/-- Bind records, contexts and the gang of a launch whose places are known (R218, R219). -/
def State.bindAll (s : State) (l : Launch) (p : List (Nat × Nat)) : State :=
  let r := l.r
  let hs := s.minted l.world r p
  let t := p.zipIdx.foldl (fun s x =>
    let ((k, pb), i) := x
    let h := slotsFor hs i
    let st := (r.strands.getD i ⟨0, 0, 0, []⟩).stage
    let b : Bind :=
      { valid := true, run := true, prio := BitVec.ofNat 2 r.prio, world := BitVec.ofNat 8 l.world, gang := l.gang
        strand := BitVec.ofNat 16 i, stage := st, start := r.start, lrec := BitVec.ofNat 57 r.va, pbase := pb, psize := r.psize }
    { s with binds := SMap.set Bind.reset s.binds k b }.setAt k (newCtx s r i h)) s
  let g : Gang :=
    { world := l.world, tag := l.tag, sq := l.sq, prio := r.prio, link := r.link, linkN := (r.link.map (fun x => s.strandsNamed x.toNat)).getD 0, r := r, keys := p.map (·.1), bars := []
      ready := none, startAt := none, lastStart := s.dcc, running := false, preempted := false, halted := false
      migrating := false, trap := none, retired := [], refused := false }
  { t with
    dev := { t.dev with serial := t.dev.serial + word r.handles.length }
    launches := t.launches.filter (fun m => m.id ≠ l.id)
    turn := SMap.set 0 t.turn l.level (l.world + 1) }.setGang l.gang.toNat (some g)

/-- The handle table passes R392. -/
def State.mintOk (s : State) (l : Launch) : Bool :=
  l.r.handles.zipIdx.all (fun e => s.entryOk l.world l.r e.2 e.1) && distinctSlots l.r.handles

/-- A launch bound, or rejected because its handle table fails; none where it cannot be placed. -/
def State.bindOne (s : State) (l : Launch) : Option State :=
  if !s.mintOk l then
    some ({ s with launches := s.launches.filter (fun m => m.id ≠ l.id) }.postEntry l.world stREJECTED 0 0 0 l.tag l.sq)
  else (s.place l.r).map (fun p => s.bindAll l p)

/-- GANG_BIND (R218, R222): a pending launch is placed with the pending launches it is linked with, all or none; it waits for a
linked gang that is out. -/
def execGangBind (launch : Nat) (s : State) : Ans :=
  .next (match s.launches.find? (fun l => l.id = launch) with
    | none => s
    | some l =>
      let set := s.linkedSet l.gang.toNat
      if s.anyOut set ∨ !s.mayPlace set then s
      else ((s.pendingOf set).foldl (fun (t : Option State) m => t.bind (fun u => u.bindOne m)) (some s)).getD s)

/-- AGE and QMIN (R222). -/
def cAGE : Nat := 12000000
def cQMIN : Nat := 1200000

/-- LAUNCH_AGING (R222). -/
def execLaunchAging (launch : Nat) (s : State) : Ans :=
  .next { s with
    launches := s.launches.map (fun l =>
      if l.id = launch ∧ l.since.toNat + cAGE * (l.aged + 1) ≤ s.dcc.toNat then { l with aged := l.aged + 1 } else l) }

/-! ## Dispatch and start (R221, R222) -/

/-- The other slot of a core. -/
def otherSlot (k : Nat) : Nat := if k % 2 = 0 then k + 1 else k - 1

/-- B of R221. -/
def LaunchRec.startDelay (r : LaunchRec) : Nat := if r.nd = 1 then 16 else 48

/-- S′ of R221 from Y. -/
def LaunchRec.startCycle (r : LaunchRec) (y : Nat) : Word :=
  if r.start ≠ 0 ∧ y + r.startDelay ≤ r.start.toNat then r.start else word (y + r.startDelay)

/-- The phases of a gang's contexts. -/
def State.allIn (s : State) (g : Gang) (p : Phase) : Bool := g.keys.all (fun k => (s.ctxAt k).phase = p)

/-- A gang all of whose cores are ready gets its start cycle. -/
def State.gangReady (s : State) (id : Nat) : State :=
  match s.gang id with
  | some g =>
    if s.allIn g .ready then
      s.setGang id (some { g with ready := some s.dcc, startAt := some (g.r.startCycle s.dcc.toNat) })
    else s
  | none => s

/-- A partition's bytes, tags and READY values cleared (R291, R404, R407). -/
def State.clearPartition (s : State) (core pb ps : Nat) : State :=
  let base := Config.cisternBase + core * 2 ^ 23 + pb * 65536
  let lo := core * 2048 + pb * 16
  { s with
    mem := s.mem.write base (ps * 65536) 0
    tiles := s.tiles.filter (fun e => e.1 < lo ∨ lo + ps * 16 ≤ e.1) }

/-- Instruction memory and command store of a slot cleared. [DEDUCED, log 45] -/
def State.clearSlot (s : State) (k : Nat) : State :=
  { s with mem := (s.mem.write (Config.imemBase + k * 2 ^ 18) (2 ^ 18) 0).write (Config.cmdBase + k * 2 ^ 16) (2 ^ 16) 0 }

/-- Dispatch refuses the moving slot's bind record (R220): its partition passes the end of the cistern or overlaps the other slot's. -/
def State.bindRefused (s : State) : Bool :=
  let b := s.bind
  let o := s.bindAt (otherSlot s.cur)
  decide (128 < b.pbase + b.psize) || (o.valid && decide (b.pbase < o.pbase + o.psize ∧ o.pbase < b.pbase + b.psize))

/-- The data of a strand placed in its partition (R361, R504). [DESIGN CHOICE, log 52] -/
def State.placeItems (s : State) (k : Nat) : State :=
  let b := s.bindAt k
  let base := Config.cisternBase + coreOf k * 2 ^ 23 + b.pbase * 65536
  let mine := s.items.filter (fun x =>
    x.world = b.world.toNat ∧ x.va = b.lrec.toNat ∧ x.strand = b.strand.toNat ∧ x.off + x.n ≤ b.psize * 65536)
  { s with mem := mine.foldl (fun m x => m.write (base + x.off) x.n x.v) s.mem }

/-- DISPATCH_READY (R220, R221): code is loaded into the instruction memory, and the partition is clear but for its data; 2048
cycles at the earliest, counted from the end of the other slot's image write. A bind record that dispatch refuses is reported, and its gang never
starts. A code page that does not translate leaves it to a later try. -/
def execDispatchReady (s : State) : Ans :=
  .next (if s.ctx.phase ≠ .loading ∨ (s.ctxAt (otherSlot s.cur)).phase = .saving ∨ s.dcc.toNat < s.ctx.img.stop.toNat + 2048 then s
    else if s.bindRefused then
      match s.gang s.bind.gang.toNat with
      | some g => s.setGang s.bind.gang.toNat (some { g with refused := true })
      | none => s
    else
      match SMap.get none s.ctx.ctl.h 0 with
      | none => s
      | some h =>
        match s.resolveVa s.cur h.world.toNat h.base.toNat h.len.toNat false with
        | .page t _ | .denied t | .blocked t _ => t
        | .ok t l =>
          match t.badRun l with
          | some ln => t.integrityStop s.cur h.world.toNat ln
          | none =>
            let b := s.bind
            let t := ((t.clearSlot s.cur).clearPartition (coreOf s.cur) b.pbase b.psize).placeItems s.cur
            let t := { t with mem := t.mem.write (Config.imemBase + s.cur * 2 ^ 18) h.len.toNat (readRuns t.mem l) }
            (t.setCtx { t.ctx with phase := .ready }).gangReady b.gang.toNat)

/-- A context of a gang processes its next instruction from now on. -/
def Ctx.startRun (c : Ctx) : Ctx := { c with phase := .running, ctl := { c.ctl with fetch := .run } }

/-- A context whose gang would start, taken by a debugger instead: it is out before its first instruction (R384). [DESIGN CHOICE, log 105] -/
def Ctx.heldBack (c : Ctx) (p : Word) : Ctx := { c with phase := .saving, img := ⟨false, p, []⟩ }

/-- GANG_START (R221): every strand of the gang processes its first instruction at the start cycle, LATE where that is past START;
with a linked gang out it waits until that runs (R222, R225), and is then LATE too where START has passed. A gang that a debugger halts is
not scheduled: it is out from its start cycle on (R384). [DESIGN CHOICE, log 105] -/
def execGangStart (id : Nat) (s : State) : Ans :=
  .next (match s.gang id with
    | none => s
    | some g =>
      match g.startAt with
      | none => s
      | some t =>
        if s.dcc.toNat < t.toNat ∨ !s.allIn g .ready ∨ g.refused ∨ s.anyOut (s.linkedSet id) then s
        else
          let late := g.r.start ≠ 0 ∧ g.r.start.toNat < s.dcc.toNat
          let u := g.keys.foldl (fun s k =>
            let c := (s.ctxAt k).startRun
            let c := { c with csr := { c.csr with late := decide late } }
            if g.halted then
              { s.setAt k (c.heldBack (s.dcc - 1)) with binds := SMap.set Bind.reset s.binds k { s.bindAt k with run := false } }
            else s.setAt k c) s
          u.setGang id (some { g with running := !g.halted, preempted := g.halted, startAt := none, lastStart := s.dcc }))

/-! ## Barriers (R226, R227) -/

/-- BARRIER_LEAVE: at the leaving cycle every member goes on with the generation in its scalar. -/
def execBarrierLeave (gang team : Nat) (s : State) : Ans :=
  .next (match s.gang gang with
    | none => s
    | some g =>
      let b := SMap.get Bar.reset g.bars team
      match b.leave with
      | none => s
      | some t =>
        if s.dcc.toNat < t.toNat ∨ !g.running then s
        else
          let u := s.setGang gang (some { g with bars := SMap.set Bar.reset g.bars team ⟨b.gen + 1, [], none⟩ })
          g.keys.foldl (fun s k =>
            match (s.ctxAt k).ctl.hold with
            | .tbar tm gen a =>
              if tm.toNat = team ∧ gen = b.gen then
                s.within k (fun s => (s.setS a (gen.setWidth 64)).advance)
              else s
            | _ => s) u)

/-! ## The end of a gang (R32, R222, R223, R404 to R407) -/

/-- The layers that a context has in flight stop (R405). -/
def State.stopLayers (s : State) (k : Nat) : State :=
  let b := s.bindAt k
  { s with layers := s.layers.filter (fun l =>
      !(l.srcDev = s.dev.num && l.srcGang = b.gang.toNat && l.srcStrand = b.strand.toNat)) }

/-- A slot's context and bind record go: cleared where its world is protected, else left for the next owner's dispatch
(R404, R407); its save area is zero (R405). Its commands in flight stop. [DEDUCED, log 45] -/
def State.vacate (s : State) (k : Nat) : State :=
  let b := s.bindAt k
  let t := if (s.world b.world.toNat).g.prot then ((s.stopLayers k).clearPartition (coreOf k) b.pbase b.psize).clearSlot k else s
  { (t.setAt k Ctx.reset) with
    mem := t.mem.write (s.dev.savebase + k * 2 ^ 22) (2 ^ 22) 0
    binds := SMap.set Bind.reset t.binds k Bind.reset
    dev := { t.dev with
      reqs := t.dev.reqs.map (fun r => if r.key = some k then { r with key := none } else r)
      came := t.dev.came.filter (fun c => c.key ≠ k)
      fw := { t.dev.fw with held := t.dev.fw.held.filter (· ≠ k), bells := t.dev.fw.bells.filter (· ≠ .call k) } }
    campus := t.campus.map (fun e => (e.1, { e.2 with posts := e.2.posts.filter (fun p => p.key ≠ k) })) }

/-- Cycles of the steps of R404 before the cistern's. -/
def cSCRUB5 : Nat := 512 + 512 + 256 + 64
/-- Cycles of the steps of R404 with a partition of a size. -/
def scrubCycles (psize : Nat) : Nat := cSCRUB5 + 32 * psize + 160 + 16 + 32 + 8

/-- An access that passed R236 against a slot's partition has yet to complete: a posted write in flight there, or a copy of another
context that has started (R237). [DEDUCED, log 45] -/
def State.partitionBusy (s : State) (k : Nat) : Bool :=
  let b := s.bindAt k
  let lo := Config.cisternBase + coreOf k * 2 ^ 23 + b.pbase * 65536
  let hi := lo + b.psize * 65536
  let hit (a n : Nat) : Bool := decide (a < hi ∧ lo < a + n)
  s.ctxs.any (fun e => e.2.fl.any (fun f => f.segs.any (fun g => hit g.a g.n))
    || (e.1 ≠ k && e.2.pump.fly.any (fun p => (p.rd ++ p.wr).any (fun r => hit r.1 r.2))))

/-- What the steps of R404 before and after the cistern's have cleared of a context's own state so many cycles after they began. [DEDUCED, log 45] -/
def Ctx.scrub (c : Ctx) (t ps : Nat) : Ctx :=
  let keep {α : Type} (p : Nat → Bool) (m : SMap α) : SMap α := m.filter (fun e => p e.1)
  let v := c.vec
  let v := if 512 ≤ t then
    { v with r := keep (fun i => i < 128 || 256 ≤ i) v.r, f := keep (fun i => i < 128 || 256 ≤ i) v.f, head := [], count := [], excess := [] } else v
  let v := if 1024 ≤ t then { v with r := keep (fun i => 128 ≤ i) v.r, f := keep (fun i => 128 ≤ i) v.f, k := [], g0 := none, g1 := none } else v
  let v := if 1280 ≤ t then { v with r := keep (fun i => i < 256) v.r, f := keep (fun i => i < 256) v.f } else v
  let late := decide (cSCRUB5 + 32 * ps + 160 ≤ t)
  let last := decide (cSCRUB5 + 32 * ps + 160 + 16 + 32 ≤ t)
  { c with
    vec := v
    mat := if 1280 ≤ t then .reset else c.mat
    sig := if 1344 ≤ t then .reset else c.sig
    pump := if late then .reset else if cSCRUB5 ≤ t then { c.pump with buf := [], fly := [] } else c.pump
    rq := if late then [] else c.rq
    ctl := if last then .reset else c.ctl
    grids := if last then [] else c.grids }

/-- A core's translation cache gives up the entries of a world (R404). [DEDUCED, log 45] -/
def State.dropCore (s : State) (core w : Nat) : State :=
  ((s.world w).x.cache.filter (fun t => t.at_.contains core)).foldl (fun s t => s.dropFrom core w t) s

/-- The moving context's departure so many cycles after it began: what the steps have cleared by then (R404); its pump commands and
layers stop with step 5 (R405). [DEDUCED, log 45] -/
def State.scrubbed (s : State) (t : Nat) : State :=
  let k := s.cur
  let b := s.bind
  let u := s.setCtx (s.ctx.scrub t b.psize)
  if t < cSCRUB5 then u
  else
    let u := (u.settle k ((s.ctx.pump.buf ++ s.ctx.pump.fly).map (fun p => p.cap.age))).stopLayers k
    let u := if cSCRUB5 + 32 * b.psize ≤ t then u.clearPartition (coreOf k) b.pbase b.psize else u
    let u := if cSCRUB5 + 32 * b.psize + 160 ≤ t then u.clearSlot k else u
    if cSCRUB5 + 32 * b.psize + 160 + 16 ≤ t then u.dropCore (coreId (coreOf k)) b.world.toNat else u

/-- DEPARTURE_SCRUB (R237, R404 to R408): the steps of the moving context's departure. Step 5 waits for the accesses that passed R236 to
complete, and after step 9 the bind record goes; in a world without protection it goes once they have completed. [DEDUCED, log 45] -/
def execDepartureScrub (s : State) : Ans :=
  let t := s.dcc.toNat - s.ctx.img.stop.toNat
  .next (if s.ctx.phase ≠ .departing then s
    else if !(s.world s.bind.world.toNat).g.prot then (if s.partitionBusy s.cur then s else s.vacate s.cur)
    else if cSCRUB5 ≤ t ∧ s.partitionBusy s.cur then s.setCtx { s.ctx with img := { s.ctx.img with stop := word (s.dcc.toNat + 1 - cSCRUB5) } }
    else if t < scrubCycles s.bind.psize then s.scrubbed t
    else s.vacate s.cur)

/-- A context departs (R237, R404, R407): its scrub begins where its world is protected. [DEDUCED, log 45] -/
def State.departs (s : State) (w k : Nat) : State :=
  if (s.world w).g.prot ∨ s.partitionBusy k then
    let c := s.ctxAt k
    s.setAt k { c with phase := .departing, img := { c.img with stop := s.dcc } }
  else s.vacate k

/-- A gang's contexts depart and the gang is no more. -/
def State.retireGang (s : State) (id : Nat) : State :=
  match s.gang id with
  | none => s
  | some g => (g.keys.foldl (State.departs · g.world) s).setGang id none

/-- Nothing that a context issued is still to complete, but for exchanges, whose items hold no bytes (R32, R223). -/
def Ctx.still (c : Ctx) : Bool :=
  c.fl.all (fun f => f.src = 3 && f.segs.isEmpty) && c.pump.buf.isEmpty && c.pump.fly.isEmpty && c.rq.isEmpty
    && c.fab.cmds.isEmpty && c.fab.fences.isEmpty
    && c.pump.tabs.all (fun t => t.2.g0.loading.isNone && t.2.g1.loading.isNone)

/-- Nothing that a context issued is still to complete (R32, R223). -/
def Ctx.idle (c : Ctx) : Bool :=
  c.still && c.fl.isEmpty && c.grids.all (fun g => match g.2 with | some r => r.phase = 0 | none => true)

/-- An exchange can go on: it has ended, its next phase may begin, or on a face of its phase a layer is still to be sent to a partner
that accepts it, or is exchanged with a strand of another device, which goes on (R322 to R326). One that faulted does not. [DEDUCED, log 46] -/
def State.exchanging (s : State) (g : BitVec 4) (r : Grid) : Bool :=
  r.phase ≠ 0 && !r.failed && (r.exchanged || (r.phase < r.dims && r.holds (2 * r.phase - 2) && r.holds (2 * r.phase - 1))
    || [2 * r.phase - 2, 2 * r.phase - 1].any (fun f =>
      match s.partner (r.face f) with
      | some p =>
        if p.1 ≠ s.dev.num.toNat then (!r.sent.getLsbD f || !r.holds f) && (s.live (some r.hd)).isSome
        else !r.sent.getLsbD f && s.accepted p g r.tag
      | none => !r.sent.getLsbD f && (r.face f).rule.isSome))

/-- Layers of a stopped gang are on their way, or an exchange of it can go on. One that only waits for strands that have
stopped does not keep the gang (R223, R225). [DEDUCED, log 46] -/
def State.exchangesGoOn (s : State) (id : Nat) (g : Gang) : Bool :=
  s.layers.any (fun l => l.gang = id && (match s.keyOf l.gang l.strand with
      | some k => (match (s.ctxAt k).grid l.g.toNat with | some r => r.active && r.xstep = some l.step | none => false)
      | none => true))
    || g.keys.any (fun k => (s.ctxAt k).grids.any (fun e =>
      match e.2 with | some r => { s with cur := k }.exchanging (BitVec.ofNat 4 e.1) r | none => false))

/-- Every instruction queue is empty (R32). -/
def Ctx.drained (c : Ctx) : Bool :=
  Config.engines.all (fun e => let x := c.engAt e; x.q.isEmpty && x.loop.isNone && x.slots.isEmpty)

/-- A strand retires: its barriers count it as arrived, and its context departs (R404); with the last one of its gang DONE is posted (R222, R226, R266). -/
def State.retire (s : State) : State :=
  let id := s.bind.gang.toNat
  match s.gang id with
  | none => s.setCtx Ctx.reset
  | some g =>
    let me := s.bind.strand.toNat
    let g := { g with retired := g.retired ++ [me], keys := g.keys.filter (· ≠ s.cur) }
    let t := s.setGang id (some g)
    let t := (List.range 16).foldl (fun s k => s.barrierMet id (BitVec.ofNat 8 k)) t
    let t := t.departs g.world s.cur
    if g.r.strands.length ≤ g.retired.length then (t.postEntry g.world stDONE 0 0 id g.tag g.sq).setGang id none else t

/-- STRAND_RETIRE (R32, R370). -/
def execStrandRetire (s : State) : Ans :=
  let c := s.ctx
  let already : Bool := match s.gang s.bind.gang.toNat with
    | some g => g.retired.contains s.bind.strand.toNat
    | none => false
  .next (if c.phase = .running ∧ c.ctl.fetch = .halted ∧ c.lp.owed = 0 ∧ c.drained ∧ c.idle ∧ !already
      ∧ (c.pending.isNone ∨ c.csr.intrap) then s.retire
    else s)

/-- GANG_FAULT_RETIRE (R223): every issued command has completed or been discarded; FAULT is posted. -/
def execGangFaultRetire (id : Nat) (s : State) : Ans :=
  .next (match s.gang id with
    | none => s
    | some g =>
      match g.trap with
      | none => s
      | some (code, strand) =>
        if g.keys.all (fun k => (s.ctxAt k).still) ∧ !s.exchangesGoOn id g then
          (s.postEntry g.world stFAULT code.toNat strand id g.tag g.sq).retireGang id
        else s)

/-! ## Service calls (R93, R484, R487) -/

/-- The code of the call that the moving context waits for, where the scheduler core may serve it. [DEDUCED, log 49] -/
def State.call (s : State) : Option Nat :=
  match s.ctx.ctl.hold with
  | .svc code _ => if s.dev.fw.state = 2 ∧ !s.dev.fw.held.contains s.cur then none else some code.toNat
  | _ => none

/-- s[n] as the call of the moving context sent it, n from 1 (R93). -/
def State.svcArg (s : State) (n : Nat) : Word :=
  match s.ctx.ctl.hold with
  | .svc _ l => l.getD (n - 1) 0
  | _ => 0

/-- The call is answered; its reply is on its way, for the whole of the call's occupancy (R98). [DEDUCED, log 49] -/
def State.answer (s : State) (st r : Word) : State :=
  let t := s.ctl (fun c => { c with hold := .reply st r })
  { t with dev := { t.dev with fw := { t.dev.fw with held := t.dev.fw.held.filter (· ≠ s.cur) } } }

/-- SVC_REPLY (R93). -/
def execSvcReply (s : State) : Ans :=
  .next (match s.ctx.ctl.hold with
    | .reply st r => if s.ctx.phase = .running ∧ s.ctx.ctl.due ≤ s.dcc.toNat then ((s.setS 1 st).setS 2 r).advance else s
    | _ => s)

/-- Call 0 served (R484). -/
def State.serveVersion (s : State) : State := s.answer 0 (s.dev.fw.version.setWidth 64)

/-- Call 1 served (R484): an entry put at the tail of the queue of the record's priority, and read as after a doorbell. -/
def State.serveSubmit (s : State) : State :=
  let w := s.bind.world.toNat
  let va := (s.svcArg 2).toNat
  let tag := (s.svcArg 3).toNat
  if 2 ^ 57 ≤ va ∨ 2 ^ 16 ≤ tag then s.answer 2 0
  else
    let (s, v) := s.readVa w va 8
    let k := match v with | some v => fieldAt v 0 36 35 | none => 0
    let x := s.world w
    let q := SMap.get Subq.reset x.sq k
    if !q.on ∨ q.after q.tail = q.head then s.answer 1 0
    else
      match s.writeVa w (q.va + 16 * q.tail.toNat) 16 (va + tag * 2 ^ 64) with
      | (t, false) => t.answer 1 0
      | (t, true) =>
        let t := t.setWorld w { t.world w with sq := SMap.set Subq.reset x.sq k { q with tail := q.after q.tail } }
        (t.readQueue w k).answer 0 (q.tail.setWidth 64)

/-- The state of a gang of a world by R484. -/
def State.gangState (s : State) (w id : Nat) : Nat :=
  if s.launches.any (fun l => l.gang.toNat = id ∧ l.world = w) then 0
  else
    match s.gang id with
    | some g => if g.world ≠ w then 3 else if g.running then 1 else if g.preempted then 2 else 0
    | none => 3

/-- Call 2 served (R484). -/
def State.serveGangState (s : State) : State := s.answer 0 (word (s.gangState s.bind.world.toNat (s.svcArg 2).toNat))

/-- The call that the moving context waits for served, by its code (R93, R484). -/
def State.serveCall (s : State) : State :=
  match s.call with
  | none => s
  | some 0 => s.serveVersion
  | some 1 => s.serveSubmit
  | some 2 => s.serveGangState
  | some _ => s.answer 0xFFFFFFFFFFFFFFFF 0

/-- SVC_VERSION_QUERY (R484). -/
def execSvcVersionQuery (s : State) : Ans := .next (if s.call = some 0 then s.serveCall else s)
/-- SVC_SUBMIT_LAUNCH (R484). -/
def execSvcSubmitLaunch (s : State) : Ans := .next (if s.call = some 1 then s.serveCall else s)
/-- SVC_GANG_STATE (R484). -/
def execSvcGangState (s : State) : Ans := .next (if s.call = some 2 then s.serveCall else s)
/-- SVC_UNDEFINED (R93, R484). -/
def execSvcUndefined (s : State) : Ans := .next (if s.call.any (3 ≤ ·) then s.serveCall else s)

end Sys2Proof.Machine
end

