-- ==== Sys2Proof/Machine/Snapshot.lean ====
section
/-! DEFINITION. The snapshot image (R376 to R385): the bytes of a context that a save puts into its save area, what a restore
reads back and refuses, and a debugger's window on them. Fields of the model for which no rule names a place stay with the
context while it is out. -/

namespace Sys2Proof.Machine

/-- A piece of an image: its offset, its length in bytes and its value. -/
abbrev Piece := Nat × Nat × Nat

/-- 64-bit words at consecutive offsets. -/
def wordsAt (off : Nat) (l : List Nat) : List Piece := l.zipIdx.map (fun e => (off + 8 * e.2, 8, e.1))

/-- A bit at a position. -/
def flag (b : Bool) (n : Nat) : Nat := if b then 2 ^ n else 0

/-! ## Handle records in the image -/

/-- The 64 bytes of a record (R232); zero for an empty slot. -/
def recVal (h : Option Handle) : Nat :=
  match h with
  | some r => (r.words ++ [r.mac]).foldr (fun w a => w.toNat + 2 ^ 64 * a) 0
  | none => 0

/-- The record that 64 bytes hold; none where a bit that R232 does not name is set, since no seal is ever made over
such a record. -/
def handleOf (v : Nat) : Option Handle :=
  let w (i : Nat) : Nat := v / 2 ^ (64 * i) % 2 ^ 64
  if bits (w 0) 60 57 ≠ 0 ∨ bits (w 1) 63 48 ≠ 0 ∨ bits (w 2) 31 30 ≠ 0 ∨ (!bit (w 2) 29 ∧ bits (w 2) 28 23 ≠ 0)
      ∨ 10 < bits (w 2) 19 16 then none
  else
    some
      { level := BitVec.ofNat 3 (bits (w 0) 63 61), base := BitVec.ofNat 57 (w 0), len := BitVec.ofNat 48 (w 1)
        gen := BitVec.ofNat 32 (bits (w 2) 63 32)
        sync := if bit (w 2) 29 then some (BitVec.ofNat 6 (bits (w 2) 28 23)) else none
        pc := BitVec.ofNat 3 (bits (w 2) 22 20), fmt := fmtOf (bits (w 2) 19 16), world := BitVec.ofNat 8 (bits (w 2) 15 8)
        rights := BitVec.ofNat 8 (w 2), geo0 := word (w 3), geo1 := word (w 4), w5 := word (w 5), w6 := word (w 6)
        mac := word (w 7) }

/-- A record that comes back: empty where it does not match its seal (R383, R393). -/
def State.unsealed (s : State) (h : Option Handle) : Option Handle :=
  match h with
  | some r => if s.sealed r = r then some r else none
  | none => none

/-! ## Queue records (R378) -/

/-- An instruction with two handle fields, with these numbered from h0 on. -/
def renumberH : Instr → Instr
  | .pcopy be o => .pcopy be { o with hd := 0, hs := 1 }
  | .pcopy2d be r o => .pcopy2d be r { o with hd := 0, hs := 1 }
  | .pcopyd be o => .pcopyd be { o with hd := 0, hs := 1 }
  | .pcopyhIn o => .pcopyhIn { o with hd := 0, hs := 1 }
  | .pcopyhOut o => .pcopyhOut { o with hd := 0, hs := 1 }
  | .pover o => .pover { o with hd := 0, hs := 1 }
  | .pcmd o => .pcmd { o with hd := 0, hs := 1 }
  | .pfill o => .pfill { o with hd := 0, hs := 1 }
  | .ptagset o => .ptagset { o with hd := 0, hs := 1 }
  | .ptagchk o => .ptagchk { o with hd := 0, hs := 1 }
  | .pprefetch o => .pprefetch { o with hd := 0, hs := 1 }
  | .xcomp _ _ kp cp ei dp => .xcomp 0 1 kp cp ei dp
  | .xresid _ _ cp ei dp => .xresid 0 1 cp ei dp
  | .xcoll op o => .xcoll op { o with hs := 0, hr := 1 }
  | .xput o => .xput { o with hd := 0, hs := 1 }
  | .xget o => .xget { o with hd := 0, hs := 1 }
  | i => i

/-- An instruction with every captured field under a number of its own. -/
def places (i : Instr) : Instr := renumberH (renumber i)

/-- The age and the kind of a record. [DESIGN CHOICE, log 50] -/
def ageWord (age kind : Nat) : Nat := age / 2 ^ 40 % 2 ^ 56 + kind * 2 ^ 56

/-- The record of an instruction: lanes, age and kind, captured scalars and captured handle records; of lanes that hold no instruction of
an engine, the words that follow them as they are. -/
def Cap.record (c : Cap) (kind : Nat) : Nat :=
  let u := uses c.instr
  let j := uses (places c.instr)
  (c.lanes.zipIdx.map (fun e => e.1.toNat * 2 ^ (32 * e.2))).sum + ageWord c.age kind * 2 ^ 128
    + (if engineOf c.instr = none then (c.s.map (fun e => e.2.toNat * 2 ^ (64 * (3 + e.1)))).sum
       else ((j.s.zip u.s).map (fun e => (c.sc e.2).toNat * 2 ^ (64 * (2 + e.1.toNat)))).sum)
    + (u.h.zipIdx.map (fun e => recVal (SMap.get none c.h e.1.toNat) * 2 ^ (512 * (1 + e.2)))).sum

/-- The record of a queue entry. -/
def QItem.record : QItem → Nat
  | .instr c out => c.record (if out then 1 else 0)
  | .loopMark age n skew => ageWord age 2 * 2 ^ 128 + n * 2 ^ 192 + skew * 2 ^ 256
  | .endMark age => ageWord age 3 * 2 ^ 128
  | .fenceMark age => ageWord age 4 * 2 ^ 128

/-- The instruction that lanes hold, as one of an engine. A `vtag` whose tag is reserved is one too: it raises TAG as it issues (R119). -/
def instrOfLanes (e : Engine) (lanes : List Lane) : Option (Instr × Nat) :=
  let dec (l : List Lane) : Option (Instr × Nat) :=
    match decodeLanes l with
    | .ok i n => if engineOf i = some e then some (i, n) else none
    | _ => none
  match dec lanes with
  | some x => some x
  | none =>
    match dec ((lanes.getD 0 0 &&& ~~~0x1E#32) :: lanes.drop 1) with
    | some (.vtag f o, n) => if 11 ≤ bits (lanes.getD 0 0).toNat 4 1 then some (.vtag f o, n) else none
    | _ => none

/-- The instruction that a record holds, in place of an older one; none where a zero byte is not zero. Lanes that hold no instruction of the
engine, by which no byte is one, stay as they are, and raise ILLEGAL when their turn to issue comes (R11). [DESIGN CHOICE, log 50] -/
def State.capOf (s : State) (e : Engine) (v : Nat) (old : Option Cap) : Option Cap :=
  let lanes := lanesOfNat (v % 2 ^ 128)
  let age := v / 2 ^ 128 % 2 ^ 56
  let line := match old with | some c => c.line | none => 0
  let lane := match old with | some c => c.lane | none => 0
  let age := match old with | some c => if c.age / 2 ^ 40 % 2 ^ 56 = age then c.age else age * 2 ^ 40 | none => age * 2 ^ 40
  match instrOfLanes e lanes with
  | none =>
    if 2 ^ 1536 ≤ v then none
    else some
      { instr := .nop, lanes := lanes, line := line, lane := lane, age := age, h := []
        s := (List.range 21).foldl (fun m i => SMap.set 0 m i (word (v / 2 ^ (64 * (3 + i))))) [] }
  | some (i, n) =>
    let j := places i
    let u := uses j
    if v % 2 ^ 128 / 2 ^ (32 * n) ≠ 0 ∨ v % 2 ^ 512 / 2 ^ (64 * (3 + u.s.length)) ≠ 0 ∨ v / 2 ^ (512 * (1 + u.h.length)) ≠ 0 then none
    else
      some
        { instr := j, lanes := lanes.take n, line := line, lane := lane, age := age
          s := u.s.foldl (fun m r => SMap.set 0 m r.toNat (word (v / 2 ^ (64 * (2 + r.toNat))))) []
          h := u.h.zipIdx.foldl (fun m x =>
            SMap.set none m x.1.toNat (s.unsealed (let r := v / 2 ^ (512 * (1 + x.2)) % 2 ^ 512; if r = 0 then none else handleOf r))) [] }

/-- The entry that a record holds, in place of an older one. -/
def State.itemOf (s : State) (e : Engine) (v : Nat) (old : Option QItem) : Option QItem :=
  if old.map QItem.record = some v then old
  else
    let oldCap := match old with | some (.instr c _) => some c | _ => none
    let age := v / 2 ^ 128 % 2 ^ 56 * 2 ^ 40
    match v / 2 ^ 184 % 256 with
    | 0 => (s.capOf e v oldCap).map (fun c => .instr c false)
    | 1 => (s.capOf e v oldCap).map (fun c => .instr c true)
    | 2 => if v % 2 ^ 128 ≠ 0 ∨ 2 ^ 320 ≤ v then none else some (.loopMark age (v / 2 ^ 192 % 2 ^ 64) (v / 2 ^ 256))
    | 3 => if v % 2 ^ 128 ≠ 0 ∨ 2 ^ 192 ≤ v then none else some (.endMark age)
    | 4 => if v % 2 ^ 128 ≠ 0 ∨ 2 ^ 192 ≤ v then none else some (.fenceMark age)
    | _ => none

/-- The starts of the engines' regions. -/
def queueStart : Engine → Nat
  | .vector => 0x4000
  | .matrix => 0x6000
  | .pump => 0x7000
  | .halo => 0x9000
  | .signature => 0x9800
  | .fabric => 0xA000

/-- The entries of an engine's region: a loop's marker and kept body stand before the entries still queued (R127). -/
def Eng.entries (x : Eng) : List QItem :=
  (match x.loop with
    | some l => .loopMark l.start l.n 0 :: l.body.map (fun c => .instr c false)
    | none => []) ++ x.q

/-- The instructions that an engine has issued and not completed: those of a restored image, or the head where it has latched what it reads or
still has pushes to make; the effects of all others take place as they issue. [DESIGN CHOICE, log 50] -/
def Eng.issued (x : Eng) : List Cap :=
  match x.slots with
  | [] => if x.pushes ≠ [] ∨ x.latched then (match x.head with | some (c, _) => [c] | none => []) else []
  | l => l

/-- The engine without its issued instructions: what its queue region and issue-state word show of queue and loop. -/
def Eng.rest (x : Eng) : Eng :=
  match x.slots, x.issued with
  | [], [] => x
  | [], _ => x.leave
  | _, _ => { x with slots := [], latch := [], latched := false, pushes := [], made := 0, stall := .none, stalled := 0 }

/-- The source fields of an instruction in order, by the place of what each latches: a queue register, 64 and a vector register, 192 and a
mask (R378). [DESIGN CHOICE, log 50] -/
def srcKeys (i : Instr) : List Nat :=
  let u := uses i
  ((u.rd.map (fun (x : VR) => match x with | .v n => 64 + n.toNat | .q n => n.toNat | .pk n => n.toNat))
    ++ (u.kr.filter (· ≠ 0)).map (fun (k : BitVec 3) => 192 + k.toNat)).eraseDups.take 4

/-- What a source field has latched: its bits and its tag. -/
def Ctx.latchVal (c : Ctx) (x : Eng) (key : Nat) : Nat × Fmt :=
  match SMap.get none x.latch key with
  | some (d, f) => (d.toNat, f)
  | none =>
    if key < 64 then (0, .untyped)
    else if key < 192 then ((c.vec.slot (key - 64)).1.toNat, (c.vec.slot (key - 64)).2)
    else ((SMap.get 0 c.vec.k (key - 192)).toNat, .untyped)

/-- The place of in-progress slot u of the engine with a MASK bit index, and that of a latch (R378). -/
def slotAt (b u : Nat) : Nat := 0x3D1000 + 0x1000 * b + 256 * u
/-- That of a latch. -/
def latchAt (k : Nat) : Nat := 0x3D7000 + 8192 * k

/-- The in-progress slots and the latches: slot 0 of an engine with its progress and latches, any further one with its record alone. [DESIGN CHOICE, log 50] -/
def Ctx.imgSlots (c : Ctx) : List Piece :=
  (Config.engines.foldl (fun (a : Nat × List Piece) e =>
    let x := c.engAt e
    let b := Config.engIdx e
    match x.issued with
    | [] => a
    | h :: r =>
      let keys := srcKeys h.instr
      let refs := ((keys.zipIdx.map (fun k => (2 ^ 15 + Config.fmtCode (c.latchVal x k.1).2 * 2 ^ 8 + (a.1 + k.2)) * 2 ^ (16 * k.2)))).sum
      let pops := if x.latched then (queueReads h.instr).length else 0
      (a.1 + keys.length,
        a.2 ++ [(slotAt b 0, 192, h.record 0), (slotAt b 0 + 192, 8, x.made % 2 ^ 16 + pops * 2 ^ 16), (slotAt b 0 + 216, 8, refs)]
          ++ keys.zipIdx.map (fun k => (latchAt (a.1 + k.2), 8192, (c.latchVal x k.1).1))
          ++ r.zipIdx.map (fun y => (slotAt b (y.2 + 1), 192, y.1.record 0)))) (0, [])).2

/-- The issue-state word of an engine. [DESIGN CHOICE, log 50] -/
def Eng.issueWord (y : Eng) : Nat :=
  let x := y.rest
  flag (!y.issued.isEmpty) 63 + y.issued.length % 32 * 2 ^ 57 + flag x.frozen 62 + (match x.q with | .loopMark _ _ k :: _ => (k - x.stalled) % 256 * 2 ^ 48 | _ => 0)
    + (match x.loop with | some l => l.exec % 2 ^ 16 * 2 ^ 32 + (l.n - 1 - l.exec) % 2 ^ 16 * 2 ^ 16 + l.pos % 256 | none => 0)

/-- An engine's queue as its region holds it: its entries stand from the head on, with zeros after the last. -/
def State.engQueue (s : State) (rd : Nat → Nat → Nat) (e : Engine) (x : Eng) : Option Eng :=
  let recs := (List.range (Config.queueDepth e)).map (fun i => rd (queueStart e + 256 * i) 256)
  let live := recs.takeWhile (· ≠ 0)
  if (recs.drop live.length).any (· ≠ 0) then none
  else
    let old := x.entries
    match live.zipIdx.mapM (fun r => s.itemOf e r.1 old[r.2]?) with
    | none => none
    | some l =>
      match x.loop with
      | none => some { x with q := l }
      | some run =>
        let n := run.body.length
        let caps := (l.drop 1 |>.take n).filterMap (fun i => match i with | .instr c false => some c | _ => none)
        if l.head? ≠ old.head? ∨ caps.length ≠ n then none
        else some { x with loop := some { run with body := caps }, q := l.drop (n + 1) }

/-- An engine's issue-state word taken up, but for its issued instructions; none where a value lies outside its range. [DESIGN CHOICE, log 50] -/
def Eng.withIssue (x : Eng) (v : Nat) : Option Eng :=
  let v := v % 2 ^ 57 + flag (bit v 62) 62
  let outside : Bool := match x.loop with
    | some l => decide (l.body.length ≤ bits v 7 0 ∧ bits v 7 0 ≠ 0) || decide (2 ^ 16 < bits v 47 32 + bits v 31 16 + 1)
    | none => bits v 47 16 ≠ 0 || bits v 7 0 ≠ 0
  if v = x.issueWord then some x
  else if bit v 56 ∨ bits v 15 8 ≠ 0 ∨ outside then none
  else
    some { x with
      frozen := bit v 62
      stalled := match x.q with | .loopMark _ _ k :: _ => k - bits v 55 48 | _ => x.stalled
      loop := x.loop.map (fun l => { l with exec := bits v 47 32, n := bits v 47 32 + bits v 31 16 + 1, pos := bits v 7 0 }) }

/-- A latch reference that is not valid has no bits, and one that is has bits for its tag and its latch alone. -/
def refOk (v : Nat) : Bool := if bit v 15 then bits v 14 12 = 0 && decide (bits v 11 8 ≤ 10) && bits v 7 4 = 0 else v = 0

/-- The latch references of an engine's in-progress slots. -/
def slotRefs (rd : Nat → Nat → Nat) (b n : Nat) : List Nat :=
  (List.range n).flatMap (fun u => (List.range 4).map (fun i => rd (slotAt b u + 216 + 2 * i) 2))

/-- The slots of an engine hold what R378 and R383 allow: no more than their count, zero where they say so, and references to latches. -/
def slotsOk (rd : Nat → Nat → Nat) (b n : Nat) : Bool :=
  decide (n ≤ 16) && rd (slotAt b n) (256 * (16 - n)) = 0 && (slotRefs rd b n).all refOk &&
    (List.range n).all (fun u => rd (slotAt b u + 198) 2 = 0 && rd (slotAt b u + 206) 2 = 0 && rd (slotAt b u + 210) 6 = 0 && rd (slotAt b u + 224) 32 = 0)

/-- The issued instructions that an engine's slots hold, in place of older ones: the first with its latches and the pushes that it has made. One
that has not latched a queue register which it reads, reads it yet. [DESIGN CHOICE, log 50] -/
def State.slotsOf (s : State) (rd : Nat → Nat → Nat) (e : Engine) (n : Nat) (old : List Cap) (x : Eng) : Option Eng :=
  let b := Config.engIdx e
  match (List.range n).mapM (fun u =>
      let v := rd (slotAt b u) 192
      match old[u]? with
      | some c => if v = c.record 0 then some c else if 2 ≤ v / 2 ^ 184 % 256 then none else s.capOf e v (some c)
      | none => if 2 ≤ v / 2 ^ 184 % 256 then none else s.capOf e v none) with
  | none => none
  | some [] => some x
  | some (h :: r) =>
    let latch : SMap (Option (VReg × Fmt)) := (srcKeys h.instr).zipIdx.foldl (fun m k =>
      let w := rd (slotAt b 0 + 216 + 2 * k.2) 2
      if bit w 15 then SMap.set none m k.1 (some (BitVec.ofNat 65536 (rd (latchAt (bits w 3 0)) 8192), fmtOf (bits w 11 8))) else m) []
    some { x with
      slots := h :: r, latch := latch, made := rd (slotAt b 0 + 192) 2
      latched := (queueReads h.instr).all (fun q => (SMap.get none latch q.1).isSome) }

/-- An engine as the image holds it; `same` where no slot and no latch has changed. -/
def State.engOf (s : State) (rd : Nat → Nat → Nat) (same : Bool) (c : Ctx) (e : Engine) : Option Ctx :=
  let at_ := 0xC000 + 0x800 * Config.engIdx e
  let x := c.engAt e
  let v := rd at_ 8
  let n := bits v 61 57
  match s.engQueue rd e x.rest with
  | none => none
  | some y =>
    if rd (at_ + 8) 0x7F8 ≠ 0 ∨ !slotsOk rd (Config.engIdx e) n then none
    else
      match y.withIssue v with
      | none => none
      | some y =>
        if same ∧ n = x.issued.length then
          some (c.setEng e (if y = x.rest then x else if x.issued = [] then y
            else { y with
              slots := x.issued, latch := x.latch, latched := x.latched, pushes := x.pushes, made := x.made, stall := x.stall
              stalled := x.stalled }))
        else (s.slotsOf rd e n x.issued y).map (c.setEng e)

/-! ## Header and control region (R377) -/

/-- The header. -/
def State.imgHeader (s : State) (k : Nat) (c : Ctx) : List Piece :=
  let b := s.bindAt k
  wordsAt 0 [(if c.img.pre then 2 ^ 24 else 0) + b.world.toNat * 2 ^ 16 + 1, b.gang.toNat * 2 ^ 32 + b.strand.toNat, c.img.stop.toNat,
    flag c.en.sat 63 + c.en.uj % 2 ^ 48, c.en.frac / 128]

/-- Bytes of six engines in MASK order. -/
def sixBytes (f : Nat → Nat) : Nat := ((List.range 6).map (fun i => f i % 256 * 2 ^ (8 * i))).sum

/-- The covered line from which a loop's lines left are counted: that of the fetch position, or of the return where a trap has suspended it,
but none before the first. -/
def Ctx.loopFrom (c : Ctx) : Nat := Nat.max c.lp.first (if c.lp.susp then c.csr.retLine else c.ctl.line)

/-- LOOPD. [DESIGN CHOICE, log 50] -/
def Ctx.loopd (c : Ctx) : Nat :=
  let l := c.lp
  flag l.open_ 63 + flag l.susp 62 + l.mask.toNat * 2 ^ 56 + (if l.open_ ∨ l.susp then (l.last - c.loopFrom) / 32 % 32 * 2 ^ 48 else 0)
    + l.first / 32 % 2 ^ 13 * 2 ^ 32 + l.owed.toNat * 2 ^ 16 + (l.n - 1) % 2 ^ 16

/-- FPOS. -/
def Ctrl.fpos (c : Ctrl) : Nat := c.line % 2 ^ 18 / 32 * 32 + c.lane % 16

/-- CPROG: the cycles that the instruction in progress still needs, and the resident cycles of a hold. [DESIGN CHOICE, log 50] -/
def Ctx.cprog (c : Ctx) : Nat := (c.ctl.due - (c.img.stop.toNat + 1)) % 2 ^ 32 + c.ctl.held % 2 ^ 32 * 2 ^ 32

/-- PEND. -/
def Ctx.pendWord (c : Ctx) : Nat :=
  (Config.engines.map (fun e =>
    match (c.engAt e).pend with
    | some p => 2 ^ Config.engIdx e + p.code.toNat * 2 ^ (8 * Config.engIdx e + 8)
    | none => 0)).sum

/-- The control region. -/
def State.imgControl (s : State) (k : Nat) (c : Ctx) : List Piece :=
  let t := { s with cur := k }
  wordsAt 0x1000 ((List.range 32).map (fun n => (c.ctl.getS (BitVec.ofNat 5 n)).toNat))
    ++ wordsAt 0x1100 [c.ctl.p.toNat, c.ctl.fpos, c.loopd, sixBytes (SMap.get 0 c.lp.skews), c.cprog, c.pendWord]
    ++ wordsAt 0x1200 ((List.range 64).map (fun n => (csrRead t n).toNat))

/-- The bits of those registers that are not reserved. [DESIGN CHOICE, log 50] -/
def csrBits (n : Nat) : Nat :=
  match n with
  | 0x010 => 2 ^ 10 - 1
  | 0x011 | 0x013 => 2 ^ 16 - 1
  | 0x012 => 2 ^ 8 - 1
  | 0x014 => 2 ^ 18 - 1
  | 0x033 | 0x03B => 2 ^ 6 - 1
  | 0x035 => 2 ^ 7 - 1
  | 0x036 => 0x1FF800000 + 0xFFFF
  | 0x03A => 0xFFFEFFFEFFFE
  | 0x03D => 2 ^ 32 - 1
  | 0x03E => 0x1F17
  | _ => 2 ^ 64 - 1

/-- A register's RW, W1C and RO fields that the image can change, set from a word (R377, R385). -/
def csrRaw (c : Ctx) (n : Nat) (v : Nat) : Ctx :=
  match n with
  | 0x000 => { c with csr := { c.csr with late := bit v 1, intrap := bit v 0 } }
  | 0x007 => { c with csr := { c.csr with
      teng := ⟨bit v 63, bit v 62, BitVec.ofNat 3 (bits v 61 59), bit v 58, bit v 57, BitVec.ofNat 13 (bits v 17 5), BitVec.ofNat 4 v⟩ } }
  | 0x036 => { c with fab := { c.fab with badrec := bit v 32 } }
  | 0x039 => { c with pump := { c.pump with
      drops := BitVec.ofNat 16 (v / 2 ^ 32), lcount := BitVec.ofNat 16 (v / 2 ^ 16), drop := bit v 1, late := bit v 0 } }
  | 0x03A => { c with pump := { c.pump with hit := BitVec.ofNat 16 (v / 2 ^ 32), ack := BitVec.ofNat 16 (v / 2 ^ 16) } }
  | _ => csrPut c n (word v)

/-- The registers whose words only restate what stands elsewhere. -/
def csrCopy (n : Nat) : Bool :=
  (0x010 ≤ n && n ≤ 0x014) || n = 0x020 || (0x031 ≤ n && n ≤ 0x033) || (0x035 ≤ n && n ≤ 0x036) || n = 0x03A || n = 0x03B
    || (0x03D ≤ n && n ≤ 0x03F)

/-- Register n as the image holds it, where it is not as it was saved; none where a reserved bit is set. -/
def State.csrOf (s : State) (k : Nat) (c : Ctx) (n v : Nat) : Option Ctx :=
  let see (c : Ctx) : Nat := (csrRead { s.setAt k c with cur := k } n).toNat
  if c.img.words[n]? = some (word v) ∨ v = see c then some c
  else
    let d := csrRaw c n v
    if (if csrCopy n then v &&& csrBits n = v else see d = v) then some d else none

/-- Scalars, predicates, fetch position, progress and pending traps as the image holds them. A wait in progress goes on, and fetch goes on at a
position that was written (R385); traps raised since the save are pending whatever the image holds (R373). -/
def Ctx.controlOf (rd : Nat → Nat → Nat) (c : Ctx) : Option Ctx :=
  let w (o : Nat) : Nat := rd (0x1000 + o) 8
  let fpos := w 0x108
  let lp := w 0x110
  let pe := w 0x128
  if 256 ≤ w 0x100 ∨ 2 ^ 18 ≤ fpos ∨ 8 ≤ bits fpos 4 0 ∨ bits lp 55 53 ≠ 0 ∨ bits lp 47 45 ≠ 0 ∨ bits lp 31 22 ≠ 0
      ∨ 2 ^ 48 ≤ w 0x118 ∨ bits pe 7 6 ≠ 0 ∨ bits pe 63 56 ≠ 0 ∨ rd 0x1130 0xD0 ≠ 0 ∨ rd 0x1400 0xC00 ≠ 0 then none
  else
    let t := c.ctl
    let t := (List.range 31).foldl (fun (t : Ctrl) i => t.setS (BitVec.ofNat 5 (i + 1)) (word (w (8 * (i + 1))))) t
    let t := { t with p := BitVec.ofNat 8 (w 0x100) ||| 1 }
    let t := if fpos = c.ctl.fpos then t
      else
        let line := bits fpos 17 5 * 32
        let lane := bits fpos 3 0
        { t with line := line, lane := lane, nline := line, nlane := lane }
    let t := if w 0x120 = c.cprog then t
      else { t with due := c.img.stop.toNat + 1 + w 0x120 % 2 ^ 32, held := w 0x120 / 2 ^ 32 }
    let l := if lp = c.loopd then c.lp
      else
        let l := { c.lp with open_ := bit lp 63, susp := bit lp 62, first := 32 * bits lp 44 32 }
        { l with
        mask := BitVec.ofNat 6 (bits lp 61 56), last := { c with ctl := t, lp := l }.loopFrom + 32 * bits lp 52 48, owed := BitVec.ofNat 6 (bits lp 21 16), n := bits lp 15 0 + 1 }
    let l := { l with skews := (List.range 6).foldl (fun m i => SMap.set 0 m i (bits (w 0x118) (8 * i + 7) (8 * i))) [] }
    let d := { c with ctl := t, lp := l }
    some (if c.img.words[64]? = some (word pe) ∨ pe = c.pendWord then d
      else Config.engines.foldl (fun c e =>
        let i := Config.engIdx e
        let x := c.engAt e
        let code := BitVec.ofNat 8 (bits pe (8 * i + 15) (8 * i + 8))
        c.setEng e { x with
          pend := if bit pe i then
              some (match x.pend with | some p => { p with code := code } | none => ⟨!x.frozen, code, 0, 0, 0, 0, false⟩)
            else x.pend.filter (fun p => decide (c.img.stop.toNat < p.at_.toNat)) }) d)

/-! ## Handle slots, grids, items and the register files -/

/-- The handle slots. -/
def Ctx.imgHandles (c : Ctx) : List Piece := c.ctl.h.map (fun e => (0x2000 + 64 * e.1, 64, recVal e.2))

/-- The handle slots as the image holds them (R383). -/
def State.handlesOf (s : State) (rd : Nat → Nat → Nat) : SMap (Option Handle) :=
  (List.range 64).foldl (fun m n =>
    let v := rd (0x2000 + 64 * n) 64
    SMap.set none m n (if v = 0 then none else s.unsealed (handleOf v))) []

/-- The word of a face. -/
def FaceSt.word (x : FaceSt) : Nat :=
  (if x.conn then 2 ^ 62 else if x.rule.isSome then 2 ^ 63 else 0)
    + (match x.kind with | .die => 0 | .otherDie => 1 | .device => 2) * 2 ^ 60
    + (match x.rule with | some .fixed => 1 | some .reflect => 2 | some .copy => 3 | some .zero => 4 | _ => 0) * 2 ^ 57
    + (match x.peer with | some p => 2 ^ 56 + p.toNat % 2 ^ 41 | Option.none => 0)

/-- The face that a word holds; its step is the core's and stays. -/
def FaceSt.ofWord (x : FaceSt) (v : Nat) : Option FaceSt :=
  let st := bits v 63 62
  let kind? := [Kind.die, .otherDie, .device][bits v 61 60]?
  let rule? := [Rule.periodic, .fixed, .reflect, .copy, .zero][bits v 59 57]?
  match kind?, rule? with
  | some k, some r =>
    if st = 3 ∨ bits v 55 41 ≠ 0 ∨ (!bit v 56 ∧ bits v 40 0 ≠ 0) then Option.none
    else
      some { x with
        conn := decide (st = 1), rule := if st = 2 then some r else Option.none, kind := k
        peer := if bit v 56 then some (Sys2Proof.word (bits v 40 0)) else Option.none }
  | _, _ => Option.none

/-- The first words of a grid slot after its record, and those of its exchange (R380). -/
def Grid.image (g : Grid) (at_ : Nat) : List Piece :=
  (at_, 64, recVal (some g.hd))
    :: wordsAt (at_ + 0x40)
      [2 ^ 63 + flag g.active 62 + g.dims * 2 ^ 60 + g.ew * 2 ^ 56 + g.rad * 2 ^ 52 + (g.depth - 1) * 2 ^ 50 + g.w * 2 ^ 44
          + (match g.bind with | some n => 2 ^ 43 + n.toNat * 2 ^ 37 | none => 0),
        g.nz * 2 ^ 42 + g.ny * 2 ^ 21 + g.nx,
        (match g.xstep with | some x => x.toNat | none => 0) * 2 ^ 32 + g.step.toNat, flag g.xstep.isSome 0]
    ++ (List.range 6).flatMap (fun f =>
      let x := g.face f
      wordsAt (at_ + 0x60 + 16 * f) [x.word, (match x.hstep with | some h => 2 ^ 32 + h.toNat | none => 0)])
    ++ [(at_ + 0xC0, 8, g.phase + g.sent.toNat * 2 ^ 8 + g.read.toNat * 2 ^ 16 + g.waiting.toNat * 2 ^ 24 + flag g.incp 32)]

/-- The grid slots. -/
def Ctx.imgGrids (c : Ctx) : List Piece :=
  c.grids.flatMap (fun e => match e.2 with | some g => g.image (0x14000 + 1024 * e.1) | none => [])

/-- A grid of zeros. -/
def Grid.blank (hd : Handle) : Grid :=
  { hd := hd, dims := 0, nx := 0, ny := 0, nz := 0, ew := 0, rad := 0, depth := 0, w := 0, faces := [], step := 0, xstep := none
    active := false, bind := none, phase := 0, sent := 0, read := 0, waiting := 0, incp := false, failed := false, issued := 0, line := 0, lane := 0
    age := 0 }

/-- A record that matches no seal: no generation below GMIN is ever live, so that it acts as a revoked one does (R338, R394). -/
def Handle.dead (h : Handle) : Handle := { h with gen := 0 }

/-- A grid slot as the image holds it; the words of HSTEP are copies. None where a value lies outside its range. -/
def State.gridOf (s : State) (rd : Nat → Nat → Nat) (g : Nat) (old : Option Grid) : Option (Option Grid) :=
  let at_ := 0x14000 + 1024 * g
  let w (o : Nat) : Nat := rd (at_ + o) 8
  if rd at_ 1024 = 0 then some none
  else
    let hv := rd at_ 64
    let hd : Handle := match handleOf hv with
      | some r => if s.sealed r = r then r else r.dead
      | none => (match old with | some x => x.hd.dead | none => ⟨0, 0, 0, 0, none, 0, .untyped, 0, 0, 0, 0, 0, 0, 0⟩)
    let a := w 0x40
    let e := w 0xC0
    let faces := (List.range 6).mapM (fun f =>
      if bits (w (0x68 + 16 * f)) 63 33 ≠ 0 then none
      else ((match old with | some x => x.face f | none => FaceSt.none).ofWord (w (0x60 + 16 * f))))
    match faces with
    | none => none
    | some fs =>
      if !bit a 63 ∨ bits a 61 60 = 0 ∨ bits (w 0x48) 20 0 = 0 ∨ bits (w 0x48) 41 21 = 0 ∨ bits (w 0x48) 62 42 = 0
          ∨ (bits a 61 60 < 2 ∧ bits (w 0x48) 41 21 ≠ 1) ∨ (bits a 61 60 < 3 ∧ bits (w 0x48) 62 42 ≠ 1)
          ∨ bits a 49 44 ≠ bits a 55 52 * (bits a 51 50 + 1) ∨ bits a 61 60 < bits e 1 0 ∨ (bits a 59 56 ≠ 2 ∧ bits a 59 56 ≠ 4) ∨ bits a 55 52 = 0 ∨ 8 < bits a 55 52 ∨ bits a 49 44 = 0
          ∨ 32 < bits a 49 44 ∨ bits a 36 0 ≠ 0 ∨ (!bit a 43 ∧ bits a 42 37 ≠ 0) ∨ bit (w 0x48) 63 ∨ 2 ≤ w 0x58
          ∨ bits e 63 33 ≠ 0 ∨ bits e 7 2 ≠ 0 ∨ bits e 15 14 ≠ 0 ∨ bits e 23 22 ≠ 0 ∨ bits e 31 30 ≠ 0 ∨ rd (at_ + 0xC8) 0x338 ≠ 0 then none
      else
        let base : Grid := match old with | some x => x | none => Grid.blank hd
        some (some (fs.zipIdx.foldl (fun (r : Grid) x => r.setFace x.2 x.1)
          { base with
            hd := hd, active := bit a 62, dims := bits a 61 60, ew := bits a 59 56, rad := bits a 55 52, depth := bits a 51 50 + 1
            w := bits a 49 44, bind := if bit a 43 then some (BitVec.ofNat 6 (bits a 42 37)) else none
            nx := bits (w 0x48) 20 0, ny := bits (w 0x48) 41 21, nz := bits (w 0x48) 62 42, step := BitVec.ofNat 32 (w 0x50)
            xstep := if w 0x58 = 1 then some (BitVec.ofNat 32 (w 0x50 / 2 ^ 32)) else none
            phase := bits e 1 0, sent := BitVec.ofNat 6 (bits e 13 8), read := BitVec.ofNat 6 (bits e 21 16)
            waiting := BitVec.ofNat 6 (bits e 29 24), incp := bit e 32 }))

/-- A set of small numbers that ranges of a kind cover, as bits. -/
def rngBits (l : List Rng) (r : Res) (w : Bool) (n : Nat) : Nat :=
  flagBits n 0 (fun i => l.any (fun x => x.r = r && x.w = w && decide (x.lo ≤ i ∧ i ≤ x.hi)))

/-- The blocks that ranges cover, from the first to the last. -/
def rngSpan (l : List Rng) (w : Bool) : Option (Nat × Nat) :=
  match l.filter (fun x => x.r = .blk && x.w = w) with
  | [] => none
  | x :: r => some (r.foldl (fun a y => (Nat.min a.1 y.lo, Nat.max a.2 y.hi)) (x.lo, x.hi))

/-- The item of a write in flight (R379). -/
def Flight.item (f : Flight) : Nat :=
  let l := f.rngs
  let sp (w : Bool) : Nat := match rngSpan l w with | some (a, b) => a % 2 ^ 17 + b % 2 ^ 17 * 2 ^ 32 | none => 0
  ageWord f.age 0
    + (f.src + 8 + flag (rngSpan l false).isSome 4 + flag (rngSpan l true).isSome 5) * 2 ^ 64
    + rngBits l .k false 8 * 2 ^ 72 + rngBits l .k true 8 * 2 ^ 80 + rngBits l .acc false 16 * 2 ^ 96 + rngBits l .acc true 16 * 2 ^ 112
    + rngBits l .v false 128 * 2 ^ 128 + rngBits l .v true 128 * 2 ^ 256 + sp false * 2 ^ 384 + sp true * 2 ^ 448

/-- An access in flight that holds nothing more in the range checker than its item shows. -/
def Flight.bare (src age : Nat) (rngs : List Rng) : Flight := ⟨src, age, none, 0, rngs, 0, 0, 0, [], [], false, 0, 0⟩

/-- The commands that have left their queues and the scalar accesses still in flight, in age order (R379): the writes in flight, the fabric
commands beside them, and a scalar load whose data has not returned. -/
def State.inFlight (s : State) (k : Nat) : List Flight :=
  let c := s.ctxAt k
  let t := { s with cur := k }
  let fab := (c.fab.cmds.filter (fun x => !c.fl.any (fun f => f.age = x.cap.age))).map (fun x => Flight.bare 5 x.cap.age (t.ranges x.cap))
  let ld := match c.ctl.late with
    | some l => (match l.load with
      | some r => if c.img.stop.toNat + 1 < c.ctl.due then
          [Flight.bare 6 ((c.ctl.nextAge - 1) * 2 ^ 40) (t.blocks r.hd (r.off : Int) ((r.off + r.n - 1 : Nat) : Int) false)] else []
      | none => [])
    | none => []
  (c.fl ++ fab ++ ld).mergeSort (fun a b => decide (a.age ≤ b.age))

/-- The items in flight, in age order. -/
def State.imgItems (s : State) (k : Nat) : List Piece := ((s.inFlight k).take 128).zipIdx.map (fun e => (0x10000 + 64 * e.2, 64, e.1.item))

/-- An item record holds what R379 gives. -/
def itemOk (v : Nat) : Bool :=
  let fl := bits v 71 64
  let sp (lo : Nat) (on : Bool) : Bool :=
    let x := v / 2 ^ lo % 2 ^ 64
    bits x 31 17 = 0 && bits x 63 49 = 0 && if on then decide (bits x 16 0 ≤ bits x 48 32) else x = 0
  decide (fl % 8 ≠ 7) && bit fl 3 && bits fl 7 6 = 0 && bits v 95 88 = 0 && sp 384 (bit fl 4) && sp 448 (bit fl 5)

/-- The ranges that an item record holds. -/
def itemRngs (v : Nat) : List Rng :=
  let set (r : Res) (w : Bool) (lo n : Nat) : List Rng :=
    (List.range n).filterMap (fun i => if bit (v / 2 ^ lo) i then some ⟨r, i, i, w⟩ else none)
  let sp (lo : Nat) (w : Bool) : List Rng :=
    let x := v / 2 ^ lo % 2 ^ 64
    [⟨.blk, bits x 16 0, bits x 48 32, w⟩]
  set .k false 72 8 ++ set .k true 80 8 ++ set .acc false 96 16 ++ set .acc true 112 16 ++ set .v false 128 128 ++ set .v true 256 128
    ++ (if bit v 68 then sp 384 false else []) ++ (if bit v 69 then sp 448 true else [])

/-- The writes that are still in flight with the ranges of their items; none where an item is not as R379 gives it. The items of reads
are made again with them. -/
def Ctx.itemsOf (rd : Nat → Nat → Nat) (c : Ctx) : Option (List Flight) :=
  let recs := (List.range 128).map (fun i => rd (0x10000 + 64 * i) 64)
  let live := recs.takeWhile (· ≠ 0)
  if (recs.drop live.length).any (· ≠ 0) ∨ !live.all itemOk then none
  else
    some (c.fl.map (fun f =>
      match live.find? (fun v => v % 2 ^ 64 = ageWord f.age 0 ∧ bits v 66 64 = f.src) with
      | some v => if v = f.item then f else { f with rngs := itemRngs v }
      | none => f))

/-- The code of a rounding mode (R46). -/
def modeCode (m : RMode) : Nat := allRMode.idxOf m
/-- The rounding mode of a code. -/
def modeOf (c : Nat) : Option RMode := allRMode[c]?

/-- Masks, tags, heads, counts and lending of the vector engine, and its mode. -/
def Vec.image (x : Vec) : List Piece :=
  let lend (l : Lend) : Nat := match l with | some b => 4 + b.toNat | none => 0
  x.k.map (fun e => (0x18000 + 256 * e.1, 256, e.2.toNat))
    ++ [(0x18800, 128, (x.f.map (fun e => if e.1 < 256 then Config.fmtCode e.2 * 2 ^ (4 * e.1) else 0)).sum),
      (0x18880, 32, ((List.range 32).map (fun i => (SMap.get 0 x.head i % 16 + SMap.get 0 x.count i % 16 * 16) * 2 ^ (8 * i))).sum),
      (0x188A0, 8, lend x.g0 + lend x.g1 * 8), (0x188A8, 8, modeCode x.mode)]
    ++ x.r.map (fun e =>
      ((if e.1 < 256 then 0x100000 + 8192 * e.1 else if e.1 < 320 then 0x80000 + 8192 * (e.1 - 256) else 0x20000 + 8192 * (e.1 - 320)),
        8192, e.2.toNat))

/-- A lend that three bits hold. -/
def lendOf (v : Nat) : Lend := if bit v 2 then some (BitVec.ofNat 2 v) else none

/-- The register file as the image holds it; a reserved tag or rounding mode lies outside its range. [DESIGN CHOICE, log 50] -/
def Vec.ofImage (rd : Nat → Nat → Nat) (x : Vec) : Option Vec :=
  let tags := rd 0x18800 128
  let hc := rd 0x18880 32
  let lends := rd 0x188A0 8
  let slotAt (i : Nat) : Nat := if i < 256 then 0x100000 + 8192 * i else if i < 320 then 0x80000 + 8192 * (i - 256) else 0x20000 + 8192 * (i - 320)
  match modeOf (rd 0x188A8 8) with
  | none => none
  | some mode =>
    if (List.range 256).any (fun i => 10 < tags / 2 ^ (4 * i) % 16) ∨ (List.range 32).any (fun i => 4 < hc / 2 ^ (8 * i + 4) % 16 ∨ 3 < hc / 2 ^ (8 * i) % 16)
        ∨ 64 ≤ lends ∨ (!bit lends 2 ∧ lends % 4 ≠ 0) ∨ (!bit lends 5 ∧ lends / 8 % 4 ≠ 0) ∨ rd 0x188B0 0x750 ≠ 0 then none
    else
      some
        { k := (List.range 8).foldl (fun m i => SMap.set 0 m i (BitVec.ofNat 2048 (rd (0x18000 + 256 * i) 256))) []
          r := (List.range 328).foldl (fun m i => SMap.set 0 m i (BitVec.ofNat 65536 (rd (slotAt i) 8192))) []
          f := (List.range 256).foldl (fun m i => SMap.set .untyped m i (fmtOf (tags / 2 ^ (4 * i) % 16))) (x.f.filter (fun e => 256 ≤ e.1))
          head := (List.range 32).foldl (fun m i => SMap.set 0 m i (hc / 2 ^ (8 * i) % 16)) []
          count := (List.range 32).foldl (fun m i => SMap.set 0 m i (hc / 2 ^ (8 * i + 4) % 16)) []
          excess := x.excess, g0 := lendOf lends, g1 := lendOf (lends / 8), mode := mode }

/-- The matrix engine's state. -/
def Mat.image (m : Mat) : List Piece :=
  let pos (l : SMap Nat) : Nat := ((List.range 16).map (fun n => SMap.get 0 l n % 256 * 2 ^ (8 * n))).sum
  [(0x19000, 8, m.tm % 2 ^ 16 + m.tk % 2 ^ 16 * 2 ^ 16 + m.tn % 2 ^ 16 * 2 ^ 32 + modeCode m.mode * 2 ^ 48 + Config.fmtCode m.wfmt * 2 ^ 52
      + m.wpc.toNat * 2 ^ 56), (0x19010, 16, pos m.inn), (0x19020, 16, pos m.out)]

/-- The matrix engine's state as the image holds it. -/
def Mat.ofImage (rd : Nat → Nat → Nat) (m : Mat) : Option Mat :=
  let v := rd 0x19000 8
  let dim (x : Nat) : Bool := decide (1 ≤ x ∧ x ≤ 128)
  let pos (o : Nat) : SMap Nat := (List.range 16).foldl (fun m n => SMap.set 0 m n (rd (o + n) 1)) []
  let ok (o : Nat) : Bool := (List.range 16).all (fun n => decide (rd (o + n) 1 < 128))
  match modeOf (bits v 51 48) with
  | none => none
  | some mode =>
    if !(dim (bits v 15 0) && dim (bits v 31 16) && dim (bits v 47 32) && ok 0x19010 && ok 0x19020) ∨ 10 < bits v 55 52 ∨ bits v 63 59 ≠ 0
        ∨ rd 0x19008 8 ≠ 0 ∨ rd 0x19030 0xFD0 ≠ 0 then none
    else
      some { m with
        tm := bits v 15 0, tk := bits v 31 16, tn := bits v 47 32, mode := mode
        wfmt := fmtOf (bits v 55 52), wpc := BitVec.ofNat 3 (bits v 58 56), inn := pos 0x19010, out := pos 0x19020 }

/-! ## The pump (R381) -/

/-- The READY estimate that a buffered command set in the tiles it writes, zero where it has none. -/
def State.estOf (s : State) (k : Nat) (x : PCmd) : Nat :=
  match s.tiles.findSome? (fun t => (t.2.ests.find? (fun e => e.1 = estId k x.cap.age)).map (·.2)) with
  | some e => e.toNat
  | none => 0

/-- Commands that use a generation of a code table slot. -/
def Pump.users (p : Pump) (t : Nat) (g : Bool) : Nat :=
  ((p.buf ++ p.fly).filter (fun x => match x.cap.instr with
    | .pcopyd _ o => o.tab.toNat = t && x.gen = g
    | _ => false)).length

/-- The state word of a code table slot. -/
def Pump.tabWord (p : Pump) (t : Nat) (x : Tab) : Nat :=
  flag x.g0.present 0 + flag x.g1.present 1 + flag x.g0.invalid 2 + flag x.g1.invalid 3 + flag x.cur 4
    + flag (x.gen x.cur).loading.isSome 5 + p.users t (!x.cur) % 2 ^ 16 * 2 ^ 16

/-- The buffered commands in time-sorted order: by the start time asked for, those of one time in issue order (R285). -/
def Pump.sorted (p : Pump) : List PCmd := p.buf.mergeSort (fun a b => decide (a.cap.time.toNat ≤ b.cap.time.toNat))

/-- The word of a cancel handle. -/
def Pump.cidWord (p : Pump) (c : Nat) : Nat :=
  flag (p.live c) 63 + (match p.sorted.findIdx? (fun x => x.cid = c) with
    | some i => i % 64
    | none => flag (p.fly.any (fun x => x.cid = c)) 62)

/-- Whether a buffered command's record says which generation it is bound to. -/
def PCmd.genBit (x : PCmd) : Nat := match x.cap.instr with | .pcopyd _ _ => flag x.gen 0 | _ => 0

/-- The pump region. -/
def State.imgPump (s : State) (k : Nat) (p : Pump) : List Piece :=
  p.sorted.zipIdx.flatMap (fun e =>
    let a := 0x1A000 + 256 * e.2
    (a, 192, e.1.cap.record 0) :: wordsAt (a + 192) [s.estOf k e.1, e.1.issue.toNat, e.1.genBit])
    ++ p.tabs.flatMap (fun e =>
      [(0x1C000 + 512 * e.1, 256, e.2.g0.data), (0x1C100 + 512 * e.1, 256, e.2.g1.data), (0x1E000 + 8 * e.1, 8, p.tabWord e.1 e.2)])
    ++ (List.range 15).map (fun i => (0x1E088 + 8 * i, 8, p.cidWord (i + 1)))

/-- The cancel handle of a command is another one, or none. -/
def PCmd.setCid (x : PCmd) (c : Nat) : PCmd :=
  let f (o : POp) : POp := { o with cid := BitVec.ofNat 4 c }
  { x with cap := { x.cap with instr := match x.cap.instr with
      | .pcopy be o => .pcopy be (f o)
      | .pcopy2d be r o => .pcopy2d be r (f o)
      | .pcopyd be o => .pcopyd be (f o)
      | .pcopyhIn o => .pcopyhIn (f o)
      | .pcopyhOut o => .pcopyhOut (f o)
      | .pover o => .pover (f o)
      | .pcmd o => .pcmd (f o)
      | .pfill o => .pfill (f o)
      | .ptagset o => .ptagset (f o)
      | .ptagchk o => .ptagchk (f o)
      | .pprefetch o => .pprefetch (f o)
      | i => i } }

/-- A buffered command that a record adds. -/
def PCmd.blank (c : Cap) : PCmd :=
  { cap := c, issue := 0, gen := false, start := 0, fin := 0, wait := false, page := (0, 0), inv := false, win := false, rd := [], wr := [], data := 0
    bad := none }

/-- A buffered command as its record holds it, and its estimate; none where the record is no command that the buffer takes. -/
def State.pcmdOf (s : State) (v : Nat) (old : Option PCmd) : Option (PCmd × Nat) :=
  let r := v % 2 ^ 1536
  let cap := if old.map (fun x => x.cap.record 0) = some r then old.map (·.cap)
    else if r / 2 ^ 184 % 256 ≠ 0 then none else s.capOf .pump r (old.map (·.cap))
  let gen := v / 2 ^ 1664
  match cap with
  | none => none
  | some c =>
    let old := old.getD (PCmd.blank c)
    let y := { old with cap := c, issue := word (v / 2 ^ 1600), gen := if gen = old.genBit then old.gen else decide (gen = 1) }
    let taken : Bool := (pop? c.instr).isSome || (match c.instr with | .pevent _ _ _ _ => true | _ => false)
    if 2 ≤ gen ∨ y.genBit ≠ gen ∨ !taken then none
    else some (y, v / 2 ^ 1536 % 2 ^ 64)

/-- A code table slot as the image holds it; which generation loads, and the users of the older one, are copies. -/
def tabOf (rd : Nat → Nat → Nat) (t : Nat) (old : Tab) : Option Tab :=
  let v := rd (0x1E000 + 8 * t) 8
  if bits v 15 6 ≠ 0 ∨ bits v 63 32 ≠ 0 then none
  else
    some
      ⟨{ old.g0 with present := bit v 0, invalid := bit v 2, data := rd (0x1C000 + 512 * t) 256 },
        { old.g1 with present := bit v 1, invalid := bit v 3, data := rd (0x1C100 + 512 * t) 256 }, bit v 4⟩

/-- The cancel handles that buffered commands hold as the words say, where a word is not as it was saved: each names the command at its position.
The words of commands in flight, which stay in the core, are copies (R374). -/
def Pump.cidsOf (rd : Nat → Nat → Nat) (p : Pump) (l : List PCmd) : List PCmd :=
  let w (c : Nat) : Nat := rd (0x1E080 + 8 * c) 8
  if (List.range 15).all (fun i => w (i + 1) = p.cidWord (i + 1)) then l
  else l.zipIdx.map (fun e =>
    e.1.setCid (((List.range 15).find? (fun i => bit (w (i + 1)) 63 ∧ !bit (w (i + 1)) 62 ∧ bits (w (i + 1)) 5 0 = e.2)).elim 0 (· + 1)))

/-- A word of a cancel handle lies in its range: its reserved bits are zero, and it names a record of the buffer. [DESIGN CHOICE, log 50] -/
def cidWordOk (n v : Nat) : Bool := bits v 61 6 = 0 && (!bit v 63 || bit v 62 || decide (bits v 5 0 < Nat.max 1 n))

/-- The pump as the image holds it, with the estimates of its buffered commands by age. -/
def State.pumpOf (s : State) (rd : Nat → Nat → Nat) (p : Pump) : Option (Pump × List (Nat × Nat)) :=
  let recs := (List.range 32).map (fun i => rd (0x1A000 + 256 * i) 256)
  let live := recs.takeWhile (· ≠ 0)
  if (recs.drop live.length).any (· ≠ 0) ∨ rd 0x1E080 8 ≠ 0 ∨ rd 0x1E100 0x1F00 ≠ 0
      ∨ (List.range 15).any (fun i => !cidWordOk live.length (rd (0x1E088 + 8 * i) 8)) then none
  else
    match live.zipIdx.mapM (fun e => s.pcmdOf e.1 p.sorted[e.2]?), (List.range 16).mapM (fun t => tabOf rd t (SMap.get Tab.reset p.tabs t)) with
    | some l, some tabs =>
      let new := Pump.cidsOf rd p (l.map (·.1))
      some ({ p with buf := if new = p.sorted then p.buf else new, tabs := tabs.zipIdx.foldl (fun m e => SMap.set Tab.reset m e.2 e.1) [] },
        l.map (fun e => (e.1.cap.age, e.2)))
    | _, _ => none

/-- A READY estimate replaced in every tile that holds it. -/
def State.setEst (s : State) (k age v : Nat) : State :=
  { s with tiles := s.tiles.map (fun t =>
      (t.1, { t.2 with ests := t.2.ests.map (fun e => if e.1 = estId k age then (e.1, word v) else e) })) }

/-! ## The signature accumulator -/

/-- The accumulator as a stored signature at the spacing of d = 16 and N = 4 (R343, R376). -/
def Sig.image (g : Sig) : List Piece :=
  [(0x30000, 4, g.lo.toNat), (0x30004, 4, g.hi.toNat), (0x30008, 4, g.dim + g.depth * 2 ^ 8 + 2 ^ 16 + flag g.log 24)]
    ++ [g.l1, g.l2, g.l3, g.l4].zipIdx.map (fun e => (0x30000 + sigStart 16 4 (e.2 + 1), 4 * g.dim ^ (e.2 + 1), e.1))

/-- The accumulator as the image holds it. -/
def Sig.ofImage (rd : Nat → Nat → Nat) : Option Sig :=
  let v := rd 0x30008 4
  let d := bits v 7 0
  let lvl (k : Nat) : Nat := rd (0x30000 + sigStart 16 4 k) (4 * d ^ k)
  let rest (k : Nat) : Nat :=
    rd (0x30000 + sigStart 16 4 k + 4 * d ^ k) (sigStart 16 4 (k + 1) - sigStart 16 4 k - 4 * d ^ k)
  if d = 0 ∨ 16 < d ∨ bits v 15 8 = 0 ∨ 4 < bits v 15 8 ∨ bits v 23 16 ≠ 1 ∨ 2 ≤ bits v 31 24 ∨ rd 0x3000C 52 ≠ 0
      ∨ (List.range 4).any (fun i => rest (i + 1) ≠ 0) ∨ rd (0x30000 + sigStart 16 4 5) (0x50000 - sigStart 16 4 5) ≠ 0 then none
  else
    some
      { dim := d, depth := bits v 15 8, l1 := lvl 1, l2 := lvl 2, l3 := lvl 3, l4 := lvl 4, lo := BitVec.ofNat 32 (rd 0x30000 4)
        hi := BitVec.ofNat 32 (rd 0x30004 4), log := bit v 24 }

/-! ## The replay queue -/

/-- The bytes of segments as one number. -/
def segsVal : List Seg → Nat
  | [] => 0
  | g :: l => g.v % 2 ^ (8 * g.n) + segsVal l * 2 ^ (8 * g.n)

/-- Segments with their bytes taken from a number. -/
def segsWith : List Seg → Nat → List Seg
  | [], _ => []
  | g :: l, v => { g with v := v % 2 ^ (8 * g.n) } :: segsWith l (v / 2 ^ (8 * g.n))

/-- The address of an entry's first byte, and the number of its bytes. -/
def Parked.at_ (p : Parked) : Nat := match p.segs with | g :: _ => g.a | [] => 0
/-- Its bytes. -/
def Parked.len (p : Parked) : Nat := (p.segs.map (·.n)).sum

/-- The record of an entry of the replay queue: its first address; its length, world, source, counter and what an invalidation has done for it;
its age and, of an atomic, the operation; its place and the register of an atomic; the TINFO of a refusal; the operands of an atomic. [DESIGN CHOICE, log 50] -/
def Parked.words (p : Parked) : List Nat :=
  let a (f : Atom → Nat) : Nat := match p.atom with | some a => f a | none => 0
  [p.at_ % 2 ^ 64, p.len % 2 ^ 32 + p.world.toNat * 2 ^ 32 + p.src % 8 * 2 ^ 40
      + (match p.bind with | some n => n.toNat * 2 ^ 43 + 2 ^ 49 | none => 0) + flag p.tried 62 + flag p.covered 63,
    ageWord p.age 0 + a (fun x => ([AOp.add, .and, .or, .xor, .min, .max, .swap].idxOf x.op) * 2 ^ 56 + 2 ^ 63),
    p.line % 2 ^ 20 + p.lane % 16 * 2 ^ 20 + a (fun x => x.d.toNat * 2 ^ 24 + flag x.acq 29 + flag x.cas 30 + flag x.dw 31), p.tinfo.toNat,
    a (·.b.toNat), a (·.c.toNat)]

/-- The entry that a record holds, in place of an older one whose bytes it has moved or made fewer or more. -/
def Parked.ofWords (old : Parked) (w : Nat → Nat) : Parked :=
  let n := w 1 % 2 ^ 32
  let op := ([AOp.add, .and, .or, .xor, .min, .max, .swap][bits (w 2) 58 56]?).getD .swap
  { old with
    segs := if n = old.len then old.segs.map (fun g => { g with a := (g.a + 2 ^ 64 + w 0 - old.at_) % 2 ^ 57 }) else [⟨w 0 % 2 ^ 57, n, 0⟩]
    world := BitVec.ofNat 8 (bits (w 1) 39 32), src := bits (w 1) 42 40
    bind := if bit (w 1) 49 then some (BitVec.ofNat 6 (bits (w 1) 48 43)) else none, tried := bit (w 1) 62, covered := bit (w 1) 63
    age := if ageWord old.age 0 = w 2 % 2 ^ 56 then old.age else w 2 % 2 ^ 56 * 2 ^ 40
    line := bits (w 3) 19 0, lane := bits (w 3) 23 20, tinfo := word (w 4)
    atom := if bit (w 2) 63 then some ⟨BitVec.ofNat 5 (bits (w 3) 28 24), bit (w 3) 29, bit (w 3) 30, bit (w 3) 31, op, word (w 5), word (w 6)⟩
      else none }

/-- The replay queue: the data of each entry, and its record. -/
def Ctx.imgReplay (c : Ctx) : List Piece :=
  c.rq.zipIdx.flatMap (fun e =>
    (0x350000 + 8192 * e.2, 8192, segsVal e.1.segs) :: wordsAt (0x3D0000 + 64 * e.2) e.1.words)

/-- The replay queue as the image holds it: its records from the first on, each with its data; none where more follow a zero record or the last
word of one is not zero. -/
def Ctx.replayOf (rd : Nat → Nat → Nat) (c : Ctx) : Option (List Parked) :=
  let recs := (List.range 64).map (fun i => rd (0x3D0000 + 64 * i) 64)
  let live := recs.takeWhile (· ≠ 0)
  if (recs.drop live.length).any (· ≠ 0) ∨ live.any (fun v => 2 ^ 448 ≤ v) then none
  else
    some (live.zipIdx.map (fun e =>
      let old : Parked := (c.rq[e.2]?).getD ⟨0, 0, none, 0, [], none, false, 0, 0, 0, 0, false⟩
      let w (i : Nat) : Nat := e.1 / 2 ^ (64 * i) % 2 ^ 64
      let p := if decide ((List.range 7).map w = old.words) then old else old.ofWords w
      { p with segs := segsWith p.segs (rd (0x350000 + 8192 * e.2) p.len) }))

/-! ## Saving -/

/-- The join slot (R275): a fence's markers still outstanding, those still to be pushed, and the fence; a copy of what the core keeps (R374). [DESIGN CHOICE, log 50] -/
def Ctx.joinWord (c : Ctx) : Nat :=
  match c.ctl.hold with
  | .marks todo left _ f => left.toNat + todo.toNat * 2 ^ 8 + flag f 16 + 2 ^ 63
  | _ => 0

/-- The save area of a slot (R376). -/
def State.saveBase (s : State) (k : Nat) : Nat := s.dev.savebase + k * 2 ^ 22

/-- The pieces of a context's image. -/
def State.pieces (s : State) (k : Nat) : List Piece :=
  let c := s.ctxAt k
  s.imgHeader k c ++ s.imgControl k c ++ c.imgHandles ++ c.imgSlots ++ [(0x3100, 8, c.joinWord)]
    ++ (List.range 64).map (fun n => (0x3000 + 4 * n, 4, (c.ctl.getE (BitVec.ofNat 6 n)).toNat))
    ++ Config.engines.flatMap (fun e =>
      let x := c.engAt e
      (0xC000 + 0x800 * Config.engIdx e, 8, x.issueWord) :: x.rest.entries.zipIdx.map (fun i => (queueStart e + 256 * i.2, 256, i.1.record)))
    ++ s.imgItems k ++ c.imgGrids ++ c.vec.image ++ c.mat.image ++ s.imgPump k c.pump ++ c.sig.image
    ++ [(0x300000, 2 ^ 18, s.mem.read (Config.imemBase + k * 2 ^ 18) (2 ^ 18)),
      (0x340000, 2 ^ 16, s.mem.read (Config.cmdBase + k * 2 ^ 16) (2 ^ 16))]
    ++ c.imgReplay

/-- The cells of a save area but for its seal, by offset. -/
def State.imageCells (s : State) (k : Nat) : Mem :=
  let b := s.saveBase k
  (s.mem.filter (fun c => b ≤ c.1 ∧ c.1 < b + 2 ^ 22 ∧ !(b + 0x38 ≤ c.1 ∧ c.1 < b + 0x40))).map (fun c => (c.1 - b, c.2))

/-- The seal of an image: over its bytes that are not zero, under the device's seal key. [DESIGN CHOICE, log 50] -/
def State.imageSeal (s : State) (k : Nat) : Word :=
  Config.sealOf s.dev.sealKey ((s.imageCells k).map (fun c => word (c.1 * 256 + c.2.toNat)))

/-- The device seals the image (R377, R384). -/
def State.reseal (s : State) (k : Nat) : State := { s with mem := s.mem.write (s.saveBase k + 0x38) 8 (s.imageSeal k).toNat }

/-- A context's image is written to its save area (R375, R376). [DESIGN CHOICE, log 50] -/
def State.saveImage (s : State) (k : Nat) : State :=
  let b := s.saveBase k
  State.reseal { s with mem := (s.pieces k).foldl (fun m p => m.write (b + p.1) p.2.1 p.2.2) (s.mem.write b (2 ^ 22) 0) } k

/-! ## Restoring (R375, R383) -/

/-- The regions that hold no field are zero: the rest of the header, the counters' page past the join slot, what follows the
queues and the issue words, and the zero regions. -/
def zeroRegions : List (Nat × Nat) :=
  [(0x28, 0x10), (0x40, 0xFC0), (0x3108, 0xEF8), (0xB000, 0x1000), (0xF000, 0x1000), (0x12000, 0x2000), (0x3F7000, 0x9000)]

/-- A context as its image holds it, laid over what stays in the core and over the fields that have no place; none where
dispatch refuses the image. [DESIGN CHOICE, log 50] -/
def State.imageOf (s : State) (k : Nat) : Option State :=
  let cells := s.imageCells k
  let rd (o n : Nat) : Nat := cells.read o n
  let c := s.ctxAt k
  let mac := s.mem.read (s.saveBase k + 0x38) 8
  if rd 0 2 ≠ 1 ∨ mac ≠ (s.imageSeal k).toNat ∨ bits (rd 0 8) 63 26 ≠ 0 ∨ zeroRegions.any (fun z => rd z.1 z.2 ≠ 0)
      ∨ (s.badLine (s.saveBase k) (2 ^ 22)).isSome then none
  else
    match Ctx.controlOf rd c with
    | none => none
    | some c =>
      let csrs := (List.range 64).foldl (fun (a : Option Ctx) n => a.bind (fun c => s.csrOf k c n (rd (0x1200 + 8 * n) 8))) (some c)
      let refs := (Config.engines.flatMap (fun e =>
        slotRefs rd (Config.engIdx e) (bits (rd (0xC000 + 0x800 * Config.engIdx e) 8) 61 57))).filter (bit · 15)
      let same := (s.ctxAt k).imgSlots.all (fun p => rd p.1 p.2.1 = p.2.2 % 2 ^ (8 * p.2.1))
      let engs := if (refs.map (bits · 3 0)).Nodup then
          Config.engines.foldl (fun (a : Option Ctx) e => a.bind (fun c => s.engOf rd same c e)) csrs
        else none
      match engs with
      | none => none
      | some c =>
        match Ctx.itemsOf rd c, (List.range 16).mapM (fun g => s.gridOf rd g (c.grid g)), Vec.ofImage rd c.vec, Mat.ofImage rd c.mat,
            s.pumpOf rd c.pump, Sig.ofImage rd, Ctx.replayOf rd c with
        | some fl, some gr, some v, some m, some (p, ests), some sg, some rq =>
          let d := { c with
            ctl := { c.ctl with h := s.handlesOf rd }
            fl := fl, grids := gr.zipIdx.foldl (fun l g => SMap.set none l g.2 g.1) [], vec := v, mat := m, pump := p, sig := sg
            rq := rq }
          some (ests.foldl (fun s e => s.setEst k e.1 e.2) (s.setAt k d))
        | _, _, _, _, _, _, _ => none

/-! ## The snapshot window (R384, R385) -/

/-- The context whose image the window of a world shows: strand SNAPSEL of the gang last named in DBGHALT, halted, with the world's debug
permission (R384, R389, R474). -/
def State.shown (s : State) (w : Nat) : Option Nat :=
  let x := s.world w
  match s.gang x.dbgGang.toNat with
  | some g =>
    if g.halted ∧ g.world = w ∧ x.g.dbg then g.keys.find? (fun k => (s.bindAt k).strand = x.snapsel ∧ (s.ctxAt k).phase = .out) else none
  | none => none

/-- A read of an aligned word of a world's window: of the image shown; all ones where none is, which is refused and recorded (R390). -/
def State.snapshotAccess (s : State) (w off : Nat) : State × Word :=
  if off % 8 ≠ 0 ∨ 2 ^ 22 ≤ off then (s, 0)
  else
    match s.shown w with
    | some k => (s, word (s.mem.read (s.saveBase k + off) 8))
    | none => (s.logged logRefusal (word off), 0xFFFFFFFFFFFFFFFF)

/-- What a read of the window of a world gives. -/
def State.snapshotRead (s : State) (w off : Nat) : Word := (s.snapshotAccess w off).2

/-- The words that only the device writes (R377). -/
def deviceWord (off : Nat) : Bool := decide (off < 0x28) || off = 0x38

/-- A word of a context's image written, which the device reseals. Instruction memory, command store and
counters stay in the core while the context is out, and are written there with the image (R39, R374). [DESIGN CHOICE, log 50] -/
def State.writeImage (s : State) (k off : Nat) (v : Word) : State :=
  let t := State.reseal { s with mem := s.mem.write (s.saveBase k + off) 8 v.toNat } k
  if 0x300000 ≤ off ∧ off < 0x340000 then
    { t with mem := t.mem.write (Config.imemBase + k * 2 ^ 18 + (off - 0x300000)) 8 v.toNat }
  else if 0x340000 ≤ off ∧ off < 0x350000 then
    { t with mem := t.mem.write (Config.cmdBase + k * 2 ^ 16 + (off - 0x340000)) 8 v.toNat }
  else if 0x3000 ≤ off ∧ off < 0x3100 then
    let n := (off - 0x3000) / 4
    let c := t.ctxAt k
    t.setAt k { c with ctl :=
      (c.ctl.setE (BitVec.ofNat 6 n) (v.setWidth 32)).setE (BitVec.ofNat 6 (n + 1)) (BitVec.ofNat 32 (v.toNat / 2 ^ 32)) }
  else t

/-- A write of an aligned word of a world's window (R384, R385); one that is refused is dropped and recorded (R390). -/
def State.snapshotWrite (s : State) (w off : Nat) (v : Word) : State :=
  if off % 8 ≠ 0 ∨ 2 ^ 22 ≤ off then s
  else
    match s.shown w with
    | some k => if deviceWord off then s else s.writeImage k off v
    | none => s.logged logRefusal (word off)

/-- SNAPSHOT_WINDOW_WRITE (R384, R385): through the window of the moving context's world. -/
def execSnapshotWindowWrite (off : Nat) (v : Word) (s : State) : Ans := .next (s.snapshotWrite s.bind.world.toNat off v)

end Sys2Proof.Machine
end

