-- ==== Sys2Proof/Machine/Switch.lean ====
section
/-! DEFINITION. Pre-emption, image transfers and resumption (R373 to R375, R383), and the debugger's halt (R384). -/

namespace Sys2Proof.Machine

/-! ## Pre-emption (R222, R373) -/

/-- The control stream at the end of cycle P: the result of an instruction still in progress is not yet in its register (R97, R373). [DEDUCED, log 51] -/
def Ctrl.undone (c : Ctrl) (p : Nat) : Ctrl :=
  match c.late with
  | some l => if p + 1 < c.due then c.setS l.d l.old else c
  | none => c

/-- A context stopped at the end of cycle P, for its image (R373, R376). -/
def Ctx.taken (c : Ctx) (p : Word) (pre : Bool) : Ctx := { c with phase := .saving, img := ⟨pre, p, []⟩, ctl := c.ctl.undone p.toNat }

/-- The reads of host memory of a context, but those of pump commands that have started, are discarded: their completions find no reader, and
they are issued again at resumption (R373, R482). [DEDUCED, log 51] -/
def State.unasked (s : State) (k : Nat) : State :=
  let fly (r : HostReq) : Bool := r.src = 2 && (s.ctxAt k).pump.fly.any (fun x => x.cap.age = r.age)
  { s with dev := { s.dev with
      reqs := s.dev.reqs.map (fun r => if r.key = some k ∧ !fly r then { r with key := none } else r)
      came := s.dev.came.filter (fun c => c.key ≠ k) } }

/-- A context of a gang pre-empted; one that a trap has stopped, or that has retired, is taken with it. [DESIGN CHOICE, log 50] -/
def State.takeCtx (s : State) (pre : Bool) (k : Nat) : State :=
  let b := s.bindAt k
  { (s.unasked k).setAt k ((s.ctxAt k).taken s.dcc pre) with binds := SMap.set Bind.reset s.binds k { b with run := false } }

/-- A running gang pre-empted, by the scheduler core or for a debugger. -/
def State.takeGang (s : State) (pre : Bool) (id : Nat) : State :=
  match s.gang id with
  | some g =>
    if g.running ∧ g.trap.isNone then
      (g.keys.foldl (State.takeCtx · pre) s).setGang id (some { g with running := false, preempted := true })
    else s
  | none => s

/-- A linked set pre-empted in one cycle (R222). -/
def State.takeSet (s : State) (pre : Bool) (id : Nat) : State := (s.linkedSet id).foldl (State.takeGang · pre) s

/-- A launch or a pre-empted gang at a level may take the cores of a running gang (R222): a higher level at any time,
the own level after QMIN. -/
def Gang.yields (g : Gang) (level : Nat) (dcc : Nat) : Bool :=
  decide (level < g.prio) || (level = g.prio && decide (g.lastStart.toNat + cQMIN ≤ dcc))

/-- Every running gang of a linked set yields to a level, since they are pre-empted together (R222). -/
def State.yieldsAll (s : State) (set : List Nat) (level : Nat) : Bool :=
  set.all (fun i => match s.gang i with | some g => !g.running || g.yields level s.dcc.toNat | none => true)

/-- The cores on which the gangs of a linked set run. -/
def State.coresRun (s : State) (set : List Nat) : List Nat :=
  set.flatMap (fun i => match s.gang i with | some g => if g.running then g.keys.map coreOf else [] | none => [])

/-- Something waits for cores of a running linked set that may have them: a launch, by the level of its record, since it ages for selection
only, or a gang that is out, by its own. [DEDUCED, log 106; DESIGN CHOICE, log 107] -/
def State.wanted (s : State) (set : List Nat) : Bool :=
  let cores := s.coresRun set
  s.launches.any (fun l => !set.contains l.gang.toNat && (s.place l.r).isNone && shares l.r.cores cores && s.yieldsAll set l.r.prio)
    || s.gangs.any (fun e => match e.2 with
        | some h => h.preempted && !h.halted && !h.migrating && !set.contains e.1 && shares (h.keys.map coreOf) cores
            && s.yieldsAll set h.prio
        | none => false)

/-- PREEMPTION (R222, R373, R384, R488): for something that waits, for a migration, or for a debugger. -/
def execPreemption (gang : Nat) (s : State) : Ans :=
  .next (match s.gang gang with
    | some g =>
      let set := s.linkedSet gang
      if g.running ∧ g.trap.isNone ∧ (g.halted ∨ g.migrating ∨ s.wanted set) then s.takeSet (!g.halted) gang else s
    | none => s)

/-! ## Image transfers (R375, R383) -/

/-- The gangs of a linked set that are out. -/
def State.outOf (s : State) (id : Nat) : List (Nat × Gang) :=
  (s.linkedSet id).filterMap (fun i => match s.gang i with
    | some g => if g.preempted then some (i, g) else none
    | none => none)

/-- The gangs of a linked set that are out all lie in their images, and their cores are free. A launch of a higher level that could be
placed there goes first. [DESIGN CHOICE, log 107] -/
def State.mayRestore (s : State) (id : Nat) : Bool :=
  let out := s.outOf id
  out.all (fun e =>
    let g := e.2
    !g.halted && !g.migrating && g.trap.isNone && s.allIn g .out
      && g.keys.all (fun k => !(s.bindAt (otherSlot k)).run && (s.ctxAt (otherSlot k)).phase ≠ .saving)
      && !s.launches.any (fun l => decide (l.r.prio < g.prio) && s.canPlace (s.linkedSet l.gang.toNat) && shares l.r.cores (g.keys.map coreOf)))

/-- The contexts of a linked set that are out are being read back; their slots run again (R220, R375). [DESIGN CHOICE, log 50] -/
def State.restoreSet (s : State) (id : Nat) : State :=
  ((s.outOf id).flatMap (fun e => e.2.keys)).foldl (fun s k =>
    { s.setAt k { s.ctxAt k with phase := .restoring } with
      binds := SMap.set Bind.reset s.binds k { s.bindAt k with run := true } }) s

/-- When every context of a linked set that was out is read back and checked, its start Q is fixed (R375). -/
def State.setReady (s : State) (id : Nat) : State :=
  let out := s.outOf id
  if out.all (fun e => s.allIn e.2 .restored) then
    let b := (out.map (fun e => e.2.r.startDelay)).foldl Nat.max 0
    out.foldl (fun s e => s.setGang e.1 (some { e.2 with ready := some s.dcc, startAt := some (s.dcc + word b) })) s
  else s

/-- SNAPBAD (R383): FAULT with trap 32, and the gang retires. -/
def State.snapBad (s : State) (id : Nat) : State :=
  match s.gang id with
  | some g => (s.postEntry g.world stFAULT tSNAPBAD.toNat s.bind.strand.toNat id g.tag g.sq).retireGang id
  | none => s

/-- The image of the moving context is written; a context that loads in the core's other slot begins to load then (R221). -/
def State.saved (s : State) : State :=
  let words := (List.range 64).map (csrRead s) ++ [word s.ctx.pendWord]
  let t := (s.saveImage s.cur).setCtx { s.ctx with phase := .out, img := { s.ctx.img with words := words } }
  let o := s.ctxAt (otherSlot s.cur)
  if o.phase = .loading then t.setAt (otherSlot s.cur) { o with img := { o.img with stop := s.dcc } } else t

/-- IMAGE_TRANSFER_DONE (R375): the image of the moving context has been written, or it has been read and checked. -/
def execImageTransferDone (s : State) : Ans :=
  let id := s.bind.gang.toNat
  .next (match s.ctx.phase with
    | .saving => s.saved
    | .out => if s.mayRestore id then s.restoreSet id else s
    | .restoring =>
      match s.imageOf s.cur with
      | some t => (t.setCtx { t.ctx with phase := .restored }).setReady id
      | none => s.snapBad id
    | _ => s)

/-! ## Resumption (R373, R375, R227) -/

/-- Fabric reads whose data had not returned are made again (R373). [DEDUCED, log 51] -/
def State.rereads (s : State) : State :=
  let own := s.peerWord s.cur
  let mine (dev : BitVec 9) (g st : BitVec 16) : Bool :=
    dev = s.dev.num && g.toNat = peerGang own && st.toNat = peerStrand own
  (s.ctx.fab.cmds.filter (fun x => (x.what = .load ∨ x.what = .get) ∧ x.started)).foldl (fun s x =>
    let todo (t : Nat) : Bool := x.txns.contains t
    let s := { s with
      net := s.net.filter (fun m => !(mine m.srcDev m.srcGang m.srcStrand && todo m.txn))
      acks := s.acks.filter (fun a => !(mine a.dst a.gang a.strand && todo a.txn)) }
    match x.what, x.msgs with
    | .load, [m] =>
      if x.txns.isEmpty then s
      else
        let n := s.ctx.fab.nextTxn
        (s.onFab (fun f => { f with nextTxn := n + 1 })).sendOne { x with first := n, data := none } { m with txn := n }
    | _, l => (l.filter (fun m => todo m.txn)).foldl State.sendMsg s) s

/-- The control instruction that was in progress at the end of cycle P goes on (R97, R373): it takes the cycles it still needed, its
result comes to its register then, and a scalar load whose data had not returned is issued again. [DEDUCED, log 51] -/
def State.resumeControl (s : State) : State :=
  let c := s.ctx.ctl
  let p := s.ctx.img.stop.toNat + 1
  if c.due ≤ p then s
  else
    let t := s.ctl (fun c => { c with due := s.dcc.toNat + (c.due - p), late := none })
    match c.late with
    | none => t
    | some l =>
      match l.load with
      | none => (t.setS l.d l.v).lateAs s l.d none
      | some r =>
        match t.load 6 r.hd r.off r.n (offW r.off) with
        | .ok (v, x) =>
          ((v.setS l.d (extend r.n r.sx x)).occupy (v.pathCycles r.hd [8, 30, 52, 128] 380)).lateAs s l.d (some r)
        | .error (.trap v code info) => v.enterTrap code info r.line r.lane .none
        | .error (.hold v) => v.ctl (fun c => { c with due := s.dcc.toNat, line := r.line, lane := r.lane })

/-- A generation that was still loading is loaded again from its captured record (R381). -/
def State.reloadGen (s : State) (t : Nat) (g : Bool) : State :=
  let slot := SMap.get Tab.reset s.ctx.pump.tabs t
  let x := slot.gen g
  match x.loading, x.src with
  | some _, some r =>
    let put (u : State) (x : TabGen) : State := u.setCtx { u.ctx with pump := { u.ctx.pump with
      tabs := SMap.set Tab.reset u.ctx.pump.tabs t (slot.setGen g x) } }
    let c := s.pathOf r
    match s.load 2 r 0 256 0 with
    | .ok (u, data) => put u { x with data := data, loading := some (cycle (u.dcc.toNat + pathB c + ceilDiv 256 (pathW c))) }
    | .error (.trap u code info) => (put u { x with loading := none, invalid := true }).raiseA u.cur .pump code info x.line x.lane
    | .error (.hold u) => u
  | _, _ => s

/-- The code tables that were still loading are loaded again (R381). [DEDUCED, log 51] -/
def State.reloadTabs (s : State) : State :=
  s.ctx.pump.tabs.foldl (fun s e => (s.reloadGen e.1 false).reloadGen e.1 true) s

/-- A gang resumes: its contexts run, reads are made again, and a barrier whose members had not left takes its whole latency again
(R227). [DEDUCED, log 51] -/
def State.resumeGang (s : State) (id : Nat) : State :=
  match s.gang id with
  | none => s
  | some g =>
    let t := g.keys.foldl (fun s k => s.within k (fun s =>
      (s.setCtx { s.ctx with phase := .running }).resumeControl.rereads.reloadTabs)) s
    let bars := g.bars.map (fun e =>
      match e.2.leave, g.team (BitVec.ofNat 8 e.1) with
      | some _, some tm => (e.1, { e.2 with leave := some (s.dcc + word (g.leaveDelay (g.members tm))) })
      | _, _ => e)
    t.setGang id (some { g with running := true, preempted := false, startAt := none, lastStart := s.dcc, bars := bars })

/-- GANG_RESUME (R375): at Q, with every gang it is linked with that is out. -/
def execGangResume (gang : Nat) (s : State) : Ans :=
  .next (match s.gang gang with
    | some g =>
      (match g.startAt with
        | some q =>
          if q.toNat ≤ s.dcc.toNat ∧ g.preempted ∧ (s.outOf gang).all (fun e => s.allIn e.2 .restored && !e.2.halted) then
            ((s.outOf gang).map (·.1)).foldl State.resumeGang s
          else s
        | none => s)
    | none => s)

/-! ## Debugging (R384, R385) -/

/-- A restore of a linked set stops: its contexts lie in their images again, and their slots no longer run. -/
def State.unrestore (s : State) (id : Nat) : State :=
  let out := s.outOf id
  let t := (out.flatMap (fun e => e.2.keys)).foldl (fun s k =>
    match (s.ctxAt k).phase with
    | .restoring | .restored =>
      { s.setAt k { s.ctxAt k with phase := .out } with
        binds := SMap.set Bind.reset s.binds k { s.bindAt k with run := false } }
    | _ => s) s
  out.foldl (fun s e => s.setGang e.1 (some { e.2 with ready := none, startAt := none })) t

/-- A context that is out is halted by a debugger: STATE is 0 in its image, which the device reseals (R377, R384). -/
def State.haltImage (s : State) (k : Nat) : State :=
  let c := s.ctxAt k
  match c.phase with
  | .saving => s.setAt k { c with img := { c.img with pre := false } }
  | .out => State.reseal { s.setAt k { c with img := { c.img with pre := false } } with mem := s.mem.write (s.saveBase k + 3) 1 0 } k
  | _ => s

/-- DBGHALT (R384, R477): the gang is pre-empted with STATE 0 and is not scheduled until DBGRESUME: at once where it runs, when it
would start where it has not yet, and where it is out its restore stops. -/
def execDbghalt (port w : Nat) (gang : BitVec 16) (s : State) : Ans :=
  .next (if port ≠ s.dev.holder then s
    else
      match s.gang gang.toNat with
      | some g =>
        if g.world = w then
          let t := (s.unrestore gang.toNat).takeSet false gang.toNat
          let t := match t.gang gang.toNat with
            | some g => (g.keys.foldl State.haltImage t).setGang gang.toNat (some { g with halted := true })
            | none => t
          t.setWorld w { t.world w with dbgGang := gang }
        else s
      | none => s)

/-- DBGRESUME (R384, R477). -/
def execDbgresume (port w : Nat) (gang : BitVec 16) (s : State) : Ans :=
  .next (if port ≠ s.dev.holder then s
    else
      match s.gang gang.toNat with
      | some g => if g.world = w then s.setGang gang.toNat (some { g with halted := false }) else s
      | none => s)

end Sys2Proof.Machine
end

