-- ==== Sys2Proof/Machine/Trust.lean ====
section
/-! DEFINITION. Revocation (R394 to R396), key rotation (R401, R402), and worlds opening and closing (R389, R397, R406).
Keys are drawn and cleared as the rules say; what they encrypt is held as plaintext (R252, R397, R402). -/

namespace Sys2Proof.Machine

/-- A write that only the lease holder's port may make (R477), to a device that is ready (R491). -/
def State.held (s : State) (port : Nat) (t : State) : Ans := .next (if port = s.dev.holder ∧ s.dev.ready then t else s)

/-- A world's protection state changed. -/
def State.onGuard (s : State) (w : Nat) (f : Guard → Guard) : State :=
  s.setWorld w { s.world w with g := f (s.world w).g }

/-- A number drawn by the wellhead. [DESIGN CHOICE, log 4; DEDUCED, log 58] -/
def State.drawKey (s : State) : State × BitVec 256 :=
  ({ s with dev := { s.dev with draws := s.dev.draws + 1 } }, Config.randomKey s.dev.draws)

/-- A key set drawn (R401). -/
def State.drawSet (s : State) : State × KeySet :=
  let (t, a) := s.drawKey
  let (t, b) := t.drawKey
  let (t, c) := t.drawKey
  (t, ⟨a, b, c⟩)

/-! ## Revocation -/

/-- A generation added to the list: one below the floor, or already there, is revoked as it is. [DEDUCED, log 59] -/
def Guard.revoke (g : Guard) (gen : BitVec 32) : Guard :=
  if gen = 0 ∨ 64 ≤ g.revoked.length then { g with hdrop := true }
  else if gen.toNat < g.gmin.toNat ∨ g.revoked.contains gen then { g with hbusy := true }
  else { g with revoked := g.revoked ++ [gen], hbusy := true }

/-- HREVOKE_GEN (R394, R395, R477). -/
def execHrevokeGen (port world : Nat) (gen : BitVec 32) (s : State) : Ans :=
  s.held port (if 191 < world then s else s.onGuard world (fun g => g.revoke gen))

/-- HREVOKE_FLOOR (R394, R477). -/
def execHrevokeFloor (port world : Nat) (gen : BitVec 32) (s : State) : Ans :=
  s.held port (if 191 < world then s else s.onGuard world (fun g =>
    if gen.toNat ≤ g.gmin.toNat then g
    else { g with gmin := gen, revoked := g.revoked.filter (fun x => gen.toNat ≤ x.toNat), hbusy := true }))

/-- A table of records without those that are revoked. [DEDUCED, log 59] -/
def State.sweep (s : State) (h : SMap (Option Handle)) : SMap (Option Handle) :=
  h.filter (fun e => (s.live e.2).isSome)

/-- A queue entry without the revoked records that it captured. -/
def State.sweepItem (s : State) : QItem → QItem
  | .instr c out => .instr { c with h := s.sweep c.h } out
  | i => i

/-- A context swept: its handle table, its export table and its queues. -/
def State.sweepCtx (s : State) (c : Ctx) : Ctx :=
  { c with
    ctl := { c.ctl with h := s.sweep c.ctl.h }
    exp := s.sweep c.exp
    eng := c.eng.map (fun (e : Nat × Eng) => (e.1, { e.2 with q := e.2.q.map s.sweepItem })) }

/-- REVOCATION_SWEEP_DONE (R395): it changes no outcome. -/
def execRevocationSweepDone (world : Nat) (s : State) : Ans :=
  .next (if (s.world world).g.hbusy then
      ({ s with ctxs := s.ctxs.map (fun (e : Nat × Ctx) => (e.1, s.sweepCtx e.2)) }).onGuard world (fun g => { g with hbusy := false })
    else s)

/-! ## Key rotation -/

/-- KROT_GO (R401, R477): every mark at its region's base. -/
def execKrotGo (port world : Nat) (s : State) : Ans :=
  s.held port (if 191 < world then s else s.onGuard world (fun g =>
    if g.rot then { g with kdrop := true }
    else { g with rot := true, drawn := false, er := g.er.map (fun e => (e.1, { e.2 with mark := e.2.base })) }))

/-- The other key slot of a world filled. -/
def Guard.putKey (g : Guard) (k : KeySet) : Guard := if g.cur then { g with key0 := k } else { g with key1 := k }

/-- KEY_DRAW_DONE (R401, R435): link keys of the next EPOCH are derived for every port that is UP. -/
def execKeyDrawDone (world : Nat) (s : State) : Ans :=
  let g := (s.world world).g
  .next (if g.rot ∧ !g.drawn then
      let (t, k) := s.drawSet
      let t := (t.onGuard world (fun g => { g.putKey k with drawn := true })).deriveWorld world (g.epoch + 1) true
      { t with
        ports := t.ports.map (fun (e : Nat × Port) =>
          if e.2.st = 4 then (e.1, { e.2 with newkey := SMap.set false e.2.newkey world true }) else e)
        campus := t.campus.map (fun (e : Nat × Campus) =>
          if e.2.st = 4 then (e.1, { e.2 with newkey := SMap.set false e.2.newkey world true }) else e) }
    else s)

/-- The region that the rotation engine is in, with its number. -/
def Guard.rotating (g : Guard) : Option (Nat × Region) :=
  ((List.range 16).find? (fun n => let r := SMap.get Region.reset g.er n; r.mark < r.lim)).map (fun n =>
    (n, SMap.get Region.reset g.er n))

/-- A rotation ends, where no line is left: the new set is current, the old slot is cleared, and every mark stands at its
region's end, an empty region's too. -/
def Guard.rotated (g : Guard) : Guard :=
  if g.rotating.isSome then g
  else
    let h := { g with
      cur := !g.cur, rot := false, drawn := false, epoch := g.epoch + 1
      er := g.er.map (fun (e : Nat × Region) => (e.1, { e.2 with mark := e.2.lim })) }
    if g.cur then { h with key1 := .reset } else { h with key0 := .reset }

/-- ROTATION_LINE (R401, R402): the next line is read, checked, written under the new set, and then its region's mark
advances; a line whose check fails is written as zero bytes. -/
def execRotationLine (world : Nat) (s : State) : Ans :=
  let g := (s.world world).g
  .next (if !g.rot ∨ !g.drawn then s
    else
      match g.rotating with
      | none => s.onGuard world Guard.rotated
      | some (n, r) =>
        let l := r.mark / 64
        let t := if s.lineOk l then s else (s.store r.mark 64 0).integrity world l
        t.onGuard world (fun g =>
          ({ g with er := SMap.set Region.reset g.er n { r with mark := r.mark + 64 } }).rotated))

/-! ## Opening and closing -/

/-- A world with a bound context (R398, R409). [DEDUCED, log 58] -/
def State.bound (s : State) (w : Nat) : Bool := s.binds.any (fun e => e.2.valid ∧ e.2.world.toNat = w)

/-- WORLD_OPEN (R388, R389, R394, R397, R435): the wellhead draws a scrambler key and a key set, derives the world's link keys, and the list
and the floor start afresh. -/
def execWorldOpen (world : Nat) (s : State) : Ans :=
  .next (if !s.dev.ready ∨ 191 < world ∨ (s.world world).isOpen then s
    else
      let (t, k) := s.drawKey
      let (t, x) := t.drawSet
      let w := t.world world
      (t.setWorld world { w with
        isOpen := true
        g := { w.g with revoked := [], gmin := 1, epoch := 0, rot := false, drawn := false, cur := false, key0 := x, scramble := k.setWidth 128 } }).deriveWorld
        world 0 false)

/-- Lines of a region written as zero bytes under a device key (R406). [DEDUCED, log 58] -/
def State.wipe (s : State) (r : Region) : State :=
  let gone (l : Nat) : Bool := decide (r.base ≤ 64 * l ∧ 64 * l < r.lim)
  { s with
    mem := s.mem.filter (fun c => !(decide (r.base ≤ c.1 ∧ c.1 < r.lim)))
    owner := s.owner.filter (fun e => !gone e.1)
    badLines := s.badLines.filter (fun e => !gone e.1)
    told := s.told.filter (fun e => !gone (e.1 / 8)) }

/-- WORLD_CLOSE (R406): after the last context has departed. A stop that the interface awaits is then complete (R481). -/
def execWorldClose (world : Nat) (s : State) : Ans :=
  let w := s.world world
  .next (if !(w.isOpen || w.closing || w.stopping) ∨ s.bound world ∨ s.launches.any (fun l => l.world = world) then s
    else
      let t := w.g.er.foldl (fun t e => t.wipe e.2) s
      let t := { t with
        ports := t.ports.map (fun (e : Nat × Port) => (e.1, { e.2 with
          keyidx := SMap.erase e.2.keyidx world, newkey := SMap.erase e.2.newkey world
          lkeys := e.2.lkeys.filter (fun k => k.1 / 4 ≠ world) }))
        campus := t.campus.map (fun (e : Nat × Campus) => (e.1, { e.2 with
          keyidx := SMap.erase e.2.keyidx world, newkey := SMap.erase e.2.newkey world
          lkeys := e.2.lkeys.filter (fun k => k.1 / 4 ≠ world) })) }
      let t := { t with items := t.items.filter (fun i => i.world ≠ world) }
      let t := if w.stopping ∧ w.tdisp ≠ .unlocked then t.logged logTdisp (word world) else t
      t.setWorld world { w with
        isOpen := false, closing := false, stopping := false
        x := { w.x with cache := [] }
        g := { w.g with er := [], revoked := [], gmin := 1, key0 := .reset, key1 := .reset, scramble := 0, rot := false, drawn := false, cur := false }
        tdisp := if w.stopping then .unlocked else w.tdisp })

end Sys2Proof.Machine
end

