-- ==== Sys2Proof/Machine/Hosts.lean ====
section
/-! DEFINITION. The host ports: the lease (R476 to R478), interrupt messages (R480), TDISP and IDE (R481, R482), memory
windows (R474) and the registers without behaviour of their own (R6, R7, R251, R409, R436,
R441, R476, R479). -/

namespace Sys2Proof.Machine

/-! ## The lease -/

/-- The lease extends from now. -/
def State.extend (s : State) : State :=
  { s with dev := { s.dev with lexp := s.dcc + s.dev.lterm.setWidth 64, expired := false } }

/-- LEASE_RENEW (R476, R477): from the other port it is ignored. -/
def execLeaseRenew (port : Nat) (s : State) : Ans := s.held port s.extend

/-- LEASE_TAKE (R476, R478): the reads outstanding are sent again on the new port. -/
def execLeaseTake (port : Nat) (s : State) : Ans :=
  .next (if !s.dev.ready ∨ 2 ≤ port then s
    else if port ≠ s.dev.holder ∧ s.dev.lexp.toNat ≤ s.dcc.toNat then
      let t := s.extend
      { t with dev := { t.dev with
          holder := port, reqs := t.dev.reqs.map (fun r => { r with port := port, since := s.dcc }) } }
    else { s with dev := { s.dev with tkfail := true } })

/-- LEASE_EXPIRY (R477): nothing else changes. -/
def execLeaseExpiry (s : State) : Ans :=
  .next (if s.dev.lexp.toNat ≤ s.dcc.toNat then { s with dev := { s.dev with expired := true } } else s)

/-! ## Interrupt messages (R480) -/

/-- The vector table and function mask of a function: world n's below 192, the physical function's from there on. -/
def State.vecs (s : State) (fn : Nat) : SMap Msix × Bool :=
  if fn < 192 then ((s.world fn).vec, (s.world fn).fmask) else (s.dev.vec, s.dev.fmask)
/-- A vector of a function. -/
def State.vector (s : State) (fn v : Nat) : Msix := SMap.get Msix.reset (s.vecs fn).1 v
/-- A vector replaced. -/
def State.setVector (s : State) (fn v : Nat) (m : Msix) : State :=
  if fn < 192 then s.setWorld fn { s.world fn with vec := SMap.set Msix.reset (s.world fn).vec v m }
  else { s with dev := { s.dev with vec := SMap.set Msix.reset s.dev.vec v m } }

/-- A vector fires: a message leaves on the holder's port, or it becomes pending. [DESIGN CHOICE, log 63; DESIGN CHOICE, log 80] -/
def State.fireVec (s : State) (fn v : Nat) : State :=
  let m := s.vector fn v
  if m.masked ∨ (s.vecs fn).2 then s.setVector fn v { m with pend := true } else s.setVector fn v { m with e := 0 }

/-- MSIX_FIRE (R480). -/
def execMsixFire (fn v : Nat) (s : State) : Ans :=
  let m := s.vector fn v
  .next (if Nat.max 1 m.cnt.toNat ≤ m.e then s.fireVec fn v else s)

/-- MSIX_TIMER (R480). -/
def execMsixTimer (fn v : Nat) (s : State) : Ans :=
  let m := s.vector fn v
  .next (if m.timer ≠ 0 ∧ 0 < m.e ∧ m.f.toNat + 1024 * m.timer.toNat ≤ s.dcc.toNat then s.fireVec fn v else s)

/-- A vector is unmasked; a pending message is sent unless the function is masked. -/
def State.unmask (s : State) (fn v : Nat) : State :=
  let m := { s.vector fn v with masked := false }
  if m.pend ∧ !(s.vecs fn).2 then s.setVector fn v { m with pend := false, e := 0 } else s.setVector fn v m

/-- The function mask changed; as it falls, the pending messages of the vectors that are not masked are sent. [DESIGN CHOICE, log 63] -/
def State.setFmask (s : State) (fn : Nat) (m : Bool) : State :=
  let t := if fn < 192 then s.setWorld fn { s.world fn with fmask := m } else { s with dev := { s.dev with fmask := m } }
  if m then t
  else (List.range (if fn < 192 then 4 else 5)).foldl (fun t v => if (t.vector fn v).masked then t else t.unmask fn v) t

/-- MSIX_UNMASK (R477, R480): of a vector, or a change of the function mask; dropped from the port that does not hold the lease. [DESIGN CHOICE, log 63] -/
def execMsixUnmask (fn : Nat) (v : MsixWrite) (s : State) : Ans :=
  s.held v.port (match v.mask with
    | .vector n => s.unmask fn n
    | .function m => s.setFmask fn m)

/-! ## TDISP (R481) -/

/-- The interface's state changes; the log records it. [DEDUCED, log 60] -/
def State.tdispTo (s : State) (w : Nat) (t : Tdisp) : State :=
  (s.setWorld w { s.world w with tdisp := t }).logged logTdisp (word w)

/-- Every gang of a world stops, with FAULT and trap number 0; its pending launches are refused. [DEDUCED, log 60] -/
def State.stopWorld (s : State) (w : Nat) : State :=
  let t := s.gangs.foldl (fun t e =>
    match e.2 with
    | some g => if g.world = w then (match g.keys.head? with | some k => t.stopGang k 0 | none => t) else t
    | none => t) s
  let t := (t.launches.filter (fun l => l.world = w)).foldl (fun t l => t.postEntry w stREJECTED 0 0 0 l.tag l.sq) t
  { t with launches := t.launches.filter (fun l => l.world ≠ w) }

/-- The interface enters ERROR. [DEDUCED, log 60] -/
def State.toError (s : State) (w : Nat) : State :=
  if (s.world w).tdisp = .error then s else (s.tdispTo w .error).stopWorld w

/-- The wellhead's answer. [DEDUCED, log 60; DESIGN CHOICE, log 73] -/
def State.answerDoe (s : State) (w : Nat) (d : Doe) : State := s.setWorld w { s.world w with doe := d }

/-- GET_VERSION (R481). -/
def execGetVersion (world : Nat) (s : State) : Ans := .next (s.answerDoe world .version)
/-- GET_CAPABILITIES (R481). -/
def execGetCapabilities (world : Nat) (s : State) : Ans := .next (s.answerDoe world .capabilities)
/-- GET_DEVICE_INTERFACE_REPORT (R481): BAR 0 and BAR 2. -/
def execGetDeviceInterfaceReport (world : Nat) (s : State) : Ans := .next (s.answerDoe world (.report [0, 2]))
/-- GET_DEVICE_INTERFACE_STATE (R481). -/
def execGetDeviceInterfaceState (world : Nat) (s : State) : Ans :=
  .next (s.answerDoe world (.state (s.world world).tdisp))
/-- TDISP_UNSUPPORTED_MESSAGE (R481). -/
def execTdispUnsupportedMessage (world _ : Nat) (s : State) : Ans := .next (s.answerDoe world .error)

/-- LOCK_INTERFACE_REQUEST (R481). -/
def execLockInterfaceRequest (world : Nat) (s : State) : Ans :=
  .next (if (s.world world).tdisp = .unlocked then (s.tdispTo world .locked).answerDoe world .locked
    else s.answerDoe world .error)

/-- START_INTERFACE_REQUEST (R481): the launches held in the queues are read; one that is refused enters ERROR. -/
def execStartInterfaceRequest (world : Nat) (s : State) : Ans :=
  .next (if (s.world world).tdisp = .locked then
      (List.range 4).foldl (fun t k => t.readQueue world k) ((s.tdispTo world .run).answerDoe world .started)
    else (s.toError world).answerDoe world .error)

/-- STOP_INTERFACE_REQUEST (R481): from RUN or ERROR the world's gangs stop; the interface is unlocked once the world has closed (R406). -/
def execStopInterfaceRequest (world : Nat) (s : State) : Ans :=
  .next (let d := (s.world world).tdisp
    let t := if d = .run ∨ d = .error then s.stopWorld world else s
    (t.setWorld world { t.world world with closing := true, stopping := true }).answerDoe world .stopped)

/-! ## IDE (R482) -/

/-- A direction of a stream changed. -/
def World.onIde (x : World) (rx : Bool) (f : Ide → Ide) : World := if rx then { x with rx := f x.rx } else { x with tx := f x.tx }

/-- A key set programmed: it is not the one switched away from any more. -/
def Ide.program (i : Ide) (set : Bool) (key : BitVec 256) : Ide :=
  let i := { i with old := if i.old = some set then none else i.old, wait := none }
  if set then { i with k1 := key, has1 := true } else { i with k0 := key, has0 := true }

/-- Tags issued under a receive key set of a world are outstanding. -/
def State.tagsOut (s : State) (w : Nat) (set : Bool) : Bool :=
  s.dev.reqs.any (fun r => r.world = w ∧ decide (2 ^ 13 ≤ r.tag.toNat) = set)

/-- KEY_PROG (R482): a receive key set that outstanding tags need is kept until they have drained, and programmed then. -/
def execKeyProg (world : Nat) (rx set : Bool) (key : BitVec 256) (s : State) : Ans :=
  .next (s.setWorld world ((s.world world).onIde rx (fun i =>
    if rx ∧ s.tagsOut world set then { i with wait := some (set, key) } else i.program set key)))

/-- The set switched away from is cleared once no tag issued under it is outstanding, and a key that waited is programmed. -/
def State.ideDrain (s : State) (w : Nat) : State :=
  let x := s.world w
  let clear (i : Ide) (b : Bool) : Ide :=
    if b then { i with k1 := 0, has1 := false, old := none } else { i with k0 := 0, has0 := false, old := none }
  let rx := match x.rx.old with | some b => if s.tagsOut w b then x.rx else clear x.rx b | none => x.rx
  let rx := match rx.wait with | some (b, key) => if s.tagsOut w b then rx else rx.program b key | none => rx
  let tx := match x.tx.old with | some b => clear x.tx b | none => x.tx
  s.setWorld w { x with rx := rx, tx := tx }

/-- K_SET_GO (R482). -/
def execKSetGo (world : Nat) (rx set : Bool) (s : State) : Ans :=
  .next ((s.setWorld world ((s.world world).onIde rx (fun i =>
    if i.go = set then i else { i with go := set, old := some (!set) }))).ideDrain world)

/-- A host completion fails: an integrity failure of its world; the reader's gang stops with trap number 0 (R400). No
rule says which address INTEG then holds: a free value. [DESIGN CHOICE, log 61] -/
def State.hostFails (s : State) (r : HostReq) : State :=
  let t := { s with dev := { s.dev with reqs := s.dev.reqs.erase r } }
  let (t, w) := t.draw
  let t := t.integrity r.world (bits w.toNat 33 0)
  (match r.key with | some k => t.stopGang k 0 | none => t).ideDrain r.world

/-- IDE_COMPLETION_TIMEOUT (R482): 60 000 000 cycles after the request. -/
def execIdeCompletionTimeout (tag : BitVec 14) (s : State) : Ans :=
  .next (match s.dev.reqs.find? (fun r => r.tag = tag) with
    | some r => if r.since.toNat + 60000000 ≤ s.dcc.toNat then s.hostFails r else s
    | none => s)

/-- The bytes of a completion are what host memory holds, and reach the command of the moving context that asked for them: a pump command that
has started takes them, and another reads them when it is tried again. [DESIGN CHOICE, log 23; DESIGN CHOICE, log 62] -/
def State.completes (s : State) (r : HostReq) (data : Nat) : State :=
  let t := s.storeSegs (cutRuns r.runs data)
  match (if r.src = 2 then s.ctx.pump.fly.find? (fun x => x.cap.age = r.age) else none) with
  | some x =>
    let (data, bad) := t.pdata x.cap x (x.cap.pgeo id) x.rd
    t.onPump (fun p => p.setFly { x with data := data, bad := bad })
  | none => { t with dev := { t.dev with came := t.dev.came ++ [⟨t.cur, r.src, r.age, r.runs⟩] } }

/-- HOST_COMPLETION (R478, R482): one of the old port is late and discarded; one that fails IDE checking is a failure of
its stream; an accepted one brings the bytes that host memory holds. -/
def execHostCompletion (tag : BitVec 14) (port : Nat) (ok : Bool) (data : Nat) (s : State) : Ans :=
  .next (match s.dev.reqs.find? (fun r => r.tag = tag ∧ r.port = port) with
    | none => s
    | some r =>
      if !ok then
        let t := s.hostFails r
        if (t.world r.world).tdisp = .unlocked then t else t.toError r.world
      else
        let t := { s with dev := { s.dev with reqs := s.dev.reqs.erase r } }
        let t : State := match r.key with
          | some k => t.within k (fun t => t.completes r data)
          | none => t
        t.ideDrain r.world)

/-! ## Memory windows (R474, R389, R390) -/

/-- What a host read returned. [DESIGN CHOICE, log 62] -/
def State.returns (s : State) (v : Nat) : State := { s with dev := { s.dev with hostRead := v } }

/-- A window access refused: recorded; a read returns all ones. -/
def State.windowRefused (s : State) (n : Nat) (wr : Option Nat) (logged : Bool) : State :=
  let t := if logged then s.logged logRefusal 0 else s
  if wr.isSome then t else t.returns (2 ^ (8 * n) - 1)

/-- A window access made. [DEDUCED, log 66] -/
def State.windowMade (s : State) (w : Nat) (runs : List (Nat × Nat)) (n : Nat) (wr : Option Nat) : State :=
  match wr with
  | some v => s.storeSegs (cutRuns runs v)
  | none =>
    match s.badRun runs with
    | some ln => (s.integrity w ln).returns (2 ^ (8 * n) - 1)
    | none => s.returns (readRuns s.mem runs)

/-! ## Frozen registers (R481) -/

/-- The world of an interface that is not unlocked (R481). [DEDUCED, log 65] -/
def State.frozen (s : State) (w : Nat) : Bool := (s.world w).tdisp ≠ .unlocked

/-- A write to a frozen register: ignored; FROZE is set and the interface enters ERROR (R481). [DEDUCED, log 65; DEDUCED, log 72] -/
def State.froze (s : State) (w : Nat) : State :=
  let t := s.toError w
  t.setWorld w { t.world w with froze := true }

/-! ## Registers without behaviour of their own -/

/-- A write to half of an MSI-X table entry: address, or data and the vector's mask bit (R480). -/
def State.msixWrite (s : State) (fn o v : Nat) : State :=
  let k := o / 16
  if (if fn < 192 then 4 else 5) ≤ k then s
  else if o % 16 = 0 then s.setVector fn k { s.vector fn k with addr := word v }
  else
    let t := s.setVector fn k { s.vector fn k with data := BitVec.ofNat 32 v }
    if bit v 32 then t.setVector fn k { t.vector fn k with masked := true } else t.unmask fn k

/-- CNT and TIMER of IMOD. -/
def Msix.moderate (m : Msix) (v : Nat) : Msix := { m with cnt := BitVec.ofNat 16 (v / 65536), timer := BitVec.ofNat 16 v }

/-- The device page (R476). -/
def State.writeDev (s : State) (port off v : Nat) : State :=
  let d := s.dev
  if off = 0x08 then
    if s.ports.any (fun e => e.2.st ≠ 0) then s else { s with dev := { d with num := BitVec.ofNat 9 v } }
  else if off = 0x10 then { s with dev := { d with tkfail := d.tkfail && !bit v 63 } }
  else if off = 0x20 then if v % 2 ^ 32 < 120000 then s else { s with dev := { d with lterm := BitVec.ofNat 32 v } }
  else if off = 0x30 then { s with dev := { d with fw := { d.fw with stage := bits v 39 12 * 4096 } } }
  else if off = 0x38 then { s with dev := { d with fw := { d.fw with len := BitVec.ofNat 10 (bits v 21 12) } } }
  else if off = 0x40 then { s with dev := { d with fw := { d.fw with gobusy := d.fw.gobusy && !bit v 3 } } }
  else if off = 0x48 then
    { s with dev := { d with mig := { d.mig with ctlWorld := BitVec.ofNat 8 (bits v 59 52), ctlPort := BitVec.ofNat 4 v } } }
  else if off = 0x58 then { s with dev := { d with twarn := BitVec.ofNat 8 (bits v 15 8), warn := d.warn && !bit v 0 } }
  else if 0x100 ≤ off ∧ off ≤ 0x140 then
    let c := (off - 0x100) / 8
    { s with dev := { d with ewNext := SMap.set (ewReset c) d.ewNext c (BitVec.ofNat 32 v) } }
  else if 0x200 ≤ off ∧ off ≤ 0x220 then
    let k := (off - 0x200) / 8
    s.setVector 192 k ((s.vector 192 k).moderate v)
  else if 0x2000 ≤ off ∧ off < 0x2050 then if port = d.holder then s.msixWrite 192 (off - 0x2000) v else s
  else s

/-- HBM whose owner changes with a world's regions is written as zeros, under its new owner's keys (R408). -/
def State.regrant (s t : State) : State :=
  let same (a : Nat) : Bool := s.regionWorld a = t.regionWorld a
  { t with
    mem := t.mem.filter (fun c => decide (Config.hbmTop ≤ c.1) || same c.1)
    owner := t.owner.filter (fun e => same (64 * e.1))
    badLines := t.badLines.filter (fun e => same (64 * e.1))
    told := t.told.filter (fun e => same (8 * e.1)) }

/-- A write to a region register (R398, R408, R409). -/
def State.writeRegion (s : State) (w n : Nat) (f : Region → Region) : State :=
  let g := (s.world w).g
  let r := f (SMap.get Region.reset g.er n)
  let r := if g.rot then r else { r with mark := r.lim }
  let meets (o : Region) : Bool := decide (r.base < o.lim ∧ o.base < r.lim ∧ r.base < r.lim ∧ o.base < o.lim)
  if s.bound w then s.onGuard w (fun g => { g with erdrop := true })
  else if s.worlds.any (fun e => e.1 ≠ w ∧ e.2.g.er.any (fun x => meets x.2)) then
    s.onGuard w (fun g => { g with erdrop := true })
  else s.regrant (s.onGuard w (fun g => { g with er := SMap.set Region.reset g.er n r }))

/-- A world page (R251, R409, R479); `pf` for the physical function, which alone writes LOG2 of MWCFG: a virtual function's write sets VA, where
it is a multiple of 2^LOG2 as that stands. [DEDUCED, log 66; DEDUCED, log 72] -/
def State.writeWorld (s : State) (port : Nat) (pf : Bool) (w off v : Nat) : State :=
  let x := s.world w
  let onX (f : Xlat → Xlat) : State := s.setWorld w { x with x := f x.x }
  let region := decide (0x600 ≤ off ∧ off < 0x780 ∧ (off - 0x600) % 24 ≠ 16)
  if off = 0x500 ∨ region ∨ off = 0x118 then
    if !pf ∧ off ≠ 0x118 then s.logged logRefusal (word off)
    else if s.frozen w then s.froze w
    else if off = 0x118 then
      let n := if pf then bits v 5 0 else x.mwnext
      let a := bits v 56 20 * 2 ^ 20
      if 20 ≤ n ∧ n ≤ 40 ∧ a % 2 ^ n = 0 then s.setWorld w { x with mwva := a, mwnext := n } else s
    else if off = 0x500 then
      if s.bound w then s else s.onGuard w (fun g => { g with dbg := bit v 1, prot := bit v 0 })
    else
      let n := (off - 0x600) / 24
      let a := bits v 39 19 * 2 ^ 19
      if (off - 0x600) % 24 = 0 then s.writeRegion w n (fun r => { r with base := a })
      else s.writeRegion w n (fun r => { r with lim := a })
  else if off < 0x80 ∧ off % 0x20 = 0 then
    let k := off / 0x20
    let q := { SMap.get Subq.reset x.sq k with va := bits v 56 12 * 4096, log := bits v 4 0 }
    s.setWorld w { x with sq := SMap.set Subq.reset x.sq k q }
  else if off = 0x80 then s.setWorld w { x with cqWait := false, cq := { x.cq with va := bits v 56 12 * 4096, log := bits v 4 0 } }
  else if off = 0x110 then s.setWorld w { x with snapsel := BitVec.ofNat 16 v }
  else if 0x200 ≤ off ∧ off ≤ 0x218 then
    let k := (off - 0x200) / 8
    s.setVector w k ((s.vector w k).moderate v)
  else if off = 0x300 then s.setWorld w { x with froze := x.froze && !bit v 2 }
  else if off = 0x400 then onX (fun y => { y with root := bits v 51 13 * 8192, en := bit v 0 })
  else if off = 0x410 then onX (fun y => { y with drop := y.drop && !bit v 1 })
  else if off = 0x428 then onX (fun y => { y with thresh := BitVec.ofNat 16 v })
  else if off = 0x430 then onX (fun y => { y with nqva := bits v 56 12 * 4096, nqlog := bits v 4 0 })
  else if off = 0x438 then onX (fun y => { y with nqhead := BitVec.ofNat 16 v })
  else if off = 0x448 then onX (fun y => { y with ovf := y.ovf && !bit v 0 })
  else if off = 0x510 then s.onGuard w (fun g => { g with hdrop := g.hdrop && !bit v 1 })
  else if off = 0x528 then s.onGuard w (fun g => { g with erdrop := g.erdrop && !bit v 3, kdrop := g.kdrop && !bit v 2 })
  else if off = 0x530 then s.onGuard w (fun g => { g with integV := g.integV && !bit v 63 })
  else if 0x2000 ≤ off ∧ off < 0x2040 then if port = s.dev.holder then s.msixWrite w (off - 0x2000) v else s
  else s

/-- A Briwen port's block (R436): a byte of BPOWN that holds the number of a frozen world is frozen, whatever is written
(R481). [DEDUCED, log 56; DEDUCED, log 65] -/
def State.writePort (s : State) (p off v : Nat) : State :=
  let x := s.port p
  if 12 ≤ p then s
  else if off = 0x18 then
    let n := bits v 20 0
    if n % 64 = 0 ∧ 1024 ≤ n ∧ n ≤ 1048576 then s.setPort p { x with pernext := n } else s
  else if off = 0x30 then s.setPort p { x with thresh := BitVec.ofNat 8 v }
  else if 0x40 ≤ off ∧ off < 0x80 then
    (List.range 8).foldl (fun s i =>
      let b := off - 0x40 + i
      let x := s.port p
      let old := SMap.get 0xFF x.own b
      let new := BitVec.ofNat 8 (v / 2 ^ (8 * i))
      if old.toNat ≤ 191 ∧ s.frozen old.toNat then s.froze old.toNat
      else if 191 < new.toNat ∧ new ≠ 0xFF then s
      else s.setPort p { x with own := SMap.set 0xFF x.own b new }) s
  else s

/-- A campus port's block (R441). -/
def State.writeCampus (s : State) (q off v : Nat) : State :=
  let cp := BitVec.ofNat 2 q
  let c := s.campusPort cp
  if 4 ≤ q then s
  else if off = 0x10 then if v % 2 ^ 32 < 12000 then s else s.setCampus cp { c with rto := BitVec.ofNat 32 v }
  else if off = 0x28 then s.setCampus cp { c with etype := BitVec.ofNat 16 v }
  else s

/-- A port, or a hart, writes registers through a function: a hart through that of its own world (R483). [DESIGN CHOICE, log 80] -/
def State.mayWriteVia (s : State) (port : Nat) (vf : Option Nat) : Bool :=
  decide (port < 2) || (match s.hart port with
    | some h => (match vf with | none => h.pfNow | some w => !h.pfNow && h.worldNow.toNat = w)
    | none => false)

/-- REGISTER_WRITE (R6, R7, R483): an aligned 64-bit write through a function; a register that does not exist, one that the
function does not reach, and a field that cannot be written ignore it. -/
def execRegisterWrite (port : Nat) (vf : Option Nat) (page : RegPage) (off : Nat) (v : Word) (s : State) : Ans :=
  .next (if !s.dev.ready ∨ !s.mayWriteVia port vf ∨ off % 8 ≠ 0 then s
    else
      match page, vf with
      | .dev, none => s.writeDev port off v.toNat
      | .briwen p, none => s.writePort p off v.toNat
      | .campus q, none => s.writeCampus q off v.toNat
      | .world w, none => if 191 < w then s else s.writeWorld port true w off v.toNat
      | .world w, some n =>
        if 191 < w ∨ n ≠ w then s
        else if 0x400000 ≤ off ∧ off < 0x800000 then if port < 2 then s.snapshotWrite w (off - 0x400000) v else s
        else s.writeWorld port false w off v.toNat
      | _, _ => s)

/-- FUNCTION_RESET (R479): the window's new size takes effect. -/
def execFunctionReset (world : Nat) (s : State) : Ans :=
  let x := s.world world
  .next (s.setWorld world { x with mwlog := x.mwnext })

end Sys2Proof.Machine
end

