-- ==== Sys2Proof/Machine/Regs.lean ====
section
/-! DEFINITION. What a host's read of a register returns (R6, R7, R251, R409, R436, R441, R475, R476, R479): a function of the
state alone, for no read has a side effect; a write-only or reserved field and a register that does not exist read as zero. -/

namespace Sys2Proof.Machine

/-- A flag in a bit of a register. -/
def flagAt (b : Bool) (i : Nat) : Nat := if b then 2 ^ i else 0

/-- CNT and TIMER of IMOD. -/
def Msix.imod (m : Msix) : Nat := m.cnt.toNat * 2 ^ 16 + m.timer.toNat

/-- Half of an entry of a function's MSI-X table (R480). -/
def State.msixRead (s : State) (fn o : Nat) : Nat :=
  let m := s.vector fn (o / 16)
  if (if fn < 192 then 4 else 5) ≤ o / 16 then 0
  else if o % 16 = 0 then m.addr.toNat else m.data.toNat + flagAt m.masked 32

/-- The pending-bit array of a function (R480). -/
def State.pending (s : State) (fn o : Nat) : Nat :=
  if o ≠ 0 then 0
  else ((List.range (if fn < 192 then 4 else 5)).map (fun k => flagAt (s.vector fn k).pend k)).sum

/-- The device page (R475, R476). -/
def State.readDev (s : State) (off : Nat) : Nat :=
  let d := s.dev
  if off = 0 then d.stage.toNat * 16 + flagAt d.fail 1 + flagAt d.ready 0
  else if !d.ready then 0
  else if off = 0x08 then d.num.toNat
  else if off = 0x10 then flagAt d.tkfail 63 + flagAt (decide (d.lexp.toNat ≤ s.dcc.toNat)) 1 + d.holder % 2
  else if off = 0x18 then d.lexp.toNat
  else if off = 0x20 then d.lterm.toNat
  else if off = 0x28 then d.savebase % 2 ^ 40
  else if off = 0x30 then d.fw.stage % 2 ^ 40
  else if off = 0x38 then d.fw.len.toNat * 2 ^ 12
  else if off = 0x40 then d.fw.version.toNat * 2 ^ 32 + flagAt d.fw.gobusy 3 + d.fw.state.toNat
  else if off = 0x48 then d.mig.ctlWorld.toNat * 2 ^ 52 + d.mig.ctlPort.toNat
  else if off = 0x50 then d.mig.world.toNat * 2 ^ 8 + d.mig.err.toNat * 2 ^ 4 + d.mig.state.toNat
  else if off = 0x58 then d.tj.toNat * 2 ^ 24 + d.tout.toNat * 2 ^ 16 + d.twarn.toNat * 2 ^ 8 + flagAt d.warn 0
  else if 0x80 ≤ off ∧ off < 0x100 then
    let h := SMap.get Hart.reset d.harts ((off - 0x80) / 8)
    flagAt h.pf 8 + h.world.toNat
  else if 0x100 ≤ off ∧ off ≤ 0x140 then let c := (off - 0x100) / 8; (SMap.get (ewReset c) d.ewNext c).toNat
  else if 0x200 ≤ off ∧ off ≤ 0x220 then (s.vector 192 ((off - 0x200) / 8)).imod
  else if 0x2000 ≤ off ∧ off < 0x2050 then s.msixRead 192 (off - 0x2000)
  else if 0x3000 ≤ off ∧ off < 0x4000 then s.pending 192 (off - 0x3000)
  else 0

/-- A word of the wellhead log (R475, R486): record r is the last one written in its place. No rule lays a record out: its words
are free values of what it holds. [DESIGN CHOICE, log 71] -/
def State.readLog (s : State) (off : Nat) : Nat :=
  match s.dev.log[off / 32]? with
  | some e => (Config.logWord e.1 e.2.1 e.2.2 (off % 32 / 8)).toNat
  | none => 0

/-- The code of TDISPST.STATE (R479). -/
def tdispCode : Tdisp → Nat
  | .unlocked => 0
  | .locked => 1
  | .run => 2
  | .error => 3

/-- The word of a queue's base register (R251, R479). -/
def baseWord (va log : Nat) : Nat := va % 2 ^ 57 + log % 32

/-- A submission queue's registers (R479). -/
def Subq.read (q : Subq) (o : Nat) : Nat :=
  if o = 0 then baseWord q.va q.log else if o = 8 then q.tail.toNat else if o = 16 then q.head.toNat else 0

/-- The completion queue's registers (R479). -/
def Subq.readCq (q : Subq) (o : Nat) : Nat :=
  if o = 0 then baseWord q.va q.log else if o = 8 then q.head.toNat else q.tail.toNat

/-- A region's registers (R409). -/
def Region.read (r : Region) (rot : Bool) (o : Nat) : Nat :=
  if o = 0 then r.base else if o = 8 then r.lim else if rot then r.mark else r.lim

/-- A world page (R251, R409, R479). -/
def State.readWorld (s : State) (w off : Nat) : Nat :=
  let x := s.world w
  let y := x.x
  let g := x.g
  if off < 0x80 then (SMap.get Subq.reset x.sq (off / 0x20)).read (off % 0x20)
  else if off < 0x98 then x.cq.readCq (off - 0x80)
  else if off = 0x110 then x.snapsel.toNat
  else if off = 0x118 then x.mwva % 2 ^ 57 + x.mwnext % 64
  else if 0x200 ≤ off ∧ off ≤ 0x218 then (s.vector w ((off - 0x200) / 8)).imod
  else if off = 0x300 then flagAt x.froze 2 + tdispCode x.tdisp
  else if off = 0x400 then y.root % 2 ^ 52 + flagAt y.en 0
  else if off = 0x410 then flagAt y.drop 1 + flagAt y.inv.isSome 0
  else if off = 0x418 then y.fva.toNat
  else if off = 0x420 then y.finfo.toNat
  else if off = 0x428 then y.thresh.toNat
  else if off = 0x430 then baseWord y.nqva y.nqlog
  else if off = 0x438 then y.nqhead.toNat
  else if off = 0x440 then y.nqtail.toNat
  else if off = 0x448 then flagAt y.ovf 0
  else if off = 0x500 then flagAt g.dbg 1 + flagAt g.prot 0
  else if off = 0x510 then g.revoked.length % 256 * 2 ^ 4 + flagAt g.hdrop 1 + flagAt g.hbusy 0
  else if off = 0x518 then g.gmin.toNat
  else if off = 0x528 then g.epoch.toNat * 2 ^ 32 + flagAt g.erdrop 3 + flagAt g.kdrop 2 + flagAt g.rot 1 + flagAt g.cur 0
  else if off = 0x530 then flagAt g.integV 63 + g.integ % 2 ^ 34 * 2 ^ 6
  else if 0x600 ≤ off ∧ off < 0x780 then (SMap.get Region.reset g.er ((off - 0x600) / 24)).read g.rot ((off - 0x600) % 24)
  else if 0x2000 ≤ off ∧ off < 0x2040 then s.msixRead w (off - 0x2000)
  else if 0x3000 ≤ off ∧ off < 0x4000 then s.pending w (off - 0x3000)
  else 0

/-- Eight bytes of a map, the lowest first. -/
def bytes8 (f : Nat → BitVec 8) : Nat := ((List.range 8).map (fun i => (f i).toNat * 2 ^ (8 * i))).sum

/-- A Briwen port's block (R436). -/
def State.readPort (s : State) (p off : Nat) : Nat :=
  let x := s.port p
  if 12 ≤ p then 0
  else if off = 0x08 then x.peerdev.toNat * 2 ^ 35 + x.peerport.toNat * 2 ^ 31 + x.err.toNat * 2 ^ 4 + x.st % 8
  else if off = 0x10 then x.txlat % 2 ^ 10 * 2 ^ 16 + x.rxlat % 2 ^ 10
  else if off = 0x18 then x.pernext % 2 ^ 21
  else if off = 0x20 then
    x.slips.toNat * 2 ^ 48 + x.replays.toNat * 2 ^ 32 + x.crcfail.toNat * 2 ^ 16 + x.authfail.toNat
  else if off = 0x28 then bytes8 (fun n => SMap.get 255 x.lane n)
  else if off = 0x30 then x.thresh.toNat
  else if 0x40 ≤ off ∧ off < 0x80 then bytes8 (fun i => SMap.get 0xFF x.own (off - 0x40 + i))
  else 0

/-- A campus port's block (R441). -/
def State.readCampus (s : State) (q off : Nat) : Nat :=
  let c := s.campusPort (BitVec.ofNat 2 q)
  if 4 ≤ q then 0
  else if off = 0x08 then c.err.toNat * 2 ^ 4 + c.st % 8
  else if off = 0x10 then c.rto.toNat
  else if off = 0x18 then ceilDiv (c.buf.map (fun b => b.f.len)).sum 65536 % 2 ^ 12
  else if off = 0x20 then c.resent.toNat * 2 ^ 32 + c.authfail.toNat
  else if off = 0x28 then c.etype.toNat
  else 0

/-- A read of a page through a function (R6, R7, R474, R475, R491): a register that the function does not reach reads as zero. -/
def State.readRegister (s : State) (vf : Option Nat) (page : RegPage) (off : Nat) : Word :=
  word (
    if off % 8 ≠ 0 then 0
    else
      match page, vf with
      | .dev, none => if off < 0x20000 then s.readDev off else if s.dev.ready ∧ off < 0x30000 then s.readLog (off - 0x20000) else 0
      | .briwen p, none => if s.dev.ready then s.readPort p off else 0
      | .campus q, none => if s.dev.ready then s.readCampus q off else 0
      | .world w, none => if s.dev.ready ∧ w ≤ 191 then s.readWorld w off else 0
      | .world w, some n => if s.dev.ready ∧ w ≤ 191 ∧ n = w then s.readWorld w off else 0
      | _, _ => 0)

/-- A read of BAR 0 of virtual function n: its world page, and the snapshot window (R474). -/
def State.readVf (s : State) (n off : Nat) : State × Word :=
  if off < 0x10000 then (s, s.readRegister (some n) (.world n) off)
  else if 0x400000 ≤ off ∧ off < 0x800000 ∧ s.dev.ready then s.snapshotAccess n (off - 0x400000)
  else (s, 0)

/-- What the physical function's BAR 0 holds at an offset (R475). -/
def State.readBar (s : State) (o : Nat) : Word :=
  if o < 0x10000 then s.readRegister none .dev o
  else if o < 0x10C00 then s.readRegister none (.briwen ((o - 0x10000) / 0x100)) (o % 0x100)
  else if 0x11000 ≤ o ∧ o < 0x11400 then s.readRegister none (.campus ((o - 0x11000) / 0x100)) (o % 0x100)
  else if 0x20000 ≤ o ∧ o < 0x30000 then s.readRegister none .dev o
  else if 0x100000 ≤ o ∧ o < 0x100000 + 192 * 0x10000 then s.readRegister none (.world ((o - 0x100000) / 0x10000)) (o % 0x10000)
  else 0

end Sys2Proof.Machine
end

