-- ==== Sys2Proof/Machine/Harts.lean ====
section
/-! DEFINITION. What reaches device memory from outside the cores: the windows of the host ports (R474, R389, R390) and the accesses of the
application harts (R483). -/

namespace Sys2Proof.Machine

/-- HART_RESET (R483): a write to HARTCFG, and the reset that follows it. -/
def execHartReset (i : Nat) (v : Word) (s : State) : Ans :=
  let h := SMap.get Hart.reset s.dev.harts i
  .next (if !s.dev.ready ∨ 16 ≤ i then s
    else if !h.pf ∧ s.frozen h.world.toNat then s.froze h.world.toNat
    else
      let pf := bit v.toNat 8
      let w := BitVec.ofNat 8 v.toNat
      { s with dev := { s.dev with harts := SMap.set Hart.reset s.dev.harts i ⟨pf, w, pf, w, h.resets + 1⟩ } })

/-- Where a hart's registers begin in its physical addresses (R483). -/
def hartRegs : Nat := 2 ^ 57

/-- The registers that a hart reads above its memory: its world's page, alone, or BAR 0 of the physical function (R483). [DESIGN CHOICE, log 80] -/
def State.hartReads (s : State) (h : Hart) (o : Nat) : Word :=
  if h.pfNow then s.readBar o
  else if o < 0x10000 then s.readRegister (some h.worldNow.toNat) (.world h.worldNow.toNat) o else 0

/-- HBM bytes that belong to no world, as the physical function reaches them (R389). -/
def State.physical (s : State) (off n : Nat) (wr : Option Nat) : State :=
  if Config.hbmReserved < off + n ∨ (linesOf off n).any (fun l => (s.regionWorld (64 * l)).isSome) then
    s.windowRefused n wr (decide (off + n ≤ Config.hbmTop))
  else s.windowMade 0xFF [(off, n)] n wr

/-- An access of a hart at its physical address (R483): its world's virtual space, or HBM for the physical function, and registers above; it
takes its one place in the write order of every byte (R252). A write to a register is the event of that register. [DESIGN CHOICE, log 80] -/
def State.hartAccess (s : State) (h : Hart) (a n : Nat) (wr : Option Nat) : State :=
  if hartRegs ≤ a then
    if wr.isSome then s else s.returns ((s.hartReads h (a - hartRegs)).toNat % 2 ^ (8 * n))
  else if hartRegs < a + n then s.windowRefused n wr false
  else if h.pfNow then s.physical a n wr
  else
    let w := h.worldNow.toNat
    match s.reach [1024] w a n wr.isSome with
    | .ok t runs => t.windowMade w runs n wr
    | .page t _ | .blocked t _ | .denied t => t.windowRefused n wr false

/-- MEMORY_WINDOW_ACCESS (R474, R483): the physical function reaches the HBM that belongs to no world, a virtual function its
world's addresses; a number from 2 on is an access of a hart. [DESIGN CHOICE, log 80] -/
def execMemoryWindowAccess (port : Nat) (vf : Option Nat) (off n : Nat) (wr : Option Nat) (s : State) : Ans :=
  .next (if !s.dev.ready ∨ n = 0 then s
    else if 2 ≤ port then
      match s.hart port with
      | some h => s.hartAccess h off n wr
      | none => s
    else
      match vf with
      | none => s.physical off n wr
      | some w =>
        let x := s.world w
        if x.tdisp = .error ∨ 2 ^ x.mwlog < off + n then s.windowRefused n wr false
        else
          match s.reach [1024] w (x.mwva + off) n wr.isSome with
          | .ok t runs =>
            if runs.any (fun r => Config.hostBase ≤ r.1) then s.windowRefused n wr false else t.windowMade w runs n wr
          | .page t _ | .blocked t _ | .denied t => t.windowRefused n wr false)

end Sys2Proof.Machine
end

