-- ==== Sys2Proof/Machine/Bringup.lean ====
section
/-! DEFINITION. The scheduler core's firmware (R485, R487), migration (R488 to R490), bring-up, temperatures and device
reset (R8, R491, R492). -/

namespace Sys2Proof.Machine

/-! ## Firmware -/

/-- The firmware registers changed. [DEDUCED, log 67] -/
def State.onFw (s : State) (f : Fw → Fw) : State := { s with dev := { s.dev with fw := f s.dev.fw } }

/-- A firmware switch ends: logged, and counted on PF vector 3 (R480, R486). [DEDUCED, log 67] -/
def State.fwEnds (s : State) : State := (s.logged logFirmware (word s.dev.fw.state.toNat)).pfIrq 3

/-- FWCTL_GO (R487). -/
def execFwctlGo (port : Nat) (len : BitVec 10) (s : State) : Ans :=
  s.held port (s.onFw (fun f =>
    if f.state = 1 ∨ f.state = 2 then { f with len := len, gobusy := true }
    else if len = 0 then { f with len := len }
    else { f with len := len, state := 1 }))

/-- A context waits for a service call to be served. -/
def Ctx.calling (c : Ctx) : Bool := match c.ctl.hold with | .svc _ _ => true | _ => false

/-- FW_VERIFY_DONE (R487): what the wellhead found comes with the event; the calls now in service finish on the old
version. -/
def execFwVerifyDone (sigOk verOk : Bool) (version : BitVec 32) (s : State) : Ans :=
  .next (if s.dev.fw.state ≠ 1 then s
    else if !sigOk then (s.onFw (fun f => { f with state := 3 })).fwEnds
    else if !verOk then (s.onFw (fun f => { f with state := 4 })).fwEnds
    else
      let calls := (s.ctxs.filter (fun e => e.2.calling)).map (·.1)
      s.onFw (fun f => { f with state := 2, next := version, held := calls, bells := [] }))

/-- What was held while the firmware drained, taken up: a queue is read, or a call served (R487). -/
def State.takeUp (s : State) : Bell → State
  | .queue w k => s.readQueue w k
  | .call k => s.within k State.serveCall

/-- FW_SWAP (R487): no call is in service; the doorbells and calls held since are taken up in the order of their arrival. -/
def execFwSwap (s : State) : Ans :=
  .next (if s.dev.fw.state ≠ 2 ∨ s.dev.fw.held.any (fun k => (s.ctxAt k).calling) then s
    else
      let bells := s.dev.fw.bells
      let t := (s.onFw (fun f => { f with state := 0, version := f.next, held := [], bells := [] })).fwEnds
      bells.foldl State.takeUp t)

/-! ## Migration -/

/-- The link that MIGCTL.PORT names is UP (R476). -/
def State.linkUp (s : State) (port : BitVec 4) : Bool :=
  if port.toNat < 12 then (s.port port.toNat).st = 4 else (s.campusPort (BitVec.ofNat 2 (port.toNat - 12))).st = 4

/-- The gangs of a world, by id. -/
def State.gangsOf (s : State) (w : Nat) : List (Nat × Gang) :=
  s.gangs.filterMap (fun e => match e.2 with
    | some g => if g.world = w then some (e.1, g) else none
    | none => none)

/-- A gang marked as migrating or not. -/
def State.setMigrating (s : State) (w : Nat) (b : Bool) : State :=
  (s.gangsOf w).foldl (fun t e => match t.gang e.1 with
    | some g => t.setGang e.1 (some { g with migrating := b })
    | none => t) s

/-- MIGCTL written with a command. [DEDUCED, log 68] -/
def State.migCtl (s : State) (w : Nat) (port : BitVec 4) : State :=
  { s with dev := { s.dev with mig := { s.dev.mig with ctlWorld := BitVec.ofNat 8 w, ctlPort := port } } }

/-- A migration under way. [DEDUCED, log 68] -/
def Mig.busy (m : Mig) : Bool := m.state = 1 || m.state = 2 || m.state = 3

/-- MIG_EXPORT (R488, R489): every gang of the world is pre-empted, and is not scheduled again here. -/
def execMigExport (world : Nat) (port : BitVec 4) (s : State) : Ans :=
  .next (if !s.dev.ready ∨ 191 < world then s
    else
      let t := s.migCtl world port
      let w := BitVec.ofNat 8 world
      if t.dev.mig.busy then t
      else if !t.linkUp port then t.migTo (fun m => { m with world := w, err := 1, state := 0 })
      else if (t.gangsOf world).isEmpty then t.migTo (fun m => { m with world := w, err := 2, state := 0 })
      else
        let gangs := (t.gangsOf world).map (fun e => (e.1, e.2.tag, e.2.sq))
        let t := (t.gangsOf world).foldl (fun t e => t.takeSet true e.1) t
        (t.setMigrating world true).migTo (fun m => { m with world := w, err := 0, state := 1, gangs := gangs, built := false, receipt := false }))

/-- The bytes of memory from an address on, by their offsets. -/
def State.cellsIn (s : State) (a n : Nat) : List (Nat × BitVec 8) :=
  (s.mem.filter (fun c => decide (a ≤ c.1 ∧ c.1 < a + n))).map (fun c => (c.1 - a, c.2))

/-- Bytes put into memory from an address on, whatever stood there. -/
def State.putCells (s : State) (a n : Nat) (l : List (Nat × BitVec 8)) : State :=
  { s with mem := l.foldl (fun m c => m.write (a + c.1) 1 c.2.toNat) (s.mem.write a n 0) }

/-- The first byte of a slot's partition. -/
def partBase (k pbase : Nat) : Nat := Config.cisternBase + coreOf k * 2 ^ 23 + pbase * 65536

/-- The registers of a world page that a sealed context carries: the queues, the window, translation, notification and WCFG. [DESIGN CHOICE, log 69] -/
def sealedRegs : List Nat :=
  (List.range 4).flatMap (fun k => [0x20 * k, 0x20 * k + 8, 0x20 * k + 16]) ++ [0x80, 0x88, 0x90, 0x118, 0x400, 0x428, 0x430, 0x438, 0x440, 0x500]

/-- The sealed context of a world whose gangs are out (R488, step 2). [DESIGN CHOICE, log 69] -/
def State.sealedOf (s : State) (w : Nat) : Sealed :=
  let g := (s.world w).g
  { gangs := (s.gangsOf w).map (fun e =>
      { id := e.1, tag := e.2.tag, sq := e.2.sq, va := e.2.r.va
        strands := e.2.keys.map (fun k =>
          let b := s.bindAt k
          { key := k, strand := b.strand.toNat, stage := b.stage, pbase := b.pbase, image := s.cellsIn (s.saveBase k) (2 ^ 22)
            part := s.cellsIn (partBase k b.pbase) (b.psize * 65536) }) })
    regions := g.er.map (fun e => (e.1, e.2.base, e.2.lim))
    bytes := g.er.flatMap (fun e => (s.cellsIn e.2.base (e.2.lim - e.2.base)).map (fun c => (e.2.base + c.1, c.2)))
    revoked := g.revoked, gmin := g.gmin, page := sealedRegs.map (fun o => (o, word (s.readWorld w o))) }

/-- A message of a migration sent over its link. [DESIGN CHOICE, log 69] -/
def State.migSend (s : State) (port : BitVec 4) (m : MigMsg) : State :=
  { s with dev := { s.dev with mig := { s.dev.mig with sent := s.dev.mig.sent ++ [(port, m)] } } }

/-- A register of a world page as a sealed context holds it; queue positions too, which no host writes there. -/
def State.putReg (s : State) (w off v : Nat) : State :=
  let x := s.world w
  if off < 0x80 then
    let k := off / 0x20
    let q := SMap.get Subq.reset x.sq k
    let q := if off % 0x20 = 0 then { q with va := bits v 56 12 * 4096, log := bits v 4 0 }
      else if off % 0x20 = 8 then { q with tail := BitVec.ofNat 16 v } else { q with head := BitVec.ofNat 16 v }
    s.setWorld w { x with sq := SMap.set Subq.reset x.sq k q }
  else if off = 0x88 then s.setWorld w { x with cq := { x.cq with head := BitVec.ofNat 16 v } }
  else if off = 0x90 then s.setWorld w { x with cq := { x.cq with tail := BitVec.ofNat 16 v } }
  else if off = 0x440 then s.setWorld w { x with x := { x.x with nqtail := BitVec.ofNat 16 v } }
  else s.writeWorld s.dev.holder true w off v

/-- The places of an image that hold handle records, as far as they hold any (R376, R378, R380, R381). -/
def recordPlaces : List Nat :=
  let of (a n : Nat) : List Nat := (List.range n).flatMap (fun i => [a + 256 * i + 64, a + 256 * i + 128])
  (List.range 64).map (0x2000 + 64 * ·)
    ++ Config.engines.flatMap (fun e => of (queueStart e) (Config.queueDepth e) ++ of (0x3D1000 + 0x1000 * Config.engIdx e) 16)
    ++ (List.range 16).map (0x14000 + 1024 * ·) ++ of 0x1A000 32

/-- Every record of a slot's image, and the image, sealed under this device's key (R488, step 5). -/
def State.resealAll (s : State) (k : Nat) : State :=
  let b := s.saveBase k
  (recordPlaces.foldl (fun s o =>
    let v := s.mem.read (b + o) 64
    match (if v = 0 then none else handleOf v) with
    | some h => { s with mem := s.mem.write (b + o + 56) 8 (s.sealed h).mac.toNat }
    | none => s) s).reseal k

/-- A world of another device made here: open under keys of its own, with its regions and their bytes, its revocation state and its page. [DESIGN CHOICE, log 69] -/
def State.putWorld (s : State) (w : Nat) (c : Sealed) : State :=
  let s := if (s.world w).isOpen then s else
    let (t, k) := s.drawKey
    let (t, x) := t.drawSet
    (t.setWorld w { t.world w with isOpen := true, g := { (t.world w).g with epoch := 0, cur := false, key0 := x, scramble := k.setWidth 128 } }).deriveWorld w 0 false
  let er := c.regions.foldl (fun m r => SMap.set Region.reset m r.1 ⟨r.2.1, r.2.2, r.2.2⟩) ([] : SMap Region)
  let s := s.regrant (s.onGuard w (fun g => { g with er := er, revoked := c.revoked, gmin := c.gmin }))
  let s := c.bytes.foldl (fun s b => s.store b.1 1 b.2.toNat) s
  c.page.foldl (fun s r => s.putReg w r.1 r.2.toNat) s

/-- A gang of another device made here, out: its bind records, its contexts and their images, instruction memory, command stores and partitions;
none where its launch record does not read. The export tables are minted again. [DESIGN CHOICE, log 69] -/
def State.putGang (s : State) (w : Nat) (g : SealedGang) : Option State :=
  match s.readRecord w g.va with
  | (_, none) => none
  | (s, some r) =>
    let place (i : Nat) : Nat × Nat := match g.strands.find? (fun x => x.strand = i) with | some x => (x.key, x.pbase) | none => (0, 0)
    let hs := s.minted w r ((List.range r.strands.length).map place)
    let t := g.strands.foldl (fun s x =>
      let k := x.key
      let b : Bind :=
        { valid := true, run := false, prio := BitVec.ofNat 2 r.prio, world := BitVec.ofNat 8 w, gang := BitVec.ofNat 16 g.id
          strand := BitVec.ofNat 16 x.strand, stage := x.stage, start := r.start, lrec := BitVec.ofNat 57 r.va, pbase := x.pbase, psize := r.psize }
      let s := { s with binds := SMap.set Bind.reset s.binds k b }.setAt k { newCtx s r x.strand (slotsFor hs x.strand) with phase := .out }
      let s := (s.putCells (s.saveBase k) (2 ^ 22) x.image).putCells (partBase k x.pbase) (r.psize * 65536) x.part
      let at_ (lo n : Nat) : List (Nat × BitVec 8) :=
        (x.image.filter (fun c => decide (lo ≤ c.1 ∧ c.1 < lo + n))).map (fun c => (c.1 - lo, c.2))
      let s := s.putCells (Config.imemBase + k * 2 ^ 18) (2 ^ 18) (at_ 0x300000 (2 ^ 18))
      (s.putCells (Config.cmdBase + k * 2 ^ 16) (2 ^ 16) (at_ 0x340000 (2 ^ 16))).resealAll k) s
    let n : Gang :=
      { world := w, tag := g.tag, sq := g.sq, prio := r.prio, link := r.link, linkN := (r.link.map (fun x => s.strandsNamed x.toNat)).getD 0, r := r
        keys := g.strands.map (·.key), bars := [], ready := none, startAt := none, lastStart := s.dcc, running := false, preempted := true
        halted := false, migrating := false, trap := none
        retired := (List.range r.strands.length).filter (fun i => !g.strands.any (fun x => x.strand = i)), refused := false }
    some ({ t with dev := { t.dev with serial := t.dev.serial + word r.handles.length } }.setGang g.id (some n))

/-- The slots and the regions of a sealed context are free here: its gangs keep their cores, and its tables the addresses that they map. [DESIGN CHOICE, log 69] -/
def State.roomFor (s : State) (w : Nat) (c : Sealed) : Bool :=
  c.gangs.all (fun g => g.strands.all (fun x => !(s.bindAt x.key).valid && (s.ctxAt x.key).phase = .off))
    && !s.bound w
    && !s.worlds.any (fun e => e.1 ≠ w && e.2.g.er.any (fun o => c.regions.any (fun r => o.2.base < r.2.2 && r.2.1 < o.2.lim)))

/-- Step 5 at the destination: the world is made here and its contexts are bound in the same gang ids, unless one is taken here; they wait in
SEALED for their places. [DESIGN CHOICE, log 69] -/
def State.migBind (s : State) : State :=
  let w := s.dev.mig.world.toNat
  match s.dev.mig.context with
  | none => s
  | some c =>
    if c.gangs.any (fun g => s.idUsed g.id) then s.migTo (fun m => { m with err := 3 })
    else if !s.roomFor w c then s.migTo (fun m => { m with err := 0 })
    else
      match c.gangs.foldl (fun (t : Option State) g => t.bind (fun u => u.putGang w g)) (some (s.putWorld w c)) with
      | some t => t.migTo (fun m => { m with err := 0, placed := true, context := none })
      | none => s.migTo (fun m => { m with err := 0 })

/-- MIG_ACCEPT (R488, R490): the destination prepares, or makes step 5, or tries it again. -/
def execMigAccept (world : Nat) (port : BitVec 4) (s : State) : Ans :=
  .next (if !s.dev.ready ∨ 191 < world then s
    else
      let t := s.migCtl world port
      let m := t.dev.mig
      if m.state = 3 ∧ m.world.toNat = world ∧ !m.placed then t.migBind
      else if m.busy then t
      else { t with dev := { t.dev with mig := { m with accept := some (BitVec.ofNat 8 world) } } })

/-- MIGRATION_CONTEXT_ARRIVAL (R488, step 3): the context is stored and checked, a marker written to flash, a receipt returned. -/
def execMigrationContextArrival (world : Nat) (sealOk : Bool) (c : Sealed) (s : State) : Ans :=
  .next (if !s.dev.ready ∨ s.dev.mig.accept ≠ some (BitVec.ofNat 8 world) ∨ s.dev.mig.busy ∨ !s.linkUp s.dev.mig.ctlPort then s
    else if !sealOk then s.migTo (fun m => { m with world := BitVec.ofNat 8 world, err := 4 })
    else
      let w := BitVec.ofNat 8 world
      let l := c.gangs.map (fun g => (g.id, g.tag, g.sq))
      (s.migTo (fun m => { m with
        world := w, err := 0, state := 3, accept := none, gangs := l, context := some c, placed := false, flash := some (w, m.ctlPort, l) })).migSend
        s.dev.mig.ctlPort .receipt)

/-- Step 1 is complete: every context of the world lies in its image and nothing of it is in flight. -/
def State.contextsOut (s : State) (w : Nat) : Bool :=
  (s.gangsOf w).all (fun e => e.2.keys.all (fun k => (s.ctxAt k).phase = .out && (s.ctxAt k).idle))

/-- MIGRATION_RECEIPT (R488, R490): the source begins to scrub each context and to close the world, and keeps the receipt; one that does
not hold leaves the contexts intact. -/
def execMigrationReceipt (ok : Bool) (s : State) : Ans :=
  let w := s.dev.mig.world.toNat
  .next (if s.dev.mig.state ≠ 1 ∨ !s.dev.mig.built ∨ s.dev.mig.receipt then s
    else if !ok then s.migTo (fun m => { m with err := 4, state := 6 })
    else
      let t := (s.gangsOf w).foldl (fun t e => t.retireGang e.1) s
      (t.setWorld w { t.world w with closing := true }).migTo (fun m => { m with err := 0, receipt := true }))

/-- MIGRATION_CONFIRM (R488): the source clears the receipt. -/
def execMigrationConfirm (s : State) : Ans :=
  .next (if s.dev.mig.state = 2 then s.migTo (fun m => { m with state := 5, receipt := false }) else s)

/-- MIG_RESUME (R489): the contexts of an aborted migration are scheduled at the source again. -/
def execMigResume (c : MigCtl) (s : State) : Ans :=
  .next (if !s.dev.ready ∨ 191 < c.world then s
    else
      let t := s.migCtl c.world c.port
      if t.dev.mig.state ≠ 6 ∨ t.dev.mig.world.toNat ≠ c.world then t
      else (t.setMigrating c.world false).migTo (fun m => { m with state := 0 }))

/-- MIG_DISCARD (R490): the sealed context is erased. -/
def execMigDiscard (c : MigCtl) (s : State) : Ans :=
  .next (if !s.dev.ready ∨ 191 < c.world then s
    else
      let t := s.migCtl c.world c.port
      if t.dev.mig.state ≠ 3 ∨ t.dev.mig.world.toNat ≠ c.world ∨ t.dev.mig.placed then t
      else t.migTo (fun m => { m with state := 7, gangs := [], context := none, flash := none }))

/-- LOST posted for gangs of a world (R490). -/
def State.postLost (s : State) (w : Nat) (l : List (Nat × BitVec 16 × BitVec 2)) : State :=
  l.foldl (fun t e => t.postEntry w stLOST 0 0 e.1 e.2.1 e.2.2) s

/-- MIGRATION_LOSS_NOTICE (R490): at a source still in RECEIPTED. -/
def execMigrationLossNotice (s : State) : Ans :=
  .next (if s.dev.mig.state ≠ 2 then s
    else
      let m := s.dev.mig
      (s.migTo (fun m => { m with state := 7, receipt := false })).postLost m.world.toNat m.gangs)

/-- Every context of a migrated world runs at the destination. -/
def State.allResumed (s : State) (l : List (Nat × BitVec 16 × BitVec 2)) : Bool :=
  l.all (fun e => match s.gang e.1 with | some g => g.running | none => true)

/-- What a migration brings about itself (R488 to R490): the source sends the sealed context once step 1 is done, and is RECEIPTED once step 4 is,
the world closed; the destination is RUNNING and sends the confirmation once step 5 is done, and sends a loss notice when its link
reopens. -/
def State.migStep (s : State) : State :=
  let m := s.dev.mig
  let w := m.world.toNat
  let s := match m.notice with
    | some p => if s.linkUp p then (s.migSend p .loss).migTo (fun m => { m with notice := none }) else s
    | none => s
  if m.state = 1 ∧ !m.built then
    if s.contextsOut w ∧ s.linkUp m.ctlPort then (s.migSend m.ctlPort (.context (s.sealedOf w))).migTo (fun m => { m with built := true }) else s
  else if m.state = 1 ∧ m.receipt then
    if s.bound w ∨ (s.world w).closing then s else s.migTo (fun m => { m with state := 2 })
  else if m.state = 3 ∧ m.placed then
    if s.allResumed m.gangs then (s.migSend m.ctlPort .confirm).migTo (fun m => { m with state := 4, flash := none, placed := false }) else s
  else s

/-! ## Bring-up, reset and temperatures -/

/-- The device as power comes or a reset begins (R8, R491): reset values, host memory as it is, no step completed; what the flash holds of
a migration stays. [DEDUCED, log 70] -/
def State.powered (s : State) : State :=
  let r := State.reset
  let d := s.dev
  { r with
    mem := s.mem.filter (fun c => Config.hostBase ≤ c.1)
    dev := { r.dev with
      stage := 0, ready := false, sealKey := 0, scramble := 0, keys := .reset, draws := d.draws, tj := d.tj, tout := d.tout
      mig := { r.dev.mig with flash := d.mig.flash } } }

/-- Step 2 of R491: the seal key, the device scrambler key and the device keys are drawn. [DEDUCED, log 70] -/
def State.drawsKeys (s : State) : State :=
  let d := s.dev
  { s with dev := { d with
      sealKey := Config.randomKey d.draws, scramble := (Config.randomKey (d.draws + 1)).setWidth 128
      keys := ⟨Config.randomKey (d.draws + 2), Config.randomKey (d.draws + 3), Config.randomKey (d.draws + 4)⟩, draws := d.draws + 5 } }

/-- READY (R490, R491): a flash marker of a migration makes it LOST, LOST is posted for each of its gangs, and the source is owed a notice. [DEDUCED, log 70] -/
def State.becomesReady (s : State) : State :=
  let t := { s with dev := { s.dev with stage := 5, ready := true } }
  match s.dev.mig.flash with
  | some (w, p, l) => (t.migTo (fun m => { m with world := w, state := 7, flash := none, notice := some p })).postLost w.toNat l
  | none => t

/-- The device at READY after a reset (R8, R491). [DEDUCED, log 70] -/
def State.restarted (s : State) : State := s.powered.drawsKeys.becomesReady

/-- POWER_UP (R491): power comes, or the step after the one that STAGE names ends; a failure stops the sequence. [DEDUCED, log 70] -/
def execPowerUp (p : PowerUp) (s : State) : Ans :=
  let d := s.dev
  let k := d.stage + 1
  .next (match p with
    | .on => s.powered
    | .step ok =>
      if d.ready ∨ d.fail ∨ 5 ≤ d.stage.toNat then s
      else if !ok then { s with dev := { d with stage := k, fail := true } }
      else if k = 5 then s.becomesReady
      else
        let t := if k = 2 then s.drawsKeys else s
        { t with dev := { t.dev with stage := k } })

/-- DEVICE_RESET (R8, R393, R479, R490). -/
def execDeviceReset (s : State) : Ans := .next s.restarted

/-- The temperatures as measured (R492): WARN when TJ reaches TWARN; at 110 °C of the junction or 65 °C of the coolant the device resets. -/
def State.measured (s : State) (tj tout : BitVec 8) : State :=
  let reached := s.dev.twarn.toNat ≤ tj.toNat && decide (s.dev.tj.toNat < s.dev.twarn.toNat)
  let t := { s with dev := { s.dev with tj := tj, tout := tout, warn := s.dev.warn || reached } }
  let t := if reached then t.pfIrq 2 else t
  if 110 ≤ tj.toNat ∨ 65 ≤ tout.toNat then t.restarted else t

/-- THERM_WARN (R492). -/
def execThermWarn (tj tout : BitVec 8) (s : State) : Ans := .next (s.measured tj tout)
/-- THERMAL_RESET (R492). -/
def execThermalReset (tj tout : BitVec 8) (s : State) : Ans := .next (s.measured tj tout)

end Sys2Proof.Machine
end

