-- ==== Sys2Proof/Machine/Dispatch.lean ====
section
/-! DEFINITION. One arm per instruction and event: the meaning of each. -/

namespace Sys2Proof.Machine

def exec (i : Instr) (s : State) : Host.Outcome State Fault Refusal :=
  match i with
  | .add d a b => Sys2Proof.Machine.execAdd d a b s
  | .sub d a b => Sys2Proof.Machine.execSub d a b s
  | .mul d a b => Sys2Proof.Machine.execMul d a b s
  | .mulh d a b => Sys2Proof.Machine.execMulh d a b s
  | .div d a b => Sys2Proof.Machine.execDiv d a b s
  | .divu d a b => Sys2Proof.Machine.execDivu d a b s
  | .rem d a b => Sys2Proof.Machine.execRem d a b s
  | .and d a b => Sys2Proof.Machine.execAnd d a b s
  | .or d a b => Sys2Proof.Machine.execOr d a b s
  | .xor d a b => Sys2Proof.Machine.execXor d a b s
  | .sll d a b => Sys2Proof.Machine.execSll d a b s
  | .srl d a b => Sys2Proof.Machine.execSrl d a b s
  | .sra d a b => Sys2Proof.Machine.execSra d a b s
  | .min d a b => Sys2Proof.Machine.execMin d a b s
  | .max d a b => Sys2Proof.Machine.execMax d a b s
  | .clz d a => Sys2Proof.Machine.execClz d a s
  | .popc d a => Sys2Proof.Machine.execPopc d a s
  | .addi d a imm => Sys2Proof.Machine.execAddi d a imm s
  | .subi d a imm => Sys2Proof.Machine.execSubi d a imm s
  | .andi d a imm => Sys2Proof.Machine.execAndi d a imm s
  | .ori d a imm => Sys2Proof.Machine.execOri d a imm s
  | .xori d a imm => Sys2Proof.Machine.execXori d a imm s
  | .slli d a imm => Sys2Proof.Machine.execSlli d a imm s
  | .srli d a imm => Sys2Proof.Machine.execSrli d a imm s
  | .srai d a imm => Sys2Proof.Machine.execSrai d a imm s
  | .li d imm => Sys2Proof.Machine.execLi d imm s
  | .liLong d imm => Sys2Proof.Machine.execLiLong d imm s
  | .cmpeq p a b => Sys2Proof.Machine.execCmpeq p a b s
  | .cmpne p a b => Sys2Proof.Machine.execCmpne p a b s
  | .cmplt p a b => Sys2Proof.Machine.execCmplt p a b s
  | .cmple p a b => Sys2Proof.Machine.execCmple p a b s
  | .cmpltu p a b => Sys2Proof.Machine.execCmpltu p a b s
  | .cmpleu p a b => Sys2Proof.Machine.execCmpleu p a b s
  | .cmpeqImm p a imm => Sys2Proof.Machine.execCmpeqImm p a imm s
  | .cmpneImm p a imm => Sys2Proof.Machine.execCmpneImm p a imm s
  | .cmpltImm p a imm => Sys2Proof.Machine.execCmpltImm p a imm s
  | .cmpleImm p a imm => Sys2Proof.Machine.execCmpleImm p a imm s
  | .cmpltuImm p a imm => Sys2Proof.Machine.execCmpltuImm p a imm s
  | .cmpleuImm p a imm => Sys2Proof.Machine.execCmpleuImm p a imm s
  | .andp d a b => Sys2Proof.Machine.execAndp d a b s
  | .orp d a b => Sys2Proof.Machine.execOrp d a b s
  | .xorp d a b => Sys2Proof.Machine.execXorp d a b s
  | .notp d a => Sys2Proof.Machine.execNotp d a s
  | .ldb d h a u => Sys2Proof.Machine.execLdb d h a u s
  | .ldbu d h a u => Sys2Proof.Machine.execLdbu d h a u s
  | .ldh d h a u => Sys2Proof.Machine.execLdh d h a u s
  | .ldhu d h a u => Sys2Proof.Machine.execLdhu d h a u s
  | .ldw d h a u => Sys2Proof.Machine.execLdw d h a u s
  | .ldwu d h a u => Sys2Proof.Machine.execLdwu d h a u s
  | .ldd d h a u => Sys2Proof.Machine.execLdd d h a u s
  | .stb d h a u => Sys2Proof.Machine.execStb d h a u s
  | .sth d h a u => Sys2Proof.Machine.execSth d h a u s
  | .stw d h a u => Sys2Proof.Machine.execStw d h a u s
  | .std d h a u => Sys2Proof.Machine.execStd d h a u s
  | .ldbLong d h a imm => Sys2Proof.Machine.execLdbLong d h a imm s
  | .ldbuLong d h a imm => Sys2Proof.Machine.execLdbuLong d h a imm s
  | .ldhLong d h a imm => Sys2Proof.Machine.execLdhLong d h a imm s
  | .ldhuLong d h a imm => Sys2Proof.Machine.execLdhuLong d h a imm s
  | .ldwLong d h a imm => Sys2Proof.Machine.execLdwLong d h a imm s
  | .ldwuLong d h a imm => Sys2Proof.Machine.execLdwuLong d h a imm s
  | .lddLong d h a imm => Sys2Proof.Machine.execLddLong d h a imm s
  | .stbLong d h a imm => Sys2Proof.Machine.execStbLong d h a imm s
  | .sthLong d h a imm => Sys2Proof.Machine.execSthLong d h a imm s
  | .stwLong d h a imm => Sys2Proof.Machine.execStwLong d h a imm s
  | .stdLong d h a imm => Sys2Proof.Machine.execStdLong d h a imm s
  | .amo dw d h a op sc ord b => Sys2Proof.Machine.execAmo dw d h a op sc ord b s
  | .acas dw d h a sc ord b c => Sys2Proof.Machine.execAcas dw d h a sc ord b c s
  | .hq d h sel => Sys2Proof.Machine.execHq d h sel s
  | .hderive hd ha a b keep => Sys2Proof.Machine.execHderive hd ha a b keep s
  | .hoff hd ha a => Sys2Proof.Machine.execHoff hd ha a s
  | .hclear hd => Sys2Proof.Machine.execHclear hd s
  | .b line => Sys2Proof.Machine.execB line s
  | .bc p line => Sys2Proof.Machine.execBc p line s
  | .bcn p line => Sys2Proof.Machine.execBcn p line s
  | .call d line => Sys2Proof.Machine.execCall d line s
  | .callr d a => Sys2Proof.Machine.execCallr d a s
  | .ret a => Sys2Proof.Machine.execRet a s
  | .loopb mask lm1 nm1 skews => Sys2Proof.Machine.execLoopb mask lm1 nm1 skews s
  | .csrr r num => Sys2Proof.Machine.execCsrr r num s
  | .csrw r num => Sys2Proof.Machine.execCsrw r num s
  | .csrs r num => Sys2Proof.Machine.execCsrs r num s
  | .csrc r num => Sys2Proof.Machine.execCsrc r num s
  | .rddcc r => Sys2Proof.Machine.execRddcc r s
  | .dccwait r => Sys2Proof.Machine.execDccwait r s
  | .evinc e a sc rel => Sys2Proof.Machine.execEvinc e a sc rel s
  | .evincN e a sc rel b => Sys2Proof.Machine.execEvincN e a sc rel b s
  | .evwait e acq t => Sys2Proof.Machine.execEvwait e acq t s
  | .evwaitReg e acq t => Sys2Proof.Machine.execEvwaitReg e acq t s
  | .evread d e => Sys2Proof.Machine.execEvread d e s
  | .fencem mask => Sys2Proof.Machine.execFencem mask s
  | .fence sc => Sys2Proof.Machine.execFence sc s
  | .banklend bank grp => Sys2Proof.Machine.execBanklend bank grp s
  | .bankret grp => Sys2Proof.Machine.execBankret grp s
  | .tbar team a => Sys2Proof.Machine.execTbar team a s
  | .svc code => Sys2Proof.Machine.execSvc code s
  | .trap code => Sys2Proof.Machine.execTrap code s
  | .tret => Sys2Proof.Machine.execTret s
  | .halt => Sys2Proof.Machine.execHalt s
  | .nop => Sys2Proof.Machine.execNop s
  | .vadd f o => Sys2Proof.Machine.execVadd f o s
  | .vsub f o => Sys2Proof.Machine.execVsub f o s
  | .vmul f o => Sys2Proof.Machine.execVmul f o s
  | .vfma f o => Sys2Proof.Machine.execVfma f o s
  | .vmin f o => Sys2Proof.Machine.execVmin f o s
  | .vmax f o => Sys2Proof.Machine.execVmax f o s
  | .vabs f o => Sys2Proof.Machine.execVabs f o s
  | .vneg f o => Sys2Proof.Machine.execVneg f o s
  | .vdiv o => Sys2Proof.Machine.execVdiv o s
  | .vsqrt o => Sys2Proof.Machine.execVsqrt o s
  | .vcmpeq f kd o => Sys2Proof.Machine.execVcmpeq f kd o s
  | .vcmplt f kd o => Sys2Proof.Machine.execVcmplt f kd o s
  | .vcmple f kd o => Sys2Proof.Machine.execVcmple f kd o s
  | .vkand kd ka kb dp => Sys2Proof.Machine.execVkand kd ka kb dp s
  | .vkor kd ka kb dp => Sys2Proof.Machine.execVkor kd ka kb dp s
  | .vkxor kd ka kb dp => Sys2Proof.Machine.execVkxor kd ka kb dp s
  | .vknot kd ka dp => Sys2Proof.Machine.execVknot kd ka dp s
  | .vkset kd n dp => Sys2Proof.Machine.execVkset kd n dp s
  | .vkcnt ka o => Sys2Proof.Machine.execVkcnt ka o s
  | .vsel o => Sys2Proof.Machine.execVsel o s
  | .vand o => Sys2Proof.Machine.execVand o s
  | .vor o => Sys2Proof.Machine.execVor o s
  | .vxor o => Sys2Proof.Machine.execVxor o s
  | .vnot o => Sys2Proof.Machine.execVnot o s
  | .vshl o => Sys2Proof.Machine.execVshl o s
  | .vshr o => Sys2Proof.Machine.execVshr o s
  | .vsra o => Sys2Proof.Machine.execVsra o s
  | .vcvt f o => Sys2Proof.Machine.execVcvt f o s
  | .vtag f o => Sys2Proof.Machine.execVtag f o s
  | .vexp o => Sys2Proof.Machine.execVexp o s
  | .vlog o => Sys2Proof.Machine.execVlog o s
  | .vrcp o => Sys2Proof.Machine.execVrcp o s
  | .vrsqrt o => Sys2Proof.Machine.execVrsqrt o s
  | .vtanh o => Sys2Proof.Machine.execVtanh o s
  | .vsig o => Sys2Proof.Machine.execVsig o s
  | .vredsum f o => Sys2Proof.Machine.execVredsum f o s
  | .vredmax f o => Sys2Proof.Machine.execVredmax f o s
  | .vredmin f o => Sys2Proof.Machine.execVredmin f o s
  | .vscan f o => Sys2Proof.Machine.execVscan f o s
  | .vperm o => Sys2Proof.Machine.execVperm o s
  | .vbcst f d imm k dp => Sys2Proof.Machine.execVbcst f d imm k dp s
  | .vgather w o => Sys2Proof.Machine.execVgather w o s
  | .vscatter w o => Sys2Proof.Machine.execVscatter w o s
  | .vld f o => Sys2Proof.Machine.execVld f o s
  | .vst f o => Sys2Proof.Machine.execVst f o s
  | .vpsplit pc o => Sys2Proof.Machine.execVpsplit pc o s
  | .vpmerge pc o => Sys2Proof.Machine.execVpmerge pc o s
  | .vbscale f pc o => Sys2Proof.Machine.execVbscale f pc o s
  | .vmov o => Sys2Proof.Machine.execVmov o s
  | .vrnd rm dp => Sys2Proof.Machine.execVrnd rm dp s
  | .vclamp f o => Sys2Proof.Machine.execVclamp f o s
  | .viota o => Sys2Proof.Machine.execViota o s
  | .mldw f o => Sys2Proof.Machine.execMldw f o s
  | .mmul f a o => Sys2Proof.Machine.execMmul f a o s
  | .mmulq f a q pk dp => Sys2Proof.Machine.execMmulq f a q pk dp s
  | .mldwq f q dp => Sys2Proof.Machine.execMldwq f q dp s
  | .mldg o => Sys2Proof.Machine.execMldg o s
  | .mldacc a o => Sys2Proof.Machine.execMldacc a o s
  | .mpre o => Sys2Proof.Machine.execMpre o s
  | .mdrain f a q rows dp => Sys2Proof.Machine.execMdrain f a q rows dp s
  | .mdrainc f a o => Sys2Proof.Machine.execMdrainc f a o s
  | .mdrains f a pr o => Sys2Proof.Machine.execMdrains f a pr o s
  | .mdrainp a o => Sys2Proof.Machine.execMdrainp a o s
  | .mzero a dp => Sys2Proof.Machine.execMzero a dp s
  | .maccmov a b dp => Sys2Proof.Machine.execMaccmov a b dp s
  | .mscale a x dp => Sys2Proof.Machine.execMscale a x dp s
  | .mbias a x dp => Sys2Proof.Machine.execMbias a x dp s
  | .mswap a b dp => Sys2Proof.Machine.execMswap a b dp s
  | .mcfg m k n dp => Sys2Proof.Machine.execMcfg m k n dp s
  | .mrnd rm dp => Sys2Proof.Machine.execMrnd rm dp s
  | .pcopy be o => Sys2Proof.Machine.execPcopy be o s
  | .pcopy2d be rows o => Sys2Proof.Machine.execPcopy2d be rows o s
  | .pcopyd be o => Sys2Proof.Machine.execPcopyd be o s
  | .pcopyhIn o => Sys2Proof.Machine.execPcopyhIn o s
  | .pcopyhOut o => Sys2Proof.Machine.execPcopyhOut o s
  | .pover o => Sys2Proof.Machine.execPover o s
  | .pcmd o => Sys2Proof.Machine.execPcmd o s
  | .pfill o => Sys2Proof.Machine.execPfill o s
  | .ptagset o => Sys2Proof.Machine.execPtagset o s
  | .ptagchk o => Sys2Proof.Machine.execPtagchk o s
  | .pprefetch o => Sys2Proof.Machine.execPprefetch o s
  | .pevent e t a dp => Sys2Proof.Machine.execPevent e t a dp s
  | .ptab h t dp => Sys2Proof.Machine.execPtab h t dp s
  | .pcancel c dp => Sys2Proof.Machine.execPcancel c dp s
  | .pflush dp => Sys2Proof.Machine.execPflush dp s
  | .gdecl g h dp => Sys2Proof.Machine.execGdecl g h dp s
  | .gbind g e dp => Sys2Proof.Machine.execGbind g e dp s
  | .gbound g face rule dp => Sys2Proof.Machine.execGbound g face rule dp s
  | .gdepth g bm1 a dp => Sys2Proof.Machine.execGdepth g bm1 a dp s
  | .gface g face kind a dp => Sys2Proof.Machine.execGface g face kind a dp s
  | .gstep g dp => Sys2Proof.Machine.execGstep g dp s
  | .gxchg g dp => Sys2Proof.Machine.execGxchg g dp s
  | .gwait g st e dp => Sys2Proof.Machine.execGwait g st e dp s
  | .greset g dp => Sys2Proof.Machine.execGreset g dp s
  | .gfree g dp => Sys2Proof.Machine.execGfree g dp s
  | .gld f o => Sys2Proof.Machine.execGld f o s
  | .gst f o => Sys2Proof.Machine.execGst f o s
  | .sigcfg dim dep dp => Sys2Proof.Machine.execSigcfg dim dep dp s
  | .sigzero a dp => Sys2Proof.Machine.execSigzero a dp s
  | .sigseg a b dp => Sys2Proof.Machine.execSigseg a b dp s
  | .siginc f x dp => Sys2Proof.Machine.execSiginc f x dp s
  | .sigincb f h a b dp => Sys2Proof.Machine.execSigincb f h a b dp s
  | .sigjoin left h a dp => Sys2Proof.Machine.execSigjoin left h a dp s
  | .siglog dp => Sys2Proof.Machine.execSiglog dp s
  | .sigexp dp => Sys2Proof.Machine.execSigexp dp s
  | .sigld h a dp => Sys2Proof.Machine.execSigld h a dp s
  | .sigst f h a dp => Sys2Proof.Machine.execSigst f h a dp s
  | .sigdrain q lvl dp => Sys2Proof.Machine.execSigdrain q lvl dp s
  | .xst f o => Sys2Proof.Machine.execXst f o s
  | .xld f o ei => Sys2Proof.Machine.execXld f o ei s
  | .xamo dw op o => Sys2Proof.Machine.execXamo dw op o s
  | .xacas dw c o => Sys2Proof.Machine.execXacas dw c o s
  | .xevinc e pr sc rel dp => Sys2Proof.Machine.execXevinc e pr sc rel dp s
  | .xtrig ew th slot dp => Sys2Proof.Machine.execXtrig ew th slot dp s
  | .xtile ti h pr opr a dp => Sys2Proof.Machine.execXtile ti h pr opr a dp s
  | .xready ti dp => Sys2Proof.Machine.execXready ti dp s
  | .xring op ring h a b ei ew th dp => Sys2Proof.Machine.execXring op ring h a b ei ew th dp s
  | .xsched port h t dp => Sys2Proof.Machine.execXsched port h t dp s
  | .xport pr h f rm dp => Sys2Proof.Machine.execXport pr h f rm dp s
  | .xcomp hs hr kp cp ei dp => Sys2Proof.Machine.execXcomp hs hr kp cp ei dp s
  | .xresid hs hr cp ei dp => Sys2Proof.Machine.execXresid hs hr cp ei dp s
  | .xallow w a dp => Sys2Proof.Machine.execXallow w a dp s
  | .xfence w e dp => Sys2Proof.Machine.execXfence w e dp s
  | .xcoll op o => Sys2Proof.Machine.execXcoll op o s
  | .xsend h cp a ei dp => Sys2Proof.Machine.execXsend h cp a ei dp s
  | .xrecv h cp a ei dp => Sys2Proof.Machine.execXrecv h cp a ei dp s
  | .xput o => Sys2Proof.Machine.execXput o s
  | .xget o => Sys2Proof.Machine.execXget o s
  | .deliverEngineInstruction lanes => Sys2Proof.Machine.execDeliverEngineInstruction lanes s
  | .trapEntry => Sys2Proof.Machine.execTrapEntry s
  | .engineCommandComplete eng age => Sys2Proof.Machine.execEngineCommandComplete eng age s
  | .scalarStoreWritten age => Sys2Proof.Machine.execScalarStoreWritten age s
  | .fetchHoldRelease => Sys2Proof.Machine.execFetchHoldRelease s
  | .strandRetire => Sys2Proof.Machine.execStrandRetire s
  | .launchSubmit port world prio bell => Sys2Proof.Machine.execLaunchSubmit port world prio bell s
  | .gangBind launch => Sys2Proof.Machine.execGangBind launch s
  | .launchAging launch => Sys2Proof.Machine.execLaunchAging launch s
  | .dispatchReady => Sys2Proof.Machine.execDispatchReady s
  | .gangStart gang => Sys2Proof.Machine.execGangStart gang s
  | .preemption gang => Sys2Proof.Machine.execPreemption gang s
  | .imageTransferDone => Sys2Proof.Machine.execImageTransferDone s
  | .gangResume gang => Sys2Proof.Machine.execGangResume gang s
  | .gangFaultRetire gang => Sys2Proof.Machine.execGangFaultRetire gang s
  | .completionPost world => Sys2Proof.Machine.execCompletionPost world s
  | .queuePush eng => Sys2Proof.Machine.execQueuePush eng s
  | .queueReadStep eng => Sys2Proof.Machine.execQueueReadStep eng s
  | .qstallLimit eng => Sys2Proof.Machine.execQstallLimit eng s
  | .loopSkewEnd eng => Sys2Proof.Machine.execLoopSkewEnd eng s
  | .loopEndMarker eng => Sys2Proof.Machine.execLoopEndMarker eng s
  | .owedMarkerPush => Sys2Proof.Machine.execOwedMarkerPush s
  | .fenceMarkerHead eng => Sys2Proof.Machine.execFenceMarkerHead eng s
  | .replayEntry idx => Sys2Proof.Machine.execReplayEntry idx s
  | .translationWalk world va => Sys2Proof.Machine.execTranslationWalk world va s
  | .translationWaitResume age => Sys2Proof.Machine.execTranslationWaitResume age s
  | .xinv port world v => Sys2Proof.Machine.execXinv port world v s
  | .invalidationComplete world => Sys2Proof.Machine.execInvalidationComplete world s
  | .counterIncrementArrival inc => Sys2Proof.Machine.execCounterIncrementArrival inc s
  | .evwaitMet => Sys2Proof.Machine.execEvwaitMet s
  | .waitlimit => Sys2Proof.Machine.execWaitlimit s
  | .dccwaitExpiry => Sys2Proof.Machine.execDccwaitExpiry s
  | .barrierLeave gang team => Sys2Proof.Machine.execBarrierLeave gang team s
  | .svcReply => Sys2Proof.Machine.execSvcReply s
  | .svcVersionQuery => Sys2Proof.Machine.execSvcVersionQuery s
  | .svcSubmitLaunch => Sys2Proof.Machine.execSvcSubmitLaunch s
  | .svcGangState => Sys2Proof.Machine.execSvcGangState s
  | .svcUndefined => Sys2Proof.Machine.execSvcUndefined s
  | .pumpStart age => Sys2Proof.Machine.execPumpStart age s
  | .writeWindowStart age => Sys2Proof.Machine.execWriteWindowStart age s
  | .pumpEnd age => Sys2Proof.Machine.execPumpEnd age s
  | .ptabLoadEnd t => Sys2Proof.Machine.execPtabLoadEnd t s
  | .cancelAck c => Sys2Proof.Machine.execCancelAck c s
  | .haloLayerSend g face => Sys2Proof.Machine.execHaloLayerSend g face s
  | .haloLayerArrival l => Sys2Proof.Machine.execHaloLayerArrival l s
  | .haloPhaseAdvance g => Sys2Proof.Machine.execHaloPhaseAdvance g s
  | .gxchgComplete g => Sys2Proof.Machine.execGxchgComplete g s
  | .gwaitMet => Sys2Proof.Machine.execGwaitMet s
  | .stalehalo => Sys2Proof.Machine.execStalehalo s
  | .remoteWriteArrival m => Sys2Proof.Machine.execRemoteWriteArrival m s
  | .remoteAck a => Sys2Proof.Machine.execRemoteAck a s
  | .xldResponse a => Sys2Proof.Machine.execXldResponse a s
  | .xfenceRelease w => Sys2Proof.Machine.execXfenceRelease w s
  | .triggerFire => Sys2Proof.Machine.execTriggerFire s
  | .tileApply m => Sys2Proof.Machine.execTileApply m s
  | .ringComplete age others agree => Sys2Proof.Machine.execRingComplete age others agree s
  | .collectiveComplete age others agree => Sys2Proof.Machine.execCollectiveComplete age others agree s
  | .campusFrameReceive cp f => Sys2Proof.Machine.execCampusFrameReceive cp f s
  | .campusAckReceive cp stream ack nseq ncnt => Sys2Proof.Machine.execCampusAckReceive cp stream ack nseq ncnt s
  | .campusResendTimeout cp stream seq => Sys2Proof.Machine.execCampusResendTimeout cp stream seq s
  | .campusAckonly cp stream => Sys2Proof.Machine.execCampusAckonly cp stream s
  | .flitSlot port => Sys2Proof.Machine.execFlitSlot port s
  | .flitDelivery port f errs => Sys2Proof.Machine.execFlitDelivery port f errs s
  | .groupVerify port ent grp ok => Sys2Proof.Machine.execGroupVerify port ent grp ok s
  | .laneLockLoss port lane => Sys2Proof.Machine.execLaneLockLoss port lane s
  | .healthWindow port => Sys2Proof.Machine.execHealthWindow port s
  | .scheduleTableSwitch port => Sys2Proof.Machine.execScheduleTableSwitch port s
  | .portOpen port => Sys2Proof.Machine.execPortOpen port s
  | .portClose port => Sys2Proof.Machine.execPortClose port s
  | .trainComplete port locked txlat rxlat peerDev peerPort => Sys2Proof.Machine.execTrainComplete port locked txlat rxlat peerDev peerPort s
  | .attestComplete campus port ok => Sys2Proof.Machine.execAttestComplete campus port ok s
  | .keyedComplete campus port ok => Sys2Proof.Machine.execKeyedComplete campus port ok s
  | .heartbeatMiss campus port => Sys2Proof.Machine.execHeartbeatMiss campus port s
  | .linkKeySwitch campus port world => Sys2Proof.Machine.execLinkKeySwitch campus port world s
  | .campusPortOpen cp => Sys2Proof.Machine.execCampusPortOpen cp s
  | .campusPortClose cp => Sys2Proof.Machine.execCampusPortClose cp s
  | .leaseRenew port => Sys2Proof.Machine.execLeaseRenew port s
  | .leaseTake port => Sys2Proof.Machine.execLeaseTake port s
  | .leaseExpiry => Sys2Proof.Machine.execLeaseExpiry s
  | .cqheadWrite port world pos => Sys2Proof.Machine.execCqheadWrite port world pos s
  | .msixFire fn v => Sys2Proof.Machine.execMsixFire fn v s
  | .msixTimer fn v => Sys2Proof.Machine.execMsixTimer fn v s
  | .msixUnmask fn v => Sys2Proof.Machine.execMsixUnmask fn v s
  | .getVersion world => Sys2Proof.Machine.execGetVersion world s
  | .getCapabilities world => Sys2Proof.Machine.execGetCapabilities world s
  | .lockInterfaceRequest world => Sys2Proof.Machine.execLockInterfaceRequest world s
  | .getDeviceInterfaceReport world => Sys2Proof.Machine.execGetDeviceInterfaceReport world s
  | .getDeviceInterfaceState world => Sys2Proof.Machine.execGetDeviceInterfaceState world s
  | .startInterfaceRequest world => Sys2Proof.Machine.execStartInterfaceRequest world s
  | .stopInterfaceRequest world => Sys2Proof.Machine.execStopInterfaceRequest world s
  | .tdispUnsupportedMessage world code => Sys2Proof.Machine.execTdispUnsupportedMessage world code s
  | .keyProg world rx set key => Sys2Proof.Machine.execKeyProg world rx set key s
  | .kSetGo world rx set => Sys2Proof.Machine.execKSetGo world rx set s
  | .ideCompletionTimeout tag => Sys2Proof.Machine.execIdeCompletionTimeout tag s
  | .memoryWindowAccess port vf off n wr => Sys2Proof.Machine.execMemoryWindowAccess port vf off n wr s
  | .hartReset imm v => Sys2Proof.Machine.execHartReset imm v s
  | .fwctlGo port len => Sys2Proof.Machine.execFwctlGo port len s
  | .fwVerifyDone sigOk verOk version => Sys2Proof.Machine.execFwVerifyDone sigOk verOk version s
  | .fwSwap => Sys2Proof.Machine.execFwSwap s
  | .migExport world port => Sys2Proof.Machine.execMigExport world port s
  | .migAccept world port => Sys2Proof.Machine.execMigAccept world port s
  | .migResume ctl => Sys2Proof.Machine.execMigResume ctl s
  | .migDiscard ctl => Sys2Proof.Machine.execMigDiscard ctl s
  | .migrationReceipt ok => Sys2Proof.Machine.execMigrationReceipt ok s
  | .migrationConfirm => Sys2Proof.Machine.execMigrationConfirm s
  | .migrationLossNotice => Sys2Proof.Machine.execMigrationLossNotice s
  | .powerUp part => Sys2Proof.Machine.execPowerUp part s
  | .thermWarn tj tout => Sys2Proof.Machine.execThermWarn tj tout s
  | .thermalReset tj tout => Sys2Proof.Machine.execThermalReset tj tout s
  | .hrevokeGen port world gen => Sys2Proof.Machine.execHrevokeGen port world gen s
  | .hrevokeFloor port world gen => Sys2Proof.Machine.execHrevokeFloor port world gen s
  | .revocationSweepDone world => Sys2Proof.Machine.execRevocationSweepDone world s
  | .krotGo port world => Sys2Proof.Machine.execKrotGo port world s
  | .keyDrawDone world => Sys2Proof.Machine.execKeyDrawDone world s
  | .rotationLine world => Sys2Proof.Machine.execRotationLine world s
  | .departureScrub => Sys2Proof.Machine.execDepartureScrub s
  | .worldClose world => Sys2Proof.Machine.execWorldClose world s
  | .dbghalt port world gang => Sys2Proof.Machine.execDbghalt port world gang s
  | .dbgresume port world gang => Sys2Proof.Machine.execDbgresume port world gang s
  | .snapshotWindowWrite off v => Sys2Proof.Machine.execSnapshotWindowWrite off v s
  | .registerWrite port vf page off v => Sys2Proof.Machine.execRegisterWrite port vf page off v s
  | .arithmeticClockTick => Sys2Proof.Machine.execArithmeticClockTick s
  | .deviceReset => Sys2Proof.Machine.execDeviceReset s
  | .functionReset world => Sys2Proof.Machine.execFunctionReset world s
  | .peerClosed port => Sys2Proof.Machine.execPeerClosed port s
  | .slipNotice key tinfo => Sys2Proof.Machine.execSlipNotice key tinfo s
  | .hostCompletion tag port ok data => Sys2Proof.Machine.execHostCompletion tag port ok data s
  | .migrationContextArrival world sealOk image => Sys2Proof.Machine.execMigrationContextArrival world sealOk image s
  | .worldOpen world => Sys2Proof.Machine.execWorldOpen world s

end Sys2Proof.Machine
end

