-- ==== Sys2Proof/Machine/Sched.lean ====
section
/-! DEFINITION. What moves next. The agenda holds the moves chosen for a cycle; when it is empty, the parts of the next cycle
are put there, in one fixed order that ends with the tick of the clock, and when the turn of a part comes, every move of it that
may be possible. A move that is not possible when its turn comes leaves the state as it is. Inputs from outside the device are
never chosen here: they come as agenda entries. -/

namespace Sys2Proof.Machine

/-! ## Making a move -/

/-- The most commands of one engine, and of all, in flight (R137). -/
def flightsOf (c : Ctx) (e : Engine) : Nat := (c.fl.filter (fun f => f.src = Config.engIdx e)).length

/-- The range checker and its limits hold the issue of an instruction (R137, R142): of the pump's only ptab's, since they hold the start of
the others, from the buffer (R141, R285). -/
def checkedAtIssue (e : Engine) : Instr → Bool
  | .ptab _ _ _ => true
  | _ => e ≠ .pump

/-- The head waits for a queue register: nothing behind it issues in the cycle in which it goes on (R142, R157). -/
def Eng.queued (x : Eng) : Bool := !x.pushes.isEmpty || (match x.stall with | .read _ | .push _ => true | _ => false)

/-- The head of an engine may issue (R137, R142, R144, R285): the context runs, the engine is not frozen and makes no push or
read, the range checker lets it go, and the signature engine's previous instruction has completed (R356). [DESIGN CHOICE, log 6] -/
def State.mayIssue (s : State) (e : Engine) (c : Cap) : Bool :=
  let x := s.eng e
  s.ctx.phase = .running && !x.frozen && !x.queued
    && (e ≠ .signature || flightsOf s.ctx e = 0) && (e ≠ .fabric || !s.fabHeld c)
    && (x.latched || !checkedAtIssue e c.instr || (decide (s.ctx.fl.length + s.ctx.pump.fly.length < 128 ∧ flightsOf s.ctx e < 16)
      && !s.rangeHeld (some e) c.age (s.ranges c) (skipsPump c.instr)))

/-- TINFO of ILLEGAL for a queue entry: the reason and the lane that fetch would give, an instruction of another engine being no opcode
of this one (R11). [DESIGN CHOICE, log 50] -/
def illegalInfo (c : Cap) : Word :=
  match decodeLanes c.lanes with
  | .bad reason lane => word (reason * 8 + c.lane + lane)
  | _ => word (8 + c.lane)

/-- The instruction that an engine of the moving context issues next, if any; waiting fabric commands try to start
first (R456, R466 to R471). An entry whose lanes hold no instruction of the engine, after a debugger's write, raises ILLEGAL in its turn
(R11). [DESIGN CHOICE, log 6; DESIGN CHOICE, log 50] -/
def State.issueNext (s : State) (e : Engine) : State × Option Instr :=
  let t := if e = .fabric ∧ s.ctx.phase = .running then s.startWaiting else s
  match (t.eng e).head with
  | none => (t, none)
  | some (c, _) =>
    if t.mayIssue e c then
      let u := { t with iss := c }
      if engineOf c.instr = some e then (u, some c.instr) else (u.freeze e tILLEGAL (illegalInfo c), none)
    else (t, none)

/-- An event that the device brings about. [DESIGN CHOICE, log 1; DEDUCED, log 77] -/
def Auto.perform (s : State) : Auto → Ans
  | .queuePush e => execQueuePush e s
  | .qstallLimit e => execQstallLimit e s
  | .queueReadStep e => execQueueReadStep e s
  | .loopSkewEnd e => execLoopSkewEnd e s
  | .loopEndMarker e => execLoopEndMarker e s
  | .fenceMarkerHead e => execFenceMarkerHead e s
  | .gwaitMet => execGwaitMet s
  | .stalehalo => execStalehalo s
  | .pumpStart age => execPumpStart age s
  | .writeWindowStart age => execWriteWindowStart age s
  | .pumpEnd age => execPumpEnd age s
  | .ptabLoadEnd t => execPtabLoadEnd t s
  | .cancelAck c => execCancelAck c s
  | .haloLayerSend g face => execHaloLayerSend g face s
  | .haloPhaseAdvance g => execHaloPhaseAdvance g s
  | .gxchgComplete g => execGxchgComplete g s
  | .slipNotice key ti => execSlipNotice key ti s
  | .haloLayerArrival l => execHaloLayerArrival l s
  | .triggerFire => execTriggerFire s
  | .xfenceRelease w => execXfenceRelease w s
  | .ringComplete age => execRingComplete age [] true s
  | .collectiveComplete age => execCollectiveComplete age [] true s
  | .trapEntry => execTrapEntry s
  | .owedMarkerPush => execOwedMarkerPush s
  | .strandRetire => execStrandRetire s
  | .fetchHoldRelease => execFetchHoldRelease s
  | .evwaitMet => execEvwaitMet s
  | .waitlimit => execWaitlimit s
  | .dccwaitExpiry => execDccwaitExpiry s
  | .svcVersionQuery => execSvcVersionQuery s
  | .svcSubmitLaunch => execSvcSubmitLaunch s
  | .svcGangState => execSvcGangState s
  | .svcUndefined => execSvcUndefined s
  | .svcReply => execSvcReply s
  | .engineCommandComplete e age => execEngineCommandComplete e age s
  | .scalarStoreWritten age => execScalarStoreWritten age s
  | .translationWaitResume age => execTranslationWaitResume age s
  | .replayEntry idx => execReplayEntry idx s
  | .dispatchReady => execDispatchReady s
  | .imageTransferDone => execImageTransferDone s
  | .departureScrub => execDepartureScrub s
  | .remoteWriteArrival m => execRemoteWriteArrival m s
  | .tileApply m => execTileApply m s
  | .remoteAck a => execRemoteAck a s
  | .xldResponse a => execXldResponse a s
  | .counterIncrementArrival inc => execCounterIncrementArrival inc s
  | .gangFaultRetire gang => execGangFaultRetire gang s
  | .preemption gang => execPreemption gang s
  | .gangStart gang => execGangStart gang s
  | .gangResume gang => execGangResume gang s
  | .barrierLeave gang team => execBarrierLeave gang team s
  | .launchAging launch => execLaunchAging launch s
  | .gangBind launch => execGangBind launch s
  | .msixFire fn v => execMsixFire fn v s
  | .msixTimer fn v => execMsixTimer fn v s
  | .completionPost world => execCompletionPost world s
  | .invalidationComplete world => execInvalidationComplete world s
  | .revocationSweepDone world => execRevocationSweepDone world s
  | .keyDrawDone world => execKeyDrawDone world s
  | .rotationLine world => execRotationLine world s
  | .worldClose world => execWorldClose world s
  | .healthWindow port => execHealthWindow port s
  | .scheduleTableSwitch port => execScheduleTableSwitch port s
  | .flitSlot port => execFlitSlot port s
  | .campusResendTimeout cp stream seq => execCampusResendTimeout cp stream seq s
  | .campusAckonly cp stream => execCampusAckonly cp stream s
  | .hostCompletion tag port data => execHostCompletion tag port true data s
  | .leaseExpiry => execLeaseExpiry s
  | .fwSwap => execFwSwap s
  | .migStep => .next s.migStep
  | .arithmeticClockTick => execArithmeticClockTick s

/-! ## Choosing -/

/-- The moves of one engine of a context. -/
def engMoves (c : Ctx) (k : Nat) (e : Engine) : List Move :=
  let x := c.engAt e
  (if x.pushes.isEmpty then [] else [.auto k (.queuePush e), .auto k (.qstallLimit e)])
    ++ (match x.stall with
      | .read _ => [.auto k (.queueReadStep e), .auto k (.qstallLimit e)]
      | .halo _ _ => [.auto k .gwaitMet]
      | _ => [])
    ++ (match (if x.slots.isEmpty then x.q else []) with
      | .loopMark _ _ _ :: _ => [.auto k (.loopSkewEnd e)]
      | .endMark _ :: _ => [.auto k (.loopEndMarker e)]
      | .fenceMark _ :: _ => [.auto k (.fenceMarkerHead e)]
      | _ => [])
    ++ (if (x.head.isSome ∧ !x.queued) ∨ (e = .fabric ∧ c.fab.cmds.any (fun y => !y.started)) then [.issue k e] else [])
    ++ (match x.stall with | .halo _ _ => [.auto k .stalehalo] | _ => [])

/-- What ends in a context's pump. -/
def pumpMoves (c : Ctx) (k : Nat) : List Move :=
  c.pump.fly.flatMap (fun x => [.auto k (.writeWindowStart x.cap.age), .auto k (.pumpEnd x.cap.age)])
    ++ c.pump.tabs.map (fun t => .auto k (.ptabLoadEnd (BitVec.ofNat 4 t.1)))
    ++ c.pump.cancels.map (fun x => .auto k (.cancelAck (BitVec.ofNat 4 x.1)))

/-- The moves of a context's exchanges: a phase begins, and its layers are sent, in the cycle in which the ghost layers of the phase before
it hold the step (R322, R325). -/
def gridMoves (c : Ctx) (k : Nat) : List Move :=
  c.grids.flatMap (fun e =>
    match e.2 with
    | some r =>
      let g := BitVec.ofNat 4 e.1
      if r.phase = 0 then []
      else [.auto k (.haloPhaseAdvance g), .auto k (.haloPhaseAdvance g)]
        ++ (List.range 6).map (fun f => .auto k (.haloLayerSend g (faceOf f))) ++ [.auto k (.gxchgComplete g)]
    | none => [])

/-- What goes on and ends among a context's fabric commands. -/
def fabMoves (c : Ctx) (k : Nat) : List Move :=
  c.fab.fences.map (fun f => .auto k (.xfenceRelease f.w))
    ++ c.fab.cmds.filterMap (fun x =>
      match x.what with
      | .ring => some (.auto k (.ringComplete x.cap.age))
      | .coll _ _ _ => some (.auto k (.collectiveComplete x.cap.age))
      | _ => none)

/-- The move that a hold of the control stream, or fetch, waits for. -/
def ctlMoves (c : Ctx) (k : Nat) : List Move :=
  (if c.pending.isSome then [.auto k .trapEntry] else [])
    ++ (if c.lp.owed = 0 then [] else [.auto k .owedMarkerPush])
    ++ (match c.ctl.fetch with
      | .halted => [.auto k .strandRetire]
      | .stopped => []
      | .run =>
        match c.ctl.hold with
        | .none | .writes => [.fetch k]
        | .queue _ | .marks _ _ _ _ => [.auto k .fetchHoldRelease]
        | .evwait _ _ _ => [.auto k .evwaitMet, .auto k .waitlimit]
        | .dccwait _ => [.auto k .dccwaitExpiry]
        | .svc code _ => (match code.toNat with
          | 0 => [.auto k .svcVersionQuery]
          | 1 => [.auto k .svcSubmitLaunch]
          | 2 => [.auto k .svcGangState]
          | _ => [.auto k .svcUndefined])
        | .reply _ _ => [.auto k .svcReply]
        | .tbar _ _ _ | .parked _ => [])

/-- The writes in flight and parked writes of a context. -/
def writeMoves (c : Ctx) (k : Nat) : List Move :=
  c.fl.map (fun f =>
    if f.wait.isEmpty then
      (match Config.engines[f.src]? with
        | some e => .auto k (.engineCommandComplete e f.age)
        | none => .auto k (.scalarStoreWritten f.age))
    else .auto k (.translationWaitResume f.age))
    ++ (List.range c.rq.length).map (fun i => .auto k (.replayEntry i))

/-- What is in progress in a context and may end in a cycle. -/
def endMoves (k : Nat) (c : Ctx) : List Move := writeMoves c k ++ gridMoves c k ++ pumpMoves c k ++ fabMoves c k

/-- What waits in a context for a cycle or for a counter, and may start: what ends in the same cycle it sees (R270, R284, R286). -/
def startMoves (c : Ctx) (k : Nat) : List Move :=
  c.pump.buf.map (fun x => .auto k (.pumpStart x.cap.age)) ++ (if c.fab.trigs.isEmpty then [] else [.auto k .triggerFire])

/-- A context's control stream and engines, or the step that its phase waits for. -/
def workMoves (c : Ctx) (k : Nat) : List Move :=
  match c.phase with
  | .running => ctlMoves c k ++ Config.engines.flatMap (engMoves c k)
  | .loading => [.auto k .dispatchReady]
  | .saving | .out | .restoring => [.auto k .imageTransferDone]
  | .departing => [.auto k .departureScrub]
  | .off | .ready | .restored => []

/-- The answer that a transfer from another device stands for. -/
def ackOfGot (dev : BitVec 9) (g : Got) : Ack :=
  { dst := dev, gang := BitVec.ofNat 16 g.toGang, strand := BitVec.ofNat 16 g.toStrand, txn := g.txn, ok := !bit g.arg 0
    reason := BitVec.ofNat 4 (g.arg / 4 % 16), dev := BitVec.ofNat 9 g.dev, off := BitVec.ofNat 48 g.off, wrote := bit g.arg 1
    fmt := Config.fmtOfCode (g.arg / 64), data := g.data, due := 0 }

/-- The event of a message. -/
def msgMove (m : Msg) : Move := .auto 0 (match m.op with | .tile _ => .tileApply m | _ => .remoteWriteArrival m)
/-- The events of an answer: those of the other kind leave the state as it is. -/
def ackMoves (a : Ack) : List Move := [.auto 0 (.remoteAck a), .auto 0 (.xldResponse a)]

/-- What travels between strands and devices. -/
def State.netMoves (s : State) : List Move :=
  s.incrs.map (fun i => .auto 0 (.counterIncrementArrival i))
    ++ s.net.map msgMove ++ s.acks.flatMap ackMoves
    ++ s.rx.flatMap (fun g =>
      if g.op = opSLIP then [.auto 0 (.slipNotice ((s.keyOf g.toGang g.toStrand).getD 65536) (word g.data))]
      else if g.op = opLAYER then [.auto 0 (.haloLayerArrival (layerOfGot s.dev.num g))]
      else if g.op = 5 ∨ g.op = 8 then ackMoves (ackOfGot s.dev.num g) else ((msgOfGot s.dev.num g).map msgMove).toList)
    ++ s.layers.map (fun l => .auto 0 (.haloLayerArrival l))

/-- Gangs that start, resume or leave a barrier, and process an instruction in this cycle (R221, R226, R375). -/
def State.goMoves (s : State) : List Move :=
  s.gangs.flatMap (fun e =>
    match e.2 with
    | none => []
    | some g =>
      (if g.running then [] else [.auto 0 (.gangStart e.1), .auto 0 (.gangResume e.1)])
        ++ g.bars.map (fun b => .auto 0 (.barrierLeave e.1 b.1)))

/-- Gangs that end or stop at the end of this cycle (R223, R373), and launches. -/
def State.gangMoves (s : State) : List Move :=
  s.gangs.flatMap (fun e =>
    match e.2 with
    | none => []
    | some g =>
      (if g.trap.isSome then [.auto 0 (.gangFaultRetire e.1)] else [])
        ++ (if g.running then [.auto 0 (.preemption e.1)] else []))
    ++ s.launches.flatMap (fun l => [.auto 0 (.launchAging l.id), .auto 0 (.gangBind l.id)])

/-- Vectors with events to send. -/
def vecMoves (fn : Nat) (v : SMap Msix) : List Move :=
  v.flatMap (fun e => if e.2.e = 0 then [] else [.auto 0 (.msixFire fn e.1), .auto 0 (.msixTimer fn e.1)])

/-- Worlds. -/
def State.worldMoves (s : State) : List Move :=
  s.worlds.flatMap (fun e =>
    let w := e.2
    (if w.kept.isEmpty then [] else [.auto 0 (.completionPost e.1)])
      ++ (if w.x.inv.isSome then [.auto 0 (.invalidationComplete e.1)] else [])
      ++ (if w.g.hbusy then [.auto 0 (.revocationSweepDone e.1)] else [])
      ++ (if w.g.rot then [.auto 0 (.keyDrawDone e.1), .auto 0 (.rotationLine e.1)] else [])
      ++ (if w.closing then [.auto 0 (.worldClose e.1)] else [])
      ++ vecMoves e.1 w.vec)

/-- Ports. -/
def State.portMoves (s : State) : List Move :=
  s.ports.flatMap (fun e =>
    let p := BitVec.ofNat 4 e.1
    [.auto 0 (.healthWindow p), .auto 0 (.scheduleTableSwitch p), .auto 0 (.flitSlot p)])
    ++ s.campus.flatMap (fun e =>
      let q := BitVec.ofNat 2 e.1
      e.2.buf.map (fun r => .auto 0 (.campusResendTimeout q r.f.stream r.f.seq))
        ++ e.2.rx.map (fun x => .auto 0 (.campusAckonly q (BitVec.ofNat 16 x.1))))

/-- Host reads: the host that answers is the host memory that the state holds. [DESIGN CHOICE, log 62] -/
def State.hostMoves (s : State) : List Move :=
  s.dev.reqs.filterMap (fun r =>
    if r.due.toNat ≤ s.dcc.toNat then some (.auto 0 (.hostCompletion r.tag r.port (readRuns s.mem r.runs))) else none)

/-- The device page. -/
def State.devMoves (s : State) : List Move :=
  (if s.dev.expired then [] else [.auto 0 .leaseExpiry])
    ++ (if s.dev.fw.state = 2 then [.auto 0 .fwSwap] else [])
    ++ (if s.dev.mig.state = 1 ∨ s.dev.mig.placed ∨ s.dev.mig.notice.isSome then [.auto 0 .migStep] else [])
    ++ vecMoves 192 s.dev.vec

/-- The moves of a part of the cycle: what arrives and goes on; what ends; what then starts; what control streams and engines do; what
stops and what the rest of the device does. [DESIGN CHOICE, log 1] -/
def State.planned (s : State) : Nat → List Move
  | 0 => s.netMoves ++ s.goMoves ++ s.hostMoves
  | 1 => s.ctxs.flatMap (fun e => endMoves e.1 e.2)
  | 2 => s.ctxs.flatMap (fun e => startMoves e.2 e.1)
  | 3 => s.ctxs.flatMap (fun e => workMoves e.2 e.1)
  | _ => s.gangMoves ++ s.worldMoves ++ s.portMoves ++ s.devMoves

/-! ## The next move -/

/-- What a move other than an event of the device does first, and the instruction or event to execute then. An engine instruction that fetch finds is
delivered; a control instruction is executed. [DESIGN CHOICE, log 1] -/
def State.act (s : State) : Move → State × Option Instr
  | .fetch k =>
    match { s with cur := k }.fetchNext with
    | (t, none) => (t, none)
    | (t, some (i, lanes)) => (t, some (if (engineOf i).isSome then .deliverEngineInstruction lanes else i))
  | .issue k e => { s with cur := k }.issueNext e
  | .auto _ _ => (s, none)
  | .event k i => ({ s with cur := k }, some i)
  | .plan n => ({ s with agenda := s.planned n ++ s.agenda }, none)

/-- The agenda of the next cycle chosen. [DESIGN CHOICE, log 1; DESIGN CHOICE, log 5] -/
def State.choose (s : State) : State := { s with agenda := [.plan 0, .plan 1, .plan 2, .plan 3, .plan 4, .auto 0 .arithmeticClockTick] }

end Sys2Proof.Machine
end

