-- ==== Sys2Proof/Machine/Step.lean ====
section
/-! DEFINITION. The step: the next move of the agenda, or the choice of a new agenda; and an instruction put where the next
step finds it. -/

namespace Sys2Proof.Machine

/-- One step. [DESIGN CHOICE, log 1; DESIGN CHOICE, log 5] -/
def step (s : State) : Host.Outcome State Fault Refusal :=
  match s.agenda with
  | [] => .next s.choose
  | .auto k a :: r => a.perform { s with agenda := r, cur := k }
  | m :: r =>
    match { s with agenda := r }.act m with
    | (t, none) => .next t
    | (t, some i) => exec i t

/-- The code handle of a program of one line. -/
def codeHandle : Handle :=
  { level := 1, base := 0, len := 32, gen := 0xFFFFFFFF, sync := none, pc := 0, fmt := .untyped, world := 0, rights := 4
    geo0 := 0, geo1 := 0, w5 := 0, w6 := 0, mac := 0 }

/-- A control instruction's lanes in line 0 of slot 0 of core 0, whose context fetches there. [DESIGN CHOICE, log 5] -/
def State.placeControl (s : State) (v : Nat) : State :=
  let c := s.ctxAt 0
  { s.setAt 0 { c with
      phase := .running, lp := .reset
      ctl := { c.ctl with fetch := .run, line := 0, lane := 0, hold := .none, held := 0, h := SMap.set none c.ctl.h 0 (some codeHandle) } } with
    mem := s.mem.write Config.imemBase 32 v, agenda := [.fetch 0] }

/-- An engine instruction as delivered, at the head of its queue, to be issued. [DESIGN CHOICE, log 5] -/
def State.placeEngine (s : State) (i : Instr) (e : Engine) (lanes : List Lane) : State :=
  let t := { s with cur := 0 }
  let c := t.ctx
  { t.setCtx (({ c with phase := .running }).setEng e { Eng.reset with q := [.instr (t.capture i lanes 0) true] }) with
    agenda := [.issue 0 e] }

/-- The state with an instruction placed so that the very next step runs it. [DESIGN CHOICE, log 5] -/
def State.withFetchWord (s : State) (nbits w : Nat) : State :=
  let v := w % 2 ^ nbits
  let lanes := lanesOfNat v
  match decodeLanes lanes with
  | .ok i n =>
    match engineOf i with
    | some e => s.placeEngine i e (lanes.take n)
    | none => s.placeControl v
  | _ => s.placeControl v

end Sys2Proof.Machine
end

