-- ==== Sys2Proof/Safety.lean ====
section
/-! DEFINITION. What claims are stated in: a run that stops nowhere, and what a control instruction leaves alone. -/

namespace Sys2Proof

open Sys2Proof.Machine

/-- n steps from a state all answer a next state. -/
def safeFor : Nat → Machine.State → Prop
  | 0, _ => True
  | n + 1, s => ∃ t, Machine.step s = .next t ∧ safeFor n t

/-- Memory in its canonical form. -/
def MemCanonical (s : State) : Prop := Mem.wf s.mem = true

/-- Nothing but contexts changed, and of these only the moving one. -/
def OnlyMoving (s t : State) : Prop :=
  t = { s with ctxs := t.ctxs } ∧ ∀ k, k ≠ s.cur → t.ctxAt k = s.ctxAt k

/-- Nothing but the moving context's control stream, loop delivery and instruction queues changed. -/
def OnlyControl (s t : State) : Prop :=
  OnlyMoving s t ∧ t.ctx = { s.ctx with ctl := t.ctx.ctl, lp := t.ctx.lp, eng := t.ctx.eng }

/-- Loop delivery and the queues are as before; where delivery closes, end markers are pushed or owed (R87, R89). -/
def LoopKept (s t : State) (closes : Bool) : Prop :=
  (closes = false → t.ctx.lp = s.ctx.lp ∧ t.ctx.eng = s.ctx.eng) ∧
  (closes = true → t.ctx.lp.open_ = false ∧
    ∀ e, ∃ n, t.ctx.engAt e =
      { s.ctx.engAt e with q := (s.ctx.engAt e).q ++ List.replicate n (.endMark t.ctx.lp.endAge) })

/-- Going to a line leaves the covered lines while loop delivery is open (R87). -/
def leavesLoop (s : State) (line : Nat) : Bool := s.ctx.lp.open_ && decide (s.ctx.lp.last < line)

/-- The instruction has completed and its control stream stands at a place, free of any hold; of everything else only
scalars, predicates, handle slots, counters and the cycles taken may differ. -/
def MovesTo (s t : State) (line lane : Nat) (closes : Bool) : Prop :=
  OnlyControl s t ∧ LoopKept s t closes ∧
  t.ctx.ctl = { s.ctx.ctl with
    line := line, lane := lane, hold := .none, held := 0
    s := t.ctx.ctl.s, p := t.ctx.ctl.p, h := t.ctx.ctl.h, e := t.ctx.ctl.e, due := t.ctx.ctl.due
    nline := t.ctx.ctl.nline, nlane := t.ctx.ctl.nlane, acquired := t.ctx.ctl.acquired, nextAge := t.ctx.ctl.nextAge
    late := t.ctx.ctl.late }

/-- The control stream goes on to the next instruction (R27, R87). -/
def MovesOn (s t : State) : Prop :=
  MovesTo s t s.ctx.ctl.nline s.ctx.ctl.nlane (leavesLoop s s.ctx.ctl.nline)

/-- Scalars, but the one given, keep their values; s0 stays zero (R18, R66). -/
def ScalarsBut (s t : State) (d : BitVec 5) (v : Word) : Prop :=
  ∀ r, t.getS r = if r = d ∧ r ≠ 0 then v else s.getS r

/-- Predicates, but the one given, keep their values; p0 stays true (R18, R66). -/
def PredicatesBut (s t : State) (d : BitVec 3) (v : Bool) : Prop :=
  ∀ r, t.ctx.ctl.getP r = if r = d ∧ r ≠ 0 then v else s.ctx.ctl.getP r

end Sys2Proof
end

