-- ==== Sys2Proof/Certificates/Slice0/Obligations.lean ====
section
/-! DEFINITION. The statements about the machine, grouped by the chapters of the spec: words and decoding, the control
stream, scalar memory, the engines, and the events that the device and the outside bring about. -/

namespace Sys2Proof.Claim

open Sys2Proof.Machine

/-! ## The control stream -/

/-- The destination and the value of an arithmetic instruction (R67 to R70). -/
def scalarResult (s : State) : Instr → Option (BitVec 5 × Word)
  | .add d a b => some (d, s.getS a + s.getS b)
  | .sub d a b => some (d, s.getS a - s.getS b)
  | .mul d a b => some (d, s.getS a * s.getS b)
  | .mulh d a b => some (d, BitVec.ofInt 64 ((s.getS a).toInt * (s.getS b).toInt / 2 ^ 64))
  | .div d a b =>
    some (d, if s.getS b = 0 then BitVec.ofInt 64 (-1) else BitVec.ofInt 64 ((s.getS a).toInt.tdiv (s.getS b).toInt))
  | .divu d a b =>
    some (d, if s.getS b = 0 then BitVec.ofNat 64 (2 ^ 64 - 1) else BitVec.ofNat 64 ((s.getS a).toNat / (s.getS b).toNat))
  | .rem d a b =>
    some (d, if s.getS b = 0 then s.getS a
      else BitVec.ofInt 64 ((s.getS a).toInt - (s.getS b).toInt * (s.getS a).toInt.tdiv (s.getS b).toInt))
  | .and d a b => some (d, s.getS a &&& s.getS b)
  | .or d a b => some (d, s.getS a ||| s.getS b)
  | .xor d a b => some (d, s.getS a ^^^ s.getS b)
  | .sll d a b => some (d, s.getS a <<< ((s.getS b).toNat % 64))
  | .srl d a b => some (d, s.getS a >>> ((s.getS b).toNat % 64))
  | .sra d a b => some (d, (s.getS a).sshiftRight ((s.getS b).toNat % 64))
  | .min d a b => some (d, if (s.getS a).toInt ≤ (s.getS b).toInt then s.getS a else s.getS b)
  | .max d a b => some (d, if (s.getS a).toInt ≤ (s.getS b).toInt then s.getS b else s.getS a)
  | .clz d a => some (d, BitVec.ofNat 64 (if s.getS a = 0 then 64 else 63 - Nat.log2 (s.getS a).toNat))
  | .popc d a => some (d, BitVec.ofNat 64 ((List.range 64).countP (fun j => (s.getS a).getLsbD j)))
  | .addi d a i => some (d, s.getS a + i.signExtend 64)
  | .subi d a i => some (d, s.getS a - i.signExtend 64)
  | .andi d a i => some (d, s.getS a &&& i.signExtend 64)
  | .ori d a i => some (d, s.getS a ||| i.signExtend 64)
  | .xori d a i => some (d, s.getS a ^^^ i.signExtend 64)
  | .slli d a i => if i.toNat < 64 then some (d, s.getS a <<< i.toNat) else none
  | .srli d a i => if i.toNat < 64 then some (d, s.getS a >>> i.toNat) else none
  | .srai d a i => if i.toNat < 64 then some (d, (s.getS a).sshiftRight i.toNat) else none
  | .li d i => some (d, i.signExtend 64)
  | .liLong d i => some (d, i)
  | _ => none

/-- The occupancy of an arithmetic instruction where it is more than one cycle (R98). -/
def occupancy : Instr → Option Nat
  | .mul _ _ _ => some 3
  | .mulh _ _ _ => some 4
  | .div _ _ _ | .divu _ _ _ | .rem _ _ _ => some 34
  | _ => none

/-- The destination and the value of a compare or of predicate logic (R71, R72). -/
def predicateResult (s : State) : Instr → Option (BitVec 3 × Bool)
  | .cmpeq p a b => some (p, s.getS a = s.getS b)
  | .cmpne p a b => some (p, s.getS a ≠ s.getS b)
  | .cmplt p a b => some (p, (s.getS a).toInt < (s.getS b).toInt)
  | .cmple p a b => some (p, (s.getS a).toInt ≤ (s.getS b).toInt)
  | .cmpltu p a b => some (p, (s.getS a).toNat < (s.getS b).toNat)
  | .cmpleu p a b => some (p, (s.getS a).toNat ≤ (s.getS b).toNat)
  | .cmpeqImm p a i => some (p, s.getS a = i.signExtend 64)
  | .cmpneImm p a i => some (p, s.getS a ≠ i.signExtend 64)
  | .cmpltImm p a i => some (p, (s.getS a).toInt < i.toInt)
  | .cmpleImm p a i => some (p, (s.getS a).toInt ≤ i.toInt)
  | .cmpltuImm p a i => some (p, (s.getS a).toNat < (i.signExtend 64).toNat)
  | .cmpleuImm p a i => some (p, (s.getS a).toNat ≤ (i.signExtend 64).toNat)
  | .andp d a b => some (d, s.ctx.ctl.getP a && s.ctx.ctl.getP b)
  | .orp d a b => some (d, s.ctx.ctl.getP a || s.ctx.ctl.getP b)
  | .xorp d a b => some (d, s.ctx.ctl.getP a != s.ctx.ctl.getP b)
  | .notp d a => some (d, !s.ctx.ctl.getP a)
  | _ => none

/-- A taken transfer: the scalar that receives the link, and the line offset that control goes to (R83, R84). -/
def transfer (s : State) : Instr → Option (BitVec 5 × Nat)
  | .b line => some (0, 32 * line.toNat)
  | .bc p line => if s.ctx.ctl.getP p then some (0, 32 * line.toNat) else none
  | .bcn p line => if s.ctx.ctl.getP p then none else some (0, 32 * line.toNat)
  | .call d line => some (d, 32 * line.toNat)
  | .callr d a => if (s.getS a).toNat % 32 = 0 ∧ (s.getS a).toNat < 2 ^ 18 then some (d, (s.getS a).toNat) else none
  | .ret a => if (s.getS a).toNat % 32 = 0 ∧ (s.getS a).toNat < 2 ^ 18 then some (0, (s.getS a).toNat) else none
  | _ => none

/-- A branch that is not taken (R83). -/
def notTaken (s : State) : Instr → Bool
  | .bc p _ => !s.ctx.ctl.getP p
  | .bcn p _ => s.ctx.ctl.getP p
  | _ => false

/-- The slot, the record that a handle instruction writes into it, and its occupancy (R78 to R80): the record in terms of its source. -/
def derivedRecord (s : State) : Instr → Option (BitVec 6 × Option Handle × Nat)
  | .hderive hd ha a b keep =>
    match s.slot ha with
    | some r =>
      let off := (s.getS a).toNat
      let len := (s.getS b).toNat
      if r.has rDV ∧ len ≠ 0 ∧ off + len ≤ r.len.toNat ∧ off % 32 = 0 then
        some (hd, some (s.sealed { r with
          base := BitVec.ofNat 57 (r.base.toNat + off), len := BitVec.ofNat 48 len
          rights := r.rights &&& keep.setWidth 8, w6 := r.w6 ||| 1 }), 4)
      else none
    | none => none
  | .hoff hd ha a =>
    match s.slot ha with
    | some r =>
      let off := (s.getS a).toNat
      if r.has rDV ∧ off < r.len.toNat ∧ off % 32 = 0 then
        some (hd, some (s.sealed { r with
          base := BitVec.ofNat 57 (r.base.toNat + off), len := BitVec.ofNat 48 (r.len.toNat - off), w6 := r.w6 ||| 1 }), 2)
      else none
    | none => none
  | .hclear hd => some (hd, none, 1)
  | _ => none

/-- What `hq` reads of a slot (R77): 0 of an empty or revoked one. -/
def property (h : Option Handle) (sel : Nat) : Word :=
  match h with
  | none => 0
  | some r =>
    match sel with
    | 0 => r.len.setWidth 64
    | 1 => r.rights.setWidth 64
    | 2 => word (r.pc.toNat * 16 + Config.fmtCode r.fmt)
    | 3 => r.geo0
    | 4 => r.geo1
    | 5 => match r.sync with | some n => word (64 + n.toNat) | none => 0
    | _ => r.gen.setWidth 64

/-- The registers that a program may read and write, with the mask of their RW bits (R34, R36, R91, R136, R278, R315, R339). -/
def rwMask : Nat → Nat
  | 0x001 => 0x3FFE1
  | 0x002 => 0x7FFE0
  | 0x003 => 0xF
  | 0x004 => 0xFF
  | 0x005 => 2 ^ 64 - 1
  | 0x006 => 0xFE
  | 0x007 => 2 ^ 58
  | 0x008 | 0x009 | 0x00A | 0x00B => 2 ^ 64 - 1
  | 0x030 | 0x034 | 0x03C => 2 ^ 32 - 1
  | 0x038 => 1
  | _ => 0

/-- The mask of the bits of a register that a written 1 clears. -/
def w1cMask : Nat → Nat
  | 0x036 => 2 ^ 32
  | 0x039 => 3
  | 0x03A => 0xFFFFFFFF * 2 ^ 16
  | _ => 0

/-- What a register reads after a write of RW bits `v` and of ones `c` to its W1C bits (R6, R91). -/
def written (n : Nat) (old v c : Word) : Word :=
  ((old &&& ~~~(word (rwMask n))) ||| (v &&& word (rwMask n))) &&& ~~~(c &&& word (w1cMask n))

/-- The register that a write names and what it reads afterwards (R91). -/
def csrAfter (s : State) : Instr → Option (Nat × Word)
  | .csrw r num => some (num.toNat, written num.toNat (csrRead s num.toNat) (s.getS r) (s.getS r))
  | .csrs r num => some (num.toNat, written num.toNat (csrRead s num.toNat) (csrRead s num.toNat ||| s.getS r) (s.getS r))
  | .csrc r num => some (num.toNat, written num.toNat (csrRead s num.toNat) (csrRead s num.toNat &&& ~~~(s.getS r)) 0)
  | _ => none

/-- What an instruction that reads into a scalar gives (R77, R91, R92, R273). -/
def readResult (s : State) : Instr → Option (BitVec 5 × Word)
  | .hq d h sel => some (d, property (s.slot h) sel.toNat)
  | .csrr r num => some (r, csrRead s num.toNat)
  | .rddcc r => some (r, s.dcc)
  | .evread d e => some (d, (s.ctx.ctl.getE e).setWidth 64)
  | _ => none

/-- The registers other than scalars are as before. -/
def OthersKept (s t : State) : Prop :=
  t.ctx.ctl.p = s.ctx.ctl.p ∧ t.ctx.ctl.h = s.ctx.ctl.h ∧ t.ctx.ctl.e = s.ctx.ctl.e

end Sys2Proof.Claim

open Sys2Proof Sys2Proof.Machine Sys2Proof.Claim

/-- R67 to R72: arithmetic, compares and predicate logic give their destination its value. R67 to R70, R66, R98: an arithmetic
instruction sets s[D] to the value its rule gives, takes its cycles, and goes on to the next instruction; nothing else changes.
R71, R72: a compare or a predicate instruction sets p[PD] to its relation and goes on; nothing else changes, and p0 stays true. -/
def Obligations.ScalarAndPredicateResults : Prop :=
  (∀ (i : Instr) (s : State) (d : BitVec 5) (v : Word), scalarResult s i = some (d, v) →
    ∃ t, exec i s = .next t ∧ MovesOn s t ∧ ScalarsBut s t d v ∧ OthersKept s t ∧
      t.ctx.ctl.due = (match occupancy i with | some n => s.dcc.toNat + n | none => s.ctx.ctl.due)) ∧
  (∀ (i : Instr) (s : State) (d : BitVec 3) (v : Bool), predicateResult s i = some (d, v) →
    ∃ t, exec i s = .next t ∧ MovesOn s t ∧ PredicatesBut s t d v ∧
      t.ctx.ctl.s = s.ctx.ctl.s ∧ t.ctx.ctl.h = s.ctx.ctl.h ∧ t.ctx.ctl.e = s.ctx.ctl.e)

/-- R83, R84, R87: a taken transfer goes to lane 0 of its line three cycles later, writes the link of a call (L + 32), and closes loop
delivery; a branch not taken goes on. Nothing else changes. -/
def Obligations.TransfersGoToTheirTarget : Prop :=
  (∀ (i : Instr) (s : State) (d : BitVec 5) (line : Nat), transfer s i = some (d, line) →
    ∃ t, exec i s = .next t ∧ MovesTo s t line 0 s.ctx.lp.open_ ∧
      ScalarsBut s t d (word (s.ctx.ctl.line + 32)) ∧ OthersKept s t ∧ t.ctx.ctl.due = s.dcc.toNat + 3) ∧
  (∀ (i : Instr) (s : State), notTaken s i = true →
    ∃ t, exec i s = .next t ∧ MovesOn s t ∧ t.ctx.ctl.s = s.ctx.ctl.s ∧ OthersKept s t)

/-- R78 to R81: hderive, hoff and hclear write the slot they name with the narrowed, sealed record or empty it, and change no other
slot and no register. -/
def Obligations.HandleInstructionsWriteOneSlot : Prop :=
  ∀ (i : Instr) (s : State) (hd : BitVec 6) (r : Option Handle) (n : Nat), derivedRecord s i = some (hd, r, n) →
    ∃ t, exec i s = .next t ∧ MovesOn s t ∧ t.ctx.ctl.s = s.ctx.ctl.s ∧ t.ctx.ctl.p = s.ctx.ctl.p ∧ t.ctx.ctl.e = s.ctx.ctl.e ∧
      (∀ k, SMap.get none t.ctx.ctl.h k = if k = hd.toNat then r else SMap.get none s.ctx.ctl.h k) ∧
      t.ctx.ctl.due = if n = 1 then s.ctx.ctl.due else s.dcc.toNat + n

/-- Reads into scalars, and writes of control and status registers. R77, R91, R92, R273: hq, csrr, rddcc and evread set s[D] and go
on; nothing else changes. R91, R6: csrw, csrs and csrc change exactly the RW and W1C bits that the rule lets them change, as the
register reads afterwards; no scalar, predicate, handle or counter changes, and memory, the vector and the matrix registers stay. -/
def Obligations.ScalarReadsAndCsrWrites : Prop :=
  (∀ (i : Instr) (s : State) (d : BitVec 5) (v : Word), readResult s i = some (d, v) →
    ∃ t, exec i s = .next t ∧ MovesOn s t ∧ ScalarsBut s t d v ∧ OthersKept s t ∧ t.ctx.ctl.due = s.ctx.ctl.due) ∧
  (∀ (i : Instr) (s : State) (n : Nat) (v : Word), csrAfter s i = some (n, v) →
    ∃ t, exec i s = .next t ∧ csrRead t n = v ∧
      t.ctx.ctl.s = s.ctx.ctl.s ∧ OthersKept s t ∧ t.mem = s.mem ∧ OnlyMoving s t ∧
      t.ctx.vec = s.ctx.vec ∧ t.ctx.mat = s.ctx.mat ∧ t.ctx.sig = s.ctx.sig ∧ t.ctx.grids = s.ctx.grids ∧
      t.ctx.ctl.line = s.ctx.ctl.nline ∧ t.ctx.ctl.lane = s.ctx.ctl.nlane)

namespace Sys2Proof.Claim

/-! ## Scalar memory -/

/-- A scalar load: destination, slot, offset, bytes, and whether it extends the sign (R73). -/
def loadOf (s : State) : Instr → Option (BitVec 5 × BitVec 6 × Int × Nat × Bool)
  | .ldb d h a u => some (d, h, (s.getS a).toInt + u.toNat, 1, true)
  | .ldbu d h a u => some (d, h, (s.getS a).toInt + u.toNat, 1, false)
  | .ldh d h a u => some (d, h, (s.getS a).toInt + u.toNat * 2, 2, true)
  | .ldhu d h a u => some (d, h, (s.getS a).toInt + u.toNat * 2, 2, false)
  | .ldw d h a u => some (d, h, (s.getS a).toInt + u.toNat * 4, 4, true)
  | .ldwu d h a u => some (d, h, (s.getS a).toInt + u.toNat * 4, 4, false)
  | .ldd d h a u => some (d, h, (s.getS a).toInt + u.toNat * 8, 8, false)
  | .ldbLong d h a i => some (d, h, (s.getS a).toInt + i.toInt, 1, true)
  | .ldbuLong d h a i => some (d, h, (s.getS a).toInt + i.toInt, 1, false)
  | .ldhLong d h a i => some (d, h, (s.getS a).toInt + i.toInt, 2, true)
  | .ldhuLong d h a i => some (d, h, (s.getS a).toInt + i.toInt, 2, false)
  | .ldwLong d h a i => some (d, h, (s.getS a).toInt + i.toInt, 4, true)
  | .ldwuLong d h a i => some (d, h, (s.getS a).toInt + i.toInt, 4, false)
  | .lddLong d h a i => some (d, h, (s.getS a).toInt + i.toInt, 8, false)
  | _ => none

/-- A scalar store: the scalar stored, slot, offset, bytes (R73). -/
def storeOf (s : State) : Instr → Option (BitVec 5 × BitVec 6 × Int × Nat)
  | .stb d h a u => some (d, h, (s.getS a).toInt + u.toNat, 1)
  | .sth d h a u => some (d, h, (s.getS a).toInt + u.toNat * 2, 2)
  | .stw d h a u => some (d, h, (s.getS a).toInt + u.toNat * 4, 4)
  | .std d h a u => some (d, h, (s.getS a).toInt + u.toNat * 8, 8)
  | .stbLong d h a i => some (d, h, (s.getS a).toInt + i.toInt, 1)
  | .sthLong d h a i => some (d, h, (s.getS a).toInt + i.toInt, 2)
  | .stwLong d h a i => some (d, h, (s.getS a).toInt + i.toInt, 4)
  | .stdLong d h a i => some (d, h, (s.getS a).toInt + i.toInt, 8)
  | _ => none

/-- An access of n bytes at offset o of slot h, needing a right, that R30 lets pass. -/
def Accessible (s : State) (h : BitVec 6) (right : Nat) (o : Int) (n : Nat) (r : Handle) : Prop :=
  s.slot h = some r ∧ r.has right = true ∧ 0 ≤ o ∧ o + n ≤ (r.len.toNat : Int) ∧ o % n = 0

/-- The trap that R30 gives an access, in the order of its checks. -/
def accessTrap (s : State) (h : BitVec 6) (right : Nat) (o : Int) (n : Nat) : Option (BitVec 8) :=
  match s.slot h with
  | none => some tNOHANDLE
  | some r =>
    if r.has right = false then some tRIGHTS
    else if o < 0 ∨ (r.len.toNat : Int) < o + n then some tBOUNDS
    else if o % n ≠ 0 then some tMISALIGN
    else none

/-- The state with a context's writes in flight, or its parked writes, lengthened by one. -/
def withFlight (u : State) (f : Flight) : State := u.setCtx { u.ctx with fl := u.ctx.fl ++ [f] }
/-- The state with a parked write more. -/
def withParked (u : State) (p : Parked) : State := u.setCtx { u.ctx with rq := u.ctx.rq ++ [p] }

/-- The atomic that an instruction names, its slot, offset and ordering (R277). -/
def atomOf (s : State) : Instr → Option (Atom × BitVec 6 × Int × Ord)
  | .amo dw d h a op _ ord b => some (⟨d, ord.acquires, false, dw, op, s.getS b, 0⟩, h, (s.getS a).toInt, ord)
  | .acas dw d h a _ ord b c => some (⟨d, ord.acquires, true, dw, .add, s.getS b, s.getS c⟩, h, (s.getS a).toInt, ord)
  | _ => none

/-- What an atomic writes over an old value, if anything (R277). -/
def atomWrites (x : Atom) (old : Nat) : Option Nat :=
  let n := if x.dw then 8 else 4
  let b := x.b.toNat % 2 ^ (8 * n)
  if x.cas then (if old = x.c.toNat % 2 ^ (8 * n) then some b else none)
  else
    some (match x.op with
      | .add => (old + b) % 2 ^ (8 * n)
      | .and => old &&& b
      | .or => old ||| b
      | .xor => old ^^^ b
      | .min => if signedOf (8 * n) old ≤ signedOf (8 * n) b then old else b
      | .max => if signedOf (8 * n) old ≤ signedOf (8 * n) b then b else old
      | .swap => b)

/-! ## Synchronisation -/

/-- An increment's counter, target, whether it is a release, and amount (R271). -/
def evincOf (s : State) : Instr → Option (BitVec 6 × Word × Bool × BitVec 32)
  | .evinc e a _ rel => some (e, s.getS a, rel, 1)
  | .evincN e a _ rel b => some (e, s.getS a, rel, (s.getS b).setWidth 32)
  | _ => none

/-- A wait's counter, whether it acquires, and threshold (R272). -/
def evwaitOf (s : State) : Instr → Option (BitVec 6 × Bool × BitVec 32)
  | .evwait e acq t => some (e, acq, t.setWidth 32)
  | .evwaitReg e acq t => some (e, acq, (s.getS t).setWidth 32)
  | _ => none

/-- The engines over which a fence pushes its markers, and whether it waits for writes too (R274, R275). -/
def fenceOf : Instr → Option (BitVec 6 × Bool)
  | .fencem m => some (m, false)
  | .fence _ => some (0x3F, true)
  | _ => none

/-- The cycles that an increment takes to reach a strand (R271). -/
def incrCycles (own other : Nat) : Nat :=
  if own = other then 2 else if own / 8 = other / 8 then 8 else if own / 128 = other / 128 then 24 else 64

/-- The core id of a strand of a gang on this device. -/
def coreOfStrand (s : State) (g j : Nat) : Option Nat := (s.keyOf g j).map (fun k => coreId (coreOf k))

/-- A strand's context stands in the handler, with the trap recorded (R34): the place of the trap, code, TINFO and TPRED
are written, INTRAP is set, and fetch goes to the handler's line three cycles later. Everything else is unchanged, but a
delivery that was open is suspended (R89). -/
def InHandler (s t : State) (code : BitVec 8) (tinfo : Word) (line lane : Nat) (teng : Teng) : Prop :=
  OnlyMoving s t ∧
  t.ctx = { s.ctx with
    csr := { s.ctx.csr with
      tline := BitVec.ofNat 14 (line / 32), tlane := BitVec.ofNat 4 lane, tcode := code, tinfo := tinfo
      tpred := s.ctx.ctl.p.extractLsb' 1 7, intrap := true, teng := teng }
    ctl := { s.ctx.ctl with
      line := 32 * s.ctx.csr.tvecLine.toNat, lane := 0, fetch := .run, hold := .none, held := 0, due := s.dcc.toNat + 3,
      late := none }
    lp := if s.ctx.lp.open_ then { s.ctx.lp with open_ := false, susp := true } else s.ctx.lp }

/-- The line offset that `tret` goes to (R34, R95). -/
def returnLine (s : State) : Nat := 32 * s.ctx.csr.tline.toNat + if s.ctx.csr.tlane = 8 then 32 else 0

/-- `tret` closes loop delivery: an open one, and a suspended one whose last covered line lies before the line that it goes to (R87, R89). -/
def closesLoop (s : State) : Bool := s.ctx.lp.open_ || (s.ctx.lp.susp && decide (s.ctx.lp.last < returnLine s))

/-- An engine after a return: the one frozen by the trap in service goes on, its instruction issued again or discarded (R368). -/
def released (s : State) (e : Engine) : Eng :=
  if s.ctx.csr.teng.v ∧ ¬ s.ctx.csr.teng.asy ∧ s.ctx.csr.teng.eng.toNat = Config.engIdx e then
    (if s.ctx.csr.teng.disp then Eng.leave { s.ctx.engAt e with frozen := false }
     else { s.ctx.engAt e with frozen := false })
  else s.ctx.engAt e

/-- A handler can be entered. -/
def CanTrap (s : State) : Prop := s.ctx.csr.intrap = false ∧ s.ctx.csr.tvecEn = true

/-- The trap of a control instruction whose operands its rule refuses, and its TINFO (R78, R79, R84, R86, R90, R94,
R144, R145, R226, R271, R276). -/
def controlFault (s : State) : Instr → Option (BitVec 8 × Word)
  | .hderive _ ha a b _ =>
    match s.slot ha with
    | none => some (tNOHANDLE, s.getS a)
    | some r =>
      if r.has rDV = false then some (tRIGHTS, s.getS a)
      else if s.getS b = 0 ∨ r.len.toNat < (s.getS a).toNat + (s.getS b).toNat then some (tBOUNDS, s.getS a)
      else if (s.getS a).toNat % 32 ≠ 0 then some (tMISALIGN, s.getS a) else none
  | .hoff _ ha a =>
    match s.slot ha with
    | none => some (tNOHANDLE, s.getS a)
    | some r =>
      if r.has rDV = false then some (tRIGHTS, s.getS a)
      else if r.len.toNat ≤ (s.getS a).toNat then some (tBOUNDS, s.getS a)
      else if (s.getS a).toNat % 32 ≠ 0 then some (tMISALIGN, s.getS a) else none
  | .callr _ a | .ret a =>
    if (s.getS a).toNat % 32 ≠ 0 then some (tMISALIGN, s.getS a)
    else if 2 ^ 18 ≤ (s.getS a).toNat then some (tFETCHBOUND, s.getS a) else none
  | .loopb _ _ _ _ => if s.ctx.lp.open_ ∨ s.ctx.lp.susp then some (tLOOPFAULT, 0) else none
  | .fencem _ => if s.ctx.lp.open_ ∨ s.ctx.lp.susp then some (tLOOPFAULT, 2) else none
  | .fence _ =>
    if (s.ctx.lp.open_ ∨ s.ctx.lp.susp) ∧ s.ctx.ctl.hold ≠ .writes then some (tLOOPFAULT, 2) else none
  | .evinc _ a _ _ | .evincN _ a _ _ _ => if s.target (s.getS a) = none then some (tEVTARGET, s.getS a) else none
  | .banklend b g =>
    let ti (reason : Nat) : Word := word (b.toNat * 64 + g.toNat * 32 + reason)
    if s.ctx.vec.g0 = some b ∨ s.ctx.vec.g1 = some b then some (tBANKBUSY, ti 1)
    else if (if g = 0 then s.ctx.vec.g0 else s.ctx.vec.g1) ≠ none then some (tBANKBUSY, ti 2)
    else if s.namedInUse (lendRanges b.toNat g.toNat) then some (tBANKBUSY, ti 0) else none
  | .bankret g =>
    match (if g = 0 then s.ctx.vec.g0 else s.ctx.vec.g1) with
    | none => some (tBANKBUSY, word (g.toNat * 32 + 3))
    | some b =>
      if s.namedInUse (lendRanges b.toNat g.toNat) then some (tBANKBUSY, word (b.toNat * 64 + g.toNat * 32)) else none
  | .tbar t _ =>
    match s.gang s.bind.gang.toNat with
    | none => if t = 0 then none else some (tBARRIER, word t.toNat)
    | some g =>
      match g.team t with
      | none => some (tBARRIER, word t.toNat)
      | some tm => if tm.has s.bind.stage then none else some (tBARRIER, word (256 + t.toNat))
  | _ => none

end Sys2Proof.Claim

/-- R73, R74, R75, R98: a store whose access passes R30 and resolves, and that nothing holds, posts exactly the low n bytes of s[D] at
the bytes of its access, in flight for the latency of a load of its level, and goes on; where its page faults or blocks writes the
store is parked instead. Memory, scalars, predicates, handles and counters do not change. -/
def Obligations.ScalarStoresPostTheirBytes : Prop :=
  ∀ (i : Instr) (s : State) (d : BitVec 5) (h : BitVec 6) (o : Int) (n : Nat) (r : Handle),
    storeOf s i = some (d, h, o, n) → Accessible s h rWR o n r → scalarHeld s r o.toNat n true = false →
    (r.level = 0 ∨ s.ctx.pageParked r.world [⟨r.base.toNat + o.toNat, n, (s.getS d).toNat % 2 ^ (8 * n)⟩] = false) →
    (∀ (u : State) (rs : List (List (Nat × Nat))), s.newAge.1.resolveMany s.cur r [(o.toNat, n)] true = .ok (u, rs) →
      ∃ t, exec i s = .next t ∧ t.mem = u.mem ∧
        MovesOn (withFlight u ⟨6, s.ageNow, r.sync, r.world, s.blocks r o (o + n - 1) true,
          s.dcc.toNat + s.pathCycles r [8, 30, 52, 128] 380, 0, BitVec.ofInt 64 o,
          (rs.zip [(s.getS d).toNat % 2 ^ (8 * n)]).flatMap (fun e => cutRuns e.1 e.2), [], false, s.iss.line, s.iss.lane⟩) t ∧
        t.ctx.ctl.s = u.ctx.ctl.s ∧ OthersKept u t) ∧
    (∀ (u : State) (va : Nat),
      (s.newAge.1.resolveMany s.cur r [(o.toNat, n)] true = .error (.page u va) ∨
        s.newAge.1.resolveMany s.cur r [(o.toNat, n)] true = .error (.blocked u va)) →
      u.ctx.rq.length < 64 →
      ∃ t, exec i s = .next t ∧ t.mem = u.mem ∧
        MovesOn (withParked u ⟨6, s.ageNow, r.sync, r.world,
          [⟨r.base.toNat + o.toNat, n, (s.getS d).toNat % 2 ^ (8 * n)⟩], none, false, s.iss.line, s.iss.lane, 0,
          BitVec.ofInt 64 o, false⟩) t ∧
        t.ctx.ctl.s = u.ctx.ctl.s ∧ OthersKept u t)

/-- R277, R252, R259: an atomic whose access passes R30 and resolves, and that neither a release nor anything else holds, writes what
its operation makes of the old value, or nothing on a failed compare, sets s[D] to the old value, extended by sign for a word, and
goes on; an acquire is recorded as one of the strand's. Where it rests on the model's own choice or reading: log entry 8. -/
def Obligations.AtomicsReadAndWriteOnce : Prop :=
  ∀ (i : Instr) (s : State) (x : Atom) (h : BitVec 6) (o : Int) (ord : Ord) (r : Handle) (u : State)
    (runs : List (Nat × Nat)),
    atomOf s i = some (x, h, o, ord) → Accessible s h rAT o x.width r → r.level ≠ 2 →
    (r.level = 0 → s.inPartition r o.toNat x.width = true) →
    (ord = .release ∨ ord = .acqrel → s.releaseReady s.ageNow r.sync = true) →
    scalarHeld s r o.toNat x.width true = false →
    (r.level = 0 ∨ s.ctx.pageParked r.world [⟨r.base.toNat + o.toNat, x.width, 0⟩] = false) →
    s.resolve r o.toNat x.width true = .ok u runs → u.ctx.storeOver runs = false → u.badRun runs = none →
    ∃ t w, exec i s = .next t ∧
      w = (match atomWrites x (readRuns u.mem runs) with
        | some v => u.storeSegs (cutRuns runs v)
        | none => u) ∧
      MovesOn w t ∧ ScalarsBut w t x.d (extend x.width (!x.dw) (readRuns u.mem runs)) ∧ OthersKept w t ∧ t.mem = w.mem ∧
      (ord = .acquire ∨ ord = .acqrel → SMap.get 0 t.ctx.ctl.acquired acqAtomic = s.dcc.toNat)

/-- R30, R33, R74: a scalar access that fails a check of R30 raises the first trap in their order, with TINFO its offset, and has no
effect. -/
def Obligations.ScalarAccessesTrapInOrder : Prop :=
  (∀ (i : Instr) (s : State) (d : BitVec 5) (h : BitVec 6) (o : Int) (n : Nat) (sx : Bool) (c : BitVec 8),
    loadOf s i = some (d, h, o, n, sx) → accessTrap s h rRD o n = some c →
    exec i s = .next (s.controlTrap c (BitVec.ofInt 64 o))) ∧
  (∀ (i : Instr) (s : State) (d : BitVec 5) (h : BitVec 6) (o : Int) (n : Nat) (c : BitVec 8),
    storeOf s i = some (d, h, o, n) → accessTrap s h rWR o n = some c →
    exec i s = .next (s.controlTrap c (BitVec.ofInt 64 o))) ∧
  (∀ (i : Instr) (s : State) (x : Atom) (h : BitVec 6) (o : Int) (ord : Ord) (c : BitVec 8),
    atomOf s i = some (x, h, o, ord) → accessTrap s h rAT o x.width = some c →
    exec i s = .next (s.controlTrap c (BitVec.ofInt 64 o)))

/-- Scalar loads, and where the bytes of a cistern record lie. R73, R74, R76: a load whose access passes R30 and resolves, and that
nothing holds, sets s[D] to the n bytes, extended, as the strand's own earlier stores left them, and goes on; nothing else changes
beyond what translation records. One of host memory whose bytes have not come asks for them and waits. R233, R236, R238: bytes of
an unswizzled cistern handle that lie within a partition of its world are the bytes at the handle's base plus the offset in the
cistern of the core that the record names; reaching them changes nothing but the energy account. Where it rests on the model's own
choice or reading: log entries 8, 62. -/
def Obligations.LoadsAndTheBytesOfACistern : Prop :=
  (∀ (i : Instr) (s : State) (d : BitVec 5) (h : BitVec 6) (o : Int) (n : Nat) (sx : Bool) (r : Handle) (u : State)
    (runs : List (Nat × Nat)),
    loadOf s i = some (d, h, o, n, sx) → Accessible s h rRD o n r → scalarHeld s r o.toNat n false = false →
    s.resolve r o.toNat n false = .ok u runs → u.badRun runs = none →
    (s.asked 6 s.ageNow runs = none →
      ∃ t, exec i s = .next t ∧ MovesOn u t ∧
        ScalarsBut u t d (extend n sx (readRuns (u.ctx.view 6 u.mem) runs)) ∧ OthersKept u t ∧ t.mem = u.mem) ∧
    (∀ v, s.asked 6 s.ageNow runs = some v → exec i s = .next v)) ∧
  (∀ (s : State) (r : Handle) (o n ci : Nat) (write : Bool),
    r.level = 0 → r.geo0.toNat / 2 ^ 62 = 0 → coreIdx r.core = some ci → 0 < n → s.inPartition r o n = true →
    ∃ u, s.resolve r o n write = .ok u [(Config.cisternBase + ci * 2 ^ 23 + (r.base.toNat % 2 ^ 23 + o), n)] ∧
      u.mem = s.mem ∧ u = { s with ctxs := u.ctxs } ∧ u.ctx = { s.ctx with en := u.ctx.en })

/-- Taking a precise trap, the traps that control instructions take, and the return. R34, R89: with a handler enabled and no trap in
service, a precise trap writes the trap registers and goes to the handler. R34, R94: `trap` enters the handler with SWTRAP and its
code, TLANE naming the lane after it, or 8 at the end of the line. R78, R79, R84, R90, R144, R145, R226, R271, R276: the operands
that a control instruction's rule refuses raise the trap that it names, with its TINFO, and the instruction has no effect. R34,
R95, R368: `tret` to a lane that may be returned to restores p1 to p7 from TPRED, goes to (TLINE, TLANE) three cycles later,
clears INTRAP and TENG, opens a suspended delivery again, closing it where the place lies past its last line, closes an open one,
and releases the engine frozen by the trap in service, its instruction issuing again or discarded as DISP says; scalars, handles,
counters and memory do not change. Where the lane may not be returned to it raises ILLEGAL with REASON 6. Where it rests on the
model's own choice or reading: log entries 9, 38, 83, 93. -/
def Obligations.TrapsAreEnteredAndLeft : Prop :=
  (∀ (s : State) (code : BitVec 8) (tinfo : Word), CanTrap s →
    InHandler s (s.controlTrap code tinfo) code tinfo s.ctx.ctl.line s.ctx.ctl.lane .none) ∧
  (∀ (s : State) (code : BitVec 16), CanTrap s →
    ∃ t, exec (.trap code) s = .next t ∧
      InHandler s t tSWTRAP (code.setWidth 64) s.ctx.ctl.line
        (if s.ctx.ctl.nline = s.ctx.ctl.line then s.ctx.ctl.nlane else 8) .none) ∧
  (∀ (i : Instr) (s : State) (c : BitVec 8) (ti : Word), controlFault s i = some (c, ti) →
    exec i s = .next (s.controlTrap c ti)) ∧
  (∀ (s : State),
    (tretOk s = true →
      ∃ t, exec .tret s = .next t ∧ OnlyMoving s t ∧
        t.ctx.ctl.line = returnLine s ∧
        t.ctx.ctl.lane = (if s.ctx.csr.tlane = 8 then 0 else s.ctx.csr.tlane.toNat) ∧
        t.ctx.ctl.p = BitVec.ofNat 8 (2 * s.ctx.csr.tpred.toNat + 1) ∧
        t.ctx.csr = { s.ctx.csr with intrap := false, teng := .none } ∧
        t.ctx.ctl.due = s.dcc.toNat + 3 ∧ t.ctx.ctl.hold = .none ∧
        t.ctx.ctl.s = s.ctx.ctl.s ∧ t.ctx.ctl.h = s.ctx.ctl.h ∧ t.ctx.ctl.e = s.ctx.ctl.e ∧ t.mem = s.mem ∧
        t.ctx.vec = s.ctx.vec ∧
        (closesLoop s = false →
          t.ctx.lp = (if s.ctx.lp.susp then { s.ctx.lp with open_ := true, susp := false } else s.ctx.lp) ∧
          ∀ e, t.ctx.engAt e = released s e) ∧
        (closesLoop s = true →
          t.ctx.lp.open_ = false ∧ t.ctx.lp.susp = false ∧
          ∀ e, ∃ n, t.ctx.engAt e =
            { released s e with q := (released s e).q ++ List.replicate n (.endMark t.ctx.lp.endAge) })) ∧
    (tretOk s = false → exec .tret s = .next (s.controlTrap tILLEGAL (word (6 * 8 + s.ctx.ctl.lane)))))

/-- Counter increments, waits for a counter and waits for a cycle. R271: an increment whose target is a strand, and that no release
holds, is sent to that strand's counter with its amount and arrives after the cycles of their distance; the strand goes on. R270,
R272: a wait whose counter meets its threshold goes on, and one that does not holds, changing nothing else. R92: `dccwait` goes on
at once where the DCC will have reached s[S] in the next cycle; else control holds until then. -/
def Obligations.CountersAndWaits : Prop :=
  (∀ (i : Instr) (s : State) (e : BitVec 6) (a : Word) (rel : Bool) (amt : BitVec 32) (g j : Nat),
    evincOf s i = some (e, a, rel, amt) → s.target a = some (g, j) →
    (rel = true → s.releaseReady s.ageNow (some e) = true) →
    ∃ t w, exec i s = .next t ∧
      w = { s with incrs := s.incrs ++ [⟨g, j, e, amt, s.dcc.toNat +
        (match coreOfStrand s g j with | some c => incrCycles (coreId (coreOf s.cur)) c | none => 64)⟩] } ∧
      MovesOn w t ∧ t.ctx.ctl.s = s.ctx.ctl.s ∧ OthersKept s t) ∧
  (∀ (i : Instr) (s : State) (e : BitVec 6) (acq : Bool) (th : BitVec 32), evwaitOf s i = some (e, acq, th) →
    ((s.ctx.ctl.getE e - th).toNat < 2 ^ 31 →
      ∃ t, exec i s = .next t ∧ MovesOn s t ∧ t.ctx.ctl.s = s.ctx.ctl.s ∧ OthersKept s t) ∧
    (2 ^ 31 ≤ (s.ctx.ctl.getE e - th).toNat → exec i s = .next (s.holdAs (.evwait e th acq)))) ∧
  (∀ (s : State) (r : BitVec 5),
    ((s.getS r).toNat ≤ s.dcc.toNat + 1 →
      ∃ t, exec (.dccwait r) s = .next t ∧ MovesOn s t ∧ t.ctx.ctl.s = s.ctx.ctl.s ∧ OthersKept s t) ∧
    (s.dcc.toNat + 1 < (s.getS r).toNat → exec (.dccwait r) s = .next (s.holdAs (.dccwait (s.getS r)))))

/-- Fences, and the opening of loop delivery. R274, R275: a fence outside any loop pushes one marker into the queue of every engine of
its mask where each has room, and control holds; for `fence` the strand's writes follow. With its markers gone, `fence` goes on as
soon as the strand's writes are done, and holds while they are not. R86, R88: `loopb` outside any loop, with no end marker still
owed, pushes one loop marker with N and the engine's skew into every masked queue, where each has room, opens delivery over the
next L lines, and goes on; an end marker still owed to a full queue holds it first. Where it rests on the model's own choice or
reading: log entry 37. -/
def Obligations.FencesAndLoops : Prop :=
  ((∀ (i : Instr) (s : State) (m : BitVec 6) (f : Bool), fenceOf i = some (m, f) →
    s.ctx.lp.open_ = false → s.ctx.lp.susp = false → s.ctx.ctl.hold = .none →
    (∀ e, m.getLsbD (Config.engIdx e) = true → s.ctx.room e = true) →
    ∃ t, exec i s = .next t ∧ OnlyControl s t ∧ t.ctx.ctl.hold = .marks 0 m s.ageNow f ∧
      t.ctx.ctl.line = s.ctx.ctl.line ∧ t.ctx.ctl.lane = s.ctx.ctl.lane ∧ t.ctx.lp = s.ctx.lp ∧
      ∀ e, t.ctx.engAt e = { s.ctx.engAt e with
        q := (s.ctx.engAt e).q ++ if m.getLsbD (Config.engIdx e) then [.fenceMark s.ageNow] else [] }) ∧
  (∀ (s : State) (sc : Scope), s.ctx.ctl.hold = .writes →
    (s.releaseReady s.ageNow none = true →
      ∃ t, exec (.fence sc) s = .next t ∧ MovesOn s t ∧ t.ctx.ctl.s = s.ctx.ctl.s ∧ OthersKept s t) ∧
    (s.releaseReady s.ageNow none = false → exec (.fence sc) s = .next s))) ∧
  ((∀ (s : State) (m : BitVec 6) (lm1 : BitVec 5) (nm1 : BitVec 16) (k : Skews),
    s.ctx.lp.open_ = false → s.ctx.lp.susp = false → lowestOf s.ctx.lp.owed = none →
    (∀ e, m.getLsbD (Config.engIdx e) = true → s.ctx.room e = true) →
    s.ctx.ctl.nline ≤ s.ctx.ctl.line + 32 →
    ∃ t, exec (.loopb m lm1 nm1 k) s = .next t ∧ OnlyControl s t ∧
      t.ctx.ctl.line = s.ctx.ctl.nline ∧ t.ctx.ctl.lane = s.ctx.ctl.nlane ∧ t.ctx.ctl.hold = .none ∧
      t.ctx.ctl.s = s.ctx.ctl.s ∧ OthersKept s t ∧
      t.ctx.lp.open_ = true ∧ t.ctx.lp.first = s.ctx.ctl.line + 32 ∧
      t.ctx.lp.last = s.ctx.ctl.line + 32 * (lm1.toNat + 1) ∧ t.ctx.lp.mask = m ∧ t.ctx.lp.n = nm1.toNat + 1 ∧
      ∀ e, t.ctx.engAt e = { s.ctx.engAt e with
        q := (s.ctx.engAt e).q ++
          if m.getLsbD (Config.engIdx e) then [.loopMark s.ageNow (nm1.toNat + 1) (Skews.of k e)] else [] }) ∧
  (∀ (s : State) (m : BitVec 6) (lm1 : BitVec 5) (nm1 : BitVec 16) (k : Skews) (e : Engine),
    s.ctx.lp.open_ = false → s.ctx.lp.susp = false →
    lowestOf (State.pushOwedN 6 s).ctx.lp.owed = some e →
    exec (.loopb m lm1 nm1 k) s = .next ((State.pushOwedN 6 s).holdAs (.queue e))))

/-- Bank lending, team barriers, service calls, `halt` and `nop`. R144, R145: lending a free bank to a free group, with neither named
by work in progress, records the lend; returning a lent bank ends it and gives the bank's registers the tag FP32. Both take four
cycles and change no data. R226: a member of a team arrives at its team's barrier and holds; the gang's other barriers do not
change, and no register does. R93, R98, R487, R32, R87, R96: `svc` sends s1 to s6 and holds for its reply, which comes after 180
cycles at the earliest, and a firmware that drains holds the call in its place; `halt` stops fetch where it stands and closes loop
delivery; `nop` goes on with no effect. Where it rests on the model's own choice or reading: log entry 97. -/
def Obligations.BanksBarriersCallsAndEnds : Prop :=
  ((∀ (s : State) (b : BitVec 2) (g : BitVec 1), controlFault s (.banklend b g) = none →
    ∃ t w, exec (.banklend b g) s = .next t ∧
      w = s.setCtx { s.ctx with vec := if g = 0 then { s.ctx.vec with g0 := some b } else { s.ctx.vec with g1 := some b } } ∧
      MovesOn w t ∧ t.ctx.ctl.s = s.ctx.ctl.s ∧ OthersKept s t ∧ t.ctx.ctl.due = s.dcc.toNat + 4) ∧
  (∀ (s : State) (b : BitVec 2) (g : BitVec 1), controlFault s (.bankret g) = none →
    (if g = 0 then s.ctx.vec.g0 else s.ctx.vec.g1) = some b →
    ∃ t, exec (.bankret g) s = .next t ∧ OnlyMoving s t ∧
      (if g = 0 then t.ctx.vec.g0 else t.ctx.vec.g1) = none ∧
      t.ctx.vec.r = s.ctx.vec.r ∧ t.ctx.vec.k = s.ctx.vec.k ∧ t.ctx.vec.count = s.ctx.vec.count ∧
      (∀ n, SMap.get .untyped t.ctx.vec.f n =
        if 32 * b.toNat ≤ n ∧ n < 32 * b.toNat + 32 then .fp32 else SMap.get .untyped s.ctx.vec.f n) ∧
      t.ctx.ctl.s = s.ctx.ctl.s ∧ OthersKept s t ∧ t.ctx.ctl.line = s.ctx.ctl.nline ∧ t.ctx.ctl.due = s.dcc.toNat + 4)) ∧
  (∀ (s : State) (t : BitVec 8) (a : BitVec 5) (g : Gang) (tm : Team),
    s.gang s.bind.gang.toNat = some g → g.team t = some tm → tm.has s.bind.stage = true →
    ∃ u, exec (.tbar t a) s = .next u ∧ u.mem = s.mem ∧
      u.ctx.ctl.hold = .tbar t (SMap.get Bar.reset g.bars t.toNat).gen a ∧
      u.ctx.ctl.s = s.ctx.ctl.s ∧ OthersKept s u ∧ u.ctx.ctl.line = s.ctx.ctl.line ∧
      ∃ g', u.gang s.bind.gang.toNat = some g' ∧
        (SMap.get Bar.reset g'.bars t.toNat).arrived =
          (SMap.get Bar.reset g.bars t.toNat).arrived ++ [s.bind.strand.toNat] ∧
        ∀ k, k ≠ t.toNat → SMap.get Bar.reset g'.bars k = SMap.get Bar.reset g.bars k) ∧
  ((∀ (s : State) (code : BitVec 16), s.ctx.ctl.hold ≠ .svc code s.svcArgs →
    ∃ t, exec (.svc code) s = .next t ∧ t = { s with ctxs := t.ctxs, dev := t.dev } ∧ (∀ k, k ≠ s.cur → t.ctxAt k = s.ctxAt k) ∧
      t.ctx = { s.ctx with ctl := { s.ctx.ctl with
        hold := .svc code [s.getS 1, s.getS 2, s.getS 3, s.getS 4, s.getS 5, s.getS 6], held := 0, due := s.dcc.toNat + 180, late := none } } ∧
      t.dev = (if s.dev.fw.state = 2 then { s.dev with fw := { s.dev.fw with bells := s.dev.fw.bells ++ [.call s.cur] } } else s.dev)) ∧
  (∀ (s : State), ∃ t, exec .halt s = .next t ∧ OnlyControl s t ∧ t.ctx.ctl.fetch = .halted ∧ t.ctx.lp.open_ = false ∧ t.ctx.lp.susp = false ∧
    t.ctx.ctl.line = s.ctx.ctl.line ∧ t.ctx.ctl.lane = s.ctx.ctl.lane ∧ t.ctx.ctl.s = s.ctx.ctl.s ∧ OthersKept s t) ∧
  (∀ (s : State), ∃ t, exec .nop s = .next t ∧ MovesOn s t ∧ t.ctx.ctl.s = s.ctx.ctl.s ∧ OthersKept s t ∧
    t.ctx.ctl.due = s.ctx.ctl.due))

namespace Sys2Proof.Claim

/-! ## Engines -/

/-- An engine issues an instruction with nothing in the way: no push of it is pending, its operands are not yet read, the
queue registers that it reads hold entries (R133), and it names no register of a lent bank and no accumulator of a group
that is not lent (R146). -/
def Issues (s : State) (e : Engine) (i : Instr) : Prop :=
  s.iss.instr = i ∧ (s.eng e).pushes = [] ∧ (s.eng e).latched = false ∧ s.ctx.vec.bankCheck i = none ∧
  s.ctx.vec.firstEmpty (queueReads i) = none

/-- The state after the read step (R133). -/
def afterRead (s : State) (e : Engine) (i : Instr) : State :=
  if (queueReads i).isEmpty then s else s.readAll e (queueReads i)

/-- The vector registers after the pops of an instruction (R131, R133). -/
def popped (s : State) (i : Instr) : Vec :=
  (queueReads i).foldl (fun v x => if x.2 then v.pop x.1 else v) s.ctx.vec

/-- What a source field gives: a register, or the head entry of a queue register, popped or not (R131). -/
def source (s : State) : VR → VReg × Fmt
  | .v n => s.ctx.vec.slot n.toNat
  | .q n | .pk n => s.ctx.vec.front n.toNat

/-- Only the engine that issues, the vector registers and the energy account of the moving context changed. -/
def OnlyIssue (s t : State) (e : Engine) : Prop :=
  OnlyMoving s t ∧ t.ctx = { s.ctx with vec := t.ctx.vec, eng := t.ctx.eng, en := t.ctx.en } ∧
  ∀ x, x ≠ e → t.eng x = s.eng x

/-- The instruction leaves its engine's head (R142). -/
def Leaves (s t : State) (e : Engine) : Prop := t.eng e = (s.eng e).leave

/-- The destination D of an instruction receives a register with its tag, over the registers `v` that its pops leave: a vector register is written and the instruction
leaves; an entry is pushed onto a queue register with room and the instruction leaves; without room the push waits (R131,
R132, R142). -/
def Receives (v : Vec) (s t : State) (e : Engine) (d : VR) (x : VReg) (f : Fmt) : Prop :=
  match d with
  | .v n => t.ctx.vec = v.setSlot n.toNat x f ∧ Leaves s t e
  | .q n | .pk n =>
    if v.qcount n.toNat < 4 then t.ctx.vec = v.push n.toNat x f ∧ Leaves s t e
    else t.ctx.vec = v ∧ (t.eng e).pushes = [⟨n.toNat, x, f, none⟩] ∧ (t.eng e).stall = .push n.toNat

/-- The elements of a source read as a format, where the tag check of R117 accepts it. -/
def elems (s : State) (x : VR) (f : Fmt) (m : RMode) (sat : Bool) : Option (Nat → Nat) :=
  (tagCheck s.ctx.tagmode (source s x).2 f).map (fun c j => readAs c f m sat (vget (source s x).1 (fbytes f) j))

/-- The elements that a merge keeps: those of a plain destination under a mask, where the tag check accepts them (R153). -/
def kept (s : State) (d : VR) (k : BitVec 3) (f : Fmt) (m : RMode) (sat : Bool) : Option (Nat → Nat) :=
  match d with
  | .v n => if k = 0 then some (fun _ => 0) else elems s (.v n) f m sat
  | _ => some (fun _ => 0)

/-- The elementwise result: the elements whose lane the mask leaves active (R152, R153), the others kept. -/
def merged (s : State) (k : BitVec 3) (f : Fmt) (r keep : Nat → Nat) : VReg :=
  vreg (fbytes f) (8192 / fbytes f) (fun j => if s.ctx.vec.active k (j * fbytes f / 4) then r j else keep j)

/-- The elements of w bytes that a bit-moving instruction keeps: those of a plain destination, zeros for a queue (R153). -/
def oldElem (s : State) (d : VR) (w j : Nat) : Nat :=
  match d with
  | .v n => vget (s.ctx.vec.slot n.toNat).1 w j
  | _ => 0

/-- The lanes whose mask bit is set, the others as they were. -/
def lanes (s : State) (d : VR) (k : BitVec 3) (r : Nat → Nat) : VReg :=
  vreg 4 2048 (fun j => if s.ctx.vec.active k j then r j else oldElem s d 4 j)

/-- A result by format: an integer, or an exact floating value rounded once (R103, R104, R111, R112). -/
def rounded (f : Fmt) (m : RMode) (sat : Bool) (i : Int) (x : FVal) : Nat :=
  if isIntF f then intBits f sat i else roundF f m sat x

/-- Element functions of the arithmetic of R158 and R166. -/
def elem1Of (f : Fmt) (m : RMode) (sat : Bool) : Instr → Option (Nat → Nat)
  | .vabs _ _ => some (fun a => rounded f m sat (decodeI f a).natAbs
      (if (decodeF f a).neg then (decodeF f a).negate else decodeF f a))
  | .vneg _ _ => some (fun a => rounded f m sat (-(decodeI f a)) (decodeF f a).negate)
  | .vsqrt _ => some (fun a => roundF f m sat (sqrtF (decodeF f a)))
  | .vexp _ => some (transF .exp sat)
  | .vlog _ => some (transF .log sat)
  | .vrcp _ => some (transF .rcp sat)
  | .vrsqrt _ => some (transF .rsqrt sat)
  | .vtanh _ => some (transF .tanh sat)
  | .vsig _ => some (transF .sig sat)
  | _ => none

/-- Two sources. -/
def elem2Of (f : Fmt) (m : RMode) (sat : Bool) : Instr → Option (Nat → Nat → Nat)
  | .vadd _ _ => some (fun a b => rounded f m sat (decodeI f a + decodeI f b) (sumF m [decodeF f a, decodeF f b]))
  | .vsub _ _ => some (fun a b => rounded f m sat (decodeI f a - decodeI f b) (sumF m [decodeF f a, (decodeF f b).negate]))
  | .vmul _ _ => some (fun a b => rounded f m sat (decodeI f a * decodeI f b) (mulF (decodeF f a) (decodeF f b)))
  | .vmin _ _ => some (fun a b => rounded f m sat (min (decodeI f a) (decodeI f b)) (minF (decodeF f a) (decodeF f b)))
  | .vmax _ _ => some (fun a b => rounded f m sat (max (decodeI f a) (decodeI f b)) (maxF (decodeF f a) (decodeF f b)))
  | .vdiv _ => some (fun a b => roundF f m sat (divF (decodeF f a) (decodeF f b)))
  | _ => none

/-- Three sources. -/
def elem3Of (f : Fmt) (m : RMode) (sat : Bool) : Instr → Option (Nat → Nat → Nat → Nat)
  | .vfma _ _ => some (fun a b c => roundF f m sat (sumF m [mulF (decodeF f a) (decodeF f b), decodeF f c]))
  | .vclamp _ _ => some (fun a b c =>
      let u := rounded f .rne false (max (decodeI f a) (decodeI f b)) (maxF (decodeF f a) (decodeF f b))
      rounded f .rne false (min (decodeI f u) (decodeI f c)) (minF (decodeF f u) (decodeF f c)))
  | _ => none

/-- The format and the operands of a vector arithmetic instruction. -/
def arithOf : Instr → Option (Fmt × VOp)
  | .vadd f o | .vsub f o | .vmul f o | .vmin f o | .vmax f o | .vfma f o | .vclamp f o | .vabs f o | .vneg f o => some (f, o)
  | .vdiv o | .vsqrt o | .vexp o | .vlog o | .vrcp o | .vrsqrt o | .vtanh o | .vsig o => some (.fp32, o)
  | _ => none

/-- The result elements of a vector arithmetic instruction whose sources' tags are accepted. -/
def arithElems (s : State) (i : Instr) (f : Fmt) (o : VOp) : Option (Nat → Nat) :=
  let m := o.rm.getD s.ctx.vec.mode
  match elem1Of f m o.sat i, elem2Of f m o.sat i, elem3Of f m o.sat i with
  | some g, _, _ => (elems s o.a f m o.sat).map (fun a j => g (a j))
  | _, some g, _ => (elems s o.a f m o.sat).bind (fun a => (elems s o.b f m o.sat).map (fun b j => g (a j) (b j)))
  | _, _, some g =>
    (elems s o.a f m o.sat).bind (fun a => (elems s o.b f m o.sat).bind (fun b =>
      (elems s o.c f m o.sat).map (fun c j => g (a j) (b j) (c j))))
  | _, _, _ => none

/-- The destination, register and tag of the logic, moves, selections and conversions (R161 to R168, R172, R173). -/
def logicResult (s : State) (i : Instr) : Option (VR × VReg × Fmt) :=
  let bin (o : VOp) (g : Nat → Nat → Nat) : Option (VR × VReg × Fmt) :=
    some (o.d, lanes s o.d o.k (fun j => g (vget (source s o.a).1 4 j) (vget (source s o.b).1 4 j)), (source s o.a).2)
  match i with
  | .vand o => bin o (fun a b => a &&& b)
  | .vor o => bin o (fun a b => a ||| b)
  | .vxor o => bin o (fun a b => a ^^^ b)
  | .vshl o => bin o (fun a b => a * 2 ^ (b % 32) % 2 ^ 32)
  | .vshr o => bin o (fun a b => a / 2 ^ (b % 32))
  | .vsra o => bin o (fun a b => wrapTo 32 (signedOf 32 a / (2 ^ (b % 32) : Nat)))
  | .vnot o => bin o (fun a _ => 2 ^ 32 - 1 - a)
  | .vmov o => bin o (fun a _ => a)
  | .vtag f o =>
    if s.iss.auxTag < 11 then some (o.d, lanes s o.d o.k (fun j => vget (source s o.a).1 4 j), f) else none
  | .viota o => some (o.d, lanes s o.d o.k (fun j => j), .int32)
  | .vperm o => (elems s o.b .int32 s.ctx.vec.mode false).map (fun ix =>
      (o.d, lanes s o.d o.k (fun j => if ix j < 2048 then vget (source s o.a).1 4 (ix j) else 0), (source s o.a).2))
  | .vsel o => some (o.d, vreg 4 2048 (fun j =>
      if (s.ctx.vec.mask o.k).getLsbD j then vget (source s o.a).1 4 j else vget (source s o.b).1 4 j), (source s o.a).2)
  | .vkcnt ka o => some (o.d, vreg 4 2048 (fun _ => popMask (s.ctx.vec.mask ka)), .int32)
  | .vbcst f d x k _ => (kept s d k f s.ctx.vec.mode false).map (fun keep => (d, merged s k f (fun _ => x.toNat) keep, f))
  | .vcvt f o =>
    let m := o.rm.getD s.ctx.vec.mode
    let g := (source s o.a).2
    let w := Nat.max (fbytes g) (fbytes f)
    if g = .untyped ∨ g = .g4 ∨ g = .pl then none
    else (kept s o.d o.k f m o.sat).map (fun keep =>
      (o.d, vreg (fbytes f) (8192 / w) (fun j =>
        if s.ctx.vec.active o.k (j * w / 4) then convert g f m o.sat (vget (source s o.a).1 (fbytes g) j) else keep j), f))
  | _ => none

/-- The active elements of a source, the others absent (R122, R123). -/
def leaves (s : State) (k : BitVec 3) (w : Nat) (a : Nat → Nat) : List (Option Nat) :=
  (List.range (8192 / w)).map (fun j => if s.ctx.vec.active k (j * w / 4) then some (a j) else none)

/-- Reductions and scans (R122, R123, R170, R171): element 0 of D, or the prefixes; every other byte is 0. -/
def reduceResult (s : State) (i : Instr) : Option (VR × VReg × Fmt) :=
  let red (r : Red) (f : Fmt) (o : VOp) : Option (VR × VReg × Fmt) :=
    let m := o.rm.getD s.ctx.vec.mode
    let w := fbytes f
    (elems s o.a f m o.sat).map (fun a =>
      (o.d, BitVec.ofNat 65536 (reduce r f m o.sat (if w = 2 then 12 else 11) (leaves s o.k w a) % 2 ^ (8 * w)), f))
  match i with
  | .vredsum f o => red .sum f o
  | .vredmax f o => red .max f o
  | .vredmin f o => red .min f o
  | .vscan f o =>
    let m := o.rm.getD s.ctx.vec.mode
    (elems s o.a f m o.sat).map (fun a =>
      (o.d, BitVec.ofNat 65536 (packList 4 (scan (resultE f m o.sat) (fun x y =>
        rounded f m o.sat (decodeI f x + decodeI f y) (sumF m [decodeF f x, decodeF f y])) true 0 (leaves s o.k 4 a))), f))
  | _ => none

/-- Plane-nested data (R178 to R180). -/
def planeResult (s : State) (i : Instr) : Option (VR × VReg × Fmt) :=
  match i with
  | .vpsplit pc o =>
    let m := o.rm.getD s.ctx.vec.mode
    (elems s o.a .fp32 m false).bind (fun a => (kept s o.d o.k .pl m false).map (fun keep =>
      let grp (g : Nat) := plGroup m ((List.range 64).map (fun j => decodeF .fp32 (a (64 * g + j))))
      let groups := (List.range 32).map grp
      let qs := packList 1 (groups.flatMap (fun e => e.2.map (plKeep (pc.toNat + 1))))
      (o.d, plReg (fun j => if s.ctx.vec.active o.k j then qs / 2 ^ (8 * j) else keep j)
        (fun g => (groups.map (·.1)).getD g 0) (pc.toNat + 1), .pl)))
  | .vpmerge pc o =>
    let m := o.rm.getD s.ctx.vec.mode
    let r := (source s o.a).1
    if vget r 1 2080 < pc.toNat + 1 then none
    else (elems s o.a .pl m o.sat).bind (fun q => (kept s o.d o.k .fp32 m o.sat).map (fun keep =>
      (o.d, merged s o.k .fp32 (fun j => roundF .fp32 m o.sat (plValue (pc.toNat + 1) (vget r 1 (2048 + j / 64)) (q j))) keep,
        .fp32)))
  | .vbscale f pc o =>
    let m := o.rm.getD s.ctx.vec.mode
    let sc (g : Nat) := vget (source s o.b).1 1 (2048 + g)
    (elems s o.a .fp32 m o.sat).bind (fun a => (kept s o.d o.k f m o.sat).map (fun keep =>
      if f = .pl then
        let isBad (g : Nat) := ((List.range 32).map (fun g => sc g = 255 || (List.range 64).any (fun j =>
          let v := decodeF .fp32 (a (64 * g + j)); v.isNan || v.isInf))).getD g false
        (o.d, plReg
          (fun j => if s.ctx.vec.active o.k j then
              (if isBad (j / 64) then 0 else plKeep (pc.toNat + 1) (plQuant m (sc (j / 64)) (decodeF .fp32 (a j))))
            else keep j)
          (fun g => if isBad g then 255 else sc g) (pc.toNat + 1), .pl)
      else
        (o.d, vreg 1 2048 (fun j => if s.ctx.vec.active o.k j then
            (if sc (j / 64) = 255 then nanBits f else roundF f m o.sat ((decodeF .fp32 (a j)).unscale (sc (j / 64))))
          else keep j), f)))
  | _ => none

/-- What a mask instruction writes: the mask and its bits (R159, R160). -/
def maskResult (s : State) (i : Instr) : Option (BitVec 3 × (Nat → Bool)) :=
  let cmp (f : Fmt) (kd : BitVec 3) (o : VOp) (rI : Int → Int → Bool) (rF : FVal → FVal → Bool) :
      Option (BitVec 3 × (Nat → Bool)) :=
    let m := s.ctx.vec.mode
    (elems s o.a f m false).bind (fun a => (elems s o.b f m false).map (fun b =>
      let rel (j : Nat) := if isIntF f then rI (decodeI f (a j)) (decodeI f (b j)) else rF (decodeF f (a j)) (decodeF f (b j))
      (kd, fun j => (if fbytes f = 2 then rel (2 * j) && rel (2 * j + 1) else rel j) && s.ctx.vec.active o.k j)))
  match i with
  | .vcmpeq f kd o => cmp f kd o (fun x y => decide (x = y)) eqF
  | .vcmplt f kd o => cmp f kd o (fun x y => decide (x < y)) ltF
  | .vcmple f kd o => cmp f kd o (fun x y => decide (x ≤ y)) (fun x y => ltF x y || eqF x y)
  | .vkand kd ka kb _ => some (kd, fun j => (s.ctx.vec.mask ka).getLsbD j && (s.ctx.vec.mask kb).getLsbD j)
  | .vkor kd ka kb _ => some (kd, fun j => (s.ctx.vec.mask ka).getLsbD j || (s.ctx.vec.mask kb).getLsbD j)
  | .vkxor kd ka kb _ => some (kd, fun j => (s.ctx.vec.mask ka).getLsbD j != (s.ctx.vec.mask kb).getLsbD j)
  | .vknot kd ka _ => some (kd, fun j => !(s.ctx.vec.mask ka).getLsbD j)
  | .vkset kd n _ => some (kd, fun j => decide (j < n.toNat))
  | _ => none

/-- The pieces are posted by an engine: a flight of the bytes that they resolve to is added, which leaves the bits of `keep` as it
finds them (R137, R174, R178, R408). -/
def Posts (s u : State) (e : Engine) (h : Handle) (pieces : List Seg) (keep : Nat) (tinfo : Word) : Prop :=
  (h.level = 0 ∨ s.ctx.pageParked h.world (pieces.map (fun p => { p with a := h.base.toNat + p.a })) = false) ∧
  (∀ p ∈ pieces, s.unplaced h p.a p.n = false) ∧
  ∃ w rs, s.resolveMany s.cur h (pieces.map (fun p => (p.a, p.n))) true = .ok (w, rs) ∧
    u = withFlight w ⟨Config.engIdx e, s.iss.age, h.sync, h.world, s.ranges s.iss, s.dcc.toNat, keep, tinfo,
      (rs.zip pieces).flatMap (fun x => cutRuns x.1 x.2.v), [], false, s.iss.line, s.iss.lane⟩

end Sys2Proof.Claim

/-- R103, R104, R111 to R114, R117, R152, R153, R158, R166, R169: vector arithmetic gives D, in every element whose lane is active,
the exact result of its rule rounded once, keeps the others, and tags D with its format; only D, the queue registers read, the
engine and the energy account change. Where it rests on the model's own choice or reading: log entries 20, 88. -/
def Obligations.VectorArithmeticGivesItsElements : Prop :=
  ∀ (i : Instr) (s : State) (f : Fmt) (o : VOp) (r keep : Nat → Nat), arithOf i = some (f, o) → Issues s .vector i →
    arithElems s i f o = some r → kept s o.d o.k f (o.rm.getD s.ctx.vec.mode) o.sat = some keep →
    ∃ t, exec i s = .next t ∧ OnlyIssue s t .vector ∧ Receives (popped s i) s t .vector o.d (merged s o.k f r keep) f

/-- R122, R123, R170, R171, R178 to R180: reductions combine the active elements in the order of the tree, scans give the prefixes,
and the plane instructions split, merge and scale groups; each changes only D. Where it rests on the model's own choice or
reading: log entry 11. -/
def Obligations.VectorReductionsAndPlanesGiveTheirResult : Prop :=
  (∀ (i : Instr) (s : State) (d : VR) (x : VReg) (f : Fmt), reduceResult s i = some (d, x, f) → Issues s .vector i →
    ∃ t, exec i s = .next t ∧ OnlyIssue s t .vector ∧ Receives (popped s i) s t .vector d x f) ∧
  (∀ (i : Instr) (s : State) (d : VR) (x : VReg) (f : Fmt), planeResult s i = some (d, x, f) → Issues s .vector i →
    ∃ t, exec i s = .next t ∧ OnlyIssue s t .vector ∧ Receives (popped s i) s t .vector d x f)

/-- Vector logic, moves and masks. R161 to R168, R172, R173: vector logic, moves, selections, tags, broadcasts and conversions give D
their bits and tag, and change nothing else. R159, R160, R182: compares and mask instructions write every bit of the mask that D
names and no other mask or register, and vrnd sets the vector engine's rounding mode alone. -/
def Obligations.VectorBitsAndMasks : Prop :=
  (∀ (i : Instr) (s : State) (d : VR) (x : VReg) (f : Fmt), logicResult s i = some (d, x, f) → Issues s .vector i →
    ∃ t, exec i s = .next t ∧ OnlyIssue s t .vector ∧ Receives (popped s i) s t .vector d x f) ∧
  ((∀ (i : Instr) (s : State) (kd : BitVec 3) (b : Nat → Bool), maskResult s i = some (kd, b) → Issues s .vector i →
    ∃ t, exec i s = .next t ∧ OnlyIssue s t .vector ∧ Leaves s t .vector ∧
      t.ctx.vec = { popped s i with k := t.ctx.vec.k } ∧
      (∀ k, k ≠ kd → t.ctx.vec.mask k = s.ctx.vec.mask k) ∧
      ∀ j, j < 2048 → (t.ctx.vec.mask kd).getLsbD j = b j) ∧
  (∀ (s : State) (m : RMode) (dp : BitVec 3), Issues s .vector (.vrnd m dp) →
    ∃ t, exec (.vrnd m dp) s = .next t ∧ OnlyIssue s t .vector ∧ Leaves s t .vector ∧
      t.ctx.vec = { s.ctx.vec with mode := m }))

/-- Vector loads and stores. R174, R178, R181: a vector load or gather that passes its checks and resolves gives X the bytes of
memory: each active lane of a load its bytes read in X's format, each active element of a gather the element at its offset, the
others kept. R174, R178, R181: a vector store or scatter that passes its checks posts the bytes of its active lanes or elements,
in the handle's format where that differs, and nothing outside them; no register changes. Where it rests on the model's own choice
or reading: log entry 8. -/
def Obligations.VectorLoadsAndStores : Prop :=
  ((∀ (s u : State) (f : Fmt) (o : MOp) (h : Handle) (c : Option Fmt) (keep : Nat → Nat) (raw : Nat),
    let off := (s.sc o.a).toInt + o.i.toInt
    Issues s .vector (.vld f o) → f ≠ .pl → lsCheck s (s.hrec o.h) rRD f o.k off true o.tag = .ok (h, c) →
    kept s o.x o.k f s.ctx.vec.mode false = some keep →
    s.readParked h (laneBytes off (s.ctx.vec.runs o.k)) = false →
    s.loadLanes 0 h off (s.ctx.vec.runs o.k) = .ok (u, raw) →
    ∃ t, exec (.vld f o) s = .next t ∧ OnlyIssue u t .vector ∧
      Receives u.ctx.vec u t .vector o.x
        (merged s o.k f (fun j => readAs c f s.ctx.vec.mode false (raw / 2 ^ (8 * fbytes f * j) % 2 ^ (8 * fbytes f))) keep) f) ∧
  (∀ (s u : State) (o : MOp) (h : Handle) (c : Option Fmt) (keep : Nat → Nat) (raw : Nat),
    let off := (s.sc o.a).toInt + o.i.toInt
    let p := h.pc.toNat + 1
    Issues s .vector (.vld .pl o) → lsCheck s (s.hrec o.h) rRD .pl o.k off true o.tag = .ok (h, c) →
    kept s o.x o.k .pl s.ctx.vec.mode false = some keep → s.readParked h [(off.toNat, 64 + 256 * p)] = false →
    s.load 0 h off.toNat (64 + 256 * p) (offW off) = .ok (u, raw) →
    ∃ t, exec (.vld .pl o) s = .next t ∧ OnlyIssue u t .vector ∧
      Receives u.ctx.vec u t .vector o.x
        (plReg (fun j => if s.ctx.vec.active o.k j then plElem raw 2048 p j else keep j) (plScaleAt raw) p) .pl) ∧
  (∀ (s u : State) (w : Width) (o : GOp) (h : Handle) (l : List (Nat × Nat)) (m : SMap Nat) (ti : Word),
    let i := Instr.vgather w o
    let r := afterRead s .vector i
    Issues s .vector i → ixCheck r rRD (widthBytes w) o = .ok (h, l) → widthOk h.fmt (widthBytes w) = true →
    r.tileCheck h (l.map (fun e => (e.2, widthBytes w))) true none = none →
    r.readParked h (l.map (fun e => (e.2, widthBytes w))) = false →
    r.loadElems h (widthBytes w) l ti = .ok (u, m) →
    ∃ t, exec i s = .next t ∧ OnlyIssue u t .vector ∧
      Receives u.ctx.vec u t .vector o.x
        (BitVec.ofNat 65536 (mixElems (widthBytes w) (oldElem s o.x (widthBytes w)) 2048 0 m)) h.fmt)) ∧
  ((∀ (s u : State) (f : Fmt) (o : MOp) (h : Handle) (c : Option Fmt) (rd : Nat → Nat),
    let i := Instr.vst f o
    let r := afterRead s .vector i
    let off := (s.sc o.a).toInt + o.i.toInt
    let pieces := storePieces rd c f s.ctx.vec.mode off (s.ctx.vec.runs o.k)
    Issues s .vector i → f ≠ .pl → lsCheck r (r.hrec o.h) rWR f o.k off false o.tag = .ok (h, c) →
    elems s o.x f s.ctx.vec.mode false = some rd → pieces ≠ [] → Posts r u .vector h pieces 0 (offW off) →
    ∃ t, exec i s = .next t ∧ OnlyIssue u t .vector ∧ t.ctx.vec = u.ctx.vec ∧ Leaves u t .vector ∧ t.mem = u.mem) ∧
  (∀ (s r' u : State) (o : MOp) (h : Handle) (c : Option Fmt) (q : Nat → Nat) (old : Nat),
    let i := Instr.vst .pl o
    let r := afterRead s .vector i
    let off := (s.sc o.a).toInt + o.i.toInt
    let p := h.pc.toNat + 1
    Issues s .vector i → lsCheck r (r.hrec o.h) rWR .pl o.k off false o.tag = .ok (h, c) →
    elems s o.x .pl s.ctx.vec.mode false = some q → p ≤ vget (source s o.x).1 1 2080 →
    (if o.k = 0 then r' = r else r.load 0 h off.toNat (64 + 256 * p) (offW off) = .ok (r', old)) →
    Posts r' u .vector h [⟨off.toNat, 64 + 256 * p,
      plTensor 2048 (fun j => if s.ctx.vec.active o.k j then q j else plElem old 2048 p j)
        (fun g => vget (source s o.x).1 1 (2048 + g)) p⟩]
      (if o.k = 0 then 0 else plTensor 2048 (fun j => if s.ctx.vec.active o.k j then 0 else 255) (fun _ => 0) p) (offW off) →
    ∃ t, exec i s = .next t ∧ OnlyIssue u t .vector ∧ t.ctx.vec = u.ctx.vec ∧ Leaves u t .vector ∧ t.mem = u.mem) ∧
  (∀ (s u : State) (w : Width) (o : GOp) (h : Handle) (l : List (Nat × Nat)),
    let i := Instr.vscatter w o
    let r := afterRead s .vector i
    let pieces := l.map (fun e => ⟨e.2, widthBytes w, vget (source s o.x).1 (widthBytes w) e.1⟩)
    Issues s .vector i → ixCheck r rWR (widthBytes w) o = .ok (h, l) →
    widthOk (source s o.x).2 (widthBytes w) = true → pieces ≠ [] →
    Posts (r.charge r.cur 3 (bankLoad h l - 4)) u .vector h pieces 0 (offW (s.sc o.a).toInt) →
    ∃ t, exec i s = .next t ∧ OnlyIssue u t .vector ∧ t.ctx.vec = u.ctx.vec ∧ Leaves u t .vector ∧ t.mem = u.mem))

namespace Sys2Proof.Claim

/-! ## The matrix engine -/

/-- Only the matrix engine, its registers, the vector registers and the energy account changed. -/
def OnlyMatrix (s t : State) : Prop :=
  OnlyMoving s t ∧
  t.ctx = { s.ctx with vec := t.ctx.vec, mat := t.ctx.mat, eng := t.ctx.eng, en := t.ctx.en } ∧
  ∀ x, x ≠ Engine.matrix → t.eng x = s.eng x

/-- The 128 by 128 FP32 values in eight slots of the register file from a base on are given, and no other slot, tag, mask or
queue differs (R185, R144). -/
def TileSet (v w : Vec) (base : Nat) (r : Nat → Nat → Nat) : Prop :=
  (∀ i j, i < 128 → j < 128 → w.tile base i j = r i j % 2 ^ 32) ∧
  (∀ n, n < base ∨ base + 8 ≤ n → SMap.get 0 w.r n = SMap.get 0 v.r n) ∧ w = { v with r := w.r }

/-- An accumulator is set, and IN and OUT of it restart at row 0 (R186). -/
def AccSet (v : Vec) (s t : State) (a : BitVec 4) (r : Nat → Nat → Nat) : Prop :=
  TileSet v t.ctx.vec (v.accBase a.toNat) r ∧
  t.ctx.mat = { s.ctx.mat with inn := SMap.set 0 s.ctx.mat.inn a.toNat 0, out := SMap.set 0 s.ctx.mat.out a.toNat 0 }

/-- The accumulator that a register-only instruction sets, with its elements (R204). -/
def accResult (s : State) : Instr → Option (BitVec 4 × (Nat → Nat → Nat))
  | .mzero a _ => some (a, fun _ _ => 0)
  | .maccmov a b _ => some (a, fun i j => s.ctx.vec.acc b.toNat i j)
  | .mscale a x _ =>
    (elems s x .fp32 s.ctx.mat.mode false).map (fun e => (a, fun i j =>
      roundF .fp32 s.ctx.mat.mode false (mulF (decodeF .fp32 (s.ctx.vec.acc a.toNat i j)) (decodeF .fp32 (e j)))))
  | .mbias a x _ =>
    (elems s x .fp32 s.ctx.mat.mode false).map (fun e => (a, fun i j =>
      roundF .fp32 s.ctx.mat.mode false (sumF s.ctx.mat.mode [decodeF .fp32 (s.ctx.vec.acc a.toNat i j), decodeF .fp32 (e j)])))
  | _ => none

/-- The sum of R121: the accumulator's element and all products, exact, rounded once. -/
def pass (m : RMode) (acc : Nat) (n : Nat) (a b : Nat → FVal) : Nat :=
  roundF .fp32 m false (sumF m (decodeF .fp32 acc :: (List.range n).map (fun k => mulF (a k) (b k))))

/-- A weight as a value. -/
def weightVal (s : State) (k j : Nat) : FVal := decodeF .fp32 (s.ctx.vec.weight k j)

/-- The rows that a drain covers (R199). -/
def rowsOf (r : BitVec 8) : Nat := if r = 0 then 128 else r.toNat

/-- Element j of drained row q, converted (R199): +0 beyond TN. -/
def drainElem (s : State) (a : BitVec 4) (f : Fmt) (m : RMode) (sat : Bool) (q j : Nat) : Nat :=
  if j < s.ctx.mat.tn then
    convert .fp32 f m sat (s.ctx.vec.acc a.toNat ((SMap.get 0 s.ctx.mat.out a.toNat + q) % 128) j)
  else 0

/-- OUT goes on by the rows drained (R199), and nothing else of the matrix registers changes. -/
def DrainedBy (s t : State) (a : BitVec 4) (n : Nat) : Prop :=
  t.ctx.mat = { s.ctx.mat with
    out := SMap.set 0 s.ctx.mat.out a.toNat ((SMap.get 0 s.ctx.mat.out a.toNat + n) % 128) }

end Sys2Proof.Claim

/-- Accumulators, and the matrix engine's configuration. R204, R186: mzero, maccmov, mscale and mbias set every element of their
accumulator, restart its row positions, and change no other register. R204, R205, R212: mswap exchanges two accumulators, mcfg
sets TM, TK and TN, mrnd sets the mode, and mpre, once its checks pass, changes no register. -/
def Obligations.AccumulatorsAndConfiguration : Prop :=
  (∀ (i : Instr) (s : State) (a : BitVec 4) (r : Nat → Nat → Nat), accResult s i = some (a, r) → Issues s .matrix i →
    ∃ t, exec i s = .next t ∧ OnlyMatrix s t ∧ AccSet (popped s i) s t a r ∧ Leaves s t .matrix) ∧
  ((∀ (s : State) (a b dp), Issues s .matrix (.mswap a b dp) →
    a = b ∨ s.ctx.vec.accBase a.toNat ≠ s.ctx.vec.accBase b.toNat →
    ∃ t, exec (.mswap a b dp) s = .next t ∧ OnlyMatrix s t ∧ Leaves s t .matrix ∧
      (∀ i j, i < 128 → j < 128 → t.ctx.vec.acc a.toNat i j = s.ctx.vec.acc b.toNat i j ∧
        t.ctx.vec.acc b.toNat i j = s.ctx.vec.acc a.toNat i j) ∧
      t.ctx.mat.tm = s.ctx.mat.tm ∧ t.ctx.mat.tk = s.ctx.mat.tk ∧ t.ctx.mat.tn = s.ctx.mat.tn ∧
      t.ctx.vec = { s.ctx.vec with r := t.ctx.vec.r }) ∧
  (∀ (s : State) (m k n : BitVec 7) (dp), Issues s .matrix (.mcfg m k n dp) →
    ∃ t, exec (.mcfg m k n dp) s = .next t ∧ OnlyMatrix s t ∧ Leaves s t .matrix ∧ t.ctx.vec = s.ctx.vec ∧
      t.ctx.mat = { s.ctx.mat with tm := m.toNat + 1, tk := k.toNat + 1, tn := n.toNat + 1 }) ∧
  (∀ (s : State) (m : RMode) (dp), Issues s .matrix (.mrnd m dp) →
    ∃ t, exec (.mrnd m dp) s = .next t ∧ OnlyMatrix s t ∧ Leaves s t .matrix ∧ t.ctx.vec = s.ctx.vec ∧
      t.ctx.mat = { s.ctx.mat with mode := m }) ∧
  (∀ (s : State) (o : MHOp) (h : Handle), Issues s .matrix (.mpre o) → s.hrec o.h = some h → h.has rRD = true →
    s.levelFound h true = none → 0 ≤ s.mhOff o → s.mhOff o < (h.len.toNat : Int) → s.mhOff o % 64 = 0 →
    (h.level = 0 → s.inPartition h (s.mhOff o).toNat (Nat.min 65536 (h.len.toNat - (s.mhOff o).toNat)) = true) →
    ∃ t, exec (.mpre o) s = .next t ∧ OnlyMatrix s t ∧ Leaves s t .matrix ∧ t.ctx.vec = s.ctx.vec ∧ t.ctx.mat = s.ctx.mat))

/-- Weight loads from memory and from a queue. R191, R192: a weight load whose operand is read sets the weights of its TK by TN tile
to the operand's values rounded to FP32, +0 elsewhere, with the format of the pair; mldg rounds FP32 to BF16. R193: a weight load
from a queue register whose entries are present and accepted pops one entry for each of its rows of weights, sets the weights row
by row from them, +0 outside the tile, and leaves. Where it rests on the model's own choice or reading: log entries 12, 14. -/
def Obligations.WeightsAreLoaded : Prop :=
  ((∀ (s u : State) (f : Fmt) (o : MHOp) (x : Nat → Nat → Nat), Issues s .matrix (.mldw f o) →
    matRead s o (Config.fmtCode f) 1 f s.ctx.mat.tk s.ctx.mat.tn = .ok (u, x) →
    ∃ t, exec (.mldw f o) s = .next t ∧ OnlyMatrix u t ∧ Leaves u t .matrix ∧
      TileSet u.ctx.vec t.ctx.vec 320 (fun k j => if k < u.ctx.mat.tk ∧ j < u.ctx.mat.tn then
        roundF .fp32 u.ctx.mat.mode false (elemVal f (o.pc.toNat + 1) (x k j)) else 0) ∧
      t.ctx.mat = { u.ctx.mat with wfmt := f, wpc := if f = .pl then o.pc else 0 }) ∧
  (∀ (s u : State) (o : MHOp) (x : Nat → Nat → Nat), Issues s .matrix (.mldg o) →
    matRead s o 16 1 .fp32 s.ctx.mat.tk s.ctx.mat.tn = .ok (u, x) →
    ∃ t, exec (.mldg o) s = .next t ∧ OnlyMatrix u t ∧ Leaves u t .matrix ∧
      TileSet u.ctx.vec t.ctx.vec 320 (fun k j => if k < u.ctx.mat.tk ∧ j < u.ctx.mat.tn then
        roundF .fp32 u.ctx.mat.mode false (decodeF .bf16 (convert .fp32 .bf16 u.ctx.mat.mode false (x k j))) else 0) ∧
      t.ctx.mat = { u.ctx.mat with wfmt := .bf16, wpc := 0 })) ∧
  (∀ (s : State) (f : Fmt) (q : BitVec 5) (dp : BitVec 3) (rd : Nat → Nat → Nat),
    let m := s.ctx.mat
    let rpe := rowsPerEntry f
    let n := (m.tk + rpe - 1) / rpe
    let ahead := s.ctx.vec.ahead q.toNat
    let entry (e : Nat) := ahead.getD e (s.ctx.vec.slot (qSlot q.toNat (s.ctx.vec.qhead q.toNat + (e - ahead.length))))
    Issues s .matrix (.mldwq f q dp) → (s.eng .matrix).made = 0 → n ≤ s.ctx.vec.qcount q.toNat →
    (∀ e, e < n → (tagCheck s.ctx.tagmode (entry e).2 f).map (fun c j => readAs c f m.mode false (vget (entry e).1 (fbytes f) j)) =
      some (rd e)) →
    ∃ t, exec (.mldwq f q dp) s = .next t ∧ OnlyMatrix s t ∧ Leaves s t .matrix ∧
      (∀ k j, k < 128 → j < 128 → t.ctx.vec.weight k j = (if k < m.tk ∧ j < m.tn then
        roundF .fp32 m.mode false (decodeF .fp32
          (roundF .fp32 m.mode false (decodeF f (rd (k / rpe) ((k - k / rpe * rpe) * 128 + j))) % 2 ^ 32))
        else 0) % 2 ^ 32) ∧
      t.ctx.vec.qcount q.toNat = s.ctx.vec.qcount q.toNat - n ∧
      t.ctx.mat = { m with wfmt := f, wpc := 0, before := [], popped := [] })

/-- R121, R190, R195, R196, R211: a pass adds to each element of the accumulator's tile (or to +0) every product of its activation row
and weight column, exactly, and rounds once; mmulq does so for the rows of one entry from IN on, which goes on; mldacc loads or
adds. Elements outside the tile, other registers and memory do not change. Where it rests on the model's own choice or reading:
log entries 12, 90, 91. -/
def Obligations.PassesSumTheirProductsOnce : Prop :=
  (∀ (s u : State) (f : Fmt) (a : BitVec 4) (o : MHOp) (x : Nat → Nat → Nat), Issues s .matrix (.mmul f a o) →
    matRead s o (32 + Config.fmtCode f) 0 f s.ctx.mat.tm s.ctx.mat.tk = .ok (u, x) → pairOk f s.ctx.mat.wfmt = true →
    ∃ t, exec (.mmul f a o) s = .next t ∧ OnlyMatrix u t ∧ Leaves u t .matrix ∧
      AccSet u.ctx.vec u t a (fun i j => if i < s.ctx.mat.tm ∧ j < s.ctx.mat.tn then
        pass s.ctx.mat.mode (if o.ac then u.ctx.vec.acc a.toNat i j else 0) s.ctx.mat.tk
          (fun k => elemVal f (o.pc.toNat + 1) (x i k)) (fun k => weightVal u k j)
        else u.ctx.vec.acc a.toNat i j)) ∧
  (∀ (s : State) (f : Fmt) (a : BitVec 4) (q : BitVec 5) (pk : Bool) (dp : BitVec 3) (rd : Nat → Nat),
    let i := Instr.mmulq f a q pk dp
    let n := Nat.min s.ctx.mat.tm (rowsPerEntry f)
    let r0 := SMap.get 0 s.ctx.mat.inn a.toNat
    Issues s .matrix i → elems s (if pk then .pk q else .q q) f s.ctx.mat.mode false = some rd →
    pairOk f s.ctx.mat.wfmt = true →
    ∃ t, exec i s = .next t ∧ OnlyMatrix s t ∧ Leaves s t .matrix ∧
      TileSet (popped s i) t.ctx.vec (s.ctx.vec.accBase a.toNat) (fun r j =>
        let p := (r + 128 - r0) % 128
        if p < n ∧ j < s.ctx.mat.tn then
          pass s.ctx.mat.mode (s.ctx.vec.acc a.toNat r j) s.ctx.mat.tk (fun k => decodeF f (rd (p * 128 + k))) (fun k => weightVal s k j)
        else s.ctx.vec.acc a.toNat r j) ∧
      t.ctx.mat = { s.ctx.mat with
        inn := SMap.set 0 s.ctx.mat.inn a.toNat ((r0 + n) % 128), out := SMap.set 0 s.ctx.mat.out a.toNat 0 }) ∧
  (∀ (s u : State) (a : BitVec 4) (o : MHOp) (x : Nat → Nat → Nat), Issues s .matrix (.mldacc a o) →
    matRead s o 48 0 .fp32 s.ctx.mat.tm s.ctx.mat.tn = .ok (u, x) →
    ∃ t, exec (.mldacc a o) s = .next t ∧ OnlyMatrix u t ∧ Leaves u t .matrix ∧
      AccSet u.ctx.vec u t a (fun i j => if i < s.ctx.mat.tm ∧ j < s.ctx.mat.tn then
        (if o.ac then roundF .fp32 s.ctx.mat.mode false
          (sumF s.ctx.mat.mode [decodeF .fp32 (u.ctx.vec.acc a.toNat i j), decodeF .fp32 (x i j)]) else x i j)
        else u.ctx.vec.acc a.toNat i j))

/-- R199 to R202: a drain converts its rows from OUT on: mdrain pushes them entry by entry while the queue has room and waits with the
rest, mdrainc and mdrainp post them at their pitch or as a PL tensor; OUT goes on by the rows drained. Where it rests on the
model's own choice or reading: log entry 13. -/
def Obligations.DrainsConvertTheirRows : Prop :=
  (∀ (s : State) (f : Fmt) (a : BitVec 4) (q : BitVec 5) (rows : BitVec 8) (dp : BitVec 3),
    let i := Instr.mdrain f a q rows dp
    let n := rowsOf rows
    let rpe := rowsPerEntry f
    let cnt := (n + rpe - 1) / rpe
    let entry (e : Nat) : VReg := vreg (fbytes f) (8192 / fbytes f) (fun j =>
      if e * rpe + j / 128 < n then drainElem s a f s.ctx.mat.mode false (e * rpe + j / 128) (j % 128) else 0)
    let room := 4 - s.ctx.vec.qcount q.toNat
    Issues s .matrix i →
    ∃ t, exec i s = .next t ∧ OnlyMatrix s t ∧
      t.ctx.vec = (List.range (Nat.min cnt room)).foldl (fun v e => v.push q.toNat (entry e) f) s.ctx.vec ∧
      (cnt ≤ room → Leaves s t .matrix ∧ DrainedBy s t a n) ∧
      (room < cnt → (t.eng .matrix).stall = .push q.toNat ∧ (t.eng .matrix).pushes.length = cnt - room)) ∧
  (∀ (s u : State) (f : Fmt) (a : BitVec 4) (o : MDOp) (h : Handle) (c : Option Fmt),
    let i := Instr.mdrainc f a o
    let m := o.rm.getD s.ctx.mat.mode
    let w := s.ctx.mat.tn * fbytes f
    let g : Geo := ⟨rowsOf o.rows, w, h.pitch w⟩
    Issues s .matrix i → matHandle s (s.hrec o.h) rWR 2 false (s.mdOff o) = .ok h →
    matSpan s h (s.mdOff o) g.span f = .ok c →
    Posts s u .matrix h ((List.range (rowsOf o.rows)).map (fun q =>
      ⟨(s.mdOff o).toNat + q * g.pitch, w, packElems (fbytes f) s.ctx.mat.tn (fun j =>
        let x := drainElem s a f m o.sat q j
        match c with | some d => convert f d m false x | none => x)⟩)) 0 (offW (s.mdOff o)) →
    ∃ t, exec i s = .next t ∧ OnlyMatrix u t ∧ Leaves u t .matrix ∧ DrainedBy u t a (rowsOf o.rows) ∧
      t.ctx.vec = u.ctx.vec) ∧
  (∀ (s u : State) (a : BitVec 4) (o : MDOp) (h : Handle) (c : Option Fmt),
    let i := Instr.mdrainp a o
    let m := o.rm.getD s.ctx.mat.mode
    let n := rowsOf o.rows
    let p := h.pc.toNat + 1
    let groups := (List.range (2 * n)).map (fun g => plGroup m ((List.range 64).map (fun j =>
      decodeF .fp32 (drainElem s a .fp32 m false (g / 2) (g % 2 * 64 + j)))))
    let qs := packList 1 (groups.flatMap (fun e => e.2.map (plKeep p)))
    Issues s .matrix i → matHandle s (s.hrec o.h) rWR 2 false (s.mdOff o) = .ok h →
    matSpan s h (s.mdOff o) (plArea (128 * n) + p * (16 * n)) .pl = .ok c → h.fmt = .pl →
    Posts s u .matrix h [⟨(s.mdOff o).toNat, plArea (128 * n) + p * (16 * n),
      plTensor (128 * n) (fun j => qs / 2 ^ (8 * j)) (fun g => (groups.map (·.1)).getD g 0) p⟩] 0 (offW (s.mdOff o)) →
    ∃ t, exec i s = .next t ∧ OnlyMatrix u t ∧ Leaves u t .matrix ∧ DrainedBy u t a n ∧ t.ctx.vec = u.ctx.vec)

namespace Sys2Proof.Claim

/-! ## Traps of engines -/

/-- An engine freezes at the trap of the instruction it issues, once no other trap of it is pending (R364 to R366): nothing else
changes. -/
def Freezes (s t : State) (e : Engine) (code : BitVec 8) (ti : Word) : Prop :=
  OnlyMoving s t ∧ t.ctx = { s.ctx with eng := t.ctx.eng } ∧ (∀ x, x ≠ e → t.eng x = s.eng x) ∧
  t.eng e = if (s.eng e).pend.isSome then s.eng e else { s.eng e with
    frozen := true, stall := .none, stalled := 0, pend := some ⟨false, code, ti, s.iss.line, s.iss.lane, s.dcc, false⟩ }

/-! ## The pump -/

/-- Only the pump, its engine, the tiles' READY and the translation caches changed. -/
def OnlyPump (s t : State) : Prop :=
  t = { s with ctxs := t.ctxs, tiles := t.tiles, worlds := t.worlds } ∧ (∀ k, k ≠ s.cur → t.ctxAt k = s.ctxAt k) ∧
  t.ctx = { s.ctx with pump := t.ctx.pump, eng := t.ctx.eng } ∧ ∀ x, x ≠ Engine.pump → t.eng x = s.eng x

/-- A command as it enters the buffer in a cycle, bound to a generation of its code table (R285, R310). -/
def entered (s : State) : PCmd :=
  { cap := s.iss, issue := s.dcc, gen := s.ctx.pump.genOf s.iss.instr, start := 0, fin := 0, wait := false, page := (0, 0), inv := false,
    win := false, rd := [], wr := [], data := 0, bad := none }

/-! ## The halo engine -/

/-- Only one grid of the moving context, and the halo engine, changed. -/
def OnlyGrid (s t : State) (g : BitVec 4) : Prop :=
  OnlyMoving s t ∧ t.ctx = { s.ctx with grids := t.ctx.grids, eng := t.ctx.eng } ∧
  (∀ n, n ≠ g.toNat → t.ctx.grid n = s.ctx.grid n) ∧ ∀ x, x ≠ Engine.halo → t.eng x = s.eng x

/-- What a declaration gives a declared grid that is not active (R329). -/
def declares (s : State) (r : Grid) : Instr → Option (BitVec 4 × Grid)
  | .gbind g e _ => some (g, { r with bind := some e })
  | .gbound g face rule _ =>
    let x := r.face (faceNum face)
    some (g, r.setFace (faceNum face)
      (if rule = .periodic then { x with conn := false, rule := some .periodic }
       else { x with conn := false, rule := some rule, peer := none, kind := .die }))
  | .gdepth g b a _ =>
    let n := (s.sc a).toNat
    if 1 ≤ n ∧ n ≤ 8 then some (g, { r with rad := n, depth := b.toNat + 1, w := (b.toNat + 1) * n }) else none
  | .gface g face kind a _ =>
    let x := r.face (faceNum face)
    some (g, r.setFace (faceNum face)
      (if x.rule = some .periodic then { x with conn := false, kind := kind, peer := some (s.sc a) }
       else { x with conn := true, rule := none, kind := kind, peer := some (s.sc a) }))
  | _ => none

/-! ## The signature engine -/

/-- Only the accumulator and the signature engine changed. -/
def OnlySig (s t : State) : Prop :=
  OnlyMoving s t ∧ t.ctx = { s.ctx with sig := t.ctx.sig, eng := t.ctx.eng } ∧ ∀ x, x ≠ Engine.signature → t.eng x = s.eng x

/-- The levels up to the depth hold the given elements; dimension, depth and the levels beyond keep theirs (R341). -/
def LevelsAre (g r : Sig) (f : Nat → Nat → Nat) : Prop :=
  r.dim = g.dim ∧ r.depth = g.depth ∧
  (∀ k e, 1 ≤ k → k ≤ 4 → k ≤ g.depth → e < g.dim ^ k → r.at_ k e = f k e % 2 ^ 32) ∧
  ∀ k, 1 ≤ k → k ≤ 4 → g.depth < k → r.level k = g.level k

/-- An increment (R348): the product with the exponential of Δ, HI one more. -/
def incremented (g : Sig) (delta : Nat → Nat) : Sig :=
  { g.setLevels (sigMul g.dim g.at_ (sigExpInc g.dim delta)) with hi := g.hi + 1 }

end Sys2Proof.Claim

/-- An engine's trap freezes it, and an empty queue holds its reader. R146, R364, R366: an engine instruction that names a register of
a lent bank, or an accumulator of a group that is not lent, freezes its engine with BANKBUSY and has no other effect; so does a
pump command with an empty or unsuited record (NOHANDLE, RIGHTS), and a vtag whose captured tag is reserved (TAG). While another
trap of the engine is pending it waits. R133, R135: an engine instruction that reads an empty queue register waits at its head,
for the lowest-numbered empty one, and the count of its stall starts; nothing else changes. Where it rests on the model's own
choice or reading: log entries 87, 92. -/
def Obligations.EngineTrapsAndEmptyQueues : Prop :=
  ((∀ (i : Instr) (e : Engine) (s : State) (ti : Word), engineOf i = some e → s.iss.instr = i → (s.eng e).pushes = [] →
    s.ctx.vec.bankCheck i = some ti → ∃ t, exec i s = .next t ∧ Freezes s t e tBANKBUSY ti) ∧
  (∀ (i : Instr) (o : POp) (rows : Nat) (be : Bool) (s : State), pop? i = some (o, rows, be) → Issues s .pump i →
    s.ctx.pump.buf.length < 32 → s.ctx.pump.live o.cid.toNat = false →
    let g := s.pgeo s.iss
    (g.hd = some none → ∃ t, exec i s = .next t ∧ Freezes s t .pump tNOHANDLE (offW (s.sc o.od).toInt)) ∧
    (∀ h, g.hd = some (some h) → h.has rWR = false →
      ∃ t, exec i s = .next t ∧ Freezes s t .pump tRIGHTS (offW (s.sc o.od).toInt)) ∧
    ((g.hd = none ∨ ∃ h, g.hd = some (some h) ∧ h.has rWR = true) →
      (g.hs = some none → ∃ t, exec i s = .next t ∧ Freezes s t .pump tNOHANDLE (offW (s.sc o.os).toInt)) ∧
      (∀ h, g.hs = some (some h) → h.has rRD = false →
        ∃ t, exec i s = .next t ∧ Freezes s t .pump tRIGHTS (offW (s.sc o.os).toInt)))) ∧
  (∀ (f : Fmt) (o : VOp) (s : State), Issues s .vector (.vtag f o) → 11 ≤ s.iss.auxTag → (s.eng .vector).pend = none →
    ∃ t, exec (.vtag f o) s = .next t ∧ (t.eng .vector).frozen = true ∧ (t.eng .vector).q = (s.eng .vector).q ∧
      (t.eng .vector).pend =
        some ⟨false, tTAG, word (6 * 256 + s.iss.auxTag * 16), s.iss.line, s.iss.lane, s.dcc, false⟩)) ∧
  (∀ (i : Instr) (e : Engine) (s : State) (q : Nat), engineOf i = some e → s.iss.instr = i → (s.eng e).pushes = [] →
    (s.eng e).latched = false → s.ctx.vec.bankCheck i = none → s.ctx.vec.firstEmpty (queueReads i) = some q →
    ∃ t, exec i s = .next t ∧ OnlyMoving s t ∧ t.ctx = { s.ctx with eng := t.ctx.eng } ∧
      (∀ x, x ≠ e → t.eng x = s.eng x) ∧
      t.eng e = (if (s.eng e).stall = .read q then s.eng e else { s.eng e with stall := .read q, stalled := 0 }))

/-- R285, R294, R299 to R305, R310, R311: each of pcopy, pcopy2d, pcopyd, pcopyhIn, pcopyhOut, pover, pcmd, pprefetch, pfill, ptagset
and ptagchk whose checks pass, and each pevent with a target, answers a next state, in which the command has entered the buffer
with its values, its issue cycle and its table generation; READY of the tiles that it writes gets its estimated end, which for a
reserved command is the later of T and the next cycle plus its duration, and for a best-effort one 2^64 − 1. Where it rests on the
model's own choice or reading: log entry 17. -/
def Obligations.PumpCommandsEnterTheBuffer : Prop :=
  (∀ (i : Instr) (o : POp) (rows : Nat) (be : Bool) (s u : State), pop? i = some (o, rows, be) → Issues s .pump i →
    s.ctx.pump.buf.length < 32 → s.ctx.pump.live o.cid.toNat = false → pumpChecks s s.iss o (s.pgeo s.iss) = .ok u →
    ∃ t, exec i s = .next t ∧ OnlyPump u t ∧ Leaves s t .pump ∧
      t.ctx.pump = { s.ctx.pump with buf := s.ctx.pump.buf ++ [entered s] } ∧
      ∀ k, (t.tile k).tag = (s.tile k).tag ∧ (t.tile k).base = (s.tile k).base ∧
        (t.tile k).ests = (s.tile k).ests ++ (if (s.pgeo s.iss).tiles.contains k then
          [(estId s.cur s.iss.age, if be then 0xFFFFFFFFFFFFFFFF#64 else
            word (min (max (s.sc o.t).toNat (s.dcc.toNat + 1) + (s.ptime s.iss (s.pgeo s.iss)).2) (2 ^ 64 - 1)))] else [])) ∧
  (∀ (e : BitVec 6) (a b : BitVec 5) (dp : BitVec 3) (x : Nat × Nat) (s : State), Issues s .pump (.pevent e a b dp) →
    s.ctx.pump.buf.length < 32 → s.target (s.sc b) = some x →
    ∃ t, exec (.pevent e a b dp) s = .next t ∧ OnlyPump s t ∧ Leaves s t .pump ∧ t.tiles = s.tiles ∧
      t.ctx.pump = { s.ctx.pump with buf := s.ctx.pump.buf ++ [entered s] })

/-- R306, R307, R310, R412: ptab puts 256 bytes of its record into the other generation of its slot, which later commands bind to and
which loads until its copy would end; pcancel takes its command out of the buffer, or off the pump, and notes the acknowledgement
four cycles later; pflush empties the buffer and acknowledges the handles it had. A command taken out counts for the range checker
to the end of the cycle, a started one until it stops four cycles later. -/
def Obligations.PumpTablesCancelsAndFlushes : Prop :=
  (∀ (h : BitVec 6) (n : BitVec 4) (dp : BitVec 3) (r : Handle) (s u : State) (data : Nat),
    let slot := SMap.get Tab.reset s.ctx.pump.tabs n.toNat
    let g := !slot.cur
    Issues s .pump (.ptab h n dp) → s.ctx.pump.buf.length < 32 →
    ((slot.gen g).present = false ∨ s.ctx.pump.uses n.toNat g = false) →
    s.hrec h = some r → r.has rRD = true → r.level ≠ 2 → 256 ≤ r.len.toNat → s.readWaits r 0 256 = false →
    s.load 2 r 0 256 0 = .ok (u, data) →
    ∃ t, exec (.ptab h n dp) s = .next t ∧ OnlyPump u t ∧ Leaves u t .pump ∧ t.ctx.pump = { u.ctx.pump with
      tabs := SMap.set Tab.reset u.ctx.pump.tabs n.toNat { slot.setGen g ⟨true, false,
        some (word (min (u.dcc.toNat + pathB (u.pathOf r) + (256 + pathW (u.pathOf r) - 1) / pathW (u.pathOf r)) (2 ^ 64 - 1))),
        data, s.iss.line, s.iss.lane, some r⟩ with cur := g } }) ∧
  (∀ (c : BitVec 4) (dp : BitVec 3) (s : State), Issues s .pump (.pcancel c dp) → s.ctx.pump.buf.length < 32 →
    ∃ t, exec (.pcancel c dp) s = .next t ∧ Leaves s t .pump ∧
      match s.ctx.pump.buf.find? (fun x => x.cid = c.toNat), s.ctx.pump.fly.find? (fun x => x.cid = c.toNat) with
      | some x, _ => OnlyPump s t ∧ t.tiles = (s.settle s.cur [x.cap.age]).tiles ∧ t.ctx.pump = { s.ctx.pump with
          buf := s.ctx.pump.buf.filter (fun y => y.cap.age ≠ x.cap.age)
          ended := s.ctx.pump.ended ++
            (s.ctx.pump.buf.filter (fun y => y.cap.age = x.cap.age)).map (fun y => (y, s.dcc.toNat))
          cancels := s.ctx.pump.cancels ++ [(c.toNat, s.dcc + 4, true)] }
      | none, some x => (x.win = false → OnlyPump s t) ∧ t.tiles = (s.settle s.cur [x.cap.age]).tiles ∧
          (∀ a, (∀ r ∈ x.wr, a < r.1 ∨ r.1 + r.2 ≤ a) → t.mem.read a 1 = s.mem.read a 1) ∧
          t.ctx.pump = { s.ctx.pump with
            fly := s.ctx.pump.fly.filter (fun y => y.cap.age ≠ x.cap.age)
            ended := s.ctx.pump.ended ++
              (s.ctx.pump.fly.filter (fun y => y.cap.age = x.cap.age)).map (fun y => (y, s.dcc.toNat + 4))
            cancels := s.ctx.pump.cancels ++ [(c.toNat, s.dcc + 4, true)] }
      | none, none => OnlyPump s t ∧ t.tiles = s.tiles ∧
          t.ctx.pump = { s.ctx.pump with cancels := s.ctx.pump.cancels ++ [(c.toNat, s.dcc + 4, false)] }) ∧
  (∀ (dp : BitVec 3) (s : State), Issues s .pump (.pflush dp) → s.ctx.pump.buf.length < 32 →
    ∃ t, exec (.pflush dp) s = .next t ∧ OnlyPump s t ∧ Leaves s t .pump ∧
      t.tiles = (s.settle s.cur (s.ctx.pump.buf.map (fun x => x.cap.age))).tiles ∧
      t.ctx.pump = { s.ctx.pump with
        buf := [], ended := s.ctx.pump.ended ++ s.ctx.pump.buf.map (fun x => (x, s.dcc.toNat))
        hit := t.ctx.pump.hit, ack := t.ctx.pump.ack } ∧
      ∀ n, n < 16 →
        t.ctx.pump.ack.getLsbD n = (s.ctx.pump.ack.getLsbD n || s.ctx.pump.buf.any (fun x => x.cid = n ∧ n ≠ 0)) ∧
        t.ctx.pump.hit.getLsbD n = (s.ctx.pump.hit.getLsbD n || s.ctx.pump.buf.any (fun x => x.cid = n ∧ n ≠ 0))) ∧
  decodeTableWord 32 0x62200000 = some (.pflush 0)

/-- Grid instructions, and the start of an exchange. R317, R329, R331, R332: gdecl declares a grid from its record; gbind, gbound,
gdepth and gface set its bound counter, boundary rules, width and faces; gstep advances STEP, greset returns it to 0 with no face
holding a step, gfree removes it. R322, R326, R330, R332: gxchg on a grid with no exchange in progress, whose checks pass, makes
the grid active, sets XSTEP to STEP, starts its first phase, and holds the grid's bytes until it completes. Where it rests on the
model's own choice or reading: log entry 9. -/
def Obligations.GridsAndExchangesAreSet : Prop :=
  ((∀ (g : BitVec 4) (h : BitVec 6) (dp : BitVec 3) (r : Handle) (s : State), Issues s .halo (.gdecl g h dp) →
    s.grid g = none → s.hrec h = some r → r.has rRD = true → r.has rWR = true → s.isOwn r = true → r.nx ≠ 0 →
    (r.nz = 0 ∨ r.ny ≠ 0) → (r.fmt = .fp32 ∨ r.fmt = .fp16 ∨ r.fmt = .bf16) →
    ∃ t q, exec (.gdecl g h dp) s = .next t ∧ OnlyGrid s t g ∧ Leaves s t .halo ∧ t.grid g = some q ∧ q.hd = r ∧
      q.dims = (if r.ny = 0 then 1 else if r.nz = 0 then 2 else 3) ∧ q.nx = r.nx ∧ q.ny = max 1 r.ny ∧ q.nz = max 1 r.nz ∧
      q.ew = (if r.fmt = .fp32 then 4 else 2) ∧ q.rad = 1 ∧ q.depth = 1 ∧ q.w = 1 ∧ q.step = 0 ∧ q.xstep = none ∧
      q.active = false ∧ q.bind = none ∧ q.phase = 0 ∧ ∀ f, q.face f = FaceSt.none) ∧
  (∀ (i : Instr) (g : BitVec 4) (r q : Grid) (s : State), declares s r i = some (g, q) → Issues s .halo i →
    s.grid g = some r → r.active = false →
    ∃ t, exec i s = .next t ∧ OnlyGrid s t g ∧ Leaves s t .halo ∧ t.grid g = some q) ∧
  (∀ (g : BitVec 4) (dp : BitVec 3) (r : Grid) (s : State), s.grid g = some r →
    (Issues s .halo (.gstep g dp) → r.active = true → (r.step + 1 - r.xstep.getD 0).toNat ≤ r.depth →
      ∃ t, exec (.gstep g dp) s = .next t ∧ OnlyGrid s t g ∧ Leaves s t .halo ∧ t.grid g = some { r with step := r.step + 1 }) ∧
    (Issues s .halo (.greset g dp) → r.phase = 0 →
      ∃ t q, exec (.greset g dp) s = .next t ∧ OnlyGrid s t g ∧ Leaves s t .halo ∧ t.grid g = some q ∧
        q = { r with step := 0, xstep := none, active := false, faces := q.faces } ∧
        ∀ f, q.face f = { r.face f with hstep := none }) ∧
    (Issues s .halo (.gfree g dp) → r.phase = 0 →
      ∃ t, exec (.gfree g dp) s = .next t ∧ OnlyGrid s t g ∧ Leaves s t .halo ∧ t.grid g = none))) ∧
  (∀ (g : BitVec 4) (dp : BitVec 3) (r : Grid) (s : State), Issues s .halo (.gxchg g dp) → s.grid g = some r → r.phase = 0 →
    s.live (some r.hd) = some r.hd →
    (if r.active then (r.step - r.xstep.getD 0).toNat = r.depth else s.gridCheck r = none) →
    s.inPartition r.hd 0 r.size = true →
    ∃ t q, exec (.gxchg g dp) s = .next t ∧ OnlyMoving s t ∧
      t.ctx = { s.ctx with grids := t.ctx.grids, eng := t.ctx.eng, fl := t.ctx.fl } ∧
      (∀ n, n ≠ g.toNat → t.ctx.grid n = s.ctx.grid n) ∧ Leaves s t .halo ∧ t.grid g = some q ∧
      q.active = true ∧ q.xstep = some r.step ∧ q.step = r.step ∧ q.phase = 1 ∧ q.issued = s.dcc ∧ q.hd = r.hd ∧
      q.w = r.w ∧ q.depth = r.depth ∧ q.bind = r.bind ∧ (q.nx, q.ny, q.nz, q.dims) = (r.nx, r.ny, r.nz, r.dims) ∧
      (∀ f, q.face f = if (f = 0 ∨ f = 1) ∧ (r.face f).rule = some .fixed then { r.face f with hstep := some r.step } else r.face f) ∧
      t.ctx.fl = s.ctx.fl ++ [⟨3, s.iss.age, none, r.hd.world, s.memRanges s.iss, 0, 0, 0, [], [], false, s.iss.line, s.iss.lane⟩])

/-- R333, R335, R113, R327: gwait sends its increment once every face of a used dimension holds its step or a later one, no more than
DEPTH beyond; gld and gst do as vld and vst do, rounding in RNE, once the faces whose ghost cells they touch hold the step that
they need, and where they have waited for it in the cycle after. Where it rests on the model's own choice or reading: log entry
19. -/
def Obligations.StepAccessesNeedTheirSteps : Prop :=
  (∀ (g : BitVec 4) (a : BitVec 5) (e : BitVec 6) (dp : BitVec 3) (r : Grid) (s : State),
    Issues s .halo (.gwait g a e dp) → s.grid g = some r →
    (∀ f ∈ r.used, ∃ h, (r.face f).hstep = some h ∧ stepGe h ((s.sc a).setWidth 32) = true ∧
      stepGt h ((s.sc a).setWidth 32 + BitVec.ofNat 32 r.depth) = false) →
    ∃ t, exec (.gwait g a e dp) s = .next t ∧ Leaves s t .halo ∧
      t.incrs = (s.sendIncr s.cur s.bind.gang.toNat s.bind.strand.toNat e 1).incrs ∧
      t = { s with ctxs := t.ctxs, incrs := t.incrs } ∧ t.ctx = { s.ctx with eng := t.ctx.eng }) ∧
  (∀ (s u : State) (f : Fmt) (o : GMOp) (h : Handle) (c : Option Fmt) (keep : Nat → Nat) (raw : Nat) (r : Grid) (l : List Nat),
    let off := (s.sc o.a).toInt + o.i.toInt * 64
    Issues s .halo (.gld f o) → f ≠ .pl → lsCheck s (s.hrec o.h) rRD f o.k off false none = .ok (h, c) →
    s.grid o.g = some r → r.active = true → s.live (some r.hd) = some r.hd → gridBytes r h off s.ctx.vec o.k = some l →
    r.check ((s.sc o.st).setWidth 32) (touched r l) = .ready → kept s o.x o.k f .rne false = some keep →
    s.readParked h (laneBytes off (s.ctx.vec.runs o.k)) = false →
    (∀ a b, (s.eng .halo).stall ≠ .halo a b) → s.loadLanes 3 h off (s.ctx.vec.runs o.k) = .ok (u, raw) →
    ∃ t, exec (.gld f o) s = .next t ∧ OnlyIssue u t .halo ∧ Receives u.ctx.vec u t .halo o.x
      (merged s o.k f (fun j => readAs c f .rne false (raw / 2 ^ (8 * fbytes f * j) % 2 ^ (8 * fbytes f))) keep) f) ∧
  (∀ (s u : State) (f : Fmt) (o : GMOp) (h : Handle) (c : Option Fmt) (rd : Nat → Nat) (r : Grid) (l : List Nat),
    let i := Instr.gst f o
    let v := afterRead s .halo i
    let off := (s.sc o.a).toInt + o.i.toInt * 64
    let n := (s.sc o.st).setWidth 32
    let pieces := storePieces rd c f .rne off (s.ctx.vec.runs o.k)
    Issues s .halo i → lsCheck v (v.hrec o.h) rWR f o.k off false none = .ok (h, c) →
    s.grid o.g = some r → r.active = true → s.live (some r.hd) = some r.hd → gridBytes r h off s.ctx.vec o.k = some l →
    stepGt n (r.xstep.getD 0) = true → stepGe (r.xstep.getD 0 + BitVec.ofNat 32 r.depth) n = true →
    r.check (r.xstep.getD 0) (touched r l) = .ready → r.unread l = false → (∀ a b, (v.eng .halo).stall ≠ .halo a b) →
    elems s o.x f .rne false = some rd → pieces ≠ [] → Posts v u .halo h pieces 0 (offW off) →
    ∃ t, exec i s = .next t ∧ OnlyIssue u t .halo ∧ t.ctx.vec = u.ctx.vec ∧ Leaves u t .halo ∧ t.mem = u.mem)

/-- The signature accumulator, and the tensor product. Each of sigcfg, sigzero, sigseg, siginc, siglog and sigexp answers a next
state, and which. R341, R347, R348, R351: sigcfg sets dimension and depth and gives the identity, sigzero gives it at a position,
sigseg names the segment, siginc and siglog and sigexp set every level, and siginc advances HI. R344, R345: the truncated product
adds, at every index, the right factor's element, the products of every split in ascending order, and the left factor's element;
the exponential of an increment has at each level the product of the components times 1/k!. -/
def Obligations.SignatureLevelsAreUpdated : Prop :=
  ((∀ (d : BitVec 4) (n : BitVec 2) (dp : BitVec 3) (s : State), Issues s .signature (.sigcfg d n dp) →
    ∃ t, exec (.sigcfg d n dp) s = .next t ∧ OnlySig s t ∧ Leaves s t .signature ∧ t.ctx.sig.dim = d.toNat + 1 ∧
      t.ctx.sig.depth = n.toNat + 1 ∧ t.ctx.sig.log = false ∧
      ∀ k e, 1 ≤ k → k ≤ n.toNat + 1 → e < (d.toNat + 1) ^ k → t.ctx.sig.at_ k e = 0) ∧
  (∀ (a : BitVec 5) (dp : BitVec 3) (s : State), Issues s .signature (.sigzero a dp) →
    ∃ t, exec (.sigzero a dp) s = .next t ∧ OnlySig s t ∧ Leaves s t .signature ∧
      LevelsAre s.ctx.sig t.ctx.sig (fun _ _ => 0) ∧ t.ctx.sig.log = false ∧
      t.ctx.sig.lo = (s.sc a).setWidth 32 ∧ t.ctx.sig.hi = (s.sc a).setWidth 32 - 1) ∧
  (∀ (a b : BitVec 5) (dp : BitVec 3) (s : State), Issues s .signature (.sigseg a b dp) →
    ∃ t, exec (.sigseg a b dp) s = .next t ∧ OnlySig s t ∧ Leaves s t .signature ∧
      t.ctx.sig = { s.ctx.sig with lo := (s.sc a).setWidth 32, hi := (s.sc b).setWidth 32 }) ∧
  (∀ (f : Fmt) (x : VR) (dp : BitVec 3) (c : Option Fmt) (s : State), Issues s .signature (.siginc f x dp) →
    s.ctx.sig.log = false → tagCheck s.ctx.tagmode (source s x).2 f = some c →
    ∃ t, exec (.siginc f x dp) s = .next t ∧ OnlyMoving s t ∧
      t.ctx = { s.ctx with sig := t.ctx.sig, vec := t.ctx.vec, eng := t.ctx.eng } ∧ t.ctx.vec = popped s (.siginc f x dp) ∧
      Leaves s t .signature ∧
      LevelsAre s.ctx.sig t.ctx.sig (sigMul s.ctx.sig.dim s.ctx.sig.at_ (sigExpInc s.ctx.sig.dim (fun j =>
        widen f (readAs c f .rne false (vget (source s x).1 (fbytes f) j))))) ∧
      t.ctx.sig.hi = s.ctx.sig.hi + 1 ∧ t.ctx.sig.lo = s.ctx.sig.lo ∧ t.ctx.sig.log = false) ∧
  (∀ (dp : BitVec 3) (s : State),
    (Issues s .signature (.siglog dp) → s.ctx.sig.log = false →
      ∃ t, exec (.siglog dp) s = .next t ∧ OnlySig s t ∧ Leaves s t .signature ∧ t.ctx.sig.log = true ∧
        LevelsAre s.ctx.sig t.ctx.sig (sigSeries s.ctx.sig.dim dCoef s.ctx.sig.at_) ∧
        t.ctx.sig.lo = s.ctx.sig.lo ∧ t.ctx.sig.hi = s.ctx.sig.hi) ∧
    (Issues s .signature (.sigexp dp) → s.ctx.sig.log = true →
      ∃ t, exec (.sigexp dp) s = .next t ∧ OnlySig s t ∧ Leaves s t .signature ∧ t.ctx.sig.log = false ∧
        LevelsAre s.ctx.sig t.ctx.sig (sigSeries s.ctx.sig.dim cCoef s.ctx.sig.at_) ∧
        t.ctx.sig.lo = s.ctx.sig.lo ∧ t.ctx.sig.hi = s.ctx.sig.hi))) ∧
  ((∀ (d e : Nat) (t u : Nat → Nat → Nat), sigMul d t u 1 e = sAdd (u 1 e) (t 1 e)) ∧
  (∀ (d e : Nat) (t u : Nat → Nat → Nat), sigMul d t u 2 e = sAdd (sAdd (u 2 e) (sMul (t 1 (e / d)) (u 1 (e % d)))) (t 2 e)) ∧
  (∀ (d e : Nat) (t u : Nat → Nat → Nat), sigMul d t u 3 e =
    sAdd (sAdd (sAdd (u 3 e) (sMul (t 1 (e / d ^ 2)) (u 2 (e % d ^ 2)))) (sMul (t 2 (e / d)) (u 1 (e % d)))) (t 3 e)) ∧
  (∀ (d e : Nat) (x : Nat → Nat), sigExpInc d x 1 e = x e ∧
    sigExpInc d x 2 e = sMul (sMul (x (e / d)) (x (e % d))) 0x3F000000 ∧
    sigExpInc d x 3 e = sMul (sMul (sMul (x (e / d / d)) (x (e / d % d))) (x (e % d))) 0x3E2AAAAB))

/-- R349, R350, R352, R353: sigincb applies its increments in order, sigjoin multiplies by a stored signature of an adjoining segment
on either side, sigld loads one, and sigst posts the accumulator in its stored form. -/
def Obligations.SignaturesMeetMemory : Prop :=
  (∀ (f : Fmt) (h : BitVec 6) (a b : BitVec 5) (dp : BitVec 3) (r : Handle) (c : Option Fmt) (s u : State) (mem : Nat),
    let n := (s.sc b).toNat
    let d := s.ctx.sig.dim
    let w := fbytes f
    Issues s .signature (.sigincb f h a b dp) → s.ctx.sig.log = false → n < 2 ^ 32 → n ≠ 0 →
    sigHandle s (s.hrec h) rRD (s.sc a).toInt = .ok r → sigBounds s r (s.sc a).toInt (n * d * w) = .ok () →
    tagCheck s.ctx.tagmode r.fmt f = some c → s.sigLoad r (s.sc a).toInt.toNat (n * d * w) = .ok (u, mem) →
    ∃ t, exec (.sigincb f h a b dp) s = .next t ∧ OnlySig u t ∧ Leaves u t .signature ∧
      t.ctx.sig = (List.range n).foldl (fun g m => incremented g (fun i =>
        widen f (readAs c f .rne false (mem / 2 ^ (8 * w * (m * d + i)) % 2 ^ (8 * w))))) u.ctx.sig) ∧
  (∀ (f : Fmt) (h : BitVec 6) (a b : BitVec 5) (dp : BitVec 3) (s : State), Issues s .signature (.sigincb f h a b dp) →
    s.ctx.sig.log = false → s.sc b = 0 →
    ∃ t, exec (.sigincb f h a b dp) s = .next t ∧ OnlySig s t ∧ Leaves s t .signature ∧ t.ctx.sig = s.ctx.sig) ∧
  (∀ (left : Bool) (h : BitVec 6) (a : BitVec 5) (dp : BitVec 3) (s u : State) (lv : Nat → Nat → Nat) (st : Sig),
    Issues s .signature (.sigjoin left h a dp) → s.ctx.sig.log = false →
    sigStored s (s.hrec h) (s.sc a).toInt true = .ok (u, lv, st) →
    (if left then st.hi + 1 = s.ctx.sig.lo else s.ctx.sig.hi + 1 = st.lo) →
    ∃ t, exec (.sigjoin left h a dp) s = .next t ∧ OnlySig u t ∧ Leaves u t .signature ∧
      LevelsAre u.ctx.sig t.ctx.sig (if left then sigMul u.ctx.sig.dim lv u.ctx.sig.at_ else sigMul u.ctx.sig.dim u.ctx.sig.at_ lv) ∧
      t.ctx.sig.lo = (if left then st.lo else s.ctx.sig.lo) ∧ t.ctx.sig.hi = (if left then s.ctx.sig.hi else st.hi)) ∧
  (∀ (h : BitVec 6) (a : BitVec 5) (dp : BitVec 3) (s u : State) (lv : Nat → Nat → Nat) (st : Sig),
    Issues s .signature (.sigld h a dp) → sigStored s (s.hrec h) (s.sc a).toInt false = .ok (u, lv, st) →
    ∃ t, exec (.sigld h a dp) s = .next t ∧ OnlySig u t ∧ Leaves u t .signature ∧ LevelsAre st t.ctx.sig lv ∧
      t.ctx.sig.lo = st.lo ∧ t.ctx.sig.hi = st.hi ∧ t.ctx.sig.log = st.log) ∧
  (∀ (f : Fmt) (h : BitVec 6) (a : BitVec 5) (dp : BitVec 3) (r : Handle) (s v : State) (runs : List (Nat × Nat)),
    let off := (s.sc a).toInt
    let n := sigBytes s.ctx.sig.dim s.ctx.sig.depth (fbytes f)
    Issues s .signature (.sigst f h a dp) → sigHandle s (s.hrec h) rWR off = .ok r → sigBounds s r off n = .ok () →
    (r.fmt = .untyped ∨ r.fmt = f) → s.unplaced r off.toNat n = false → s.resolve r off.toNat n true = .ok v runs →
    ∃ t, exec (.sigst f h a dp) s = .next t ∧ Leaves s t .signature ∧ t.ctx.sig = s.ctx.sig ∧ t.mem = v.mem ∧
      t.ctx.fl = v.ctx.fl ++ [⟨4, s.iss.age, r.sync, r.world, s.ranges s.iss, s.dcc.toNat, 0, offW off.toNat,
        cutRuns runs (s.ctx.sig.stored f), [], false,
        s.iss.line, s.iss.lane⟩]) ∧
  (∀ (q : BitVec 5) (l : BitVec 2) (dp : BitVec 3) (s : State),
    let k := l.toNat + 1
    let n := (s.ctx.sig.dim ^ k + 2047) / 2048
    Issues s .signature (.sigdrain q l dp) → k ≤ s.ctx.sig.depth → n ≤ 4 - s.ctx.vec.qcount q.toNat →
    ∃ t, exec (.sigdrain q l dp) s = .next t ∧ OnlyIssue s t .signature ∧ Leaves s t .signature ∧ t.ctx.sig = s.ctx.sig ∧
      t.ctx.vec = (List.range n).foldl (fun v e =>
        v.push q.toNat (vreg 4 2048 (fun j => s.ctx.sig.at_ k (2048 * e + j))) .fp32) s.ctx.vec)

namespace Sys2Proof.Claim

/-! ## The fabric engine -/

/-- No command of the age of the issuing instruction is in flight: ages name commands. -/
def Fresh (s : State) : Prop := ∀ x ∈ s.ctx.fab.cmds, x.cap.age ≠ s.iss.age

/-- The command in flight that the issuing instruction becomes, with n transactions (R446). -/
def command (s : State) (what : Remote) (n : Nat) (ei : BitVec 6) (binds : List (Option (BitVec 6))) (tile : Option TileReg)
    (started : Bool) (msgs : List Msg) : XCmd :=
  { cap := s.iss, what := what, first := s.ctx.fab.nextTxn, txns := (List.range n).map (fun i => i + s.ctx.fab.nextTxn),
    ei := ei, started := started, wait := false, page := (0, 0), inv := false, failed := false, binds := binds, tile := tile, data := none,
    tag := .untyped, msgs := msgs, got := [], sent := 0 }

/-- The fabric state with a command more: its transactions are numbered, and posted writes count in their window and in the
younger fences that wait for it (R446, R452, R453). -/
def withCommand (f : Fab) (x : XCmd) : Fab :=
  { f with
    cmds := f.cmds ++ [x], nextTxn := f.nextTxn + x.txns.length
    out := match x.what with
      | .write w => SMap.set 0 f.out w.toNat (f.outOf w + x.txns.length)
      | _ => f.out
    fences := match x.what with
      | .write w => f.fences.map (fun y => if y.w = w ∧ x.cap.age < y.age then { y with writes := y.writes ++ x.txns } else y)
      | _ => f.fences }

/-- What a command holds of the core's own resources (R138). -/
def holding (s : State) (l : List Rng) : List Flight :=
  if l.isEmpty then [] else [⟨5, s.iss.age, none, s.bind.world, l, 0, 0, 0, [], [], false, s.iss.line, s.iss.lane⟩]

/-- A message sent from the moving context: within the device on its way with its due cycle, else as flits at the port of
its first hop (R446, R447). -/
def Sends (s t : State) (m : Msg) : Prop :=
  t = { s with ctxs := t.ctxs, net := t.net, ports := t.ports } ∧ (∀ k, k ≠ s.cur → t.ctxAt k = s.ctxAt k) ∧
  (if m.dev = s.dev.num then
    t.ports = s.ports ∧ t.net = s.net ++ [{ m with
      due := s.dcc.toNat + 2 + pathB (s.msgClass (coreId (coreOf s.cur)) m) +
        (m.len + pathW (s.msgClass (coreId (coreOf s.cur)) m) - 1) / pathW (s.msgClass (coreId (coreOf s.cur)) m) }]
  else t.net = s.net ∧ t.ports = (s.inject (coreId (coreOf s.cur)) m.dev.toNat
    (s.bind.gang.toNat * 65536 + s.bind.strand.toNat) (flitsOf m)).ports)

/-- A command of one message has started, its message is sent, and the instruction leaves. -/
def SendsOne (s t : State) (x : XCmd) (m : Msg) : Prop :=
  Sends s t m ∧ Leaves s t .fabric ∧ t.ctx.fab = withCommand s.ctx.fab x ∧
  t.ctx = { s.ctx with fab := t.ctx.fab, vec := t.ctx.vec, eng := t.ctx.eng }

/-- A command that has sent its one message, which travels in one transfer for each run of bytes to another device, and whose answers it
awaits one for one (R446, R447). -/
def awaiting (s : State) (x : XCmd) (m : Msg) : XCmd :=
  { x with started := true, txns := List.replicate (if m.dev = s.dev.num then 1 else (gotsOf m).length) s.ctx.fab.nextTxn, msgs := [m] }

/-- The order of an atomic lets it start: a release waits for the writes bound to its record (R276). -/
def mayAtomic (s : State) (ord : Ord) (bind : Option (BitVec 6)) : Prop :=
  (ord = .release ∨ ord = .acqrel) → s.releaseReady s.iss.age bind = true

/-- An atomic of the fabric: double word, compare and swap, operator, comparand, operands. -/
def fatomOf (s : State) : Instr → Option (Bool × Bool × AOp × Word × FAOp)
  | .xamo dw op o => some (dw, false, op, 0, o)
  | .xacas dw c o => some (dw, true, .add, s.sc c, o)
  | _ => none

/-- The commands that only go in flight at issue (R456, R462, R464, R466, R468 to R471): the command, what it holds,
and the operands that its checks pass for. -/
def launchOf (s : State) (h1 h2 : Handle) : Instr → Option (XCmd × List Flight)
  | .xput o =>
    let n := (s.sc o.n).toNat
    let m := max 1 ((n + 4095) / 4096)
    some (command s (.write (window o.hd)) m o.ei [h1.sync] none false [], holding s (s.spanOf s.iss o.hs (s.sc o.os).toInt n false))
  | .xget o =>
    let n := (s.sc o.n).toNat
    some (command s .get ((n + 4095) / 4096) o.ei [h1.sync] none false [], holding s (s.spanOf s.iss o.hd (s.sc o.od).toInt n true))
  | .xport _ hf f _ _ =>
    let m := max 1 ((h1.len.toNat / fbytes h1.fmt * fbytes f + 4095) / 4096)
    some (command s (.write (window hf)) m 0 [h1.sync] none false [], holding s (s.memRanges s.iss))
  | .xring _ _ _ _ _ ei _ _ _ => some (command s .ring 0 ei [h1.sync] none false [], holding s (s.memRanges s.iss))
  | .xsend _ cp a ei _ =>
    some (command s (.send cp (BitVec.ofNat 16 ((s.sc a).toNat / 2 ^ 32))) 0 ei [] none false [], holding s (s.memRanges s.iss))
  | .xrecv _ _ _ ei _ => some (command s .recv 0 ei [h1.sync] none false [], holding s (s.memRanges s.iss))
  | .xcomp _ _ _ cp ei _ | .xresid _ _ cp ei _ =>
    some (command s (.comp cp) 0 ei [h1.sync, h2.sync] none false [],
      [⟨5, s.iss.age, none, s.bind.world, s.memRanges s.iss, 0, 0, 0, [], [], false, s.iss.line, s.iss.lane⟩])
  | _ => none

/-- A record with rights. -/
def Rec (s : State) (h : BitVec 6) (rights : List Nat) (r : Handle) : Prop :=
  s.hrec h = some r ∧ ∀ b ∈ rights, r.has b = true

/-- Bytes of a record: inside it, at a multiple, and in a partition of its world where it lies in a cistern. -/
def Spans (_ : State) (r : Handle) (o : Int) (n align : Nat) : Prop :=
  0 ≤ o ∧ o + n ≤ (r.len.toNat : Int) ∧ o % (align : Int) = 0

/-- A cistern record's bytes lie in a partition of its world (R236, R444), where the command starts as it issues: one that waits is
checked when it starts. -/
def Placed (s : State) (r : Handle) (o n : Nat) : Prop :=
  s.startsNow = true → r.level = 0 → n ≠ 0 → s.inPartition r o n = true

/-- The checks at issue pass for a command (R444, R456, R464, R466, R469 to R471), given its records. -/
def Launches (s : State) (h1 h2 : Handle) : Instr → Prop
  | .xput o =>
    let n := (s.sc o.n).toNat
    Rec s o.hd [rWR] h1 ∧ Rec s o.hs [rRD] h2 ∧ n < 2 ^ 32 ∧ n % 64 = 0 ∧ Spans s h1 (s.sc o.od).toInt n 64 ∧
    Spans s h2 (s.sc o.os).toInt n 64 ∧ s.peerFails (s.sc o.pr) = none ∧ Placed s h2 (s.sc o.os).toNat n ∧
    s.overAllow (window o.hd) (max 1 ((n + 4095) / 4096)) = false
  | .xget o =>
    let n := (s.sc o.n).toNat
    Rec s o.hd [rWR] h1 ∧ Rec s o.hs [rRD] h2 ∧ n < 2 ^ 32 ∧ n % 64 = 0 ∧ Spans s h1 (s.sc o.od).toInt n 64 ∧
    Spans s h2 (s.sc o.os).toInt n 64 ∧ s.peerFails (s.sc o.pr) = none ∧ Placed s h1 (s.sc o.od).toNat n
  | .xport pr hf f _ _ =>
    Rec s hf [rRD, rWR] h1 ∧ s.peerFails (s.sc pr) = none ∧ (h1.fmt = .fp32 ∨ h1.fmt = .bf16 ∨ h1.fmt = .fp16) ∧
    (f = .fp32 ∨ f = .fp16 ∨ f = .bf16 ∨ f = .fp8e4 ∨ f = .fp8e5) ∧ Placed s h1 0 h1.len.toNat ∧
    s.overAllow (window hf) (max 1 ((h1.len.toNat / fbytes h1.fmt * fbytes f + 4095) / 4096)) = false
  | .xring _ port hf a b _ _ _ _ =>
    Rec s hf [rRD, rWR] h1 ∧ Spans s h1 (s.sc a).toInt (s.sc b).toNat 1 ∧ (s.sc b).toNat % (64 * ringSize port) = 0 ∧
    Placed s h1 (s.sc a).toNat (s.sc b).toNat
  | .xsend hf cp _ _ _ =>
    Rec s hf [rRD] h1 ∧ h1.len.toNat % 64 = 0 ∧ h1.len ≠ 0 ∧ (s.campusPort cp).st = 4 ∧ Placed s h1 0 h1.len.toNat
  | .xrecv hf cp _ _ _ => Rec s hf [rWR] h1 ∧ (s.campusPort cp).posts.length < 256 ∧ Placed s h1 0 h1.len.toNat
  | .xcomp hs hr _ _ _ _ | .xresid hs hr _ _ _ =>
    Rec s hs [rRD, rWR] h1 ∧ Rec s hr [rRD, rWR] h2 ∧ h1.len = h2.len ∧ h1.len.toNat % 256 = 0 ∧ h1.level.toNat < 2 ∧
    h2.level.toNat < 2 ∧ Placed s h1 0 h1.len.toNat ∧ Placed s h2 0 h2.len.toNat
  | _ => False

/-- The state in which a command has gone in flight and has not yet started; a posted receive stands at its port (R470). -/
def launched (s : State) (x : XCmd) (l : List Flight) (port : Option (BitVec 2 × Post)) : State :=
  let t := match port with
    | some (cp, p) => s.setCampus cp { s.campusPort cp with posts := (s.campusPort cp).posts ++ [p] }
    | none => s
  t.setCtx { s.ctx with fab := withCommand s.ctx.fab x, fl := s.ctx.fl ++ l }

/-- A command of a port's compression unit has started on two records: its bytes are to be written, and it ends, once the cycles of
R473 have passed, and in the cycle after the unit is free (R471). -/
def InUnit (w t : State) (x : XCmd) (cp : BitVec 2) (hs hr : Handle) (segs : List Seg) : Prop :=
  let due := w.dcc.toNat + w.spanCycles hs + w.spanCycles hr + 16 + (hs.len.toNat + 255) / 256
  t.mem = w.mem ∧ (t.campusPort cp).unit = due + 1 ∧
  t.ctx.fab.cmds = w.ctx.fab.cmds.map (fun y => if y.cap.age = x.cap.age then { x with started := true } else y) ∧
  t.ctx.fl = w.ctx.fl.map (fun f => if f.src = 5 ∧ f.age = x.cap.age then { f with segs := segs, due := due } else f)

/-- The post of a receive (R470). -/
def postOf (s : State) (h1 : Handle) : Instr → Option (BitVec 2 × Post)
  | .xrecv _ cp a _ _ => some (cp, ⟨s.cur, s.iss.age, s.bind.world, (s.sc a).setWidth 32, h1, none, 0, none⟩)
  | _ => none

end Sys2Proof.Claim

/-- R455: xld asks its peer for the bytes of its active lanes; into a vector register it leaves at once, into a queue register it
stays at the head, and once all its data has come gives it to X; it ends once the queue has taken its push. Where it rests on the
model's own choice or reading: log entries 27, 28, 34. -/
def Obligations.RemoteLoadsAskAndReceive : Prop :=
  (∀ (f : Fmt) (o : FMOp) (ei : BitVec 6) (h : Handle) (runs : List (Nat × Nat)) (s : State),
    let i := Instr.xld f o ei
    let m := s.mkMsg (s.sc o.pr).toNat o.h .read (s.fmOff o).toNat f (runs.map (fun r => (4 * r.1, 4 * r.2, 0))) s.ctx.fab.nextTxn
    Issues s .fabric i → Fresh s → fmCheck s o rRD = .ok (h, runs) →
    (f = .untyped ∨ (kept s o.x o.k f .rne false).isSome) → s.olderPut .fabric s.iss none = false →
    (∀ y ∈ s.ctx.fab.cmds, y.what = .load → y.sent ≠ 1) →
    let x := command s .load 1 ei [] none true []
    ∃ t, exec i s = .next t ∧ Sends s t m ∧ t.ctx.vec = s.ctx.vec ∧
      t.ctx.fab = { withCommand s.ctx.fab x with cmds := s.ctx.fab.cmds ++ [awaiting s x m] } ∧
      t.ctx.fl = s.ctx.fl ++ holding s (s.ranges s.iss) ∧
      (if (VR.queue o.x).isSome then t.eng .fabric = s.eng .fabric else Leaves s t .fabric)) ∧
  (∀ (f : Fmt) (o : FMOp) (ei : BitVec 6) (x : XCmd) (d : Nat) (q : BitVec 5) (s : State),
    let i := Instr.xld f o ei
    Issues s .fabric i → s.xcmd s.iss.age = some x → x.what = .load → x.failed = false → x.txns = [] → x.data = some d →
    o.x = .q q → (∀ y ∈ s.ctx.fab.cmds, y.what = .load → y.sent ≠ 1) →
    ∃ t, exec i s = .next t ∧
      t.ctx.fab.cmds = (if s.ctx.vec.qcount q.toNat < 4 then s.ctx.fab.cmds.filter (fun y => y.cap.age ≠ x.cap.age)
        else s.ctx.fab.cmds.map (fun y => if y.cap.age = x.cap.age then { x with sent := 1 } else y)) ∧
      Receives s.ctx.vec s t .fabric o.x
        (if f = .untyped then vreg 4 2048 (fun j => if s.ctx.vec.active o.k j then d / 2 ^ (32 * j) % 2 ^ 32 else 0)
         else merged s o.k f (fun j => d % 2 ^ 65536 / 2 ^ (8 * fbytes f * j) % 2 ^ (8 * fbytes f)) (fun _ => 0))
        (if f = .untyped then x.tag else f))

/-- R452, R453, R460, R461, R465: xallow sets a window's allowance, xfence notes the writes outstanding in its window, xtrig arms a
trigger, xtile sets an entry of the tile table, and xsched gives a port the load that its record holds. Where it rests on the
model's own choice or reading: log entry 29. -/
def Obligations.FabricSettingsAreRecorded : Prop :=
  (∀ (w : BitVec 4) (a : BitVec 5) (dp : BitVec 3) (s : State), Issues s .fabric (.xallow w a dp) → (s.sc a).toNat ≠ 0 →
    (s.sc a).toNat ≤ 65535 →
    ∃ t, exec (.xallow w a dp) s = .next t ∧ OnlyMoving s t ∧ Leaves s t .fabric ∧
      t.ctx = { s.ctx with fab := t.ctx.fab, eng := t.ctx.eng } ∧
      t.ctx.fab = { s.ctx.fab with allow := t.ctx.fab.allow } ∧
      ∀ x, t.ctx.fab.allowance x = if x = w then (s.sc a).toNat else s.ctx.fab.allowance x) ∧
  (∀ (w : BitVec 4) (e : BitVec 6) (dp : BitVec 3) (s : State), Issues s .fabric (.xfence w e dp) →
    s.ctx.fab.fences.length < 8 →
    ∃ t, exec (.xfence w e dp) s = .next t ∧ OnlyMoving s t ∧ Leaves s t .fabric ∧
      t.ctx = { s.ctx with fab := t.ctx.fab, eng := t.ctx.eng } ∧
      t.ctx.fab = { s.ctx.fab with fences := s.ctx.fab.fences ++
        [⟨w, e, (s.ctx.fab.cmds.filter (fun x => x.what = .write w ∧ x.cap.age < s.iss.age)).flatMap (fun x => x.txns), s.iss.age⟩] }) ∧
  (∀ (ew : BitVec 6) (th : BitVec 5) (slot : BitVec 6) (dp : BitVec 3) (s : State), Issues s .fabric (.xtrig ew th slot dp) →
    (s.ctx.fab.trigs.filter (fun t => t.fired.isNone)).length < 16 →
    ∃ t, exec (.xtrig ew th slot dp) s = .next t ∧ OnlyMoving s t ∧ Leaves s t .fabric ∧
      t.ctx = { s.ctx with fab := t.ctx.fab, eng := t.ctx.eng } ∧
      t.ctx.fab = { s.ctx.fab with trigs := s.ctx.fab.trigs ++
        [⟨ew, (s.sc th).setWidth 32, slot, s.iss.line, s.iss.lane, none, [], 0⟩] }) ∧
  (∀ (ti : BitVec 5) (h : BitVec 6) (pr : BitVec 5) (opr : Opr) (a : BitVec 5) (dp : BitVec 3) (r : Handle) (s : State),
    let i := Instr.xtile ti h pr opr a dp
    Issues s .fabric i → Rec s h [rRD] r → (s.sc ti).toNat < 256 → Spans s r (s.sc a).toInt 4096 4096 →
    s.peerFails (s.sc pr) = none →
    ∃ t, exec i s = .next t ∧ OnlyMoving s t ∧ Leaves s t .fabric ∧
      t.ctx = { s.ctx with fab := t.ctx.fab, eng := t.ctx.eng } ∧ t.ctx.fab = { s.ctx.fab with tiles := t.ctx.fab.tiles } ∧
      ∀ n, SMap.get none t.ctx.fab.tiles n = if n = (s.sc ti).toNat then some ⟨s.sc pr, h, r, (s.sc a).toInt.toNat, opr⟩
        else SMap.get none s.ctx.fab.tiles n) ∧
  (∀ (port : BitVec 4) (h : BitVec 6) (a : BitVec 5) (dp : BitVec 3) (r : Handle) (data : Nat) (s u : State),
    let i := Instr.xsched port h a dp
    let l : Load := ⟨s.bind.world, loadEnts (r.len.toNat / 8) data, s.sc a⟩
    Issues s .fabric i → Rec s h [rRD] r → r.len.toNat % 8 = 0 → r.len.toNat ≤ 32768 →
    s.readWaits r 0 r.len.toNat = false → s.load 5 r 0 r.len.toNat 0 = .ok (u, data) →
    loadRefused (u.port port.toNat) (fun p => p < 12 && (u.port p).st = 4) l = none →
    ∃ t, exec i s = .next t ∧ Leaves u t .fabric ∧ t = { u with ctxs := t.ctxs, ports := t.ports } ∧
      t.ctx = { u.ctx with eng := t.ctx.eng } ∧
      ∀ p, t.port p = if p = port.toNat then
        { u.port p with next := (u.port p).next.filter (fun o => o.world ≠ s.bind.world) ++
          [{ l with ents := l.ents.foldl (fun e n => SMap.set 0 e n.1 n.2) ((u.port p).spares s.bind.world) }] } else u.port p)

/-- Transfers go in flight and start. Each of xput, xget, xsend, xrecv, xport, xring, xcoll, xcomp, xresid and xready answers a next
state, and which. R446, R456, R462, R464, R466, R468 to R471: xput, xget, xready, xport, xring, xcoll, xsend, xrecv, xcomp and
xresid leave the engine as commands in flight, which start then if nothing holds them. R448, R456, R462, R464: a command whose
counter has not met its threshold, or behind an older write to its slot, waits unchanged; else xput and xready and xport read
their bytes and send them as messages, xget asks for its, and each has started; an xget of no bytes ends. R265, R466: a ring step
reads its buffer and sends its first chunks, unless its port's sequencer is at work or the strand still owes its buffer a write.
R471, R473: a command of the compression unit waits for the one before; its results are then in place after the cycles of its
spans, and the unit free in the cycle after. Where it rests on the model's own choice or reading: log entries 7, 25, 26, 27, 94. -/
def Obligations.TransfersGoAndStart : Prop :=
  ((∀ (i : Instr) (h1 h2 : Handle) (x : XCmd) (l : List Flight) (s : State), launchOf s h1 h2 i = some (x, l) →
    Issues s .fabric i → Fresh s → Launches s h1 h2 i →
    exec i s = .next (((launched s x l (postOf s h1 i)).tryStart x).onEng .fabric Eng.leave)) ∧
  (∀ (ti : BitVec 5) (dp : BitVec 3) (r : TileReg) (s : State),
    let x := command s (.write (window r.slot)) 1 0 [r.hd.sync] (some r) false []
    Issues s .fabric (.xready ti dp) → Fresh s → SMap.get none s.ctx.fab.tiles (s.sc ti).toNat = some r →
    s.live (some r.hd) = some r.hd → Placed s r.hd r.off 4096 → s.overAllow (window r.slot) 1 = false →
    exec (.xready ti dp) s =
      .next (((launched s x (holding s (s.memRanges s.iss)) none).tryStart x).onEng .fabric Eng.leave)) ∧
  (∀ (op : CollOp) (o : FKOp) (hs hr : Handle) (g : GroupEnt) (peers : List Nat) (s u : State),
    let i := Instr.xcoll op o
    let n := (s.sc o.n).toNat
    let sp := collSpans op n g.count g.rank
    let k := SMap.get 0 s.ctx.fab.colls o.grp.toNat
    let c := u.onFab (fun f => { f with colls := SMap.set 0 f.colls o.grp.toNat (k + 1) })
    let x := command s (.coll peers g.rank k) 0 o.ei [hr.sync] none false []
    Issues s .fabric i → Fresh s → Rec s o.hs [rRD] hs → Rec s o.hr [rWR] hr → collFmt op o.opr o.fmt = true →
    groupPeers s o.grp = .ok (u, g, peers) → sp.1 ≤ hs.len.toNat → sp.2 ≤ hr.len.toNat →
    n % (if op = .rs ∨ op = .a2a then 64 * g.count else 64) = 0 → Placed u hs 0 sp.1 → Placed u hr 0 sp.2 →
    exec i s = .next (((launched c x (holding s (s.memRanges s.iss)) none).tryStart x).onEng .fabric Eng.leave))) ∧
  ((∀ (s : State) (x : XCmd), (s.awaited x.cap = false ∨ s.behind x = true) → s.tryStart x = s) ∧
  (∀ (s u : State) (x : XCmd) (o : FBOp) (h : Handle) (data : Nat), x.cap.instr = .xput o → x.started = false →
    s.awaited x.cap = true → s.behind x = false →
    SMap.get none x.cap.h o.hs.toNat = some h →
    s.fabRead x h (x.cap.sc o.os).toNat (x.cap.sc o.n).toNat = .ok (u, data) →
    let t := (u.setXcmd { x with started := true, wait := false }).sendChunks (x.cap.sc o.pr).toNat o.hd h.fmt
      (x.cap.sc o.od).toNat (x.cap.sc o.n).toNat data x.first false
    s.tryStart x = t.setCtx { t.ctx with fl := t.ctx.fl.filter (fun f => !(f.src = 5 && f.age = x.cap.age)) }) ∧
  (∀ (s : State) (x : XCmd) (o : FBOp) (h : Handle), x.cap.instr = .xget o → x.started = false →
    s.awaited x.cap = true → s.behind x = false →
    SMap.get none x.cap.h o.hd.toNat = some h →
    (h.level = 0 → x.cap.sc o.n ≠ 0 → s.inPartition h (x.cap.sc o.od).toNat (x.cap.sc o.n).toNat = true) →
    let n := (x.cap.sc o.n).toNat
    let msgs := (List.range ((n + 4095) / 4096)).map (fun i => { s.mkMsg (x.cap.sc o.pr).toNat o.hs .read
      ((x.cap.sc o.os).toNat + i * 4096) h.fmt [(0, min 4096 (n - i * 4096), 0)] (x.first + i) with len := i * 4096 })
    s.tryStart x = if n = 0 then s.finish { x with started := true, msgs := [] } 1
      else msgs.foldl State.sendMsg (s.setXcmd { x with started := true, msgs := msgs })) ∧
  (∀ (s u : State) (x : XCmd) (pr : BitVec 5) (hf : BitVec 6) (f : Fmt) (m : RMode) (dp : BitVec 3) (h : Handle) (data : Nat),
    x.cap.instr = .xport pr hf f m dp → x.started = false → s.behind x = false → SMap.get none x.cap.h hf.toNat = some h →
    s.fabRead x h 0 h.len.toNat = .ok (u, data) →
    let n := h.len.toNat / fbytes h.fmt
    s.tryStart x = (u.setXcmd { x with started := true }).sendChunks (x.cap.sc pr).toNat hf f 0 (n * fbytes f)
      (packElems (fbytes f) n (fun i =>
        convert h.fmt f m false (data / 2 ^ (8 * fbytes h.fmt * i) % 2 ^ (8 * fbytes h.fmt)))) x.first true) ∧
  (∀ (s u : State) (x : XCmd) (ti : BitVec 5) (dp : BitVec 3) (r : TileReg) (data : Nat), x.cap.instr = .xready ti dp →
    x.started = false → s.behind x = false → x.tile = some r →
    s.fabRead x r.hd r.off 4096 = .ok (u, data) →
    s.tryStart x = (u.setXcmd { x with started := true }).sendMsg (u.mkMsg r.pr.toNat r.slot (.tile r.opr) r.off
      (match r.opr with | .copy => r.hd.fmt | .addBf16 => .bf16 | _ => .fp32) [(0, 4096, data)] x.first)) ∧
  (∀ (s u : State) (x : XCmd) (op : RingOp) (p : BitVec 4) (hf : BitVec 6) (a b : BitVec 5) (ei ew : BitVec 6) (th : BitVec 5)
      (dp : BitVec 3) (h : Handle) (data : Nat), x.cap.instr = .xring op p hf a b ei ew th dp → x.what = .ring → x.started = false →
    s.awaited x.cap = true → SMap.get none x.cap.h hf.toNat = some h →
    (s.ringBusy p = true ∨ s.owes x.cap = true → s.tryStart x = s) ∧
    (s.ringBusy p = false → s.owes x.cap = false → s.fabRead x h (x.cap.sc a).toNat (x.cap.sc b).toNat = .ok (u, data) →
      s.tryStart x = (u.setXcmd { x with started := true, data := some data }).ringFirst op p (x.cap.sc b).toNat data)) ∧
  (∀ (s u v w : State) (x : XCmd) (h1 h2 : BitVec 6) (cp : BitVec 2) (ei : BitVec 6) (dp : BitVec 3) (hs hr : Handle) (g r : Nat)
      (segs : List Seg), x.cap.instr = .xresid h1 h2 cp ei dp → x.what = .comp cp → x.started = false →
    SMap.get none x.cap.h h1.toNat = some hs → SMap.get none x.cap.h h2.toNat = some hr →
    (s.olderComp x.cap.age cp = true → s.tryStart x = s) ∧
    (s.olderComp x.cap.age cp = false → s.fabRead x hs 0 hs.len.toNat = .ok (u, g) → u.fabRead x hr 0 hr.len.toNat = .ok (v, r) →
      let n := hs.len.toNat / 4
      let sum := packElems 4 n (fun i => addE .fp32 .rne false (g / 2 ^ (32 * i) % 2 ^ 32) (r / 2 ^ (32 * i) % 2 ^ 32))
      v.resolveAll [(hs, 0, 4 * n, sum), (hr, 0, 4 * n, 0)] = .ok (w, segs) → InUnit w (s.tryStart x) x cp hs hr segs)) ∧
  (∀ (s u v w : State) (x : XCmd) (h1 h2 : BitVec 6) (kp : BitVec 3) (cp : BitVec 2) (ei : BitVec 6) (dp : BitVec 3) (hs hr : Handle)
      (g r : Nat) (segs : List Seg), x.cap.instr = .xcomp h1 h2 kp cp ei dp → x.what = .comp cp → x.started = false →
    SMap.get none x.cap.h h1.toNat = some hs → SMap.get none x.cap.h h2.toNat = some hr → s.olderComp x.cap.age cp = false →
    s.fabRead x hs 0 hs.len.toNat = .ok (u, g) → u.fabRead x hr 0 hr.len.toNat = .ok (v, r) →
    let (tensor, n, res) := compress (hs.len.toNat / 4) (kp.toNat + 1) g
    v.resolveAll [(hs, 0, n, tensor), (hr, 0, hr.len.toNat, res)] = .ok (w, segs) → InUnit w (s.tryStart x) x cp hs hr segs))

/-- Remote operations and streaming drains send their messages. Each of xst, xamo, xacas, xevinc and mdrains answers a next state, and
which. R446, R451, R457, R458: xst sends the bytes of its active lanes as one posted write, xamo and xacas their operation, xevinc
its increment, each as one message of one transaction to the peer and slot named. R203, R463: mdrains sends each of its rows,
converted, as one posted write to its peer at the pitch of the record, and moves OUT past them. Where it rests on the model's own
choice or reading: log entries 27, 34, 109. -/
def Obligations.MessagesLeaveTheStrand : Prop :=
  ((∀ (f : Fmt) (o : FMOp) (h : Handle) (runs : List (Nat × Nat)) (rd : Nat → Nat) (s : State),
    let i := Instr.xst f o
    let v := afterRead s .fabric i
    Issues s .fabric i → Fresh s → fmCheck v o rWR = .ok (h, runs) →
    (if f = .untyped then some (fun j => vget (source s o.x).1 4 j) else elems s o.x f .rne false) = some rd →
    s.overAllow (window o.h) 1 = false → s.olderPut .fabric s.iss none = false →
    let x := command s (.write (window o.h)) 1 0 [h.sync] none true []
    let m := s.mkMsg (s.sc o.pr).toNat o.h .write (s.fmOff o).toNat f
      ((storePieces rd none (if f = .untyped then .fp32 else f) .rne (s.fmOff o) runs).map (fun g =>
        (g.a - (s.fmOff o).toNat, g.n, g.v))) s.ctx.fab.nextTxn
    ∃ t, exec i s = .next t ∧ t.ctx.vec = popped s i ∧ Sends s t m ∧ Leaves s t .fabric ∧
      t.ctx.fab = { withCommand s.ctx.fab x with cmds := s.ctx.fab.cmds ++ [awaiting s x m] } ∧
      t.ctx = { s.ctx with fab := t.ctx.fab, vec := t.ctx.vec, eng := t.ctx.eng }) ∧
  (∀ (i : Instr) (dw cas : Bool) (op : AOp) (c : Word) (o : FAOp) (h : Handle) (s : State),
    let n := if dw then 8 else 4
    fatomOf s i = some (dw, cas, op, c, o) → Issues s .fabric i → Fresh s → Rec s o.h [rAT] h →
    Spans s h (s.sc o.a).toInt n n → s.peerFails (s.sc o.pr) = none → mayAtomic s o.ord h.sync →
    s.olderPut .fabric s.iss none = false →
    ∃ t, exec i s = .next t ∧ t.ctx.vec = s.ctx.vec ∧ SendsOne s t (command s .atomic 1 o.ei [h.sync] none true [])
      { s.mkMsg (s.sc o.pr).toNat o.h (.atomic cas dw op (s.sc o.b) c) (s.sc o.a).toInt.toNat .untyped [(0, n, 0)]
          s.ctx.fab.nextTxn with
        flags := (if o.ord = .release ∨ o.ord = .acqrel then 1 else 0) + 2 * o.sc.code }) ∧
  (∀ (e : BitVec 6) (pr : BitVec 5) (sc : Scope) (rel : Bool) (dp : BitVec 3) (s : State),
    Issues s .fabric (.xevinc e pr sc rel dp) → Fresh s → s.peerFails (s.sc pr) = none →
    (rel = true → s.releaseReady s.iss.age (some e) = true) →
    ∃ t, exec (.xevinc e pr sc rel dp) s = .next t ∧ t.ctx.vec = s.ctx.vec ∧
      SendsOne s t (command s .incr 1 0 [] none true [])
        { s.mkMsg (s.sc pr).toNat 0 .incr 0 .untyped [] s.ctx.fab.nextTxn with
          ctr := e, flags := (if rel then 1 else 0) + 2 * sc.code })) ∧
  (∀ (f : Fmt) (a : BitVec 4) (pr : BitVec 5) (o : MDOp) (h : Handle) (s : State),
    let i := Instr.mdrains f a pr o
    let n := rowsOf o.rows
    let m := o.rm.getD s.ctx.mat.mode
    let p := h.pc.toNat + 1
    let size := if f = .pl then 64 + 16 * p else s.ctx.mat.tn * fbytes f
    let row (q : Nat) : Nat :=
      if f = .pl then
        let gs := [0, 1].map (fun g => plGroup m ((List.range 64).map (fun j =>
          decodeF .fp32 (drainElem s a .fp32 m false q (64 * g + j)))))
        let qs := packList 1 (gs.flatMap (fun g => g.2.map (plKeep p)))
        plTensor 128 (fun j => qs / 2 ^ (8 * j) % 256) (fun g => (gs.map (·.1)).getD g 0) p
      else packElems (fbytes f) s.ctx.mat.tn (drainElem s a f m o.sat q)
    Issues s .matrix i → Fresh s → Rec s o.h [rWR] h → Spans s h (s.mdOff o) ((n - 1) * h.pitch size + size) 64 →
    (f = .pl → h.fmt = .pl ∨ h.fmt = .untyped) → s.peerFails (s.sc pr) = none → s.overAllow (window o.h) n = false →
    s.olderPut .matrix s.iss none = false →
    ∃ t, exec i s = .next t ∧ Leaves s t .matrix ∧ DrainedBy s t a n ∧ t.ctx.vec = s.ctx.vec ∧ t.mem = s.mem ∧
      t.ctx.fab = withCommand s.ctx.fab (command s (.write (window o.h)) n 0 [h.sync] none true []) ∧
      (peerDev (s.sc pr).toNat % 512 ≠ s.dev.num.toNat → t.net = s.net) ∧
      (peerDev (s.sc pr).toNat % 512 = s.dev.num.toNat → t.ports = s.ports ∧
        t.net.map (fun x => { x with due := 0 }) = s.net.map (fun x => { x with due := 0 }) ++ (List.range n).map (fun q =>
          s.mkMsg (s.sc pr).toNat o.h .write ((s.mdOff o).toNat + q * h.pitch size) f [(0, size, row q)]
            (s.ctx.fab.nextTxn + q))))

namespace Sys2Proof.Claim

/-! ## Events of the control stream, its queues and its writes -/

/-- Only the control stream of the moving context changed, but for moves put first. -/
def OnlyCtl (s t : State) (ms : List Move) : Prop :=
  t = { s with ctxs := t.ctxs, agenda := ms ++ s.agenda } ∧ (∀ k, k ≠ s.cur → t.ctxAt k = s.ctxAt k) ∧
  t.ctx = { s.ctx with ctl := t.ctx.ctl }

/-- Only one engine of the moving context changed, but for moves put first. -/
def OnlyEng (s t : State) (e : Engine) (ms : List Move) : Prop :=
  t = { s with ctxs := t.ctxs, agenda := ms ++ s.agenda, iss := t.iss } ∧ (∀ k, k ≠ s.cur → t.ctxAt k = s.ctxAt k) ∧
  t.ctx = { s.ctx with vec := t.ctx.vec, eng := t.ctx.eng } ∧ ∀ x, x ≠ e → t.eng x = s.eng x

/-- A posted write that may be made: its cycles are over, it is translated, and it is behind no older write of its source that waits
or touches its bytes. -/
def Ripe (s : State) (src age : Nat) (f : Flight) : Prop :=
  s.ctx.fl.find? (fun f => f.src = src ∧ f.age = age) = some f ∧ f.due ≤ s.dcc.toNat ∧ f.wait = [] ∧
  ∀ o ∈ s.ctx.fl.takeWhile (fun f => !(f.src = src && f.age = age)), o.src = src → o.wait = [] ∧ segsOver o.segs f.segs = false

/-- A posted write lands: its item is freed and its bytes, and no others, are written, but for the bits that a masked plane store
leaves. -/
def Lands (s t : State) (f : Flight) : Prop :=
  t = { s with ctxs := t.ctxs, mem := t.mem, owner := t.owner, badLines := t.badLines, told := t.told } ∧
  (∀ k, k ≠ s.cur → t.ctxAt k = s.ctxAt k) ∧ t.ctx = { s.ctx with fl := s.ctx.fl.erase f } ∧
  t.mem = (keepBits s.mem f.keep f.segs).foldl (fun m g => m.write g.a g.n g.v) s.mem

end Sys2Proof.Claim

/-- R23, R25, R44, R86, R89: an engine instruction whose predicate is false is dropped; one whose engine has room is pushed with the
values that it captures and an age of its own, and fetch goes on; one without room holds, and is handled again once there is room. -/
def Obligations.EngineInstructionsAreDelivered : Prop :=
  (∀ (s : State) (l : List Lane) (i : Instr) (n : Nat) (e : Engine), s.canFetch = true → s.ctx.ctl.hold = .none →
    decodeLanes l = .ok i n → engineOf i = some e →
    let v := s.stepPast n
    (v.ctx.ctl.getP (uses i).dp = false →
      ∃ t, exec (.deliverEngineInstruction l) s = .next t ∧ MovesOn v t ∧ t.ctx.ctl.s = s.ctx.ctl.s) ∧
    (v.ctx.ctl.getP (uses i).dp = true → s.ctx.lp.open_ = false → s.ctx.room e = true → s.firing = false →
      ∃ t, exec (.deliverEngineInstruction l) s = .next t ∧ OnlyControl s t ∧ t.ctx.ctl.line = v.ctx.ctl.nline ∧
        t.ctx.ctl.lane = v.ctx.ctl.nlane ∧ t.ctx.ctl.s = s.ctx.ctl.s ∧ t.ctx.ctl.nextAge = s.ctx.ctl.nextAge + 1 ∧
        ∀ x, t.ctx.engAt x = { s.ctx.engAt x with q := (s.ctx.engAt x).q ++
          if x = e then [.instr (s.capture i (l.take n) s.ageNow) true] else [] }) ∧
    (v.ctx.ctl.getP (uses i).dp = true → s.ctx.lp.open_ = false → s.ctx.room e = false →
      ∃ t, exec (.deliverEngineInstruction l) s = .next t ∧ OnlyCtl s t [] ∧ t.ctx.ctl.hold = .queue e ∧
        t.ctx.ctl.line = s.ctx.ctl.line ∧ t.ctx.ctl.lane = s.ctx.ctl.lane)) ∧
  (∀ (s : State) (e : Engine), s.ctx.phase = .running → s.ctx.ctl.fetch = .run → s.ctx.ctl.hold = .queue e →
    s.ctx.room e = true → s.firing = false →
    ∃ t, exec .fetchHoldRelease s = .next t ∧ OnlyCtl s t [.fetch s.cur] ∧
      t.ctx.ctl = { s.ctx.ctl with hold := .none, held := 0 }) ∧
  (∀ (s : State) (e : Engine), s.ctx.phase = .running → s.ctx.csr.intrap = false → lowestOf s.ctx.lp.owed = some e →
    s.ctx.room e = true →
    ∃ t, exec .owedMarkerPush s = .next t ∧ OnlyControl s t ∧ t.ctx.ctl = s.ctx.ctl ∧
      t.ctx.lp = { s.ctx.lp with owed := dropBit s.ctx.lp.owed e } ∧
      ∀ x, t.ctx.engAt x = { s.ctx.engAt x with q := (s.ctx.engAt x).q ++
        if x = e then [.endMark s.ctx.lp.endAge] else [] })

/-- R92, R272, R364 to R367: a wait ends in the cycle in which its counter meets its threshold or the DCC its cycle, and one past
EVSTALL.LIMIT raises WAITLIMIT; two cycles after it was raised, a pending engine trap enters the handler; with no handler (TVEC.EN
= 0) the strand and its gang stop at once, whatever the strand waits for. Where it rests on the model's own choice or reading: log
entry 75. -/
def Obligations.WaitsEndAndTrapsEnter : Prop :=
  (∀ (s : State) (n : BitVec 6) (th : BitVec 32) (acq : Bool), s.ctx.ctl.hold = .evwait n th acq → s.ctx.phase = .running →
    ((s.ctx.ctl.getE n - th).toNat < 2 ^ 31 →
      ∃ t, exec .evwaitMet s = .next t ∧ MovesOn s t ∧ t.ctx.ctl.s = s.ctx.ctl.s) ∧
    (2 ^ 31 ≤ (s.ctx.ctl.getE n - th).toNat → s.ctx.csr.evstall.toNat ≠ 0 → s.ctx.csr.evstall.toNat ≤ s.ctx.ctl.held →
      CanTrap s →
      ∃ t, exec .waitlimit s = .next t ∧ InHandler s t tWAITLIMIT
        (word ((s.ctx.ctl.getE n).toNat * 2 ^ 32 + n.toNat)) s.ctx.ctl.line s.ctx.ctl.lane .none)) ∧
  (∀ (s : State) (c : Word), s.ctx.ctl.hold = .dccwait c → s.ctx.phase = .running → c.toNat ≤ s.dcc.toNat →
    ∃ t u, exec .dccwaitExpiry s = .next t ∧ t = { u with agenda := .fetch s.cur :: s.agenda } ∧ MovesOn s u ∧
      u.ctx.ctl.s = s.ctx.ctl.s) ∧
  (∀ (s : State) (e : Engine) (p : Pend), s.ctx.pending = some (e, p) → s.ctx.phase = .running →
    s.ctx.ctl.fetch ≠ .stopped → s.ctx.ctl.hold.abandoned = true → s.ctx.ctl.due ≤ s.dcc.toNat →
    p.at_.toNat + 2 ≤ s.dcc.toNat → CanTrap s →
    ∃ t, exec .trapEntry s = .next t ∧ InHandler (s.setCtx (s.ctx.setEng e { s.eng e with pend := none })) t p.code p.tinfo
      s.ctx.ctl.line s.ctx.ctl.lane ⟨true, p.asy, BitVec.ofNat 3 (Config.engIdx e), false, p.lost,
        BitVec.ofNat 13 (p.line / 32), BitVec.ofNat 4 p.lane⟩) ∧
  (∀ (s : State) (e : Engine) (p : Pend), s.ctx.pending = some (e, p) → s.ctx.phase = .running →
    s.ctx.ctl.fetch ≠ .stopped → s.ctx.csr.intrap = false → s.ctx.csr.tvecEn = false →
    exec .trapEntry s = .next ((s.setCtx (s.ctx.setEng e { s.eng e with pend := none })).stopGang s.cur p.code))

/-- R75, R76, R137, R139, R270, R271: a posted write of the control stream or of an engine that may be made writes exactly its bytes
and frees its item; an increment that has arrived adds its amount to the counter of its strand, and to nothing else. -/
def Obligations.WritesLandAndIncrementsArrive : Prop :=
  (∀ (s : State) (age : Nat) (f : Flight), Ripe s 6 age f → ∃ t, exec (.scalarStoreWritten age) s = .next t ∧ Lands s t f) ∧
  (∀ (s : State) (e : Engine) (age : Nat) (f : Flight), Ripe s (Config.engIdx e) age f → e ≠ .halo → e ≠ .fabric →
    ∃ t, exec (.engineCommandComplete e age) s = .next t ∧ Lands s t f) ∧
  (∀ (s : State) (x : Incr) (k : Nat), x ∈ s.incrs → x.due ≤ s.dcc.toNat → s.keyOf x.gang x.strand = some k →
    (s.ctxAt k).phase ≠ .loading →
    ∃ t, exec (.counterIncrementArrival x) s = .next t ∧ t = { s with ctxs := t.ctxs, incrs := s.incrs.erase x } ∧
      (∀ j, j ≠ k → t.ctxAt j = s.ctxAt j) ∧ t.ctxAt k = { s.ctxAt k with ctl := (t.ctxAt k).ctl } ∧
      (t.ctxAt k).ctl = { (s.ctxAt k).ctl with e := (t.ctxAt k).ctl.e } ∧
      ∀ n, (t.ctxAt k).ctl.getE n = (s.ctxAt k).ctl.getE n + if n = x.ctr then x.amt else 0) ∧
  (∀ (s : State) (x : Incr), x ∈ s.incrs → x.due ≤ s.dcc.toNat → s.keyOf x.gang x.strand = none →
    exec (.counterIncrementArrival x) s = .next { s with incrs := s.incrs.erase x })

/-- R88, R132, R133, R135, R142, R274: a stalled push is made once its queue has room; a stalled read reads once its queues hold
entries; a stall at the limit freezes with QUNDER or QOVER; loop and fence markers leave the head, and a loop's body is kept to be
executed N times. Where it rests on the model's own choice or reading: log entry 21. -/
def Obligations.EngineQueuesGoOn : Prop :=
  (∀ (s : State) (e : Engine) (p : Push), (s.eng e).pushes = [p] → s.ctx.phase = .running → (s.eng e).frozen = false →
    s.ctx.vec.qcount p.q < 4 → p.acc = none → (∀ y ∈ s.ctx.fab.cmds, y.what = .load → y.sent ≠ 1) →
    ∃ t, exec (.queuePush e) s = .next t ∧ OnlyEng s t e [] ∧ t.ctx.vec = s.ctx.vec.push p.q p.v p.f ∧ Leaves s t e) ∧
  (∀ (s : State) (e : Engine) (q : Nat) (c : Cap) (b : Bool), (s.eng e).head = some (c, b) → (s.eng e).stall = .read q →
    s.ctx.phase = .running → (s.eng e).frozen = false → s.ctx.vec.qcount q ≠ 0 →
    s.ctx.vec.firstEmpty (queueReads c.instr) = none → queueReads c.instr ≠ [] →
    ∃ t, exec (.queueReadStep e) s = .next t ∧ OnlyEng s t e [.issue s.cur e] ∧ (t.eng e).latched = true ∧
      (t.eng e).stall = .none ∧ t.ctx.vec = popped s c.instr ∧
      ∀ r ∈ queueReads c.instr, SMap.get none (t.eng e).latch r.1 = some (s.ctx.vec.front r.1)) ∧
  (∀ (s : State) (e : Engine) (q : Nat) (c : Cap) (b : Bool), (s.eng e).head = some (c, b) → s.ctx.phase = .running →
    (s.eng e).frozen = false → s.ctx.csr.qstall.toNat ≠ 0 → s.ctx.csr.qstall.toNat ≤ (s.eng e).stalled →
    (s.eng e).pend = none →
    ((s.eng e).stall = .read q → s.ctx.vec.firstEmpty (queueReads c.instr) = some q →
      ∃ t, exec (.qstallLimit e) s = .next t ∧ OnlyEng s t e [] ∧ t.ctx.vec = s.ctx.vec ∧ (t.eng e).frozen = true ∧
        (t.eng e).pend = some ⟨false, tQUNDER, word (Config.engIdx e * 32 + q), c.line, c.lane, s.dcc, false⟩) ∧
    ((s.eng e).stall = .push q → (s.eng e).made ≠ 0 →
      ∃ t, exec (.qstallLimit e) s = .next t ∧ OnlyEng s t e [] ∧ t.ctx.vec = s.ctx.vec ∧ (t.eng e).frozen = true ∧
        (t.eng e).pushes = (s.eng e).pushes ∧
        (t.eng e).pend = some ⟨false, tQOVER, word ((s.eng e).made % 256 * 256 + Config.engIdx e * 32 + q), c.line, c.lane,
          s.dcc, false⟩)) ∧
  (∀ (s : State) (e : Engine) (age n skew : Nat) (r : List QItem), (s.eng e).q = .loopMark age n skew :: r →
    (s.eng e).loop = none → s.ctx.phase = .running → skew ≤ (s.eng e).stalled →
    ∃ t, exec (.loopSkewEnd e) s = .next t ∧ OnlyEng s t e [] ∧ t.ctx.vec = s.ctx.vec ∧
      t.eng e = { s.eng e with q := r, stalled := 0, loop := some ⟨n, age, [], 0, 0, 0⟩ }) ∧
  (∀ (s : State) (e : Engine) (age : Nat) (r : List QItem) (l : LoopRun), (s.eng e).q = .endMark age :: r →
    (s.eng e).loop = some l → s.ctx.phase = .running →
    (l.exec = 0 → 1 < l.n → l.body ≠ [] →
      ∃ t, exec (.loopEndMarker e) s = .next t ∧ OnlyEng s t e [] ∧ t.ctx.vec = s.ctx.vec ∧
        t.eng e = { s.eng e with loop := some { l with exec := 1, pos := 0, endAge := age } }) ∧
    ((l.exec = 0 ∧ (l.n ≤ 1 ∨ l.body = [])) ∨ (l.exec ≠ 0 ∧ l.n ≤ l.exec) →
      ∃ t, exec (.loopEndMarker e) s = .next t ∧ OnlyEng s t e [] ∧ t.ctx.vec = s.ctx.vec ∧
        t.eng e = { s.eng e with q := r, loop := none })) ∧
  (∀ (s : State) (e : Engine) (age : Nat) (r : List QItem) (todo left : BitVec 6) (f : Bool),
    (s.eng e).q = .fenceMark age :: r → s.ctx.phase = .running → (s.eng e).frozen = false →
    s.ctx.ctl.hold = .marks todo left age f →
    ∃ t u, exec (.fenceMarkerHead e) s = .next t ∧ u = s.onEng e (fun x => { x with q := r }) ∧
      (if todo ≠ 0 ∨ dropBit left e ≠ 0 then t = u.ctl (fun c => { c with hold := .marks todo (dropBit left e) age f })
       else if f then t = u.ctl (fun c => { c with hold := .writes }) else MovesOn u t))

namespace Sys2Proof.Claim

/-! ## Service calls, gangs, debugging -/

/-- The scheduler core serves the call of the moving context now: it waits with this code, and no firmware drain keeps the call
for later (R93, R487). -/
def Calls (s : State) (code : Nat) : Prop :=
  (∃ (c : BitVec 16) (l : List Word), s.ctx.ctl.hold = .svc c l ∧ c.toNat = code) ∧ (s.dev.fw.state ≠ 2 ∨ s.cur ∈ s.dev.fw.held)

/-- A call is answered with a status and a result, and nothing else of the context changes. -/
def Answered (s t : State) (st r : Word) : Prop :=
  t.ctx = { s.ctx with ctl := { s.ctx.ctl with hold := .reply st r } } ∧ (∀ k, k ≠ s.cur → t.ctxAt k = s.ctxAt k) ∧
  t.dev = { s.dev with fw := { s.dev.fw with held := s.dev.fw.held.filter (fun k => k ≠ s.cur) } } ∧
  t = { s with ctxs := t.ctxs, dev := t.dev }

/-- One world changed. -/
def OnlyWorld (s t : State) (w : Nat) : Prop :=
  t = { s with worlds := t.worlds } ∧ ∀ v, v ≠ w → t.world v = s.world v

/-- The completion entry of an end (R224, R479), its phase and cycle to be put in as it is written. -/
def entry (status trap strand gang : Nat) (tag : BitVec 16) (sq : BitVec 2) : Cqe :=
  ⟨word (trap % 256 * 2 ^ 48 + strand % 65536 * 2 ^ 32 + gang % 65536 * 2 ^ 16 + tag.toNat), word (sq.toNat * 4 + status)⟩

/-- A gang alone in its linked set. -/
def Unlinked (s : State) (id : Nat) : Prop := s.linkedSet id = [id]

end Sys2Proof.Claim

/-- R93, R484: a call in service is answered with its status and result: the version, the state of a gang, 2 or 1 for a launch that
cannot be taken, −1 for an undefined code; s2 and s3 are those that the call sent; once the cycles of the call are over the reply
sets s1 and s2, and control goes on. Where it rests on the model's own choice or reading: log entry 49. -/
def Obligations.ServiceCallsAreAnswered : Prop :=
  (∀ (s : State), Calls s 0 → ∃ t, exec .svcVersionQuery s = .next t ∧ Answered s t 0 (s.dev.fw.version.setWidth 64)) ∧
  (∀ (s : State), Calls s 1 → (2 ^ 57 ≤ (s.svcArg 2).toNat ∨ 2 ^ 16 ≤ (s.svcArg 3).toNat) →
    ∃ t, exec .svcSubmitLaunch s = .next t ∧ Answered s t 2 0) ∧
  (∀ (s u r : State) (v : Option Nat) (ok : Bool), Calls s 1 → (s.svcArg 2).toNat < 2 ^ 57 → (s.svcArg 3).toNat < 2 ^ 16 →
    let w := s.bind.world.toNat
    let k := match v with | some v => fieldAt v 0 36 35 | none => 0
    let q := SMap.get Subq.reset (u.world w).sq k
    s.readVa w (s.svcArg 2).toNat 8 = (u, v) →
    ((q.log < 4 ∨ 16 < q.log ∨ q.after q.tail = q.head) → ∃ t, exec .svcSubmitLaunch s = .next t ∧ Answered u t 1 0) ∧
    (4 ≤ q.log → q.log ≤ 16 → q.after q.tail ≠ q.head →
      u.writeVa w (q.va + 16 * q.tail.toNat) 16 ((s.svcArg 2).toNat + (s.svcArg 3).toNat * 2 ^ 64) = (r, ok) →
      ∃ t, exec .svcSubmitLaunch s = .next t ∧
        if ok then Answered ((r.setWorld w { r.world w with
          sq := SMap.set Subq.reset (u.world w).sq k { q with tail := q.after q.tail } }).readQueue w k) t 0 (q.tail.setWidth 64)
        else Answered r t 1 0)) ∧
  (∀ (s : State), Calls s 2 → ∃ t r, exec .svcGangState s = .next t ∧ Answered s t 0 r ∧
    (s.launches.any (fun l => l.gang.toNat = (s.svcArg 2).toNat ∧ l.world = s.bind.world.toNat) = true → r = 0) ∧
    (s.launches.any (fun l => l.gang.toNat = (s.svcArg 2).toNat ∧ l.world = s.bind.world.toNat) = false →
      (s.gang (s.svcArg 2).toNat = none → r = 3) ∧
      ∀ g, s.gang (s.svcArg 2).toNat = some g → r = (if g.world ≠ s.bind.world.toNat then 3 else if g.running then 1
        else if g.preempted then 2 else 0))) ∧
  (∀ (s : State) (n : Nat), 3 ≤ n → Calls s n →
    ∃ t, exec .svcUndefined s = .next t ∧ Answered s t 0xFFFFFFFFFFFFFFFF 0) ∧
  (∀ (s : State) (st r : Word), s.ctx.ctl.hold = .reply st r → s.ctx.phase = .running →
    s.ctx.ctl.due ≤ s.dcc.toNat →
    ∃ t, exec .svcReply s = .next t ∧ MovesOn s t ∧ t.getS 1 = st ∧ t.getS 2 = r ∧
      ∀ x, x ≠ 1 → x ≠ 2 → t.getS x = s.getS x)

/-- R218, R221, R222, R226, R392, R477, R479: a doorbell from the port that holds the lease sets its queue's tail, and the entries up
to it are read where the queue is on and its world open; a pending launch whose turn it is, and whose table mints, is bound to its
places whole; its contexts load their code and their data, not before the other slot's image is written and not from a bind record
that dispatch refuses, and at the gang's start cycle every strand runs. Where it rests on the model's own choice or reading: log
entries 42, 43, 44, 47, 52, 80, 105. -/
def Obligations.GangsAreSubmittedBoundAndStarted : Prop :=
  (∀ (s : State) (port w k : Nat) (bell : Doorbell),
    let x := s.world w
    let q := SMap.get Subq.reset x.sq k
    let u := { s.setWorld w { x with sq := SMap.set Subq.reset x.sq k { q with tail := bell.pos } } with
               items := s.items ++ bell.items.filter (fun i => i.world = w) }
    s.rings port w = true → s.dev.ready = true → k < 4 → w ≤ 191 → bell.pos.toNat < 2 ^ q.log → x.tdisp ≠ .error →
    ((q.log < 4 ∨ 16 < q.log ∨ x.isOpen = false ∨ x.closing = true) → exec (.launchSubmit port w k bell) s = .next u) ∧
    (4 ≤ q.log → q.log ≤ 16 → x.isOpen = true → x.closing = false → s.dev.fw.state ≠ 2 → x.tdisp ≠ .locked →
      exec (.launchSubmit port w k bell) s =
        .next (State.drain w k ((bell.pos.toNat + 2 ^ q.log - q.head.toNat) % 2 ^ q.log) u)) ∧
    (4 ≤ q.log → q.log ≤ 16 → x.isOpen = true → x.closing = false → s.dev.fw.state = 2 →
      exec (.launchSubmit port w k bell) s =
        .next { u with dev := { u.dev with fw := { u.dev.fw with bells := u.dev.fw.bells ++ [.queue w k] } } })) ∧
  (∀ (s : State) (port w k : Nat) (bell : Doorbell), s.rings port w = false ∨ s.dev.ready = false →
    exec (.launchSubmit port w k bell) s = .next s) ∧
  (∀ (s : State) (l : Launch) (p : List (Nat × Nat)), s.launches.find? (fun x => x.id = l.id) = some l →
    s.anyOut (s.linkedSet l.gang.toNat) = false → s.mayPlace (s.linkedSet l.gang.toNat) = true →
    s.pendingOf (s.linkedSet l.gang.toNat) = [l] →
    s.mintOk l = true → s.place l.r = some p → (p.map (fun x => x.1)).Nodup →
    ∃ t g, exec (.gangBind l.id) s = .next t ∧ t.launches = s.launches.filter (fun m => m.id ≠ l.id) ∧ t.mem = s.mem ∧
      t.gang l.gang.toNat = some g ∧ g.world = l.world ∧ g.tag = l.tag ∧ g.r = l.r ∧ g.keys = p.map (fun x => x.1) ∧
      g.refused = false ∧ g.running = false ∧ g.startAt = none ∧
      (∀ i k pb, p[i]? = some (k, pb) → t.bindAt k = ⟨true, true, BitVec.ofNat 2 l.r.prio, BitVec.ofNat 8 l.world, l.gang,
          BitVec.ofNat 16 i, (l.r.strands.getD i ⟨0, 0, 0, []⟩).stage, l.r.start, BitVec.ofNat 57 l.r.va, pb, l.r.psize⟩ ∧
        (t.ctxAt k).phase = .loading ∧ (t.ctxAt k).ctl.line = 32 * (l.r.strands.getD i ⟨0, 0, 0, []⟩).entry) ∧
      ∀ k, k ∉ p.map (fun x => x.1) → t.ctxAt k = s.ctxAt k ∧ t.bindAt k = s.bindAt k) ∧
  (∀ (s : State) (l : Launch), s.launches.find? (fun x => x.id = l.id) = some l →
    s.anyOut (s.linkedSet l.gang.toNat) = false → s.mayPlace (s.linkedSet l.gang.toNat) = true →
    s.pendingOf (s.linkedSet l.gang.toNat) = [l] →
    s.mintOk l = false →
    ∃ t, exec (.gangBind l.id) s = .next t ∧ t.launches = s.launches.filter (fun m => m.id ≠ l.id) ∧ t.gangs = s.gangs ∧
      t.ctxs = s.ctxs ∧ (t.world l.world).kept = (s.world l.world).kept ++ [entry 2 0 0 0 l.tag l.sq]) ∧
  (∀ (s : State) (n : Nat), ∃ t, exec (.launchAging n) s = .next t ∧ t = { s with launches := t.launches } ∧
    t.launches = s.launches.map (fun l =>
      if l.id = n ∧ l.since.toNat + 12000000 * (l.aged + 1) ≤ s.dcc.toNat then { l with aged := l.aged + 1 } else l)) ∧
  (∀ (s u : State) (h : Handle) (l : List (Nat × Nat)), s.ctx.phase = .loading →
    (s.ctxAt (otherSlot s.cur)).phase ≠ .saving → s.ctx.img.stop.toNat + 2048 ≤ s.dcc.toNat →
    SMap.get none s.ctx.ctl.h 0 = some h → s.resolveVa s.cur h.world.toNat h.base.toNat h.len.toNat false = .ok u l →
    u.badRun l = none → (∀ r ∈ l, r.1 + r.2 ≤ Config.cisternBase ∨ Config.hostBase ≤ r.1) → (l.map (fun r => r.2)).sum = h.len.toNat →
    h.len.toNat ≤ 2 ^ 18 → s.bindRefused = false → s.cur < 768 →
    ∃ t, exec .dispatchReady s = .next t ∧ t.ctx = { u.ctx with phase := .ready } ∧
      t.mem.read (Config.imemBase + s.cur * 2 ^ 18) (2 ^ 18) = readRuns u.mem l ∧
      let base := Config.cisternBase + coreOf s.cur * 2 ^ 23 + s.bind.pbase * 65536
      t.mem.read base (s.bind.psize * 65536) = (State.placeItems { s with mem := [] } s.cur).mem.read base (s.bind.psize * 65536)) ∧
  (∀ (s : State) (g : Gang), s.ctx.phase = .loading → (s.ctxAt (otherSlot s.cur)).phase ≠ .saving →
    s.ctx.img.stop.toNat + 2048 ≤ s.dcc.toNat → s.bindRefused = true → s.gang s.bind.gang.toNat = some g →
    exec .dispatchReady s = .next (s.setGang s.bind.gang.toNat (some { g with refused := true }))) ∧
  (∀ (s : State) (id : Nat) (g : Gang) (c : Word), s.gang id = some g → g.startAt = some c → c.toNat ≤ s.dcc.toNat →
    (∀ k ∈ g.keys, (s.ctxAt k).phase = .ready) → g.refused = false → s.anyOut (s.linkedSet id) = false →
    let started (k : Nat) : Ctx := { s.ctxAt k with
      phase := .running, ctl := { (s.ctxAt k).ctl with fetch := .run }
      csr := { (s.ctxAt k).csr with late := decide (g.r.start ≠ 0 ∧ g.r.start.toNat < s.dcc.toNat) } }
    ∃ t, exec (.gangStart id) s = .next t ∧ (∀ k, k ∉ g.keys → t.ctxAt k = s.ctxAt k ∧ t.bindAt k = s.bindAt k) ∧
      (g.halted = false → t = { s with ctxs := t.ctxs, gangs := t.gangs } ∧ (∀ k ∈ g.keys, t.ctxAt k = started k) ∧
        t.gang id = some { g with running := true, preempted := false, startAt := none, lastStart := s.dcc }) ∧
      (g.halted = true → t = { s with ctxs := t.ctxs, binds := t.binds, gangs := t.gangs } ∧
        (∀ k ∈ g.keys, t.ctxAt k = { started k with phase := .saving, img := ⟨false, s.dcc - 1, []⟩ } ∧
          t.bindAt k = { s.bindAt k with run := false }) ∧
        t.gang id = some { g with running := false, preempted := true, startAt := none, lastStart := s.dcc })) ∧
  (∀ (s : State) (id team : Nat) (g : Gang) (c : Word), s.gang id = some g → g.running = true →
    (SMap.get Bar.reset g.bars team).leave = some c → c.toNat ≤ s.dcc.toNat →
    ∃ t, exec (.barrierLeave id team) s = .next t ∧
      t.gang id = some { g with bars := SMap.set Bar.reset g.bars team ⟨(SMap.get Bar.reset g.bars team).gen + 1, [], none⟩ } ∧
      (∀ k ∈ g.keys, ∀ tm a, (s.ctxAt k).ctl.hold = .tbar tm (SMap.get Bar.reset g.bars team).gen a → tm.toNat = team →
        (t.ctxAt k).ctl.hold = .none ∧ (t.ctxAt k).ctl.line = (s.ctxAt k).ctl.nline ∧
        (t.ctxAt k).ctl.getS a = if a = 0 then 0 else (SMap.get Bar.reset g.bars team).gen.setWidth 64) ∧
      ∀ k, k ∉ g.keys → t.ctxAt k = s.ctxAt k)

/-- R32, R222, R223, R373, R375, R376, R383, R384, R404, R405, R407, R479: a gang's pre-emption stops its contexts for their images,
which are written to their save areas, read back and checked, and at its cycle the gang runs again, each control instruction with
the cycles it still needed; a strand that retires departs, the last one posts DONE, a stopped gang FAULT; a departing context is
cleared; entries are written to their completion queue; a debugger halts and resumes a gang. Where it rests on the model's own
choice or reading: log entries 45, 46, 50, 51, 106, 107. -/
def Obligations.GangsStopResumeAndRetire : Prop :=
  (∀ (s : State) (id : Nat) (g : Gang), s.gang id = some g → g.running = true → g.trap = none →
    (g.halted = true ∨ g.migrating = true ∨ s.wanted (s.linkedSet id) = true) → Unlinked s id →
    ∃ t, exec (.preemption id) s = .next t ∧ t = { s with ctxs := t.ctxs, binds := t.binds, gangs := t.gangs, dev := t.dev } ∧
      t.dev = { s.dev with reqs := t.dev.reqs, came := t.dev.came } ∧ t.dev.reqs.length = s.dev.reqs.length ∧
      (∀ c ∈ t.dev.came, c.key ∉ g.keys) ∧ t.gang id = some { g with running := false, preempted := true } ∧
      (∀ k ∈ g.keys, t.ctxAt k = { s.ctxAt k with
          phase := .saving, img := ⟨!g.halted, s.dcc, []⟩, ctl := (s.ctxAt k).ctl.undone s.dcc.toNat } ∧
        t.bindAt k = { s.bindAt k with run := false }) ∧
      ∀ k, k ∉ g.keys → t.ctxAt k = s.ctxAt k ∧ t.bindAt k = s.bindAt k) ∧
  (∀ (c : Ctrl) (p : Nat),
    (∀ l, c.late = some l → l.d ≠ 0 → p + 1 < c.due → (c.undone p).getS l.d = l.old ∧
      ∀ x, x ≠ l.d → (c.undone p).getS x = c.getS x) ∧
    ((c.late = none ∨ c.due ≤ p + 1) → c.undone p = c)) ∧
  (∀ (s : State), s.ctx.phase = .saving →
    ∃ t, exec .imageTransferDone s = .next t ∧ t.ctx = { s.ctx with phase := .out, img := { s.ctx.img with words := t.ctx.img.words } } ∧
      (∀ n, n < 64 → t.ctx.img.words.getD n 0 = csrRead s n) ∧
      (∀ n : BitVec 6, t.mem.read (s.saveBase s.cur + 0x3000 + 4 * n.toNat) 4 = (s.ctx.ctl.getE n).toNat) ∧
      ∀ k, k ≠ s.cur → t.ctxAt k = if k = otherSlot s.cur ∧ (s.ctxAt k).phase = .loading
        then { s.ctxAt k with img := { (s.ctxAt k).img with stop := s.dcc } } else s.ctxAt k) ∧
  (∀ (s : State) (g : Gang), s.ctx.phase = .out → s.gang s.bind.gang.toNat = some g → g.preempted = true →
    s.mayRestore s.bind.gang.toNat = true → Unlinked s s.bind.gang.toNat →
    ∃ t, exec .imageTransferDone s = .next t ∧ t.mem = s.mem ∧ t.gangs = s.gangs ∧
      (∀ k ∈ g.keys, t.ctxAt k = { s.ctxAt k with phase := .restoring } ∧ t.bindAt k = { s.bindAt k with run := true }) ∧
      ∀ k, k ∉ g.keys → t.ctxAt k = s.ctxAt k ∧ t.bindAt k = s.bindAt k) ∧
  (∀ (s u : State), s.ctx.phase = .restoring → s.imageOf s.cur = some u →
    ∃ t, exec .imageTransferDone s = .next t ∧ t.mem = s.mem ∧ t.ctx = { u.ctx with phase := .restored } ∧
      (∀ n : BitVec 5, n ≠ 0 → t.getS n = word (s.mem.read (s.saveBase s.cur + 0x1000 + 8 * n.toNat) 8)) ∧
      ∀ g, s.gang s.bind.gang.toNat = some g → g.preempted = true → Unlinked s s.bind.gang.toNat →
        (∀ k ∈ g.keys, k ≠ s.cur → (s.ctxAt k).phase = .restored) →
        t.gang s.bind.gang.toNat = some { g with ready := some s.dcc, startAt := some (s.dcc + word g.r.startDelay) }) ∧
  (∀ (s : State) (g : Gang), s.ctx.phase = .restoring → s.imageOf s.cur = none → s.gang s.bind.gang.toNat = some g →
    ∃ t, exec .imageTransferDone s = .next t ∧ t.gang s.bind.gang.toNat = none ∧
      (t.world g.world).kept = (s.world g.world).kept ++
        [entry 1 32 s.bind.strand.toNat s.bind.gang.toNat g.tag g.sq]) ∧
  (∀ (s : State) (id : Nat) (g : Gang) (c : Word), s.gang id = some g → g.startAt = some c → c.toNat ≤ s.dcc.toNat →
    g.preempted = true → g.halted = false → Unlinked s id → g.keys.Nodup →
    (∀ k ∈ g.keys, let x := s.ctxAt k
      x.phase = .restored ∧ (x.ctl.due ≤ x.img.stop.toNat + 1 ∨ ∀ l, x.ctl.late = some l → l.load = none) ∧
      (∀ y ∈ x.fab.cmds, y.started = false ∨ (y.what ≠ .load ∧ y.what ≠ .get)) ∧
      ∀ e ∈ x.pump.tabs, e.2.g0.loading = none ∧ e.2.g1.loading = none) →
    ∃ t q, exec (.gangResume id) s = .next t ∧ t.gang id = some q ∧ t.mem = s.mem ∧
      q = { g with running := true, preempted := false, startAt := none, lastStart := s.dcc, bars := q.bars } ∧
      ∀ k ∈ g.keys,
        let x := s.ctxAt k
        let due := s.dcc.toNat + (x.ctl.due - (x.img.stop.toNat + 1))
        (x.ctl.due ≤ x.img.stop.toNat + 1 → t.ctxAt k = { x with phase := .running }) ∧
        (x.img.stop.toNat + 1 < x.ctl.due → x.ctl.late = none →
          t.ctxAt k = { x with phase := .running, ctl := { x.ctl with due := due } }) ∧
        ∀ l, x.img.stop.toNat + 1 < x.ctl.due → x.ctl.late = some l → l.d ≠ 0 →
          (t.ctxAt k).phase = .running ∧ (t.ctxAt k).ctl.due = due ∧ (t.ctxAt k).ctl.getS l.d = l.v ∧
          (t.ctxAt k).ctl.late = some { l with old := x.ctl.getS l.d } ∧
          ∀ y, y ≠ l.d → (t.ctxAt k).ctl.getS y = x.ctl.getS y) ∧
  (∀ (s : State) (g : Gang), s.ctx.phase = .running → s.ctx.ctl.fetch = .halted → s.ctx.lp.owed = 0 →
    s.ctx.drained = true → s.ctx.idle = true → s.ctx.pending = none → s.gang s.bind.gang.toNat = some g →
    s.bind.strand.toNat ∉ g.retired →
    ∃ t, exec .strandRetire s = .next t ∧ (∀ k, k ≠ s.cur → t.ctxAt k = s.ctxAt k) ∧
      ((s.world g.world).g.prot = true ∨ s.partitionBusy s.cur = true → t.mem = s.mem ∧
        t.ctx = { s.ctx with phase := .departing, img := { s.ctx.img with stop := s.dcc } }) ∧
      ((s.world g.world).g.prot = false → s.partitionBusy s.cur = false → t.ctx = Ctx.reset ∧ t.bindAt s.cur = Bind.reset) ∧
      (g.retired.length + 1 < g.r.strands.length → t.worlds = s.worlds ∧
        ∃ q, t.gang s.bind.gang.toNat = some q ∧ q.retired = g.retired ++ [s.bind.strand.toNat] ∧
          q.keys = g.keys.filter (fun k => k ≠ s.cur)) ∧
      (g.r.strands.length ≤ g.retired.length + 1 → t.gang s.bind.gang.toNat = none ∧
        (t.world g.world).kept = (s.world g.world).kept ++ [entry 0 0 0 s.bind.gang.toNat g.tag g.sq])) ∧
  (∀ (s : State) (id : Nat) (g : Gang) (code : BitVec 8) (strand : Nat), s.gang id = some g → g.trap = some (code, strand) →
    (∀ k ∈ g.keys, (s.ctxAt k).still = true) → s.exchangesGoOn id g = false →
    ∃ t, exec (.gangFaultRetire id) s = .next t ∧ t.gang id = none ∧
      (t.world g.world).kept = (s.world g.world).kept ++ [entry 1 code.toNat strand id g.tag g.sq]) ∧
  (∀ (s u : State) (w : Nat) (e : Cqe) (r : List Cqe) (ok : Bool),
    let x := s.world w
    let q := x.cq
    x.kept = e :: r → 4 ≤ q.log → q.log ≤ 16 → q.after q.tail ≠ q.head → x.cqWait = false →
    s.writeVa w (q.va + 16 * q.tail.toNat) 16 (e.w0.toNat + (if x.phase then 2 ^ 63 else 0) +
      (e.w1.toNat + s.dcc.toNat % 2 ^ 32 * 2 ^ 32) * 2 ^ 64) = (u, ok) →
    (ok = true → ∃ t, exec (.completionPost w) s = .next t ∧ OnlyWorld u t w ∧ (t.world w).kept = r ∧
      (t.world w).cq = { q with tail := q.after q.tail } ∧
      (t.world w).phase = if q.after q.tail = 0 then !x.phase else x.phase) ∧
    (ok = false → exec (.completionPost w) s = .next (u.setWorld w { u.world w with cqWait := true }))) ∧
  (∀ (s : State) (w : Nat) (pos : BitVec 16), s.dev.ready = true → w ≤ 191 → pos.toNat < 2 ^ (s.world w).cq.log →
    exec (.cqheadWrite s.dev.holder w pos) s =
      .next (s.setWorld w { s.world w with cq := { (s.world w).cq with head := pos } })) ∧
  (∀ (s : State), s.ctx.phase = .departing → (s.world s.bind.world.toNat).g.prot = false →
    (s.partitionBusy s.cur = true → exec .departureScrub s = .next s) ∧
    (s.partitionBusy s.cur = false → ∃ t, exec .departureScrub s = .next t ∧ t.ctx = Ctx.reset ∧ t.bindAt s.cur = Bind.reset ∧
      t.layers = s.layers ∧ t.mem.read (s.saveBase s.cur) (2 ^ 22) = 0 ∧
      ∀ k, k ≠ s.cur → t.ctxAt k = s.ctxAt k ∧ t.bindAt k = s.bindAt k)) ∧
  (∀ (s : State), s.ctx.phase = .departing → (s.world s.bind.world.toNat).g.prot = true →
    let since (n : Nat) : Prop := s.ctx.img.stop.toNat + n ≤ s.dcc.toNat
    let part := cSCRUB5 + 32 * s.bind.psize
    (since cSCRUB5 → s.partitionBusy s.cur = true → exec .departureScrub s =
      .next (s.setCtx { s.ctx with img := { s.ctx.img with stop := word (s.dcc.toNat + 1 - cSCRUB5) } })) ∧
    (¬ since (scrubCycles s.bind.psize) → (since cSCRUB5 → s.partitionBusy s.cur = false) →
      ∃ t, exec .departureScrub s = .next t ∧ t.bindAt s.cur = s.bindAt s.cur ∧ t.ctx.phase = .departing ∧ t.ctx.img = s.ctx.img ∧
        (¬ since 512 → t.ctx.vec.r = s.ctx.vec.r ∧ t.ctx.vec.count = s.ctx.vec.count) ∧
        (since 512 → ∀ i, 128 ≤ i → i < 256 → SMap.get 0 t.ctx.vec.r i = 0 ∧ SMap.get 0 t.ctx.vec.count i = 0) ∧
        (since 1024 → ∀ i, i < 128 → SMap.get 0 t.ctx.vec.r i = 0) ∧
        (¬ since 1280 → t.ctx.mat = s.ctx.mat) ∧ (since 1280 → t.ctx.mat = .reset) ∧
        (¬ since 1344 → t.ctx.sig = s.ctx.sig ∧ t.layers = s.layers ∧ t.mem = s.mem) ∧
        (since cSCRUB5 → t.ctx.sig = .reset ∧ t.ctx.pump.buf = [] ∧ t.ctx.pump.fly = [] ∧
          ∀ l, l ∈ t.layers ↔ l ∈ s.layers ∧ ¬(l.srcDev = s.dev.num ∧ l.srcGang = s.bind.gang.toNat ∧
            l.srcStrand = s.bind.strand.toNat)) ∧
        (since part → ¬ since (part + 176) → t.mem.read (Config.cisternBase + coreOf s.cur * 2 ^ 23 + s.bind.pbase * 65536) (s.bind.psize * 65536) = 0) ∧
        (since (part + 160) → t.ctx.pump = .reset ∧ t.ctx.rq = []) ∧
        (since (part + 160) → ¬ since (part + 176) → t.mem.read (Config.imemBase + s.cur * 2 ^ 18) (2 ^ 18) = 0) ∧
        (since (part + 176) → ∀ e ∈ (t.world s.bind.world.toNat).x.cache, coreId (coreOf s.cur) ∉ e.at_) ∧
        (since (part + 208) → t.ctx.ctl = .reset ∧ t.ctx.grids = []) ∧
        ∀ k, k ≠ s.cur → t.ctxAt k = s.ctxAt k ∧ t.bindAt k = s.bindAt k) ∧
    (since (scrubCycles s.bind.psize) → s.partitionBusy s.cur = false →
      ∃ t, exec .departureScrub s = .next t ∧ t.ctx = Ctx.reset ∧ t.bindAt s.cur = Bind.reset ∧
        (∀ k, k ≠ s.cur → t.ctxAt k = s.ctxAt k ∧ t.bindAt k = s.bindAt k) ∧
        t.mem.read (s.saveBase s.cur) (2 ^ 22) = 0 ∧
        t.mem.read (Config.imemBase + s.cur * 2 ^ 18) (2 ^ 18) = 0 ∧
        t.mem.read (Config.cisternBase + coreOf s.cur * 2 ^ 23 + s.bind.pbase * 65536) (s.bind.psize * 65536) = 0)) ∧
  (∀ (s : State) (w : Nat) (id : BitVec 16) (g : Gang), s.gang id.toNat = some g → g.world = w →
    (g.running = true → g.preempted = false → g.trap = none → Unlinked s id.toNat →
      ∃ t, exec (.dbghalt s.dev.holder w id) s = .next t ∧
        t.gang id.toNat = some { g with running := false, preempted := true, halted := true } ∧ (t.world w).dbgGang = id ∧
        ∀ k ∈ g.keys, t.ctxAt k = { s.ctxAt k with
          phase := .saving, img := ⟨false, s.dcc, []⟩, ctl := (s.ctxAt k).ctl.undone s.dcc.toNat }) ∧
    (g.running = false → g.preempted = false → Unlinked s id.toNat →
      ∃ t, exec (.dbghalt s.dev.holder w id) s = .next t ∧ t.gang id.toNat = some { g with halted := true } ∧
        (t.world w).dbgGang = id ∧ t.ctxs = s.ctxs) ∧
    (g.running = false → g.preempted = true → Unlinked s id.toNat → Unlinked (s.unrestore id.toNat) id.toNat →
      ∃ t, exec (.dbghalt s.dev.holder w id) s = .next t ∧ (t.world w).dbgGang = id ∧
        t.gang id.toNat = some { g with halted := true, ready := none, startAt := none } ∧
        (∀ k ∈ g.keys, (s.ctxAt k).phase = .restoring ∨ (s.ctxAt k).phase = .restored →
          t.ctxAt k = { s.ctxAt k with phase := .out, img := { (s.ctxAt k).img with pre := false } } ∧
          t.bindAt k = { s.bindAt k with run := false } ∧ t.mem.read (s.saveBase k + 3) 1 = 0) ∧
        (∀ k ∈ g.keys, (s.ctxAt k).phase = .out ∨ (s.ctxAt k).phase = .saving →
          t.ctxAt k = { s.ctxAt k with img := { (s.ctxAt k).img with pre := false } } ∧
          ((s.ctxAt k).phase = .out → t.mem.read (s.saveBase k + 3) 1 = 0)) ∧
        ∀ k, k ∉ g.keys → t.ctxAt k = s.ctxAt k) ∧
    exec (.dbgresume s.dev.holder w id) s = .next (s.setGang id.toNat (some { g with halted := false })))

namespace Sys2Proof.Claim

/-! ## Translation, and the pump's and the halo engine's events -/

/-- A buffered command that may start: buffered, its time come, a cycle after its issue, its counter met, nothing older in its
way, and room in flight (R286, R288). -/
def Due (s : State) (age : Nat) (x : PCmd) : Prop :=
  s.ctx.pump.buf.find? (fun y => y.cap.age = age) = some x ∧ s.ctx.phase = .running ∧ s.mayStart x = true

/-- A command that has left the buffer for the flight (R286): with its start and end, its runs and its data. -/
def started (s : State) (x : PCmd) (rd wr : List (Nat × Nat)) (data : Nat) (bad : Option (Nat × Nat)) : PCmd :=
  { x with
    start := s.dcc, fin := word (min (s.dcc.toNat + (s.ptime x.cap (s.pgeo x.cap)).2) (2 ^ 64 - 1)), wait := false, page := (0, 0), inv := false
    rd := rd, wr := wr, data := data, bad := bad }

/-- A layer of a grid in place at its receiver agrees with the receiver's grid (R324, R325). -/
def Agrees (s : State) (k : Nat) (r : Grid) (l : LayerMsg) : Prop :=
  s.layerRevoked l = false ∧ s.takes k (r.face (faceNum l.face)) l = true ∧ faceNum l.face < 2 * r.dims ∧ l.w = r.w ∧ l.ew = r.ew ∧
  l.ex = (r.ghost (faceNum l.face)).x1 - (r.ghost (faceNum l.face)).x0 ∧
  l.ey = (r.ghost (faceNum l.face)).y1 - (r.ghost (faceNum l.face)).y0 ∧
  l.ez = (r.ghost (faceNum l.face)).z1 - (r.ghost (faceNum l.face)).z0

end Sys2Proof.Claim

/-- R4, R244 to R246, R251, R268, R269, R369, R400: a walk caches the leaf it reaches or records its fault, and the line whose check
failed; an invalidation drops the covered entries once no translated access is left, and one of everything makes walkers read the
tables of the world as memory holds them; then waiting writes and parked entries are translated afresh and made, and an entry that
still faults waits for another invalidation of one of its pages; each cycle advances the DCC, and the energy weights written in it
hold from then on (R476). Where it rests on the model's own choice or reading: log entries 39, 40, 85. -/
def Obligations.TranslationsAreCachedDroppedAndRetried : Prop :=
  (∀ (s : State) (w : Nat) (va : BitVec 57) (e : Tlb), s.lookup w va.toNat = .leaf e →
    ∃ t, exec (.translationWalk w va) s = .next t ∧ OnlyWorld s t w ∧ e ∈ (t.world w).x.cache ∧
      (∀ f ∈ (t.world w).x.cache, f = e ∨ f ∈ (s.world w).x.cache) ∧
      t.world w = { s.world w with x := { (s.world w).x with cache := (t.world w).x.cache } }) ∧
  (∀ (s : State) (w : Nat) (va : BitVec 57) (l r : Nat) (line : Option Nat), s.lookup w va.toNat = .fault l r line →
    ∃ t, exec (.translationWalk w va) s = .next t ∧ t = { s with worlds := t.worlds, dev := t.dev } ∧
      (∀ v, v ≠ w → t.world v = s.world v) ∧ (line = none → t.dev = s.dev) ∧ (t.world w).x.fva = va ∧
      (t.world w).x.finfo = BitVec.ofNat 6 (l * 8 + r) ∧ (t.world w).x.cache = (s.world w).x.cache ∧
      ∀ ln, line = some ln → (t.world w).g.integV = true ∧ (t.world w).g.integ = ln) ∧
  (∀ (s : State) (w : Nat) (va : BitVec 57), s.lookup w va.toNat = .refused →
    exec (.translationWalk w va) s = .next (s.logged logRefusal (va.setWidth 64))) ∧
  (∀ (s : State) (port w : Nat) (v : Word), s.dev.ready = true → w ≤ 191 →
    ∃ t, exec (.xinv port w v) s = .next t ∧ OnlyWorld s t w ∧
      t.world w = { s.world w with x := if (s.world w).x.inv.isSome then { (s.world w).x with drop := true }
        else { (s.world w).x with inv := some (
          let a := v.toNat % 2 ^ 57
          if v.toNat % 4 = 0 then (a / 2 ^ 19 * 2 ^ 19, a / 2 ^ 19 * 2 ^ 19 + 2 ^ 19)
          else if v.toNat % 4 = 1 then (a / 2 ^ 25 * 2 ^ 25, a / 2 ^ 25 * 2 ^ 25 + 2 ^ 25)
          else if v.toNat % 4 = 2 then (a / 2 ^ 30 * 2 ^ 30, a / 2 ^ 30 * 2 ^ 30 + 2 ^ 30)
          else (0, 2 ^ 57)) } }) ∧
  (∀ (s : State) (w lo hi : Nat), (s.world w).x.inv = some (lo, hi) → (∀ e ∈ s.ctxs, e.2.translated w lo hi = false) →
    ∃ t, exec (.invalidationComplete w) s = .next t ∧ (t.world w).x.inv = none ∧
      (t.world w).x.cache = (s.world w).x.cache.filter (fun e => !(decide (e.va < hi ∧ lo < e.va + e.size))) ∧
      (∀ v, v ≠ w → t.world v = s.world v) ∧ t.gangs = s.gangs ∧ t.tiles = s.tiles ∧
      (lo = 0 → hi = 2 ^ 57 → ∀ a, s.regionWorld (8 * a) = some w → t.tableWord (8 * a) = t.mem.read (8 * a) 8)) ∧
  (∀ (s u : State) (age : Nat) (f : Flight) (l : List Seg), s.ctx.fl.find? (fun f => f.age = age ∧ f.stale) = some f →
    s.resolveSegs f.world.toNat f.wait = .ok (u, l) →
    ∃ t, exec (.translationWaitResume age) s = .next t ∧ t = u.setCtx { u.ctx with fl := u.ctx.fl.map (fun x =>
      if x = f then { f with segs := f.segs ++ l, wait := [], stale := false } else x) }) ∧
  (∀ (s u : State) (n : Nat) (p : Parked) (l : List Seg), s.ctx.rq[n]? = some p → s.ctx.phase = .running → p.covered = true → p.tried = false →
    (∀ o ∈ s.ctx.rq.take n, o.world = p.world → ∀ g ∈ pagesOfSegs o.segs, g ∉ pagesOfSegs p.segs) →
    s.resolveSegs p.world.toNat p.segs = .ok (u, l) → p.atom = none →
    ∃ t, exec (.replayEntry n) s = .next t ∧ t.ctx = { u.ctx with rq := u.ctx.rq.eraseIdx n } ∧
      t.mem = (keepBits u.mem p.keep l).foldl (fun m g => m.write g.a g.n g.v) u.mem) ∧
  (∀ (s u : State) (n va : Nat) (p : Parked), s.ctx.rq[n]? = some p → s.ctx.phase = .running → p.covered = true → p.tried = false →
    (∀ o ∈ s.ctx.rq.take n, o.world = p.world → ∀ g ∈ pagesOfSegs o.segs, g ∉ pagesOfSegs p.segs) →
    s.resolveSegs p.world.toNat p.segs = .error (.page u va) →
    ∃ t, exec (.replayEntry n) s = .next t ∧ t = u.setCtx { u.ctx with rq := u.ctx.rq.set n { p with tried := true } }) ∧
  (∀ (s : State), s.dev.ready = true → ∃ t, exec .arithmeticClockTick s = .next t ∧ t.dcc = s.dcc + 1 ∧
    t = { s with dcc := t.dcc, dev := t.dev, ctxs := t.ctxs, rx := t.rx, landing := t.landing, chans := t.chans } ∧
    t.dev = { s.dev with ew := s.dev.ewNext } ∧ t.chans = s.chans.filter (fun x => s.dcc.toNat < x.hi) ∧
    (∀ e, e ∈ t.landing ↔ e ∈ s.landing ∧ s.dcc.toNat + 1 < e.1) ∧
    ∀ g, g ∈ t.rx ↔ g ∈ s.rx ∨ ∃ c, (c, g) ∈ s.landing ∧ c ≤ s.dcc.toNat + 1) ∧
  (∀ (s : State), s.dev.ready = false → exec .arithmeticClockTick s = .next s)

/-- R284, R286, R287, R291, R294, R296, R305, R306, R308, R310, R313: a due command starts, late where its time is past; its write
window invalidates the tags of its tiles; at its end, not while a read of host memory is outstanding (R482), its bytes are
written, its tags set and its counter raised; a table's load ends with its check; a cancellation is acknowledged. Where it rests
on the model's own choice or reading: log entries 15, 16, 18, 62, 108. -/
def Obligations.PumpCommandsStartAndEnd : Prop :=
  (∀ (s : State) (age : Nat) (x : PCmd) (e : BitVec 6) (a b : BitVec 5) (dp : BitVec 3) (g n : Nat), Due s age x →
    x.cap.instr = .pevent e a b dp → s.target (x.cap.sc b) = some (g, n) →
    ∃ t, exec (.pumpStart age) s = .next t ∧ t.ctx = { s.ctx with pump := { s.ctx.pump with
        buf := s.ctx.pump.buf.filter (fun y => y.cap.age ≠ x.cap.age) } } ∧
      t.incrs = (s.sendIncr s.cur g n e 1).incrs ∧ t = { s with ctxs := t.ctxs, incrs := t.incrs }) ∧
  (∀ (s u : State) (age : Nat) (x : PCmd) (o : POp) (h : Handle) (wr : List (Nat × Nat)), Due s age x →
    x.cap.instr = .pfill o → s.anyRevoked x.cap = false → (s.pgeo x.cap).hd = some (some h) →
    s.resolveRowsAt h (s.pgeo x.cap).od.toNat (s.pgeo x.cap).pd (s.pgeo x.cap).n true 1 = .ok u wr →
    s.ctx.pump.overlapped s.dcc.toNat [] wr = false →
    (s.channels x.cap (s.pgeo x.cap) s.dcc.toNat).all (fun e => chanFree s.chans e.1 e.2) = true →
    let late := x.cap.time ≠ 0 ∧ x.cap.time.toNat < s.dcc.toNat
    ∃ t y, exec (.pumpStart age) s = .next t ∧ t.mem = u.mem ∧
      y = started s x [] wr (packElems 8 ((s.pgeo x.cap).n / 8) (fun _ => (x.cap.sc o.os).toNat)) none ∧
      t.ctx.pump = { u.ctx.pump with
        buf := u.ctx.pump.buf.filter (fun z => z.cap.age ≠ x.cap.age), fly := u.ctx.pump.fly ++ [y]
        late := u.ctx.pump.late || decide late
        lcount := if late ∧ u.ctx.pump.lcount ≠ 0xFFFF then u.ctx.pump.lcount + 1 else u.ctx.pump.lcount } ∧
      t.chans = s.chans ++ (s.channels x.cap (s.pgeo x.cap) s.dcc.toNat).map (fun e => e.2)) ∧
  (∀ (s : State) (age : Nat) (x : PCmd), Due s age x → s.anyRevoked x.cap = true → x.cap.time.toNat ≤ s.dcc.toNat →
    (∀ e a b dp, x.cap.instr ≠ .pevent e a b dp) →
    ∃ t, exec (.pumpStart age) s = .next t ∧ t.mem = s.mem ∧ t.ctx.pump.fly = s.ctx.pump.fly ∧ t.ctx.pump.drop = true ∧
      t.ctx.pump.buf = s.ctx.pump.buf.filter (fun y => y.cap.age ≠ x.cap.age) ∧
      t.ctx.pump.drops = if s.ctx.pump.drops = 0xFFFF then s.ctx.pump.drops else s.ctx.pump.drops + 1) ∧
  (∀ (s : State) (age : Nat) (x : PCmd), s.ctx.pump.fly.find? (fun y => y.cap.age = age) = some x → x.win = false →
    (∀ o, x.cap.instr ≠ .ptagset o ∧ x.cap.instr ≠ .ptagchk o) →
    (if (x.cap.pgeo id).be then x.start.toNat < s.dcc.toNat
      else x.fin.toNat ≤ s.dcc.toNat + (s.ptime x.cap (x.cap.pgeo id)).1) →
    ∃ t, exec (.writeWindowStart age) s = .next t ∧ t.mem = s.mem ∧
      t.ctx = { s.ctx with pump := { s.ctx.pump with fly := s.ctx.pump.fly.map (fun y => if y.cap.age = x.cap.age then { x with win := true } else y) } } ∧
      ∀ k, t.tile k = if (x.cap.pgeo id).tiles.contains k then { s.tile k with tag := 0xFFFF } else s.tile k) ∧
  (∀ (s : State) (age : Nat) (x : PCmd) (o : POp) (rows : Nat), s.ctx.pump.fly.find? (fun y => y.cap.age = age) = some x →
    pop? x.cap.instr = some (o, rows, false) → (∀ q, x.cap.instr ≠ .ptagchk q) →
    s.dev.reqs.any (fun r => r.key = some s.cur ∧ r.src = 2 ∧ r.age = age) = false → x.fin.toNat ≤ s.dcc.toNat → x.wait = false →
    x.bad = none →
    ∃ t, exec (.pumpEnd age) s = .next t ∧ t.mem = (cutRuns x.wr x.data).foldl (fun m g => m.write g.a g.n g.v) s.mem ∧
      t.ctx.pump = { s.ctx.pump with
        fly := s.ctx.pump.fly.filter (fun y => y.cap.age ≠ x.cap.age)
        ended := s.ctx.pump.ended ++ (s.ctx.pump.fly.filter (fun y => y.cap.age = x.cap.age)).map (fun y => (y, s.dcc.toNat)) } ∧
      (∀ k, t.tile k = if (x.cap.pgeo id).tiles.contains k then { s.tile k with tag := o.seq } else s.tile k) ∧
      t.incrs = s.incrs ++ (if o.ei = 0 then [] else
        [⟨s.bind.gang.toNat, s.bind.strand.toNat, o.ei, 1, s.dcc.toNat⟩])) ∧
  (∀ (s : State) (age : Nat) (x : PCmd), s.ctx.pump.fly.find? (fun y => y.cap.age = age) = some x → (∀ q, x.cap.instr ≠ .ptagchk q) →
    s.dev.reqs.any (fun r => r.key = some s.cur ∧ r.src = 2 ∧ r.age = age) = true → exec (.pumpEnd age) s = .next s) ∧
  (∀ (s : State) (n : BitVec 4) (c : Word),
    let slot := SMap.get Tab.reset s.ctx.pump.tabs n.toNat
    let x := slot.gen (!slot.cur)
    s.ctx.resident = true → x.loading = some c → c.toNat ≤ s.dcc.toNat →
    ∃ t, exec (.ptabLoadEnd n) s = .next t ∧
      SMap.get Tab.reset t.ctx.pump.tabs n.toNat = slot.setGen (!slot.cur) { x with
        loading := none, invalid := (tableBad (codeLens x.data)).isSome } ∧
      (∀ i, tableBad (codeLens x.data) = some i → (s.eng .pump).pend = none →
        (t.eng .pump).pend = some ⟨true, tCODETAB, word i, x.line, x.lane, s.dcc, false⟩) ∧
      (tableBad (codeLens x.data) = none → t.ctx.eng = s.ctx.eng)) ∧
  (∀ (s : State) (c : BitVec 4) (e : Nat × Word × Bool),
    s.ctx.pump.cancels.find? (fun e => e.1 = c.toNat ∧ e.2.1.toNat ≤ s.dcc.toNat) = some e →
    ∃ t, exec (.cancelAck c) s = .next t ∧ OnlyMoving s t ∧ t.ctx = { s.ctx with pump := { s.ctx.pump with
      cancels := s.ctx.pump.cancels.erase e, ack := s.ctx.pump.ack ||| BitVec.twoPow 16 c.toNat
      hit := if e.2.2 then s.ctx.pump.hit ||| BitVec.twoPow 16 c.toNat else s.ctx.pump.hit } })

/-- R322 to R326, R332, R333, R335, R338, R389: a layer of the exchange's phase is read from the interior and put on its way, to
another device as flits, and one of a face that a local rule fills is made by that rule; one from a device whose link does not
carry the world of the partition is dropped; one that agrees is written into the ghost layer of its face and HSTEP set, one that
does not is reported; a phase begins when both faces of the last hold the step, and after the last the bound counter is raised and
the bytes are released. Where it rests on the model's own choice or reading: log entries 1, 86, 108. -/
def Obligations.LayersAreExchanged : Prop :=
  (∀ (s : State) (g : BitVec 4) (face : Face) (r : Grid) (d gang strand : Nat),
    let f := faceNum face
    s.grid g = some r → s.ctx.phase = .running → r.phase = f / 2 + 1 → f < 2 * r.dims → r.sent.getLsbD f = false →
    r.issued.toNat + 2 ≤ s.dcc.toNat → (r.face f).rule = none ∨ (r.face f).rule = some .periodic →
    s.partner (r.face f) = some (d, gang, strand) → s.accepted (d, gang, strand) g r.tag = true →
    ∃ (t : State) (l : LayerMsg), exec (.haloLayerSend g face) s = .next t ∧ t.mem = s.mem ∧
      (d = s.dev.num.toNat → t.layers = s.layers ++ [l]) ∧
      (d ≠ s.dev.num.toNat → t.layers = s.layers ∧ t.ports = (s.inject (coreId (coreOf s.cur)) d
        (s.bind.gang.toNat * 65536 + s.bind.strand.toNat) ((gotOfLayer l).flits s.bind.world d)).ports) ∧
      l.data = s.readBox s.ctx r (r.inner f) ∧ l.face = Machine.faceOf (opposite f) ∧ l.step = r.tag ∧ l.gang = gang ∧
      l.strand = strand ∧ l.dev = BitVec.ofNat 9 d ∧ l.g = g ∧ (l.w, l.ew) = (r.w, r.ew) ∧
      t.grid g = some { r with
        sent := r.sent ||| BitVec.twoPow 6 f, read := r.read ||| BitVec.twoPow 6 f, waiting := r.waiting &&& ~~~BitVec.twoPow 6 f }) ∧
  (∀ (s : State) (g : BitVec 4) (face : Face) (r : Grid) (p : Nat × Nat × Nat),
    let f := faceNum face
    s.grid g = some r → s.ctx.phase = .running → r.phase = f / 2 + 1 → f < 2 * r.dims → r.sent.getLsbD f = false →
    r.issued.toNat + 2 ≤ s.dcc.toNat → (r.face f).rule = none ∨ (r.face f).rule = some .periodic → s.partner (r.face f) = some p →
    s.accepted p g r.tag = false →
    ∃ t, exec (.haloLayerSend g face) s = .next t ∧ OnlyMoving s t ∧ t.layers = s.layers ∧
      t.grid g = some { r with waiting := r.waiting ||| BitVec.twoPow 6 f }) ∧
  (∀ (s : State) (g : BitVec 4) (face : Face) (r : Grid) (rule : Rule),
    let f := faceNum face
    s.grid g = some r → s.ctx.phase = .running → r.phase = f / 2 + 1 → f < 2 * r.dims → r.sent.getLsbD f = false →
    r.issued.toNat + 2 ≤ s.dcc.toNat → (r.face f).rule = some rule → rule ≠ .fixed → rule ≠ .periodic →
    ∃ (t : State) (l : LayerMsg), exec (.haloLayerSend g face) s = .next t ∧ t.mem = s.mem ∧ t.layers = s.layers ++ [l] ∧
      l.ruled = true ∧ l.data = s.ruledData s.ctx r f rule ∧ l.face = Machine.faceOf f ∧ l.step = r.tag ∧
      l.gang = s.bind.gang.toNat ∧ l.strand = s.bind.strand.toNat ∧
      l.due = s.dcc.toNat + 4 + ceilDiv (r.bytes (r.inner f)) 256 ∧
      t.grid g = some { r with
        sent := r.sent ||| BitVec.twoPow 6 f, read := r.read ||| BitVec.twoPow 6 f, waiting := r.waiting &&& ~~~BitVec.twoPow 6 f }) ∧
  (∀ (s : State) (l : LayerMsg) (k : Nat), l.srcDev ≠ s.dev.num → s.keyOf l.gang l.strand = some k → l.world ≠ (s.bindAt k).world →
    ∃ t, exec (.haloLayerArrival l) s = .next t ∧ t.mem = s.mem ∧ t.ctxs = s.ctxs ∧ t.layers = s.layers.erase l) ∧
  (∀ (s : State) (l : LayerMsg) (k : Nat) (r : Grid), (l.srcDev = s.dev.num → l ∈ s.layers ∧ l.due ≤ s.dcc.toNat) →
    s.keyOf l.gang l.strand = some k → (l.srcDev ≠ s.dev.num → l.world = (s.bindAt k).world) →
    (s.ctxAt k).grid l.g.toNat = some r → r.began l.step = true → s.live (some r.hd) = some r.hd →
    ∃ t, exec (.haloLayerArrival l) s = .next t ∧ t.layers = s.layers.erase l ∧
      (Agrees s k r l → t.mem = (cutRuns (r.runs (r.rows (r.ghost (faceNum l.face)))) l.data).foldl (fun m g => m.write g.a g.n g.v) s.mem ∧
        (t.ctxAt k).grid l.g.toNat = some (r.setFace (faceNum l.face) { r.face (faceNum l.face) with hstep := some l.step })) ∧
      (¬ Agrees s k r l → t.mem = s.mem ∧ (t.ctxAt k).grid l.g.toNat = some { r with failed := true } ∧
        (((s.ctxAt k).engAt .halo).pend = none → ((t.ctxAt k).engAt .halo).pend =
          some ⟨true, tGRIDSTATE, gridInfo 7 (faceNum l.face) l.g, r.line, r.lane, s.dcc, false⟩))) ∧
  (∀ (s : State) (g : BitVec 4) (r : Grid), s.grid g = some r → s.ctx.phase = .running → r.phase ≠ 0 → r.phase < r.dims →
    r.holds (2 * r.phase - 2) = true → r.holds (2 * r.phase - 1) = true →
    ∃ t q, exec (.haloPhaseAdvance g) s = .next t ∧ OnlyMoving s t ∧ t.grid g = some q ∧ q.phase = r.phase + 1 ∧
      q.step = r.step ∧ q.xstep = r.xstep ∧ (∀ f, f ≠ 2 * r.phase → f ≠ 2 * r.phase + 1 → q.face f = r.face f)) ∧
  (∀ (s : State) (g : BitVec 4) (r : Grid), s.grid g = some r → s.ctx.phase = .running → r.phase = r.dims → r.phase ≠ 0 →
    (∀ f ∈ r.used, r.holds f = true ∧ r.read.getLsbD f = true) →
    ∃ t, exec (.gxchgComplete g) s = .next t ∧ t.grid g = some { r with phase := 0, incp := false } ∧ t.mem = s.mem ∧
      t.incrs = (match r.incp, r.bind with
        | true, some e => (s.sendIncr s.cur s.bind.gang.toNat s.bind.strand.toNat e 1).incrs
        | _, _ => s.incrs) ∧
      t.ctx.fl = s.ctx.fl.filter (fun f => !(f.src = 3 && f.age = r.age && f.segs.isEmpty))) ∧
  (∀ (s : State) (g : BitVec 4) (a : BitVec 5) (e : BitVec 6) (dp : BitVec 3) (c : Cap) (b : Bool) (r : Grid),
    (s.eng .halo).head = some (c, b) → c.instr = .gwait g a e dp → (s.eng .halo).frozen = false → (s.eng .halo).pushes = [] →
    s.grid g = some r → r.check ((c.sc a).setWidth 32) r.used = .ready → s.ctx.vec.bankCheck c.instr = none →
    (s.eng .halo).latched = false →
    ∃ t, exec .gwaitMet s = .next t ∧ Leaves s t .halo ∧
      t.incrs = (s.sendIncr s.cur s.bind.gang.toNat s.bind.strand.toNat e 1).incrs) ∧
  (∀ (s : State) (g : BitVec 4) (f : Nat) (a : BitVec 5) (e : BitVec 6) (dp : BitVec 3) (c : Cap) (b : Bool) (r : Grid),
    (s.eng .halo).head = some (c, b) → c.instr = .gwait g a e dp → (s.eng .halo).stall = .halo g f → s.grid g = some r →
    s.ctx.csr.hstall.toNat ≠ 0 → s.ctx.csr.hstall.toNat ≤ (s.eng .halo).stalled → (s.eng .halo).latched = false →
    (s.eng .halo).pend = none →
    ∃ t, exec .stalehalo s = .next t ∧ (t.eng .halo).frozen = true ∧ t.mem = s.mem ∧
      (t.eng .halo).pend = some ⟨false, tSTALEHALO, haloInfo (r.face f).hstep ((c.sc a).setWidth 32) f g, c.line, c.lane, s.dcc,
        false⟩)

namespace Sys2Proof.Claim

/-! ## Messages, answers and collectives -/

/-- The state without a message that has reached its peer. -/
def without (s : State) (m : Msg) : State :=
  { s with net := s.net.erase m, rx := s.rx.filter (fun x => !(gotsOf m).contains x) }

/-- A message of this device stands at its peer: it may take effect, and its strand is that of a context of its world that is
loaded (R444, R446). -/
def AtPeer (s : State) (m : Msg) (j : Nat) : Prop :=
  s.msgReady m = true ∧ m.srcDev = s.dev.num ∧ s.keyOf m.gang.toNat m.strand.toNat = some j ∧ (s.bindAt j).world = m.world ∧
  (s.ctxAt j).phase ≠ .loading

/-- The message is gone and one answer to it is on its way (R446). -/
def Answers (s t : State) (m : Msg) (a : Ack) : Prop :=
  t.net = s.net.erase m ∧ ∃ d, s.dcc.toNat ≤ d ∧ t.acks = s.acks ++ [{ a with due := d }]

/-- The writes of a list of segments made one after another. -/
def writes (l : List Seg) (m : Mem) : Mem := l.foldl (fun m g => m.write g.a g.n g.v) m

/-- The counter increments that a bound record brings (R462, R464). -/
def bumps (s : State) (j : Nat) (n : Option (BitVec 6)) : List Incr :=
  match n with
  | some c => [⟨(s.bindAt j).gang.toNat, (s.bindAt j).strand.toNat, c, 1, s.dcc.toNat⟩]
  | none => []

/-- An answer has come to the command of a context that awaits it. -/
def Awaited (s : State) (a : Ack) (k : Nat) (x : XCmd) : Prop :=
  s.ackReady a = true ∧ s.keyOf a.gang.toNat a.strand.toNat = some k ∧
  (s.ctxAt k).fab.cmds.find? (fun x => x.txns.contains a.txn) = some x

/-- The counter of a command that ends is raised by an amount, unless the command failed or names none (R446). -/
def ended (s : State) (k : Nat) (x : XCmd) (amt : BitVec 32) : List Incr :=
  if x.failed ∨ x.ei = 0 then [] else [⟨(s.bindAt k).gang.toNat, (s.bindAt k).strand.toNat, x.ei, amt, s.dcc.toNat⟩]

/-- What a trigger that fires reads its records with (R460). -/
def firing (s : State) (i : Nat) (t : Trig) : State × Trig :=
  let (u, age) := s.newAge
  let t := { t with fired := some age, h := u.ctx.ctl.h.map (fun e => (e.1, u.live e.2)) }
  (u.onFab (fun f => { f with trigs := f.trigs.set i t }), t)

end Sys2Proof.Claim

/-- R268, R390, R443, R444, R446, R448 to R450, R455, R457, R458, R460, R462: a message at its peer writes its bytes, does its
operation, reads, or raises its counter, and is answered; one that a check of R444 fails is answered with its reason and changes
no byte, a refusal by an access table or of a world with a log record; what reads for a strand of this device waits for its parked
writes. Where it rests on the model's own choice or reading: log entries 8, 27, 28, 29, 35, 109. -/
def Obligations.MessagesTakeEffectAtTheirPeer : Prop :=
  (∀ (s u : State) (m : Msg) (j : Nat) (h : Handle) (runs : List (List (Nat × Nat))), AtPeer s m j → m.op = .write →
    s.exported j m = .ok h → (without s m).msgRuns (s.payer j m) h m true = .ok (u, runs) →
    ∃ t, exec (.remoteWriteArrival m) s = .next t ∧ Answers s t m (s.ackOf m true 0) ∧
      t.mem = writes ((m.segs.zip runs).flatMap (fun e => cutRuns e.2 e.1.2.2)) u.mem ∧
      t.incrs = u.incrs ++ (if m.sync then bumps s j h.sync else [])) ∧
  (∀ (s u : State) (m : Msg) (j : Nat) (h : Handle) (runs : List (List (Nat × Nat))) (cas dw : Bool) (op : AOp) (b c : Word),
    AtPeer s m j → m.op = .atomic cas dw op b c → s.exported j m = .ok h →
    (s.ctxAt (s.payer j m)).overParked h m.off.toNat (msgSpan m) = false →
    (without s m).msgRuns (s.payer j m) h m true = .ok (u, runs) → u.badRun runs.flatten = none →
    ∃ t, exec (.remoteWriteArrival m) s = .next t ∧
      (∀ v, atomWrites ⟨0, false, cas, dw, op, b, c⟩ (readRuns u.mem runs.flatten) = some v →
        t.mem = writes (cutRuns runs.flatten v) u.mem ∧ Answers s t m { s.ackOf m true 0 with wrote := true }) ∧
      (atomWrites ⟨0, false, cas, dw, op, b, c⟩ (readRuns u.mem runs.flatten) = none →
        t.mem = u.mem ∧ Answers s t m (s.ackOf m true 0))) ∧
  (∀ (s u : State) (m : Msg) (j : Nat) (h : Handle) (run : List (Nat × Nat)) (g : Nat × Nat × Nat),
    AtPeer s m j → m.op = .read → m.segs = [g] → s.exported j m = .ok h →
    (s.ctxAt (s.payer j m)).overParked h m.off.toNat (msgSpan m) = false →
    (without s m).msgRuns (s.payer j m) h m false = .ok (u, [run]) → u.badRun run = none →
    ∃ t, exec (.remoteWriteArrival m) s = .next t ∧ t.mem = u.mem ∧
      Answers s t m { s.ackOf m true 0 with fmt := h.fmt, data := readRuns u.mem run * 2 ^ (8 * g.1) }) ∧
  (∀ (s : State) (m : Msg) (j : Nat), AtPeer s m j → m.op = .incr →
    ∃ t, exec (.remoteWriteArrival m) s = .next t ∧ Answers s t m (s.ackOf m true 0) ∧ t.mem = s.mem ∧
      t.incrs = s.incrs ++ [⟨(s.bindAt j).gang.toNat, (s.bindAt j).strand.toNat, m.ctr, 1, s.dcc.toNat⟩]) ∧
  (∀ (s u : State) (m : Msg) (j : Nat) (h : Handle) (opr : Opr) (run : List (Nat × Nat)) (g : Nat × Nat × Nat),
    AtPeer s m j → m.op = .tile opr → m.segs = [g] → s.exported j m = .ok h →
    (s.ctxAt (s.payer j m)).overParked h m.off.toNat (msgSpan m) = false →
    (without s m).msgRuns (s.payer j m) h m true = .ok (u, [run]) → u.badRun run = none →
    ∃ t, exec (.tileApply m) s = .next t ∧ Answers s t m (s.ackOf m true 0) ∧
      t.mem = writes (cutRuns run (tileBytes opr g.2.1 (readRuns u.mem run) g.2.2)) u.mem ∧
      t.incrs = u.incrs ++ bumps s j h.sync) ∧
  (∀ (s : State) (m : Msg) (j : Nat) (h : Handle), AtPeer s m j → m.op ≠ .write → m.op ≠ .incr → s.exported j m = .ok h →
    (s.ctxAt (s.payer j m)).overParked h m.off.toNat (msgSpan m) = true →
    exec (.remoteWriteArrival m) s = .next s ∧ exec (.tileApply m) s = .next s) ∧
  (∀ (s : State) (m : Msg) (j r : Nat), AtPeer s m j → m.op ≠ .incr → (∀ o, m.op ≠ .tile o) → s.exported j m = .error r →
    ∃ t, exec (.remoteWriteArrival m) s = .next t ∧ t.mem = s.mem ∧ t.incrs = s.incrs ∧ Answers s t m (s.ackOf m false r) ∧
      t.dev.records = if r = 7 then s.dev.records + 1 else s.dev.records) ∧
  (∀ (s : State) (m : Msg), s.msgReady m = true → m.srcDev = s.dev.num → (∀ o, m.op ≠ .tile o) →
    s.keyOf m.gang.toNat m.strand.toNat = none →
    ∃ t, exec (.remoteWriteArrival m) s = .next t ∧ t.mem = s.mem ∧ t.incrs = s.incrs ∧ Answers s t m (s.ackOf m false 0)) ∧
  (∀ (s : State) (m : Msg) (j : Nat), s.msgReady m = true → m.srcDev = s.dev.num → (∀ o, m.op ≠ .tile o) →
    s.keyOf m.gang.toNat m.strand.toNat = some j → (s.bindAt j).world ≠ m.world →
    ∃ t, exec (.remoteWriteArrival m) s = .next t ∧ t.mem = s.mem ∧ t.incrs = s.incrs ∧ Answers s t m (s.ackOf m false 1) ∧
      t.dev.records = s.dev.records + 1)

namespace Sys2Proof.Claim

/-- Flits added to an injection source of a port, for a strand. -/
def Injected (s t : State) (port link who : Nat) (l : List Flit) : Prop :=
  SMap.get [] (t.port port).inject link = SMap.get [] (s.port port).inject link ++ l.zipIdx.map (fun f => ⟨f.1, who, f.2 = 0⟩)

/-- The strand of the moving context. -/
def me (s : State) : Nat := s.bind.gang.toNat * 65536 + s.bind.strand.toNat

end Sys2Proof.Claim

/-- Answers and collectives end their commands. Each of remoteAck, xldResponse, xfenceRelease, triggerFire, ringComplete and
collectiveComplete answers a next state, and which. R445, R446, R452, R453, R455, R456, R459, R460: an answered write leaves its
window and the fences that wait for it, and its command ends with its counter raised; a refusal raises REMOTE; a response is
written where it was asked for; a fence without writes left raises its counter; a trigger pushes its records. R265, R466, R468: a
ring takes the chunk that has come, adds its own bytes where sums travel, and sends it on unless this is the last step (on a port
of a negative direction a chunk's own device makes the sum, the model's choice of log 94); once every chunk has come it writes its
results, raises its counter, and its completion is an acquire. A participant of a group collective sends its bytes to the ranks of
other devices once no older write of its own to the named buffers is still to be made, and ends in the same way once every rank's
bytes are there. Where a chunk or a participant disagrees, REMOTE with REASON 8 is raised and nothing is written. Where it rests
on the model's own choice or reading: log entries 32, 34, 94. -/
def Obligations.AnswersAndCollectivesEndCommands : Prop :=
  ((∀ (s : State) (a : Ack) (k : Nat) (x : XCmd) (w : BitVec 4), Awaited s a k x → x.what = .write w → a.ok = true →
    ∃ t, exec (.remoteAck a) s = .next t ∧ t.acks = s.acks.erase a ∧ t.mem = s.mem ∧
      (a.txn ∉ x.txns.erase a.txn →
        (t.ctxAt k).fab.out = SMap.set 0 (s.ctxAt k).fab.out w.toNat ((s.ctxAt k).fab.outOf w - 1) ∧
        (t.ctxAt k).fab.fences = (s.ctxAt k).fab.fences.map (fun f => { f with writes := f.writes.filter (fun n => n ≠ a.txn) })) ∧
      (a.txn ∈ x.txns.erase a.txn →
        (t.ctxAt k).fab.out = (s.ctxAt k).fab.out ∧ (t.ctxAt k).fab.fences = (s.ctxAt k).fab.fences) ∧
      (x.txns = [a.txn] → x.started = true →
        (t.ctxAt k).fab.cmds = (s.ctxAt k).fab.cmds.filter (fun y => y.cap.age ≠ x.cap.age) ∧ t.incrs = s.incrs ++ ended s k x 1) ∧
      (x.txns.erase a.txn ≠ [] →
        (t.ctxAt k).fab.cmds = (s.ctxAt k).fab.cmds.map (fun y => if y.cap.age = x.cap.age
          then { x with txns := x.txns.erase a.txn } else y) ∧ t.incrs = s.incrs)) ∧
  (∀ (s : State) (a : Ack) (k : Nat) (x : XCmd) (w : BitVec 4), Awaited s a k x → x.what = .write w → a.ok = false →
    ((s.ctxAt k).engAt ((engineOf x.cap.instr).getD .fabric)).pend = none →
    ∃ t, exec (.remoteAck a) s = .next t ∧ t.mem = s.mem ∧ t.incrs = s.incrs ∧
      ((t.ctxAt k).engAt ((engineOf x.cap.instr).getD .fabric)).pend =
        some ⟨true, tREMOTE, word (a.reason.toNat * 2 ^ 60 + a.dev.toNat * 2 ^ 51 + a.off.toNat), x.cap.line, x.cap.lane, s.dcc, false⟩) ∧
  (∀ (s : State) (a : Ack) (k : Nat) (x : XCmd) (o : FMOp) (ei : BitVec 6) (n : BitVec 7), Awaited s a k x → x.what = .load →
    (s.ctxAt k).phase = .running → x.cap.instr = .xld .untyped o ei → o.x = .v n → a.ok = true → x.failed = false → x.started = true →
    let d := x.data.getD 0 + a.data * 2 ^ (8 * (a.off.toNat - (match x.msgs.head? with | some m => m.off.toNat | none => a.off.toNat)))
    ∃ t, exec (.xldResponse a) s = .next t ∧ t.mem = s.mem ∧
      (x.txns.erase a.txn ≠ [] → t.incrs = s.incrs ∧ (t.ctxAt k).vec = (s.ctxAt k).vec ∧
        (t.ctxAt k).fab.cmds = (s.ctxAt k).fab.cmds.map (fun y => if y.cap.age = x.cap.age
          then { x with txns := x.txns.erase a.txn, data := some d, tag := a.fmt } else y)) ∧
      (x.txns = [a.txn] → t.incrs = s.incrs ++ ended s k x 1 ∧
        (t.ctxAt k).fab.cmds = (s.ctxAt k).fab.cmds.filter (fun y => y.cap.age ≠ x.cap.age) ∧
        SMap.get .untyped (t.ctxAt k).vec.f n.toNat = a.fmt ∧
        ∀ i, i < 2048 → vget (SMap.get 0 (t.ctxAt k).vec.r n.toNat) 4 i =
          if (s.ctxAt k).vec.active o.k i then d / 2 ^ (32 * i) % 2 ^ 32
          else vget (SMap.get 0 (s.ctxAt k).vec.r n.toNat) 4 i)) ∧
  (∀ (s : State) (a : Ack) (k : Nat) (x : XCmd), Awaited s a k x → x.what = .load ∨ x.what = .get → (s.ctxAt k).phase ≠ .running →
    exec (.xldResponse a) s = .next (s.ackGone a)) ∧
  (∀ (s u : State) (a : Ack) (k : Nat) (x : XCmd) (o : FBOp) (h : Handle) (runs : List (Nat × Nat)), Awaited s a k x →
    (s.ctxAt k).phase = .running → x.what = .get → x.cap.instr = .xget o → a.ok = true → SMap.get none x.cap.h o.hd.toNat = some h → x.wait = false →
    let i := a.txn - x.first
    State.resolve (({ s.ackGone a with cur := k } : State).settleTxn x a).1 h ((x.cap.sc o.od).toNat + i * 4096)
      (min 4096 ((x.cap.sc o.n).toNat - i * 4096)) true = .ok u runs →
    ∃ t, exec (.xldResponse a) s = .next t ∧ t.mem = writes (cutRuns runs a.data) u.mem ∧
      (x.txns = [a.txn] → x.started = true → t.incrs = u.incrs ++ ended s k x 1)) ∧
  (∀ (s : State) (w : BitVec 4) (l r : List XFence) (f : XFence), s.ctx.fab.fences = l ++ f :: r → f.w = w → s.fenceMet f = true →
    (∀ g ∈ l, g.w = w → s.fenceMet g = false) →
    ∃ t, exec (.xfenceRelease w) s = .next t ∧ t.ctx = { s.ctx with fab := { s.ctx.fab with fences := l ++ r } } ∧ t.mem = s.mem ∧
      t.incrs = s.incrs ++ [⟨s.bind.gang.toNat, s.bind.strand.toNat, f.ctr, 1, s.dcc.toNat⟩]) ∧
  (∀ (s : State) (i : Nat) (x : Trig) (e : Engine) (c : Cap), s.ctx.phase = .running → s.nextTrig = some i →
    s.ctx.fab.trigs[i]? = some x → x.fired = none → (firing s i x).1.trigRec (firing s i x).2 = .push e c → s.ctx.room e = true →
    ∃ t l, exec .triggerFire s = .next t ∧ t.mem = s.mem ∧ (t.eng e).q = (s.eng e).q ++ .instr c true :: l) ∧
  (∀ (s : State) (i : Nat) (x : Trig), s.ctx.phase = .running → s.nextTrig = some i → s.ctx.fab.trigs[i]? = some x →
    x.fired = none → (firing s i x).1.trigRec (firing s i x).2 = .bad →
    ∃ t, exec .triggerFire s = .next t ∧ t.mem = s.mem ∧ t.ctx.eng = s.ctx.eng ∧ t.ctx.fab.badrec = true ∧
      t.ctx.fab.trigs = s.ctx.fab.trigs.eraseIdx i)) ∧
  ((∀ (s : State) (age own : Nat) (others : List Nat) (agree : Bool) (x : XCmd) (op : RingOp) (p : BitVec 4) (hf : BitVec 6)
      (a b : BitVec 5) (ei ew : BitVec 6) (th : BitVec 5) (dp : BitVec 3) (g : Got), s.xcmd age = some x → x.started = true →
    x.data = some own → x.cap.instr = .xring op p hf a b ei ew th dp → x.sent < ringCount op p (x.cap.sc b).toNat →
    s.ringNext p s.bind.world = some g → ringAgrees op p s.dev.num.toNat (x.cap.sc b).toNat x.sent g = true →
    let n := (x.cap.sc b).toNat
    let m := n / ringSize p
    let dev := s.dev.num.toNat
    let t := (ringPlace op p dev n x.sent).1
    let c := ringOf op p dev n x.sent
    let i := x.sent % ringPieces m
    ∃ u v, exec (.ringComplete age others agree) s = .next u ∧ u.mem = s.mem ∧ u.incrs = s.incrs ∧ u.rx = s.rx.erase g ∧
      u.ctx.fab.cmds = s.ctx.fab.cmds.map (fun y => if y.cap.age = x.cap.age then
        { x with sent := x.sent + 1, got := if ringKeeps op p dev t c then x.got ++ [(x.sent, v)] else x.got } else y) ∧
      (ringSums op (ringSize p) t = false → v = g.data) ∧
      (ringSums op (ringSize p) t = true → p.toNat % 4 < 2 → v = each32 (addE .fp32 .rne false) (ringLen m i) g.data
        (sub own (c * m + i * 4096) (ringLen m i))) ∧
      (ringSums op (ringSize p) t = true → 2 ≤ p.toNat % 4 → t + 1 < ringSize p → v = g.data) ∧
      (ringSendsOn op p dev t c = false → u.ports = s.ports) ∧
      (ringSendsOn op p dev t c = true → Injected s u p.toNat (0x400 + p.toNat) (me s) (Got.flits s.bind.world
        (wired dev p.toNat).1
        { world := s.bind.world.toNat, op := 9, slot := p.toNat, toGang := 0, toStrand := 0, off := c * m + i * 4096,
          arg := t + 1 + 256 * ringCode op, len := ringLen m i, flags := 0, dev := dev,
          gang := s.bind.gang.toNat, strand := s.bind.strand.toNat, txn := n, data := v }))) ∧
  (∀ (op : RingOp) (p : BitVec 4) (dev t c : Nat), p.toNat % 4 < 2 → ringKeeps op p dev t c = ringFinal op (ringSize p) t ∧
    (ringSendsOn op p dev t c = true ↔ t < ringSteps op (ringSize p))) ∧
  (∀ (s u : State) (age own : Nat) (others : List Nat) (agree : Bool) (x : XCmd) (op : RingOp) (p : BitVec 4) (hf : BitVec 6)
      (a b : BitVec 5) (ei ew : BitVec 6) (th : BitVec 5) (dp : BitVec 3) (h : Handle) (segs : List Seg), s.xcmd age = some x →
    x.started = true → x.data = some own → x.cap.instr = .xring op p hf a b ei ew th dp → x.wait = false → s.owes x.cap = false →
    ringCount op p (x.cap.sc b).toNat ≤ x.sent → SMap.get none x.cap.h hf.toNat = some h →
    s.resolveAll ((ringResult op p s.dev.num.toNat (x.cap.sc b).toNat own x.got).map (fun e =>
      (h, (x.cap.sc a).toNat + e.1, e.2))) = .ok (u, segs) →
    ∃ t, exec (.ringComplete age others agree) s = .next t ∧ t.mem = writes segs u.mem ∧
      SMap.get 0 t.ctx.ctl.acquired acqAtomic = u.dcc.toNat ∧ t.incrs = u.incrs ++ ended s s.cur x 1 ∧
      t.ctx.fab.cmds = u.ctx.fab.cmds.filter (fun y => y.cap.age ≠ x.cap.age)) ∧
  (∀ (s : State) (age own : Nat) (others : List Nat) (agree : Bool) (x : XCmd) (op : RingOp) (p : BitVec 4) (hf : BitVec 6)
      (a b : BitVec 5) (ei ew : BitVec 6) (th : BitVec 5) (dp : BitVec 3) (g : Got), s.xcmd age = some x → x.started = true →
    x.data = some own → x.cap.instr = .xring op p hf a b ei ew th dp → x.sent < ringCount op p (x.cap.sc b).toNat →
    s.ringNext p s.bind.world = some g → ringAgrees op p s.dev.num.toNat (x.cap.sc b).toNat x.sent g = false →
    (s.eng .fabric).pend = none →
    ∃ t, exec (.ringComplete age others agree) s = .next t ∧ t.mem = s.mem ∧ t.incrs = s.incrs ∧ t.rx = s.rx.erase g ∧
      (t.eng .fabric).pend =
        some ⟨true, tREMOTE, word (8 * 2 ^ 60 + s.dev.num.toNat * 2 ^ 51), x.cap.line, x.cap.lane, s.dcc, false⟩) ∧
  (∀ (s : State) (age d r q q' : Nat) (others : List Nat) (agree : Bool) (x : XCmd) (op : CollOp) (o : FKOp),
    s.xcmd age = some x → x.what = .coll [q, q'] r 0 → x.data = some d → x.cap.instr = .xcoll op o → x.failed = false →
    x.sent = 0 → s.disagree x o [q, q'] r 0 = false → s.owes x.cap = false → peerDev q = s.dev.num.toNat →
    peerDev q' ≠ s.dev.num.toNat → firstHop s.dev.num.toNat (peerDev q') ≠ none →
    let k := coreId (coreOf s.cur)
    let b := (collSpans op (x.cap.sc o.n).toNat 2 r).1
    ∃ t, exec (.collectiveComplete age others agree) s = .next t ∧ t.mem = s.mem ∧ t.incrs = s.incrs ∧ t.rx = s.rx ∧
      t.ctx.fab.cmds = s.ctx.fab.cmds.map (fun y => if y.cap.age = x.cap.age then { x with sent := 1 } else y) ∧
      ∀ dir, firstHop s.dev.num.toNat (peerDev q') = some dir →
        Injected s t (2 * dir + k % 2) k (me s) ((List.range (max 1 ((b + 4095) / 4096))).flatMap (fun i =>
          Got.flits s.bind.world (peerDev q')
          { world := s.bind.world.toNat, op := 10, slot := 0, toGang := peerGang q',
            toStrand := peerStrand q', off := 0, arg := o.grp.toNat, len := 16 + min 4096 (b - i * 4096), flags := 0, dev := s.dev.num.toNat,
            gang := s.bind.gang.toNat, strand := s.bind.strand.toNat, txn := i,
            data := x.collWord + d / 2 ^ (8 * 4096 * i) % 2 ^ (8 * min 4096 (b - i * 4096)) * 2 ^ 128 }))) ∧
  (∀ (s u : State) (age d r q : Nat) (f : Nat → Nat) (others peers : List Nat) (agree : Bool) (x : XCmd) (op : CollOp) (o : FKOp)
      (h : Handle) (segs : List Seg), s.xcmd age = some x → x.what = .coll peers r q → x.data = some d → x.cap.instr = .xcoll op o →
    x.failed = false → x.sent ≠ 0 → x.wait = false → s.owes x.cap = false → s.disagree x o peers r q = false → f r = d →
    (∀ i p, peers[i]? = some p → i ≠ r → peerDev p ≠ s.dev.num.toNat ∧
      contribution (s.contributed p o.grp.toNat q) (collBytes op (x.cap.sc o.n).toNat peers.length i) = some (f i)) →
    SMap.get none x.cap.h o.hr.toNat = some h →
    s.resolveAll ((collResult op o.opr (x.cap.sc o.n).toNat r ((List.range peers.length).map f)).map (fun e => (h, e))) =
      .ok (u, segs) →
    ∃ t, exec (.collectiveComplete age others agree) s = .next t ∧ t.mem = writes segs u.mem ∧
      SMap.get 0 t.ctx.ctl.acquired acqAtomic = u.dcc.toNat ∧
      t.incrs = u.incrs ++ ended s s.cur x 1 ∧ t.ctx.fab.cmds = u.ctx.fab.cmds.filter (fun y => y.cap.age ≠ x.cap.age)) ∧
  (∀ (s : State) (age d r q i p : Nat) (others peers : List Nat) (agree : Bool) (x : XCmd) (op : CollOp) (o : FKOp) (g : Got),
    s.xcmd age = some x → x.what = .coll peers r q → x.data = some d → x.cap.instr = .xcoll op o → (s.eng .fabric).pend = none →
    (∀ i p, peers[i]? = some p → i ≠ r → peerDev p ≠ s.dev.num.toNat) → peers[i]? = some p → peerDev p ≠ s.dev.num.toNat →
    g ∈ s.contributed p o.grp.toNat q → g.data % 2 ^ 128 ≠ x.collWord →
    ∃ t, exec (.collectiveComplete age others agree) s = .next t ∧ t.mem = s.mem ∧ t.incrs = s.incrs ∧ (t.eng .fabric).pend =
      some ⟨true, tREMOTE, word (8 * 2 ^ 60 + s.dev.num.toNat * 2 ^ 51), x.cap.line, x.cap.lane, s.dcc, false⟩))

namespace Sys2Proof.Claim

/-! ## Ports -/

/-- What a command that a campus port gives up raises (R469, R470). -/
def lost (s : State) (x : XCmd) : Pend :=
  ⟨true, tREMOTE, word (11 * 2 ^ 60 + s.dev.num.toNat * 2 ^ 51), x.cap.line, x.cap.lane, s.dcc, false⟩

/-- A campus port has gone DOWN with a cause: nothing is left on it (R440, R441). -/
def CampusDown (t : State) (cp : BitVec 2) (err : Nat) : Prop :=
  (t.campusPort cp).st = 0 ∧ (t.campusPort cp).err = BitVec.ofNat 4 err ∧ (t.campusPort cp).buf = [] ∧ (t.campusPort cp).posts = [] ∧
  (t.campusPort cp).rx = [] ∧ (t.campusPort cp).seq = []

/-- A frame sent again at this cycle (R439). -/
def resentAt (dcc : Word) (r : RFrame) : RFrame := { r with last := dcc, sends := r.sends + 1 }

/-- A Briwen port has gone DOWN with a cause: nothing is left on it, and no other port forwards from it (R430, R433). -/
def WentDown (s t : State) (p : Nat) (err : Nat) : Prop :=
  (t.port p).st = 0 ∧ (t.port p).err = BitVec.ofNat 4 err ∧ (t.port p).table = [] ∧ (t.port p).inject = [] ∧
  (t.port p).kept = [] ∧ (t.port p).needs = [] ∧ (t.port p).groups = [] ∧ (t.port p).inbuf = [] ∧
  (∀ q, q < 12 → q ≠ p → (t.port q).st = (s.port q).st ∧ ∀ e ∈ (t.port q).table, ¬(entKind e.2 = 1 ∧ entIn e.2 = p)) ∧
  t.mem = s.mem

/-- The link keys of a world at a port of a device for an EPOCH stand in a key slot, derived from the port's export master secret with
the device numbers, ports, world and EPOCH of each direction in the info string (R435). -/
def Keyed (x y : Port) (dev p w : Nat) (epoch : BitVec 32) (slot : Bool) : Prop :=
  let k := 4 * w + (if slot then 1 else 0)
  let peer := x.peerdev.toNat
  let pp := x.peerport.toNat
  SMap.get none y.lkeys k = some (Config.linkKey x.secret (keyInfo nameBriwen 2 dev peer p pp w epoch)) ∧
  SMap.get none y.lkeys (k + 2) = some (Config.linkKey x.secret (keyInfo nameBriwen 2 peer dev pp p w epoch))

/-- A slot of a port that is UP and has not sent in this cycle: the entry with its number, and the index in it (R424, R427). -/
def InSlot (s : State) (port : BitVec 4) (n : Nat) (e : Word) : Prop :=
  port.toNat < 12 ∧ (s.port port.toNat).st = 4 ∧ (∀ o, (s.port port.toNat).out = some o → o.1 ≠ s.dcc) ∧
  (s.port port.toNat).overdue s.dcc = false ∧
  slotEntry (s.port port.toNat).table (s.dcc.toNat % (s.port port.toNat).per) = some (n, e)

/-- The index of an entry's slot. -/
def slotIdx (s : State) (port : BitVec 4) (e : Word) : Nat := s.dcc.toNat % (s.port port.toNat).per - entOff e

/-- The port in the slot of entry n that sends from a source: a new group has no key slot yet, and with a new period what the source
did not hold in the last one is forgotten (R429, R435). -/
def atSlot (s : State) (port : BitVec 4) (n : Nat) (e : Word) : Port :=
  let y := (s.port port.toNat).unkeyed n (slotIdx s port e)
  if slotIdx s port e = 0 then y.period n e else y

/-- A flit of another index of the group is still to come from the source. -/
def othersOwed (x : Port) (n idx : Nat) : Prop :=
  ∃ d ∈ x.needs, d.ent.toNat = n ∧ d.copy = none ∧ d.fidx.toNat / 8 = idx / 8 ∧ d.fidx.toNat ≠ idx

/-- The port sent a flit in this cycle. -/
def Sent (s t : State) (port : BitVec 4) (f : Flit) : Prop := (t.port port.toNat).out = some (s.dcc, f)

end Sys2Proof.Claim

/-- R438 to R441, R469, R470: a verified frame in a post's region is written and counted, and the last one ends the post; an
acknowledgement frees frames and ends their send; missing frames are sent again, at most eight times; a port that closes ends its
transfers with REMOTE. Where it rests on the model's own choice or reading: log entries 23, 57. -/
def Obligations.CampusFramesAreDeliveredAndAcknowledged : Prop :=
  (∀ (s : State) (cp : BitVec 2) (f : Frame), (s.campusPort cp).st = 4 → f.verified = false →
    ∃ t, exec (.campusFrameReceive cp f) s = .next t ∧ t.mem = s.mem ∧ t.campusPort cp = { s.campusPort cp with
      authfail := BitVec.ofNat 32 (min 0xFFFFFFFF ((s.campusPort cp).authfail.toNat + 1)) }) ∧
  (∀ (s u : State) (cp : BitVec 2) (f : Frame) (p : Post) (runs : List (Nat × Nat)),
    let v := s.acked cp f.stream f.ack f.nseq f.ncnt
    (s.campusPort cp).st = 4 → f.verified = true → f.ackonly = false → (v.campusPort cp).st = 4 →
    ((v.campusPort cp).stream f.stream).has f.seq = false → (v.campusPort cp).postOf f = some p →
    8192 * bits f.dest.toNat 55 32 + f.len ≤ p.hd.len.toNat → v.live (some p.hd) = some p.hd →
    v.resolveAt p.key p.hd (8192 * bits f.dest.toNat 55 32) f.len true = .ok u runs →
    ∃ t, exec (.campusFrameReceive cp f) s = .next t ∧ t.mem = writes (cutRuns runs f.data) u.mem ∧
      ((v.campusPort cp).stream f.stream = ⟨f.seq, []⟩ → (t.campusPort cp).stream f.stream = ⟨f.seq + 1, []⟩) ∧
      (∀ q, (v.campusPort cp).stream f.stream = ⟨q, []⟩ → q.toNat < f.seq.toNat →
        (t.campusPort cp).stream f.stream = ⟨q, [f.seq]⟩) ∧
      (∀ x, (v.campusPort cp).stream f.stream = ⟨f.seq, []⟩ → f.seq.toNat + 1 < 2 ^ 48 → bit f.dest.toNat 63 = true →
        (v.campusPort cp).posts = [p] → (u.ctxAt p.key).fab.cmds.find? (fun x => x.cap.age = p.age) = some x →
        (t.campusPort cp).posts = [] ∧ t.incrs = u.incrs ++ ended u p.key x 1)) ∧
  (∀ (s : State) (cp : BitVec 2) (f : Frame), (s.campusPort cp).st = 4 → f.verified = true →
    (((s.acked cp f.stream f.ack f.nseq f.ncnt).campusPort cp).stream f.stream).has f.seq = true →
    exec (.campusFrameReceive cp f) s = .next (s.acked cp f.stream f.ack f.nseq f.ncnt)) ∧
  (∀ (s : State) (cp : BitVec 2) (stream : BitVec 16) (ack nseq : BitVec 48), (s.campusPort cp).st = 4 →
    ∃ t, exec (.campusAckReceive cp stream ack nseq 0) s = .next t ∧ t.mem = s.mem ∧
      (t.campusPort cp).buf = (s.campusPort cp).buf.filter (fun r => !(r.f.stream = stream && decide (r.f.seq.toNat < ack.toNat))) ∧
      (∀ r x, (s.campusPort cp).buf = [r] → r.f.stream = stream → r.f.seq.toNat < ack.toNat →
        (s.ctxAt r.key).fab.cmds.find? (fun x => x.cap.age = r.age) = some x → x.started = true →
        t.incrs = s.incrs ++ ended s r.key x 1)) ∧
  (∀ (s : State) (cp : BitVec 2) (stream : BitVec 16) (ack nseq : BitVec 48) (ncnt : BitVec 16) (r : RFrame),
    (s.campusPort cp).st = 4 → (s.campusPort cp).buf = [r] → r.f.stream = stream → ack.toNat ≤ r.f.seq.toNat →
    nseq.toNat ≤ r.f.seq.toNat → r.f.seq.toNat < nseq.toNat + ncnt.toNat →
    ∃ t, exec (.campusAckReceive cp stream ack nseq ncnt) s = .next t ∧
      (r.sends < 8 → (t.campusPort cp).buf = [resentAt s.dcc r]) ∧ (8 ≤ r.sends → CampusDown t cp 5)) ∧
  (∀ (s : State) (cp : BitVec 2) (stream : BitVec 16) (seq : BitVec 48) (r : RFrame), (s.campusPort cp).st = 4 →
    (s.campusPort cp).buf.find? (fun r => r.f.stream = stream ∧ r.f.seq = seq
      ∧ r.last.toNat + (s.campusPort cp).rto.toNat ≤ s.dcc.toNat) = some r →
    ∃ t, exec (.campusResendTimeout cp stream seq) s = .next t ∧ (8 ≤ r.sends → CampusDown t cp 5) ∧
      (r.sends < 8 → (t.campusPort cp).resent = BitVec.ofNat 32 (min 0xFFFFFFFF ((s.campusPort cp).resent.toNat + 1)) ∧
        (t.campusPort cp).buf = (s.campusPort cp).buf.map (fun o => if o = r then resentAt s.dcc r else o))) ∧
  (∀ (s : State) (cp : BitVec 2) (stream : BitVec 16), (s.campusPort cp).st = 4 → (s.campusPort cp).stream stream ≠ Stream.reset →
    (SMap.get 0 (s.campusPort cp).lastAck stream.toNat).toNat + 12000 ≤ s.dcc.toNat →
    ∃ t, exec (.campusAckonly cp stream) s = .next t ∧ SMap.get 0 (t.campusPort cp).lastAck stream.toNat = s.dcc ∧ t.mem = s.mem) ∧
  (∀ (s : State) (cp : BitVec 2), (s.campusPort cp).st = 0 → s.dev.ready = true →
    ∃ t, exec (.campusPortOpen cp) s = .next t ∧ t.mem = s.mem ∧ t.ctxs = s.ctxs ∧
      (t.campusPort cp).st = if (s.campusPort cp).etype.toNat < 0x600 then 0 else 2) ∧
  (∀ (s : State) (cp : BitVec 2), (s.campusPort cp).st ≠ 0 → ∃ t, exec (.campusPortClose cp) s = .next t ∧ CampusDown t cp 0 ∧
    t.mem = s.mem ∧ ∀ k x st, (k, s.ctxAt k) ∈ s.ctxs → (s.ctxAt k).fab.cmds = [x] → x.what = .send cp st →
      ((s.ctxAt k).engAt ((engineOf x.cap.instr).getD .fabric)).pend = none → (t.ctxAt k).fab.cmds = [] ∧
        ((t.ctxAt k).engAt ((engineOf x.cap.instr).getD .fabric)).pend = some (lost s x))

/-- R420, R422 to R424, R427 to R429, R435, R447: a port sends one flit in each cycle, EMPTY where none is there or it is not UP,
under the key slot that its group began with; a flit of an injection source goes in the slot of its index, the one behind those
that have missed theirs, and one that was not there is needed in its replay slot, where it is marked RPL; a flit with too many
errors is asked for again, in every state that receives, and takes the port DOWN where its replay slot passes without it (the
cycle is a free value, log 54); a group is checked whole, from its first flit on; one that fails its check once is asked for again
and twice takes the port DOWN and is logged; one that holds gives the device its transfers, 8 cycles later. Where it rests on the
model's own choice or reading: log entries 23, 53, 54, 56. -/
def Obligations.FlitsAreSentAndReceived : Prop :=
  (∀ (s : State) (port : BitVec 4) (f : Flit), (s.port port.toNat).out = some (s.dcc, f) →
    exec (.flitSlot port) s = .next s) ∧
  (∀ (s : State) (port : BitVec 4), port.toNat < 12 → (s.port port.toNat).st ≠ 0 →
    (∀ o, (s.port port.toNat).out = some o → o.1 ≠ s.dcc) →
    (s.port port.toNat).overdue s.dcc = false →
    ((s.port port.toNat).st ≠ 4 ∨ slotEntry (s.port port.toNat).table (s.dcc.toNat % (s.port port.toNat).per) = none) →
    ∃ t f, exec (.flitSlot port) s = .next t ∧ Sent s t port f ∧ f.empty = true ∧ t.mem = s.mem ∧ t.ctxs = s.ctxs) ∧
  (∀ (s : State) (port : BitVec 4) (l : Lost), port.toNat < 12 → (s.port port.toNat).st = 4 →
    (∀ o, (s.port port.toNat).out = some o → o.1 ≠ s.dcc) → l ∈ (s.port port.toNat).lost → l.limit ≤ s.dcc.toNat →
    ∃ t, exec (.flitSlot port) s = .next t ∧ WentDown s t port.toNat 5) ∧
  (∀ (s : State) (port : BitVec 4) (n : Nat) (e : Word) (i : Inj), InSlot s port n e → entKind e = 0 →
    let x := atSlot s port n e
    let idx := slotIdx s port e
    512 * n + idx / 8 ∉ x.done → (x.holds e)[x.missing n s.dcc]? = some i →
    ∃ t f, exec (.flitSlot port) s = .next t ∧ Sent s t port f ∧ f.payload = i.f.payload ∧ f.rpl = false ∧
      f.world = BitVec.ofNat 8 (entWorld e) ∧ f.ent = BitVec.ofNat 12 n ∧
      f.fidx = BitVec.ofNat 12 idx ∧
      (f.tagv = true ↔ (¬ othersOwed x n idx ∧ idx = Nat.min (idx / 8 * 8 + 7) (entNfl e - 1)) ∨ (x.holds e).erase i = []) ∧
      (idx % 8 = 0 → f.keyidx = SMap.get false (s.port port.toNat).keyidx (entWorld e)) ∧
      (idx % 8 ≠ 0 → ∀ b, SMap.get none (s.port port.toNat).grpkey (512 * n + idx / 8) = some b → f.keyidx = b) ∧
      SMap.get [] (t.port port.toNat).inject (entLink e) = (SMap.get [] (s.port port.toNat).inject (entLink e)).erase i ∧
      (i.f.empty = false → ⟨s.dcc, f, false, i.who⟩ ∈ (t.port port.toNat).kept)) ∧
  (∀ (s : State) (port : BitVec 4) (n : Nat) (e : Word), InSlot s port n e → entKind e = 0 →
    let x := atSlot s port n e
    let idx := slotIdx s port e
    (512 * n + idx / 8 ∈ x.done → ∃ t f, exec (.flitSlot port) s = .next t ∧ Sent s t port f ∧ f.empty = true ∧
      (t.port port.toNat).needs = x.needs) ∧
    (512 * n + idx / 8 ∉ x.done → (x.holds e)[x.missing n s.dcc]? = none →
      ∃ t f, exec (.flitSlot port) s = .next t ∧ Sent s t port f ∧ f.empty = true ∧
        (⟨BitVec.ofNat 12 n, BitVec.ofNat 12 idx, s.dcc, none, false, 0⟩ : Need) ∈ (t.port port.toNat).needs)) ∧
  (∀ (s : State) (port : BitVec 4) (n : Nat) (e : Word) (d : Need) (g : Flit), InSlot s port n e → entKind e = 2 →
    firstNeed ((s.port port.toNat).needs.filter (fun m => m.ent.toNat = entLink e && m.fidx.toNat / 64 = entWorld e && !m.again))
      = some d → d.copy = some g →
    ∃ t f, exec (.flitSlot port) s = .next t ∧ Sent s t port f ∧ f.payload = g.payload ∧ f.ent = g.ent ∧ f.fidx = g.fidx ∧
      f.rpl = true ∧ (t.port port.toNat).needs = (s.port port.toNat).needs.erase d ∧
      (t.port port.toNat).replays = BitVec.ofNat 16 (min 0xFFFF ((s.port port.toNat).replays.toNat + 1))) ∧
  (∀ (s : State) (port : BitVec 4) (n : Nat) (e : Word) (d : Need) (i : Inj), InSlot s port n e → entKind e = 2 →
    firstNeed ((s.port port.toNat).needs.filter (fun m => m.ent.toNat = entLink e && m.fidx.toNat / 64 = entWorld e && !m.again))
      = some d → d.copy = none →
    let o := SMap.get 0 (s.port port.toNat).table d.ent.toNat
    entKind o = 0 → ((s.port port.toNat).holds o)[(s.port port.toNat).missing d.ent.toNat d.arose]? = some i →
    ∃ t f, exec (.flitSlot port) s = .next t ∧ Sent s t port f ∧ f.payload = i.f.payload ∧ f.ent = d.ent ∧ f.fidx = d.fidx ∧
      f.rpl = true ∧ (¬ othersOwed (s.port port.toNat) d.ent.toNat d.fidx.toNat → f.tagv = true) ∧
      (f.tagv = false → (t.port port.toNat).needs = (s.port port.toNat).needs.erase d) ∧
      ∀ m ∈ (t.port port.toNat).needs, m ∈ (s.port port.toNat).needs.erase d) ∧
  (∀ (s : State) (port : BitVec 4) (f : Flit) (errs : List (Nat × Nat)), port.toNat < 12 → 2 ≤ (s.port port.toNat).st →
    8 < errs.length →
    ∃ t, exec (.flitDelivery port f errs) s = .next t ∧ t.mem = s.mem ∧ t.port port.toNat = { s.port port.toNat with
        crcfail := BitVec.ofNat 16 (min 0xFFFF ((s.port port.toNat).crcfail.toNat + 1))
        naks := (s.port port.toNat).naks ++ [⟨BitVec.ofNat 16 (s.dcc.toNat + 2 ^ 16 - (s.port port.toNat).rxlat), s.dcc⟩]
        lost := (t.port port.toNat).lost } ∧
      ((s.port port.toNat).st ≠ 4 ∨ f.empty = true → (t.port port.toNat).lost = (s.port port.toNat).lost) ∧
      ((s.port port.toNat).st = 4 → f.empty = false → ∃ n, s.dcc.toNat + 5 ≤ n ∧
        (⟨f.ent, f.fidx, f.rpl, n⟩ : Lost) ∈ (t.port port.toNat).lost)) ∧
  (∀ (s : State) (port : BitVec 4) (f : Flit) (k : Kept), port.toNat < 12 → (s.port port.toNat).st = 4 → f.empty = true →
    f.nakv = true → (s.port port.toNat).kept.find? (fun k => k.d.setWidth 16 = f.nakcyc) = some k → k.asked = false →
    ∃ t, exec (.flitDelivery port f []) s = .next t ∧ (t.port port.toNat).needs = (s.port port.toNat).needs ++
      [⟨k.f.ent, k.f.fidx, k.d + word (s.port port.toNat).txlat, some k.f, k.f.rpl, k.who⟩]) ∧
  (∀ (s : State) (port : BitVec 4) (f : Flit), port.toNat < 12 → (s.port port.toNat).st = 4 → f.empty = false → f.nakv = false →
    f.slip = false → (s.port port.toNat).groups = [] →
    ∃ t, exec (.flitDelivery port f []) s = .next t ∧ t.mem = s.mem ∧
      (t.port port.toNat).groups = [⟨f.ent, f.fidx.toNat / 8, [⟨f, s.dcc⟩], false⟩]) ∧
  (∀ (s : State) (port : BitVec 4) (ent : BitVec 12) (grp : Nat) (g : Group), port.toNat < 12 → (s.port port.toNat).st = 4 →
    (s.port port.toNat).groups.find? (fun g => g.ent = ent ∧ g.grp = grp) = some g →
    (s.port port.toNat).verifies g s.dcc = true → s.forwards port.toNat ent.toNat = false →
    ((s.port port.toNat).renews g (SMap.get Part.reset (s.port port.toNat).parts ent.toNat).next = false ∨
      (SMap.get Part.reset (s.port port.toNat).parts ent.toNat).flits = []) →
    ∃ t, exec (.groupVerify port ent grp false) s = .next t ∧
      (g.failed = true → WentDown s t port.toNat 7 ∧ s.dev.records < t.dev.records) ∧
      (g.failed = false → (t.port port.toNat).authfail = BitVec.ofNat 16 (min 0xFFFF ((s.port port.toNat).authfail.toNat + 1)) ∧
        (t.port port.toNat).groups = (s.port port.toNat).groups.erase g ++ [{ g with flits := [], failed := true }] ∧
        (t.port port.toNat).naks.length = (s.port port.toNat).naks.length + g.flits.length)) ∧
  (∀ (x : Port) (g : Group) (dcc : Word), x.verifies g dcc = true →
    (∃ b ∈ g.flits, b.f.tagv = true) ∧ (∀ b ∈ g.flits, b.at_.toNat + 2 ≤ dcc.toNat) ∧
    (∀ l ∈ x.lost, ¬(l.ent = g.ent ∧ l.fidx.toNat / 8 = g.grp)) ∧
    ((g.flits.map (fun b => b.f.fidx)).Nodup → (∀ b ∈ g.flits, b.f.fidx.toNat / 8 = g.grp) →
      ∃ b ∈ g.flits, b.f.fidx.toNat = 8 * g.grp)) ∧
  (∀ (s : State) (port : BitVec 4) (ent : BitVec 12) (b : Fwd) (h : Got), port.toNat < 12 → (s.port port.toNat).st = 4 →
    (s.port port.toNat).groups = [⟨ent, 0, [b], false⟩] → b.f.tagv = true → b.f.fidx = 0 →
    (s.port port.toNat).lost = [] → b.at_.toNat + 2 ≤ s.dcc.toNat → s.forwards port.toNat ent.toNat = false →
    SMap.get Part.reset (s.port port.toNat).parts ent.toNat = Part.reset →
    headerOf b.f.world b.f.payload.toNat = (s.dev.num.toNat, h) → h.sent ≤ 96 →
    ∃ t, exec (.groupVerify port ent 0 true) s = .next t ∧ (t.port port.toNat).groups = [] ∧
      t.rx = s.rx ∧
      t.landing = s.landing ++ [(s.dcc.toNat + 8, { h with data := b.f.payload.toNat / 2 ^ 256 % 2 ^ (8 * h.sent) })])

/-- R415 to R417, R425, R430, R432 to R436, R440: the states of a port and what takes it DOWN; lane scores; the switch of tables and
of keys; the link keys that a port gets when it is keyed; and a slip notice. Where it rests on the model's own choice or reading:
log entries 23, 54, 55, 56, 86. -/
def Obligations.PortsMoveBetweenTheirStates : Prop :=
  (∀ (s : State) (port : BitVec 4), port.toNat < 12 → (s.port port.toNat).st = 0 → s.dev.ready = true →
    ∃ t, exec (.portOpen port) s = .next t ∧ t.mem = s.mem ∧ t.port port.toNat = { s.port port.toNat with
      st := 1, slips := 0, replays := 0, crcfail := 0, authfail := 0 }) ∧
  (∀ (s : State) (port : BitVec 4) (a b : Nat) (d : BitVec 9) (p : BitVec 4), port.toNat < 12 → (s.port port.toNat).st = 1 →
    (∃ t, exec (.trainComplete port false a b d p) s = .next t ∧ WentDown s t port.toNat 1) ∧
    ((d.toNat, p.toNat) ≠ wired s.dev.num.toNat port.toNat → exec (.trainComplete port true a b d p) s = .next s) ∧
    ((d.toNat, p.toNat) = wired s.dev.num.toNat port.toNat →
      (1023 < a ∨ 1023 < b → ∃ t, exec (.trainComplete port true a b d p) s = .next t ∧ WentDown s t port.toNat 2) ∧
      (a ≤ 1023 → b ≤ 1023 → ∃ t, exec (.trainComplete port true a b d p) s = .next t ∧ t.mem = s.mem ∧
        t.port port.toNat = { s.port port.toNat with
          st := 2, txlat := max 48 a, rxlat := max 48 b, peerdev := d, peerport := p }))) ∧
  (∀ (s : State) (port : BitVec 4), port.toNat < 12 →
    ((s.port port.toNat).st = 2 → (∃ t, exec (.attestComplete false port true) s = .next t ∧ (t.port port.toNat).st = 3 ∧
        (t.port port.toNat).secret = Config.sessionSecret s.dev.draws) ∧
      ∃ t, exec (.attestComplete false port false) s = .next t ∧ WentDown s t port.toNat 3) ∧
    ((s.port port.toNat).st = 3 → (∃ t, exec (.keyedComplete false port true) s = .next t ∧ (t.port port.toNat).st = 4 ∧
        ∀ w, w < 192 → (s.world w).isOpen = true → Keyed (s.port port.toNat) (t.port port.toNat) s.dev.num.toNat port.toNat w
          (s.world w).g.epoch (SMap.get false (s.port port.toNat).keyidx w)) ∧
      ∃ t, exec (.keyedComplete false port false) s = .next t ∧ WentDown s t port.toNat 4) ∧
    (3 ≤ (s.port port.toNat).st → ∃ t, exec (.heartbeatMiss false port) s = .next t ∧ WentDown s t port.toNat 3) ∧
    (∀ lane, 2 ≤ (s.port port.toNat).st → ∃ t, exec (.laneLockLoss port lane) s = .next t ∧ WentDown s t port.toNat 5) ∧
    ((s.port port.toNat).st = 4 → ∃ t, exec (.peerClosed port) s = .next t ∧ WentDown s t port.toNat 6)) ∧
  (∀ (s : State) (port : BitVec 4), port.toNat < 12 → (s.port port.toNat).st ≠ 0 →
    ∃ t, exec (.portClose port) s = .next t ∧ WentDown s t port.toNat 0 ∧
      ∀ k who ent idx, (s.port port.toNat).owedTo ++ (s.port port.toNat).owedFrom = [(who, ent, idx)] → who ≠ 0 →
        s.keyOf (who / 65536) (who % 65536) = some k → s.ctxAt k ≠ Ctx.reset → ((s.ctxAt k).engAt .fabric).pend = none →
        ∃ p, ((t.ctxAt k).engAt .fabric).pend = some p ∧ p.code = tTIMESLIP ∧
          p.tinfo = word (s.dev.num.toNat * 2 ^ 55 + port.toNat * 2 ^ 51 + ent % 4096 * 2 ^ 39 + idx % 4096 * 2 ^ 27 + 2 * 2 ^ 24)) ∧
  (∀ (s : State) (cp : BitVec 4) (ok : Bool), cp.toNat < 4 →
    ((s.campusPort (cp.setWidth 2)).st = 2 → ∃ t, exec (.attestComplete true cp ok) s = .next t ∧
      if ok then (t.campusPort (cp.setWidth 2)).st = 3 else CampusDown t (cp.setWidth 2) 3) ∧
    ((s.campusPort (cp.setWidth 2)).st = 3 → ∃ t, exec (.keyedComplete true cp ok) s = .next t ∧
      if ok then (t.campusPort (cp.setWidth 2)).st = 4 else CampusDown t (cp.setWidth 2) 4) ∧
    ((s.campusPort (cp.setWidth 2)).st = 4 → ∃ t, exec (.peerClosed (cp + 12)) s = .next t ∧ CampusDown t (cp.setWidth 2) 6)) ∧
  (∀ (s : State) (port : BitVec 4), port.toNat < 12 → s.dcc.toNat % 2 ^ 20 = 0 → s.dcc ≠ (s.port port.toNat).window →
    let score (n : Nat) : BitVec 8 := BitVec.ofNat 8 (255 - min 255 (SMap.get 0 (s.port port.toNat).corr n / 64))
    ∃ t, exec (.healthWindow port) s = .next t ∧ t.mem = s.mem ∧ (t.port port.toNat).corr = [] ∧
      (t.port port.toNat).window = s.dcc ∧ (∀ n, n < 8 → SMap.get 255 (t.port port.toNat).lane n = score n) ∧
      (∀ n, n < 8 → (score n).toNat < (s.port port.toNat).thresh.toNat →
        (SMap.get Msix.reset t.dev.vec 0).e = (SMap.get Msix.reset s.dev.vec 0).e + 1)) ∧
  (∀ (s : State) (port : BitVec 4) (l : Load), port.toNat < 12 → s.dcc.toNat % (s.port port.toNat).per = 0 →
    (s.port port.toNat).next = [l] → l.at_.toNat ≤ s.dcc.toNat →
    ∃ t, exec (.scheduleTableSwitch port) s = .next t ∧ t.mem = s.mem ∧ t.port port.toNat = { s.port port.toNat with
      table := applyLoad (s.port port.toNat).table l, next := [], per := (s.port port.toNat).pernext, served := [] }) ∧
  (∀ (s : State) (port : BitVec 4) (w : Nat), port.toNat < 12 → (s.port port.toNat).st = 4 → s.dcc.toNat % 2 ^ 20 = 0 →
    SMap.get false (s.port port.toNat).newkey w = true →
    ∃ t, exec (.linkKeySwitch false port w) s = .next t ∧ t.mem = s.mem ∧ SMap.get false (t.port port.toNat).newkey w = false ∧
      SMap.get false (t.port port.toNat).keyidx w = !SMap.get false (s.port port.toNat).keyidx w ∧
      (∀ v, v ≠ w → SMap.get false (t.port port.toNat).keyidx v = SMap.get false (s.port port.toNat).keyidx v)) ∧
  (∀ (s : State) (k : Nat) (ti : Word), s.ctxAt k ≠ Ctx.reset → ((s.ctxAt k).engAt .fabric).pend = none →
    ∃ t p, exec (.slipNotice k ti) s = .next t ∧ t.mem = s.mem ∧ ((t.ctxAt k).engAt .fabric).pend = some p ∧ p.asy = true ∧
      p.code = tTIMESLIP ∧ p.tinfo = ti)

namespace Sys2Proof.Claim

/-! ## Hosts -/

/-- Nothing but the device page changed. -/
def OnlyDevice (s t : State) : Prop := t = { s with dev := t.dev }

/-- A direction of the stream of a world's interface (R482). -/
def ide (s : State) (w : Nat) (rx : Bool) : Ide := if rx then (s.world w).rx else (s.world w).tx

/-- The key of a set. -/
def ideKey (i : Ide) (set : Bool) : BitVec 256 := if set then i.k1 else i.k0

/-- A register of a world's page reached by a function that may reach it: the physical one, or the world's own (R6, R475); from a host
port, or from the hart that the function is (R483). -/
def Reaches (s : State) (port : Nat) (vf : Option Nat) (w : Nat) : Prop :=
  s.dev.ready = true ∧ s.mayWriteVia port vf = true ∧ w ≤ 191 ∧ (vf = none ∨ vf = some w)

end Sys2Proof.Claim

/-- R476 to R478, R480: only the holder renews the lease, only the other port takes it, and only once it has expired; a vector fires
at its count or its timer, and holds its message while it or its function is masked (a change of the function mask is an event of
the model's, log 63). Where it rests on the model's own choice or reading: log entries 63, 64. -/
def Obligations.LeasesAndInterruptMessages : Prop :=
  (∀ (s : State) (port : Nat), s.dev.ready = true →
    (port = s.dev.holder → ∃ t, exec (.leaseRenew port) s = .next t ∧ t = { s with dev := { s.dev with
      lexp := s.dcc + s.dev.lterm.setWidth 64, expired := false } }) ∧
    (port ≠ s.dev.holder → exec (.leaseRenew port) s = .next s)) ∧
  (∀ (s : State) (port : Nat), s.dev.ready = true → port < 2 →
    (port ≠ s.dev.holder → s.dev.lexp.toNat ≤ s.dcc.toNat → ∃ t, exec (.leaseTake port) s = .next t ∧
      t = { s with dev := { s.dev with
        holder := port, lexp := s.dcc + s.dev.lterm.setWidth 64, expired := false
        reqs := s.dev.reqs.map (fun r => { r with port := port, since := s.dcc }) } }) ∧
    (port = s.dev.holder ∨ s.dcc.toNat < s.dev.lexp.toNat →
      exec (.leaseTake port) s = .next { s with dev := { s.dev with tkfail := true } })) ∧
  (∀ (s : State), s.dev.lexp.toNat ≤ s.dcc.toNat →
    exec .leaseExpiry s = .next { s with dev := { s.dev with expired := true } }) ∧
  (∀ (s : State) (fn v : Nat), max 1 (s.vector fn v).cnt.toNat ≤ (s.vector fn v).e →
    ∃ t, exec (.msixFire fn v) s = .next t ∧ t.mem = s.mem ∧ t.ctxs = s.ctxs ∧
      t.vector fn v = if (s.vector fn v).masked ∨ (s.vecs fn).2 = true then { s.vector fn v with pend := true }
        else { s.vector fn v with e := 0 }) ∧
  (∀ (s : State) (fn v : Nat), (s.vector fn v).timer ≠ 0 → 0 < (s.vector fn v).e →
    (s.vector fn v).f.toNat + 1024 * (s.vector fn v).timer.toNat ≤ s.dcc.toNat →
    ∃ t, exec (.msixTimer fn v) s = .next t ∧ t.mem = s.mem ∧
      t.vector fn v = if (s.vector fn v).masked ∨ (s.vecs fn).2 = true then { s.vector fn v with pend := true }
        else { s.vector fn v with e := 0 }) ∧
  (∀ (s : State) (fn v : Nat), s.dev.ready = true → ∃ t, exec (.msixUnmask fn ⟨s.dev.holder, .vector v⟩) s = .next t ∧ t.mem = s.mem ∧
    t.vector fn v = if (s.vector fn v).pend ∧ (s.vecs fn).2 = false then { s.vector fn v with masked := false, pend := false, e := 0 }
      else { s.vector fn v with masked := false }) ∧
  (∀ (s : State) (fn : Nat), s.dev.ready = true →
    (∃ t, exec (.msixUnmask fn ⟨s.dev.holder, .function true⟩) s = .next t ∧ (t.vecs fn).2 = true ∧ (t.vecs fn).1 = (s.vecs fn).1) ∧
    ∃ t, exec (.msixUnmask fn ⟨s.dev.holder, .function false⟩) s = .next t ∧ (t.vecs fn).2 = false ∧
      ∀ v, v < (if fn < 192 then 4 else 5) → t.vector fn v =
        if (s.vector fn v).masked = false ∧ (s.vector fn v).pend = true then { s.vector fn v with pend := false, e := 0 } else s.vector fn v) ∧
  (∀ (s : State) (fn : Nat) (v : MsixWrite), v.port ≠ s.dev.holder → exec (.msixUnmask fn v) s = .next s)

/-- R400, R478, R481, R482: an interface is locked from UNLOCKED, started from CONFIG_LOCKED and stopped; every other START puts it in
ERROR; the other messages are answered and change nothing; keys are programmed, a receive set once no tag that needs it is
outstanding, switched, and cleared when no tag is left; a completion brings its bytes, a late one is dropped, and one that fails
or times out is an integrity failure. Where it rests on the model's own choice or reading: log entries 60, 61, 62, 73. -/
def Obligations.InterfacesAndStreams : Prop :=
  (∀ (s : State) (w c : Nat),
    exec (.getVersion w) s = .next (s.setWorld w { s.world w with doe := .version }) ∧
    exec (.getCapabilities w) s = .next (s.setWorld w { s.world w with doe := .capabilities }) ∧
    exec (.getDeviceInterfaceReport w) s = .next (s.setWorld w { s.world w with doe := .report [0, 2] }) ∧
    exec (.getDeviceInterfaceState w) s = .next (s.setWorld w { s.world w with doe := .state (s.world w).tdisp }) ∧
    exec (.tdispUnsupportedMessage w c) s = .next (s.setWorld w { s.world w with doe := .error })) ∧
  (∀ (s : State) (w : Nat), (s.world w).tdisp = .unlocked → ∃ t, exec (.lockInterfaceRequest w) s = .next t ∧
    t.world w = { s.world w with tdisp := .locked, doe := .locked } ∧ t.mem = s.mem ∧ t.ctxs = s.ctxs) ∧
  (∀ (s : State) (w : Nat), (s.world w).tdisp ≠ .unlocked →
    exec (.lockInterfaceRequest w) s = .next (s.setWorld w { s.world w with doe := .error })) ∧
  (∀ (s : State) (w : Nat), (s.world w).tdisp = .locked →
    (∀ k, k < 4 → (SMap.get Subq.reset (s.world w).sq k).head = (SMap.get Subq.reset (s.world w).sq k).tail) →
    ∃ t, exec (.startInterfaceRequest w) s = .next t ∧ t.world w = { s.world w with tdisp := .run, doe := .started } ∧
      t.mem = s.mem ∧ t.ctxs = s.ctxs) ∧
  (∀ (s : State) (w : Nat), (s.world w).tdisp ≠ .locked → ∃ t, exec (.startInterfaceRequest w) s = .next t ∧
    (t.world w).tdisp = .error ∧ (t.world w).doe = .error ∧ t.mem = s.mem) ∧
  (∀ (s : State) (w : Nat), ∃ t, exec (.stopInterfaceRequest w) s = .next t ∧ (t.world w).closing = true ∧
    (t.world w).stopping = true ∧ (t.world w).doe = .stopped ∧ t.mem = s.mem ∧
    t.launches = if (s.world w).tdisp = .run ∨ (s.world w).tdisp = .error then s.launches.filter (fun l => l.world ≠ w) else s.launches) ∧
  (∀ (s : State) (w : Nat) (set : Bool) (key : BitVec 256), s.tagsOut w set = true →
    ∃ t, exec (.keyProg w true set key) s = .next t ∧ OnlyWorld s t w ∧
      t.world w = { s.world w with rx := { (s.world w).rx with wait := some (set, key) } }) ∧
  (∀ (s : State) (w : Nat) (set : Bool) (key : BitVec 256), (s.world w).rx.old = none → (s.world w).rx.wait = some (set, key) →
    s.tagsOut w set = false → ideKey ((s.ideDrain w).world w).rx set = key ∧ ((s.ideDrain w).world w).rx.wait = none) ∧
  (∀ (s : State) (w : Nat) (rx set : Bool) (key : BitVec 256), rx = false ∨ s.tagsOut w set = false →
    ∃ t, exec (.keyProg w rx set key) s = .next t ∧ OnlyWorld s t w ∧
    ideKey (ide t w rx) set = key ∧ ideKey (ide t w rx) (!set) = ideKey (ide s w rx) (!set) ∧ (ide t w rx).go = (ide s w rx).go ∧
    ide t w (!rx) = ide s w (!rx)) ∧
  (∀ (s : State) (w : Nat) (rx set : Bool), (ide s w rx).go ≠ set → (ide s w (!rx)).old = none → (s.world w).rx.wait = none →
    ∃ t, exec (.kSetGo w rx set) s = .next t ∧ OnlyWorld s t w ∧ (ide t w rx).go = set ∧
      ideKey (ide t w rx) set = ideKey (ide s w rx) set ∧ ide t w (!rx) = ide s w (!rx) ∧
      ideKey (ide t w rx) (!set) = if rx = true ∧ ∃ r ∈ s.dev.reqs, r.world = w ∧ r.tag.getLsbD 13 = !set
        then ideKey (ide s w rx) (!set) else 0) ∧
  (∀ (s : State) (tag : BitVec 14) (r : HostReq) (k : Nat), s.dev.reqs.find? (fun r => r.tag = tag) = some r → r.key = some k →
    r.since.toNat + 60000000 ≤ s.dcc.toNat →
    ∃ t, exec (.ideCompletionTimeout tag) s = .next t ∧ t.dev.reqs = s.dev.reqs.erase r ∧ t.mem = s.mem ∧
      (t.world r.world).g.integV = true ∧ (t.ctxAt k).ctl.fetch = .stopped) ∧
  (∀ (s : State) (tag : BitVec 14) (port data k : Nat) (r : HostReq),
    s.dev.reqs.find? (fun r => r.tag = tag ∧ r.port = port) = some r → r.key = some k →
    ∃ t, exec (.hostCompletion tag port true data) s = .next t ∧ t.dev.reqs = s.dev.reqs.erase r ∧
      t.mem = writes (cutRuns r.runs data) s.mem ∧
      ((r.src ≠ 2 ∨ ∀ x ∈ (s.ctxAt k).pump.fly, x.cap.age ≠ r.age) → t.dev.came = s.dev.came ++ [⟨k, r.src, r.age, r.runs⟩] ∧
        t.ctxs = s.ctxs) ∧
      ∀ x, r.src = 2 → (s.ctxAt k).pump.fly.find? (fun x => x.cap.age = r.age) = some x → t.dev.came = s.dev.came) ∧
  (∀ (s : State) (tag : BitVec 14) (port data : Nat) (r : HostReq),
    s.dev.reqs.find? (fun r => r.tag = tag ∧ r.port = port) = some r → r.key = none →
    ∃ t, exec (.hostCompletion tag port true data) s = .next t ∧ t.dev.reqs = s.dev.reqs.erase r ∧ t.mem = s.mem ∧ t.ctxs = s.ctxs) ∧
  (∀ (s : State) (tag : BitVec 14) (port data : Nat) (ok : Bool), (∀ r ∈ s.dev.reqs, r.tag = tag → r.port ≠ port) →
    exec (.hostCompletion tag port ok data) s = .next s) ∧
  (∀ (s : State) (tag : BitVec 14) (port data : Nat) (r : HostReq),
    s.dev.reqs.find? (fun r => r.tag = tag ∧ r.port = port) = some r →
    ∃ t, exec (.hostCompletion tag port false data) s = .next t ∧ t.dev.reqs = s.dev.reqs.erase r ∧ t.mem = s.mem ∧
      (t.world r.world).g.integV = true ∧
      ((t.world r.world).tdisp = if (s.world r.world).tdisp = .unlocked then .unlocked else .error))

namespace Sys2Proof.Claim

/-! ## Firmware, migration, bring-up, trust -/

/-- The number of events counted on a vector of the physical function (R480). -/
def pfEvents (s : State) (v : Nat) : Nat := (SMap.get Msix.reset s.dev.vec v).e

/-- The device stands as a reset leaves it: nothing bound, every world's page and port at its reset values, HBM and cisterns zero,
host memory as it was, a new seal key and new device keys (R8, R393, R397, R401, R491). -/
def Restarted (s t : State) : Prop :=
  t.ctxs = [] ∧ t.binds = [] ∧ t.gangs = [] ∧ t.launches = [] ∧ t.ports = [] ∧ t.campus = [] ∧ t.tiles = [] ∧ t.dcc = 0 ∧
  t.owner = [] ∧ t.badLines = [] ∧ t.told = [] ∧ t.mem = s.mem.filter (fun c => decide (Config.hostBase ≤ c.1)) ∧
  t.dev.sealKey = Config.randomKey s.dev.draws ∧ t.dev.scramble = (Config.randomKey (s.dev.draws + 1)).setWidth 128 ∧
  t.dev.keys = ⟨Config.randomKey (s.dev.draws + 2), Config.randomKey (s.dev.draws + 3), Config.randomKey (s.dev.draws + 4)⟩ ∧
  t.dev.draws = s.dev.draws + 5

/-- Entries of lost gangs (R490). -/
def lostEntries (l : List (Nat × BitVec 16 × BitVec 2)) : List Cqe := l.map (fun e => entry 3 0 0 e.1 e.2.1 e.2.2)

/-- Marked records of a region's rotation: the region of a number. -/
def region (s : State) (w n : Nat) : Region := SMap.get Region.reset (s.world w).g.er n

end Sys2Proof.Claim

/-- R476, R480, R488 to R490: the states of a migration at its source and at its destination, what its link carries, and the entries
of gangs that are lost; MIGCTL holds what was written with the last command, and an interrupt is counted where MIGSTAT changes.
What the sealed context holds is the model's choice of log 69. Where it rests on the model's own choice or reading: log entries
68, 69. -/
def Obligations.MigrationMovesAWorld : Prop :=
  (∀ (s : State) (w : Nat) (port : BitVec 4), s.dev.ready = true → w ≤ 191 → s.dev.mig.busy = false →
    (s.linkUp port = false → ∃ t, exec (.migExport w port) s = .next t ∧ OnlyDevice s t ∧ t.dev.mig.state = 0 ∧
      t.dev.mig.err = 1) ∧
    (s.linkUp port = true → s.gangsOf w = [] → ∃ t, exec (.migExport w port) s = .next t ∧ OnlyDevice s t ∧
      t.dev.mig.state = 0 ∧ t.dev.mig.err = 2) ∧
    (s.linkUp port = true → s.gangsOf w ≠ [] → ∃ t, exec (.migExport w port) s = .next t ∧ t.dev.mig.state = 1 ∧
      t.dev.mig.err = 0 ∧ t.dev.mig.world = BitVec.ofNat 8 w ∧ t.dev.mig.ctlPort = port ∧ t.dev.mig.built = false ∧
      t.dev.mig.receipt = false ∧ t.dev.mig.gangs = (s.gangsOf w).map (fun e => (e.1, e.2.tag, e.2.sq)))) ∧
  (∀ (s : State) (w : Nat) (port : BitVec 4), s.dev.ready = true → w ≤ 191 → s.dev.mig.busy = true →
    ∃ t, exec (.migExport w port) s = .next t ∧ OnlyDevice s t ∧
      t.dev = { s.dev with mig := { s.dev.mig with ctlWorld := BitVec.ofNat 8 w, ctlPort := port } }) ∧
  (∀ (s : State) (f : Mig → Mig), pfEvents (s.migTo f) 4 = if (f s.dev.mig).world = s.dev.mig.world ∧ (f s.dev.mig).err = s.dev.mig.err ∧
    (f s.dev.mig).state = s.dev.mig.state then pfEvents s 4 else pfEvents s 4 + 1) ∧
  (∀ (s : State) (w : Nat) (port : BitVec 4), s.dev.ready = true → w ≤ 191 → s.dev.mig.busy = false →
    ∃ t, exec (.migAccept w port) s = .next t ∧ OnlyDevice s t ∧
      t.dev.mig = { s.dev.mig with ctlWorld := BitVec.ofNat 8 w, ctlPort := port, accept := some (BitVec.ofNat 8 w) }) ∧
  (∀ (s : State) (w : Nat) (c : Sealed), s.dev.ready = true → s.dev.mig.accept = some (BitVec.ofNat 8 w) →
    s.dev.mig.busy = false → s.linkUp s.dev.mig.ctlPort = true →
    (∃ t, exec (.migrationContextArrival w true c) s = .next t ∧ OnlyDevice s t ∧ t.dev.mig.state = 3 ∧ t.dev.mig.err = 0 ∧
      t.dev.mig.context = some c ∧ t.dev.mig.placed = false ∧ t.dev.mig.gangs = c.gangs.map (fun g => (g.id, g.tag, g.sq)) ∧
      t.dev.mig.flash = some (BitVec.ofNat 8 w, s.dev.mig.ctlPort, t.dev.mig.gangs) ∧
      t.dev.mig.sent = s.dev.mig.sent ++ [(s.dev.mig.ctlPort, .receipt)]) ∧
    (∃ t, exec (.migrationContextArrival w false c) s = .next t ∧ OnlyDevice s t ∧ t.dev.mig.state = s.dev.mig.state ∧
      t.dev.mig.err = 4)) ∧
  (∀ (s : State) (w : Nat) (port : BitVec 4) (c : Sealed), s.dev.ready = true → w ≤ 191 → s.dev.mig.state = 3 →
    s.dev.mig.world = BitVec.ofNat 8 w → s.dev.mig.placed = false → s.dev.mig.context = some c →
    let m := { s.dev.mig with ctlWorld := BitVec.ofNat 8 w, ctlPort := port }
    let u := { s with dev := { s.dev with mig := m } }
    ((∃ g ∈ c.gangs, s.idUsed g.id = true) → ∃ t, exec (.migAccept w port) s = .next t ∧ OnlyDevice s t ∧ t.dev.mig = { m with err := 3 }) ∧
    ((∀ g ∈ c.gangs, s.idUsed g.id = false) → u.roomFor w c = false →
      ∃ t, exec (.migAccept w port) s = .next t ∧ OnlyDevice s t ∧ t.dev.mig = { m with err := 0 }) ∧
    ∀ g v, c.gangs = [g] → s.idUsed g.id = false → u.roomFor w c = true → (u.putWorld w c).putGang w g = some v →
      exec (.migAccept w port) s = .next (v.migTo (fun m => { m with err := 0, placed := true, context := none }))) ∧
  (∀ (s u : State) (w : Nat) (g : SealedGang) (r : LaunchRec), s.readRecord w g.va = (u, some r) → (g.strands.map (fun x => x.key)).Nodup →
    ∃ t q, s.putGang w g = some t ∧ t.gang g.id = some q ∧ q.world = w ∧ q.tag = g.tag ∧ q.sq = g.sq ∧ q.running = false ∧
      q.preempted = true ∧ q.keys = g.strands.map (fun x => x.key) ∧
      ∀ x ∈ g.strands, (t.ctxAt x.key).phase = .out ∧ (t.bindAt x.key).valid = true ∧ (t.bindAt x.key).run = false ∧
        (t.bindAt x.key).gang = BitVec.ofNat 16 g.id ∧ (t.bindAt x.key).strand = BitVec.ofNat 16 x.strand ∧
        (t.bindAt x.key).pbase = x.pbase) ∧
  (∀ (s : State), s.dev.mig.state = 1 → s.dev.mig.built = true → s.dev.mig.receipt = false →
    (∃ t, exec (.migrationReceipt true) s = .next t ∧ t.dev.mig.state = 1 ∧ t.dev.mig.receipt = true ∧
      (t.world s.dev.mig.world.toNat).closing = true ∧
      ∀ id g, s.gang id = some g → g.world = s.dev.mig.world.toNat → t.gang id = none) ∧
    (∃ t, exec (.migrationReceipt false) s = .next t ∧ OnlyDevice s t ∧ t.dev.mig.state = 6 ∧ t.dev.mig.err = 4)) ∧
  (∀ (s : State) (ok : Bool), s.dev.mig.built = false → exec (.migrationReceipt ok) s = .next s) ∧
  (∀ (s : State), s.dev.mig.notice = none → s.dev.mig.state = 1 →
    (s.dev.mig.built = false → s.contextsOut s.dev.mig.world.toNat = true → s.linkUp s.dev.mig.ctlPort = true →
      OnlyDevice s s.migStep ∧ s.migStep.dev = { s.dev with mig := { s.dev.mig with
        built := true, sent := s.dev.mig.sent ++ [(s.dev.mig.ctlPort, .context (s.sealedOf s.dev.mig.world.toNat))] } }) ∧
    (s.dev.mig.built = false → s.contextsOut s.dev.mig.world.toNat = false → s.migStep = s) ∧
    (s.dev.mig.built = true → s.dev.mig.receipt = true →
      (s.bound s.dev.mig.world.toNat = true ∨ (s.world s.dev.mig.world.toNat).closing = true → s.migStep = s) ∧
      (s.bound s.dev.mig.world.toNat = false → (s.world s.dev.mig.world.toNat).closing = false →
        OnlyDevice s s.migStep ∧ s.migStep.dev.mig = { s.dev.mig with state := 2 }))) ∧
  (∀ (s : State), s.dev.mig.notice = none → s.dev.mig.state = 3 → s.dev.mig.placed = true →
    (s.allResumed s.dev.mig.gangs = false → s.migStep = s) ∧
    (s.allResumed s.dev.mig.gangs = true → OnlyDevice s s.migStep ∧ s.migStep.dev.mig = { s.dev.mig with
      state := 4, flash := none, placed := false, sent := s.dev.mig.sent ++ [(s.dev.mig.ctlPort, .confirm)] })) ∧
  (∀ (s : State) (p : BitVec 4), s.dev.mig.notice = some p → s.dev.mig.state = 7 → s.dev.mig.placed = false →
    (s.linkUp p = false → s.migStep = s) ∧
    (s.linkUp p = true → OnlyDevice s s.migStep ∧
      s.migStep.dev.mig = { s.dev.mig with notice := none, sent := s.dev.mig.sent ++ [(p, .loss)] })) ∧
  (∀ (s : State), s.dev.mig.state = 2 → ∃ t, exec .migrationConfirm s = .next t ∧ OnlyDevice s t ∧ t.dev.mig.state = 5 ∧
    t.dev.mig.receipt = false) ∧
  (∀ (s : State), s.dev.mig.state = 2 → ∃ t, exec .migrationLossNotice s = .next t ∧ t.dev.mig.state = 7 ∧ t.mem = s.mem ∧
    (t.world s.dev.mig.world.toNat).kept = (s.world s.dev.mig.world.toNat).kept ++ lostEntries s.dev.mig.gangs) ∧
  (∀ (s : State) (w : Nat), s.dev.ready = true → s.dev.mig.world.toNat = w → w ≤ 191 →
    ∀ port,
    (s.dev.mig.state = 6 → ∃ t, exec (.migResume ⟨w, port⟩) s = .next t ∧ t.dev.mig.state = 0 ∧ t.ctxs = s.ctxs ∧
      t.dev.mig.ctlWorld = BitVec.ofNat 8 w ∧ t.dev.mig.ctlPort = port ∧
      ∀ id g, s.gang id = some g → g.world = w → t.gang id = some { g with migrating := false }) ∧
    (s.dev.mig.state = 3 → s.dev.mig.placed = false → ∃ t, exec (.migDiscard ⟨w, port⟩) s = .next t ∧ OnlyDevice s t ∧
      t.dev.mig = { s.dev.mig with
        ctlWorld := BitVec.ofNat 8 w, ctlPort := port, state := 7, gangs := [], context := none, flash := none }))

/-- Firmware switches, resets and temperatures. Each of fwctlGo, fwVerifyDone, fwSwap, powerUp, deviceReset, thermWarn and
thermalReset answers a next state, and which. R477, R485, R487: a switch of the scheduler's firmware starts only while none is
under way, ends in 3 or 4 where the check fails, and takes effect when the calls in service have ended; the doorbells and calls
held since are then taken up in the order in which they came. R8, R393, R486, R490 to R492: every reset leaves the device as R8
says, and power-up goes step by step to READY or to one that fails; a migration's mark in flash makes it LOST at READY; WARN is
set when the junction reaches TWARN, and the limits reset the device. Where it rests on the model's own choice or reading: log
entries 3, 67, 70. -/
def Obligations.FirmwareResetsAndTemperatures : Prop :=
  ((∀ (s : State) (len : BitVec 10), s.dev.ready = true →
    ∃ t, exec (.fwctlGo s.dev.holder len) s = .next t ∧ OnlyDevice s t ∧ t.dev = { s.dev with fw :=
      if s.dev.fw.state = 1 ∨ s.dev.fw.state = 2 then { s.dev.fw with len := len, gobusy := true }
      else if len = 0 then { s.dev.fw with len := 0 } else { s.dev.fw with len := len, state := 1 } }) ∧
  (∀ (s : State) (port : Nat) (len : BitVec 10), port ≠ s.dev.holder → exec (.fwctlGo port len) s = .next s) ∧
  (∀ (s : State) (a b : Bool) (v : BitVec 32), s.dev.fw.state = 1 → (a && b) = false →
    ∃ t, exec (.fwVerifyDone a b v) s = .next t ∧ OnlyDevice s t ∧
      t.dev.fw = { s.dev.fw with state := if a then 4 else 3 } ∧ pfEvents t 3 = pfEvents s 3 + 1) ∧
  (∀ (s : State) (v : BitVec 32), s.dev.fw.state = 1 → ∃ t, exec (.fwVerifyDone true true v) s = .next t ∧ OnlyDevice s t ∧
    t.dev.fw = { s.dev.fw with
      state := 2, next := v, bells := [], held := (s.ctxs.filter (fun e => e.2.calling)).map (fun e => e.1) }) ∧
  (∀ (s : State), s.dev.fw.state = 2 → (∀ k ∈ s.dev.fw.held, (s.ctxAt k).calling = false) →
    ∃ u, exec .fwSwap s = .next (s.dev.fw.bells.foldl State.takeUp u) ∧ OnlyDevice s u ∧ pfEvents u 3 = pfEvents s 3 + 1 ∧
      u.dev.fw = { s.dev.fw with state := 0, version := s.dev.fw.next, held := [], bells := [] }) ∧
  (∀ (s : State) (k : Nat), s.dev.fw.state = 2 → k ∈ s.dev.fw.held → (s.ctxAt k).calling = true → exec .fwSwap s = .next s)) ∧
  ((∀ (s : State), s.dev.mig.flash = none →
    ∃ t, exec .deviceReset s = .next t ∧ Restarted s t ∧ t.worlds = [] ∧ t.dev.ready = true ∧
      t.dev.holder = 0 ∧ t.dev.stage = 5 ∧ t.dev.log = []) ∧
  (∀ (s : State) (w : BitVec 8) (p : BitVec 4) (l : List (Nat × BitVec 16 × BitVec 2)), s.dev.mig.flash = some (w, p, l) →
    ∃ t, exec .deviceReset s = .next t ∧ Restarted s t ∧ t.dev.mig.state = 7 ∧
      t.dev.mig.flash = none ∧ t.dev.mig.notice = some p ∧ (t.world w.toNat).kept = lostEntries l) ∧
  (∀ (s : State), ∃ t, exec (.powerUp .on) s = .next t ∧ t.dev.stage = 0 ∧ t.dev.ready = false ∧ t.dev.fail = false ∧
    t.dev.mig.flash = s.dev.mig.flash ∧ t.ctxs = [] ∧ t.binds = [] ∧ t.gangs = [] ∧ t.worlds = [] ∧
    t.mem = s.mem.filter (fun c => decide (Config.hostBase ≤ c.1))) ∧
  (∀ (s : State), s.dev.ready = false → s.dev.fail = false → s.dev.stage.toNat < 5 →
    exec (.powerUp (.step false)) s = .next { s with dev := { s.dev with stage := s.dev.stage + 1, fail := true } } ∧
    ∃ t, exec (.powerUp (.step true)) s = .next t ∧ t.dev.stage = s.dev.stage + 1 ∧ t.dev.fail = false ∧
      (s.dev.stage ≠ 4 → OnlyDevice s t ∧ t.dev.ready = false ∧ t.dev.mig = s.dev.mig) ∧
      (s.dev.stage = 1 → t.dev.sealKey = Config.randomKey s.dev.draws) ∧
      (s.dev.stage = 4 → t.dev.ready = true ∧ (s.dev.mig.flash = none → t.worlds = s.worlds) ∧
        ∀ w p l, s.dev.mig.flash = some (w, p, l) → t.dev.mig.state = 7 ∧ t.dev.mig.flash = none ∧ t.dev.mig.notice = some p ∧
          (t.world w.toNat).kept = (s.world w.toNat).kept ++ lostEntries l)) ∧
  (∀ (s : State) (ok : Bool), s.dev.ready = true ∨ s.dev.fail = true → exec (.powerUp (.step ok)) s = .next s) ∧
  (∀ (s : State) (tj tout : BitVec 8), ∃ t, exec (.thermWarn tj tout) s = .next t ∧ exec (.thermalReset tj tout) s = .next t ∧
    t.dev.tj = tj ∧ t.dev.tout = tout ∧ (110 ≤ tj.toNat ∨ 65 ≤ tout.toNat → Restarted s t) ∧
    (tj.toNat < 110 → tout.toNat < 65 → OnlyDevice s t ∧
      (s.dev.twarn.toNat ≤ tj.toNat → s.dev.tj.toNat < s.dev.twarn.toNat → t.dev.warn = true ∧ pfEvents t 2 = pfEvents s 2 + 1) ∧
      (tj.toNat < s.dev.twarn.toNat → t.dev.warn = s.dev.warn ∧ pfEvents t 2 = pfEvents s 2))))

/-- R394 to R396, R477: from the write on, no record of a revoked generation of the world acts; the sweep removes them and changes no
outcome; a generation of zero, or one past 64, is not accepted. Where it rests on the model's own choice or reading: log entry 59. -/
def Obligations.RevokedRecordsActAsEmptySlots : Prop :=
  (∀ (s : State) (w : Nat) (gen : BitVec 32), s.dev.ready = true → w ≤ 191 → gen ≠ 0 → (s.world w).g.revoked.length < 64 →
    ∃ t, exec (.hrevokeGen s.dev.holder w gen) s = .next t ∧ OnlyWorld s t w ∧ (t.world w).g.hbusy = true ∧
      (∀ h : Handle, h.world.toNat = w → h.gen = gen → t.live (some h) = none) ∧
      (∀ h : Handle, (h.world.toNat ≠ w ∨ h.gen ≠ gen) → t.live (some h) = s.live (some h))) ∧
  (∀ (s : State) (w : Nat) (gen : BitVec 32), s.dev.ready = true → w ≤ 191 → (gen = 0 ∨ 64 ≤ (s.world w).g.revoked.length) →
    ∃ t, exec (.hrevokeGen s.dev.holder w gen) s = .next t ∧ OnlyWorld s t w ∧
      t.world w = { s.world w with g := { (s.world w).g with hdrop := true } }) ∧
  (∀ (s : State) (w : Nat) (gen : BitVec 32), s.dev.ready = true → w ≤ 191 → (s.world w).g.gmin.toNat < gen.toNat →
    ∃ t, exec (.hrevokeFloor s.dev.holder w gen) s = .next t ∧ OnlyWorld s t w ∧ (t.world w).g.gmin = gen ∧
      (∀ h : Handle, h.world.toNat = w → h.gen.toNat < gen.toNat → t.live (some h) = none) ∧
      (∀ h : Handle, (h.world.toNat ≠ w ∨ gen.toNat ≤ h.gen.toNat) → t.live (some h) = s.live (some h))) ∧
  (∀ (s : State) (w port : Nat) (gen : BitVec 32), port ≠ s.dev.holder ∨ 191 < w →
    exec (.hrevokeGen port w gen) s = .next s ∧ exec (.hrevokeFloor port w gen) s = .next s) ∧
  (∀ (s : State) (w : Nat), (s.world w).g.hbusy = true → ∃ t, exec (.revocationSweepDone w) s = .next t ∧
    (t.world w).g.hbusy = false ∧ t.mem = s.mem ∧ t.binds = s.binds ∧
    (∀ h, t.live h = s.live h) ∧
    ∀ k n, SMap.wf none (s.ctxAt k).ctl.h = true →
      SMap.get none (t.ctxAt k).ctl.h n = s.live (SMap.get none (s.ctxAt k).ctl.h n))

/-- R397 to R399, R401, R402, R406, R435: a rotation goes line by line, without a change of what is stored, and ends with the new key
set current and the old cleared; a world opens with fresh keys and closes with none, its regions zero; the ports that are UP have
the link keys of its EPOCH, and of the next while it rotates. Where it rests on the model's own choice or reading: log entries 23,
58. -/
def Obligations.KeysAreRotatedAndWorldsOpenAndClose : Prop :=
  (∀ (s : State) (w : Nat), s.dev.ready = true → w ≤ 191 →
    ((s.world w).g.rot = false → ∃ t, exec (.krotGo s.dev.holder w) s = .next t ∧ OnlyWorld s t w ∧ (t.world w).g.rot = true ∧
      (t.world w).g.drawn = false ∧ ∀ n, (region t w n).mark = (region t w n).base ∧ (region t w n).base = (region s w n).base ∧
        (region t w n).lim = (region s w n).lim) ∧
    ((s.world w).g.rot = true → ∃ t, exec (.krotGo s.dev.holder w) s = .next t ∧ OnlyWorld s t w ∧
      t.world w = { s.world w with g := { (s.world w).g with kdrop := true } })) ∧
  (∀ (s : State) (w : Nat), (s.world w).g.rot = true → (s.world w).g.drawn = false →
    ∃ t, exec (.keyDrawDone w) s = .next t ∧ t.mem = s.mem ∧ (t.world w).g.drawn = true ∧
      (if (s.world w).g.cur then (t.world w).g.key0 else (t.world w).g.key1) =
        ⟨Config.randomKey s.dev.draws, Config.randomKey (s.dev.draws + 1), Config.randomKey (s.dev.draws + 2)⟩ ∧
      (if (s.world w).g.cur then (t.world w).g.key1 else (t.world w).g.key0) =
        (if (s.world w).g.cur then (s.world w).g.key1 else (s.world w).g.key0) ∧
      ∀ p, (s.port p).st = 4 → SMap.get false (t.port p).newkey w = true ∧
        Keyed (s.port p) (t.port p) s.dev.num.toNat p w ((s.world w).g.epoch + 1) (!SMap.get false (s.port p).keyidx w)) ∧
  (∀ (s : State) (w n : Nat) (r : Region), (s.world w).g.rot = true → (s.world w).g.drawn = true →
    (s.world w).g.rotating = some (n, r) →
    ∃ t, exec (.rotationLine w) s = .next t ∧ (r.mark + 64 < r.lim → (region t w n).mark = r.mark + 64) ∧
      (r.mark + 64 = r.lim → (region t w n).mark = r.lim) ∧ t.ctxs = s.ctxs ∧ t.gangs = s.gangs ∧
      (s.lineOk (r.mark / 64) = true → t.mem = s.mem) ∧
      (s.lineOk (r.mark / 64) = false → t.mem = s.mem.write r.mark 64 0 ∧ (t.world w).g.integV = true ∧
        (t.world w).g.integ = r.mark / 64)) ∧
  (∀ (s : State) (w : Nat), (s.world w).g.rot = true → (s.world w).g.drawn = true → (s.world w).g.rotating = none →
    ∃ t, exec (.rotationLine w) s = .next t ∧ OnlyWorld s t w ∧ (t.world w).g.rot = false ∧
      (t.world w).g.cur = !(s.world w).g.cur ∧ (t.world w).g.epoch = (s.world w).g.epoch + 1 ∧
      (if (s.world w).g.cur then (t.world w).g.key1 else (t.world w).g.key0) = .reset ∧
      (∀ n, (region t w n).mark = (region t w n).lim) ∧
      (if (s.world w).g.cur then (t.world w).g.key0 else (t.world w).g.key1) =
        (if (s.world w).g.cur then (s.world w).g.key0 else (s.world w).g.key1)) ∧
  (∀ (s : State) (w : Nat), s.dev.ready = true → w ≤ 191 → (s.world w).isOpen = false →
    ∃ t, exec (.worldOpen w) s = .next t ∧ t.mem = s.mem ∧ t.ctxs = s.ctxs ∧ (t.world w).isOpen = true ∧
      (t.world w).g.scramble = (Config.randomKey s.dev.draws).setWidth 128 ∧ (t.world w).g.key0 =
        ⟨Config.randomKey (s.dev.draws + 1), Config.randomKey (s.dev.draws + 2), Config.randomKey (s.dev.draws + 3)⟩ ∧
      (t.world w).g.revoked = [] ∧ (t.world w).g.gmin = 1 ∧ (t.world w).g.cur = false ∧
      ∀ p, (s.port p).st = 4 → Keyed (s.port p) (t.port p) s.dev.num.toNat p w 0 (SMap.get false (s.port p).keyidx w)) ∧
  (∀ (s : State) (w : Nat), (s.world w).isOpen = true → s.bound w = false → (∀ l ∈ s.launches, l.world ≠ w) →
    ∃ t, exec (.worldClose w) s = .next t ∧ (t.world w).isOpen = false ∧
      ((s.world w).stopping = true → (s.world w).tdisp ≠ .unlocked → (t.world w).tdisp = .unlocked ∧ t.dev.records = s.dev.records + 1) ∧ (t.world w).x.cache = [] ∧ (t.world w).g.key0 = .reset ∧
      (t.world w).g.key1 = .reset ∧ (t.world w).g.scramble = 0 ∧ (t.world w).g.er = [] ∧
      (∀ v, v ≠ w → t.world v = s.world v) ∧ t.ctxs = s.ctxs ∧
      (∀ p, SMap.get false (t.port p).keyidx w = false ∧ SMap.get false (t.port p).newkey w = false ∧
        ∀ i, i < 4 → SMap.get none (t.port p).lkeys (4 * w + i) = none) ∧
      t.mem = s.mem.filter (fun c => !((s.world w).g.er.any (fun e => decide (e.2.base ≤ c.1 ∧ c.1 < e.2.lim)))))

/-- Register writes, memory windows and the snapshot window. Each of memoryWindowAccess, hartReset, registerWrite, functionReset and
snapshotWindowWrite answers a next state, and which. R6, R7, R251, R389, R390, R398, R408, R409, R436, R441, R474, R476, R479,
R481, R483: what a memory window reaches and refuses, a hart's accesses (the numbers of the harts are the model's, log 80) and its
reset, and writes to the registers without behaviour of their own; a write that a function does not reach, that is not aligned or
that would change a frozen register changes nothing but what records it; HBM whose owner a region write changes is zero, and no
other byte changes; a read gives a register's fields, and zero for one that does not exist, that the function does not reach, or
that is write-only. R376, R377, R384, R385, R390, R474: through the snapshot window of a world's function a word of the image of
strand SNAPSEL of the gang last halted is written, and read back, where the world's debug permission is set; instruction memory,
command store and counters, which stay in the core, change there too; the device's own words do not change; a refused write
changes nothing but the log, and a refused read gives all ones. Where it rests on the model's own choice or reading: log entries
50, 65, 66, 72, 73, 80, 85, 103. -/
def Obligations.RegistersWindowsAndImagesAreWritten : Prop :=
  ((∀ (s : State) (port off n v : Nat), s.dev.ready = true → port < 2 → 0 < n → off + n ≤ Config.hbmReserved →
    (∀ l ∈ linesOf off n, s.regionWorld (64 * l) = none) →
    (∃ t, exec (.memoryWindowAccess port none off n (some v)) s = .next t ∧ t.mem = writes (cutRuns [(off, n)] v) s.mem ∧
      t.ctxs = s.ctxs) ∧
    (s.badRun [(off, n)] = none → exec (.memoryWindowAccess port none off n none) s =
      .next { s with dev := { s.dev with hostRead := readRuns s.mem [(off, n)] } })) ∧
  (∀ (s : State) (port off n l : Nat), s.dev.ready = true → port < 2 → 0 < n → l ∈ linesOf off n → s.regionWorld (64 * l) ≠ none →
    (∃ t, exec (.memoryWindowAccess port none off n none) s = .next t ∧ t.mem = s.mem ∧ t.dev.hostRead = 2 ^ (8 * n) - 1) ∧
    ∀ v, ∃ t, exec (.memoryWindowAccess port none off n (some v)) s = .next t ∧ t.mem = s.mem) ∧
  (∀ (s : State) (port off n w v : Nat) (l : List (Tlb × Nat × Nat)), s.dev.ready = true → port < 2 → 0 < n →
    (s.world w).tdisp ≠ .error → off + n ≤ 2 ^ (s.world w).mwlog → (s.heldIn 1024).length + l.length ≤ 4096 →
    s.pagesOf w ((s.world w).mwva + off) n = .ok l →
    (∀ e ∈ l, e.1.host = false ∧ e.1.wb = false ∧ e.1.flat e.2.1 < Config.hostBase ∧
      s.hbmGrant (some w) (e.1.flat e.2.1) e.2.2 = true) →
    (∃ t, exec (.memoryWindowAccess port (some w) off n (some v)) s = .next t ∧
      t.mem = writes (cutRuns (l.map (fun e => (e.1.flat e.2.1, e.2.2))) v) s.mem) ∧
    (s.badRun (l.map (fun e => (e.1.flat e.2.1, e.2.2))) = none →
      ∃ t, exec (.memoryWindowAccess port (some w) off n none) s = .next t ∧ t.mem = s.mem ∧
        t.dev = { s.dev with hostRead := readRuns s.mem (l.map (fun e => (e.1.flat e.2.1, e.2.2))) })) ∧
  (∀ (s : State) (port off n w v : Nat), s.dev.ready = true → port < 2 → 0 < n → (s.world w).tdisp = .error →
    exec (.memoryWindowAccess port (some w) off n none) s = .next { s with dev := { s.dev with hostRead := 2 ^ (8 * n) - 1 } } ∧
    exec (.memoryWindowAccess port (some w) off n (some v)) s = .next s) ∧
  (∀ (s : State) (i a n : Nat) (vf : Option Nat) (wr : Option Nat), s.dev.ready = true → i < 16 → 0 < n →
    let h := SMap.get Hart.reset s.dev.harts i
    (h.pfNow = true → a + n ≤ 2 ^ 57 →
      exec (.memoryWindowAccess (2 + i) vf a n wr) s = exec (.memoryWindowAccess 0 none a n wr) s) ∧
    (h.pfNow = false → a < 0x10000 → exec (.memoryWindowAccess (2 + i) vf (2 ^ 57 + a) n none) s = .next { s with dev := { s.dev with
      hostRead := (s.readRegister (some h.worldNow.toNat) (.world h.worldNow.toNat) a).toNat % 2 ^ (8 * n) } }) ∧
    ∀ (l : List (Tlb × Nat × Nat)), h.pfNow = false → a + n ≤ 2 ^ 57 → (s.heldIn 1024).length + l.length ≤ 4096 →
      s.pagesOf h.worldNow.toNat a n = .ok l →
      (∀ e ∈ l, e.1.host = false ∧ e.1.wb = false ∧ s.hbmGrant (some h.worldNow.toNat) (e.1.flat e.2.1) e.2.2 = true) →
      ∀ v, wr = some v → ∃ t, exec (.memoryWindowAccess (2 + i) vf a n wr) s = .next t ∧
        t.mem = writes (cutRuns (l.map (fun e => (e.1.flat e.2.1, e.2.2))) v) s.mem) ∧
  (∀ (s : State) (i : Nat) (v : Word), s.dev.ready = true → i < 16 →
    let h := SMap.get Hart.reset s.dev.harts i
    (h.pf = true ∨ (s.world h.world.toNat).tdisp = .unlocked → ∃ t, exec (.hartReset i v) s = .next t ∧ OnlyDevice s t ∧
      SMap.get Hart.reset t.dev.harts i = ⟨v.getLsbD 8, v.setWidth 8, v.getLsbD 8, v.setWidth 8, h.resets + 1⟩) ∧
    (h.pf = false → (s.world h.world.toNat).tdisp ≠ .unlocked → ∃ t, exec (.hartReset i v) s = .next t ∧
      SMap.get Hart.reset t.dev.harts i = h ∧ (t.world h.world.toNat).froze = true ∧
      (t.world h.world.toNat).tdisp = .error)) ∧
  (∀ (s : State) (port : Nat) (vf : Option Nat) (page : RegPage) (off : Nat) (v : Word),
    (s.dev.ready = false ∨ off % 8 ≠ 0 ∨ (∃ n, vf = some n ∧ page ≠ .world n) ∨ s.mayWriteVia port vf = false) →
    exec (.registerWrite port vf page off v) s = .next s) ∧
  (∀ (s : State) (port : Nat) (v : Word), s.dev.ready = true → port < 2 → (∀ e ∈ s.ports, e.2.st = 0) →
    exec (.registerWrite port none .dev 0x08 v) s = .next { s with dev := { s.dev with num := v.setWidth 9 } }) ∧
  (∀ (s : State) (port : Nat) (v : Word), s.dev.ready = true → port < 2 →
    exec (.registerWrite port none .dev 0x20 v) s = .next (if v.toNat % 2 ^ 32 < 120000 then s
      else { s with dev := { s.dev with lterm := v.setWidth 32 } })) ∧
  (∀ (s : State) (port w : Nat) (vf : Option Nat) (v : Word), Reaches s port vf w →
    ∃ t, exec (.registerWrite port vf (.world w) 0x400 v) s = .next t ∧ OnlyWorld s t w ∧ t.world w = { s.world w with
      x := { (s.world w).x with root := v.toNat % 2 ^ 52 / 2 ^ 13 * 2 ^ 13, en := v.getLsbD 0 } }) ∧
  (∀ (s : State) (port w k : Nat) (vf : Option Nat) (v : Word), Reaches s port vf w → k < 4 →
    ∃ t, exec (.registerWrite port vf (.world w) (0x20 * k) v) s = .next t ∧ OnlyWorld s t w ∧
      SMap.get Subq.reset (t.world w).sq k = { SMap.get Subq.reset (s.world w).sq k with
        va := v.toNat % 2 ^ 57 / 2 ^ 12 * 2 ^ 12, log := v.toNat % 32 }) ∧
  (∀ (s : State) (port w : Nat) (vf : Option Nat) (v : Word), Reaches s port vf w →
    (vf = none → (s.world w).tdisp = .unlocked → s.bound w = false →
      ∃ t, exec (.registerWrite port vf (.world w) 0x500 v) s = .next t ∧ OnlyWorld s t w ∧
        t.world w = { s.world w with g := { (s.world w).g with dbg := v.getLsbD 1, prot := v.getLsbD 0 } }) ∧
    (vf = none → (s.world w).tdisp ≠ .unlocked →
      ∃ t, exec (.registerWrite port vf (.world w) 0x500 v) s = .next t ∧ (t.world w).g.dbg = (s.world w).g.dbg ∧
        (t.world w).g.prot = (s.world w).g.prot ∧ (t.world w).froze = true ∧ (t.world w).tdisp = .error) ∧
    (vf = some w → ∃ t, exec (.registerWrite port vf (.world w) 0x500 v) s = .next t ∧ OnlyDevice s t)) ∧
  (∀ (s : State) (port w : Nat) (vf : Option Nat) (v : Word), Reaches s port vf w →
    let n := if vf = none then v.toNat % 2 ^ 6 else (s.world w).mwnext
    let a := v.toNat % 2 ^ 57 / 2 ^ 20 * 2 ^ 20
    ((s.world w).tdisp = .unlocked → exec (.registerWrite port vf (.world w) 0x118 v) s = .next (
      if 20 ≤ n ∧ n ≤ 40 ∧ a % 2 ^ n = 0 then s.setWorld w { s.world w with mwva := a, mwnext := n } else s)) ∧
    ((s.world w).tdisp ≠ .unlocked → ∃ t, exec (.registerWrite port vf (.world w) 0x118 v) s = .next t ∧
      (t.world w).mwva = (s.world w).mwva ∧ (t.world w).mwnext = (s.world w).mwnext ∧ (t.world w).froze = true ∧
      (t.world w).tdisp = .error)) ∧
  (∀ (s : State) (port p b w : Nat) (v : Word), s.dev.ready = true → port < 2 → p < 12 → b < 64 →
    (SMap.get 0xFF (s.port p).own b).toNat = w → w ≤ 191 → (s.world w).tdisp ≠ .unlocked →
    ∃ t, exec (.registerWrite port none (.briwen p) (0x40 + b / 8 * 8) v) s = .next t ∧
      SMap.get 0xFF (t.port p).own b = SMap.get 0xFF (s.port p).own b ∧ (t.world w).froze = true ∧ (t.world w).tdisp = .error) ∧
  (∀ (s : State) (port p : Nat) (v : Word), s.dev.ready = true → port < 2 → p < 12 → v.toNat % 2 ^ 21 % 64 = 0 →
    1024 ≤ v.toNat % 2 ^ 21 → v.toNat % 2 ^ 21 ≤ 1048576 →
    ∃ t, exec (.registerWrite port none (.briwen p) 0x18 v) s = .next t ∧ t.mem = s.mem ∧
      t.port p = { s.port p with pernext := v.toNat % 2 ^ 21 }) ∧
  (∀ (s : State) (port q : Nat) (v : Word), s.dev.ready = true → port < 2 → q < 4 → 12000 ≤ v.toNat % 2 ^ 32 →
    ∃ t, exec (.registerWrite port none (.campus q) 0x10 v) s = .next t ∧ t.mem = s.mem ∧
      t.campusPort (BitVec.ofNat 2 q) = { s.campusPort (BitVec.ofNat 2 q) with rto := v.setWidth 32 }) ∧
  (∀ (s : State) (port w n : Nat) (v : Word), Reaches s port none w → (s.world w).tdisp = .unlocked → n < 16 →
    ∀ off, off = 0x600 + 24 * n ∨ off = 0x608 + 24 * n →
    ∃ t, exec (.registerWrite port none (.world w) off v) s = .next t ∧
      (s.bound w = true → OnlyWorld s t w ∧ t.world w = { s.world w with g := { (s.world w).g with erdrop := true } }) ∧
      ∀ a, a < Config.hbmTop → (t.regionWorld a ≠ s.regionWorld a → t.mem.read a 1 = 0) ∧
        (t.regionWorld a = s.regionWorld a → t.mem.read a 1 = s.mem.read a 1)) ∧
  (∀ (s : State) (vf : Option Nat) (page : RegPage) (off : Nat),
    (off % 8 ≠ 0 ∨ (∃ n, vf = some n ∧ page ≠ .world n) ∨ (∃ w, page = .world w ∧ 191 < w) ∨
      (s.dev.ready = false ∧ page ≠ .dev)) → s.readRegister vf page off = 0) ∧
  (∀ (s : State) (w : Nat) (vf : Option Nat), s.dev.ready = true → w ≤ 191 → (vf = none ∨ vf = some w) →
    s.readRegister vf (.world w) 0x418 = (s.world w).x.fva.setWidth 64 ∧
    s.readRegister vf (.world w) 0x410 =
      word ((if (s.world w).x.drop then 2 else 0) + (if (s.world w).x.inv.isSome then 1 else 0)) ∧
    s.readRegister vf (.world w) 0x508 = 0) ∧
  (∀ (s : State) (w : Nat), ∃ t, exec (.functionReset w) s = .next t ∧ OnlyWorld s t w ∧
    t.world w = { s.world w with mwlog := (s.world w).mwnext })) ∧
  ((∀ (s : State) (w k : Nat), s.shown w = some k → ∃ g, s.gang (s.world w).dbgGang.toNat = some g ∧ g.halted = true ∧ g.world = w ∧
    (s.world w).g.dbg = true ∧ k ∈ g.keys ∧ (s.bindAt k).strand = (s.world w).snapsel ∧ (s.ctxAt k).phase = .out) ∧
  (∀ (s : State) (off : Nat) (v : Word),
    exec (.snapshotWindowWrite off v) s = .next (s.snapshotWrite s.bind.world.toNat off v) ∧
    ∀ port w, s.dev.ready = true → port < 2 → w ≤ 191 → off % 8 = 0 → off < 2 ^ 22 →
      exec (.registerWrite port (some w) (.world w) (0x400000 + off) v) s = .next (s.snapshotWrite w off v) ∧
      (s.readVf w (0x400000 + off)).2 = s.snapshotRead w off) ∧
  (∀ (s : State) (w k off : Nat) (v : Word), s.shown w = some k → off % 8 = 0 → s.saveBase k + 2 ^ 22 ≤ Config.imemBase →
    let t := s.snapshotWrite w off v
    (0x40 ≤ off → off < 2 ^ 22 → t.snapshotRead w off = v ∧
      ∀ o, o % 8 = 0 → o ≠ off → o ≠ 0x38 → t.snapshotRead w o = s.snapshotRead w o) ∧
    (0x40 ≤ off → off < 0x300000 → ¬(0x3000 ≤ off ∧ off < 0x3100) → t = { s with mem := t.mem }) ∧
    (0x300000 ≤ off → off < 0x340000 →
      t.mem.read (Config.imemBase + k * 2 ^ 18 + (off - 0x300000)) 8 = v.toNat ∧ t.ctxs = s.ctxs) ∧
    (0x340000 ≤ off → off < 0x350000 →
      t.mem.read (Config.cmdBase + k * 2 ^ 16 + (off - 0x340000)) 8 = v.toNat ∧ t.ctxs = s.ctxs) ∧
    (∀ n : BitVec 6, n.toNat % 2 = 0 → off = 0x3000 + 4 * n.toNat →
      (t.ctxAt k).ctl.getE n = v.setWidth 32 ∧ (t.ctxAt k).ctl.getE (n + 1) = BitVec.ofNat 32 (v.toNat / 2 ^ 32) ∧
      (∀ j, j ≠ k → t.ctxAt j = s.ctxAt j)) ∧
    (off < 0x28 ∨ off = 0x38 → t = s)) ∧
  (∀ (s : State) (w off : Nat) (v : Word), s.shown w = none → off % 8 = 0 → off < 2 ^ 22 →
    s.snapshotRead w off = 0xFFFFFFFFFFFFFFFF ∧ s.snapshotWrite w off v = s.logged logRefusal (word off) ∧
    s.snapshotAccess w off = (s.logged logRefusal (word off), 0xFFFFFFFFFFFFFFFF)))

namespace Sys2Proof.Claim

/-! ## Words, reset, stops and steps -/

/-- The trap with which a strand stops: a trap inside a handler is DOUBLETRAP (R34). -/
def stopCode (s : State) (code : BitVec 8) : BitVec 8 := if s.ctx.csr.intrap then tDOUBLETRAP else code

/-- A context whose gang has stopped: it fetches nothing, and its queued commands, buffered pump commands and parked writes are
discarded (R223). -/
def Halted (c : Ctx) : Prop := c.ctl.fetch = .stopped ∧ c.ctl.hold = .none ∧ c.eng = [] ∧ c.pump.buf = [] ∧ c.rq = []

/-- The state in which fetch of a context is next. -/
def fetching (s : State) (r : List Move) (k : Nat) : State := { s with agenda := r, cur := k }

end Sys2Proof.Claim

/-- R20, R21, R48 to R61: what the encoder of R48 to R61 gives for a well-formed instruction, the decoder reads back, whatever lanes
follow. -/
def Obligations.DecodeEncodeRoundTrip : Prop :=
  ∀ (i : Instr) (rest : List Lane), i.wf = true → encode i ≠ [] → decodeLanes (encode i ++ rest) = .ok i (encode i).length

/-- R22, R48, R50, R52, R54, R56, R58, R60, R64: words written out from the encodings of the formats decode to the instructions they
stand for; a bit in a zero field, an OP without an instruction and stream 7 are refused with their reasons. -/
def Obligations.DecodeWordsAreRight : Prop :=
  decodeTableWord 32 0x00030880 = some (.add 3 1 2) ∧
  decodeTableWord 32 0x26E0C082 = some (.vor ⟨.v 3, .v 1, .v 2, .v 0, 0, 0, none, false⟩) ∧
  decodeTableWord 32 0x44A24000 = some (.mswap 1 2 0) ∧
  decodeTableWord 32 0x620A0000 = some (.pcancel 5 0) ∧
  decodeTableWord 32 0x80E43100 = some (.gwait 2 3 4 0) ∧
  decodeTableWord 32 0xA0411000 = some (.sigseg 1 2 0) ∧
  decodeTableWord 32 0xC2A60140 = some (.xfence 3 5 0) ∧
  decodeLanes [0x00030881#32] = .bad 3 0 ∧ decodeLanes [0xCFE00000#32] = .bad 1 0 ∧ decodeLanes [0xE0000001#32] = .bad 5 0 ∧
  decodeLanes [0xE0000000#32] = .filler

/-- Memory keeps its canonical form in every step: cells at strictly rising addresses and none that holds what an unlisted address
reads as. Where it rests on the model's own choice or reading: log entry 3. -/
def Obligations.StepKeepsMemoryCanonical : Prop :=
  ∀ (s t : State), MemCanonical s → step s = .next t → MemCanonical t

/-- R8, R18, R136, R185, R219, R339, R341, R394, R409, R436, R441, R472, R476, R477, R479, R481: the values that the spec gives for
reset and for the start of a strand. -/
def Obligations.ResetHoldsTheGivenValues : Prop :=
  MemCanonical State.reset ∧ State.reset.dcc = 0 ∧ State.reset.dev.ready = true ∧ State.reset.dev.stage = 5 ∧
  State.reset.dev.fail = false ∧ State.reset.dev.holder = 0 ∧ State.reset.dev.lterm = 1200000000 ∧ State.reset.dev.twarn = 95 ∧
  State.reset.dev.mig.state = 0 ∧ State.reset.dev.fw.state = 0 ∧ (∀ k, State.reset.bindAt k = Bind.reset) ∧
  (∀ k, (State.reset.ctxAt k).ctl.getP 0 = true ∧ (∀ p : BitVec 3, p ≠ 0 → (State.reset.ctxAt k).ctl.getP p = false) ∧
    (∀ r, (State.reset.ctxAt k).ctl.getS r = 0) ∧ (∀ e, (State.reset.ctxAt k).ctl.getE e = 0) ∧
    (State.reset.ctxAt k).csr.qstall = 0x00100000 ∧ (State.reset.ctxAt k).csr.hstall = 0x00100000 ∧
    (State.reset.ctxAt k).csr.evstall = 0 ∧ (State.reset.ctxAt k).mat.tm = 128 ∧ (State.reset.ctxAt k).mat.tk = 128 ∧
    (State.reset.ctxAt k).mat.tn = 128 ∧ (State.reset.ctxAt k).mat.mode = .rne ∧ (∀ w, (State.reset.ctxAt k).fab.allowance w = 256)) ∧
  (∀ w, (State.reset.world w).g.gmin = 1 ∧ (State.reset.world w).g.prot = true ∧ (State.reset.world w).g.dbg = false ∧
    (State.reset.world w).tdisp = .unlocked ∧ (State.reset.world w).x.en = false ∧ (State.reset.world w).phase = true) ∧
  (∀ p, (State.reset.port p).st = 0 ∧ (State.reset.port p).per = 4096 ∧ (State.reset.port p).thresh = 192 ∧
    ∀ b, SMap.get 0xFF (State.reset.port p).own b = 0xFF) ∧
  (∀ q, (State.reset.campusPort q).st = 0 ∧ (State.reset.campusPort q).rto = 3600000)

/-- R34, R223: where a control instruction traps and no handler can be entered, its strand stops, and its whole gang with it; the gang
records the first such trap and its strand; memory and other gangs' contexts do not change. Where it rests on the model's own
choice or reading: log entries 74, 75. -/
def Obligations.TrapsWithoutAHandlerStopTheGang : Prop :=
  ∀ (i : Instr) (s : State) (code : BitVec 8) (ti : Word) (g : Gang), controlFault s i = some (code, ti) →
    (s.ctx.csr.intrap = true ∨ s.ctx.csr.tvecEn = false) → s.bind.valid = true → s.gang s.bind.gang.toNat = some g →
    g.trap = none →
    ∃ t, exec i s = .next t ∧ Halted t.ctx ∧ (∀ k ∈ s.keysOfGang s.bind.gang.toNat, Halted (t.ctxAt k)) ∧
      t.gang s.bind.gang.toNat = some { g with trap := some (stopCode s code, s.bind.strand.toNat) } ∧ t.mem = s.mem ∧
      ∀ k, k ≠ s.cur → k ∉ s.keysOfGang s.bind.gang.toNat → t.ctxAt k = s.ctxAt k

/-- R20, R23, R25, R27, R31, R95, R129: a step runs what the lanes at the fetch position decode to: a control instruction is executed
with the next place set behind its lanes, an engine instruction is delivered; an engine issues the instruction at its head, and
raises ILLEGAL of an entry whose lanes hold none (R11; the model's choice of its TINFO, log 50); an event of the agenda is
executed; with no agenda one is chosen, which ends with the tick of the clock, and each part of it is planned when its turn comes.
Where it rests on the model's own choice or reading: log entries 1, 5, 50. -/
def Obligations.StepRunsTheDecodedInstruction : Prop :=
  (∀ (s : State) (r : List Move) (k n : Nat) (i : Instr) (h : Handle), s.agenda = .fetch k :: r →
    (fetching s r k).canFetch = true → (fetching s r k).ctx.lp.owed = 0 → (fetching s r k).slot 0 = some h →
    (fetching s r k).ctx.ctl.line < h.len.toNat → decodeLanes (fetching s r k).lanesHere = .ok i n →
    (engineOf i = none → step s = exec i ((fetching s r k).stepPast n)) ∧
    ((engineOf i).isSome = true →
      step s = exec (.deliverEngineInstruction ((fetching s r k).lanesHere.take n)) ((fetching s r k).stepPast n))) ∧
  (∀ (s : State) (n : Nat),
    (s.stepPast n).ctx.ctl.nline = (if s.ctx.ctl.lane + n < 8 then s.ctx.ctl.line else s.ctx.ctl.line + 32) ∧
    (s.stepPast n).ctx.ctl.nlane = (if s.ctx.ctl.lane + n < 8 then s.ctx.ctl.lane + n else 0) ∧
    (s.stepPast n).ctx.ctl.line = s.ctx.ctl.line ∧ (s.stepPast n).mem = s.mem) ∧
  (∀ (s : State) (r : List Move) (k : Nat) (e : Engine) (c : Cap) (b : Bool), s.agenda = .issue k e :: r → e ≠ .fabric →
    ((fetching s r k).eng e).head = some (c, b) → (fetching s r k).mayIssue e c = true →
    (engineOf c.instr = some e → step s = exec c.instr { fetching s r k with iss := c }) ∧
    (engineOf c.instr ≠ some e →
      step s = .next (({ fetching s r k with iss := c } : State).freeze e tILLEGAL (illegalInfo c)))) ∧
  (∀ (s : State) (r : List Move) (k : Nat) (i : Instr), s.agenda = .event k i :: r → step s = exec i (fetching s r k)) ∧
  (∀ (s : State) (r : List Move) (k : Nat) (a : Auto), s.agenda = .auto k a :: r → a ≠ .migStep →
    ∃ i, step s = exec i (fetching s r k)) ∧
  (∀ (s : State) (r : List Move) (k : Nat), s.agenda = .auto k .migStep :: r → step s = .next (fetching s r k).migStep) ∧
  (∀ (s : State) (r : List Move) (n : Nat), s.agenda = .plan n :: r →
    step s = .next { s with agenda := ({ s with agenda := r } : State).planned n ++ r }) ∧
  (∀ (s : State), s.agenda = [] → ∃ l, step s = .next { s with agenda := l ++ [.auto 0 .arithmeticClockTick] })
end

