-- ==== Sys2Proof/Laws/Maps.lean ====
section
/-! SUPPORT. What sparse maps and memory read as after they are changed, and that memory keeps its canonical form. -/

namespace Sys2Proof.Machine

/-! ## Maps -/

@[simp] theorem SMap.get_nil {α : Type} (d : α) (k : Nat) : SMap.get d [] k = d := rfl

theorem SMap.get_erase {α : Type} (d : α) (m : SMap α) (k j : Nat) :
    SMap.get d (SMap.erase m k) j = if j = k then d else SMap.get d m j := by
  induction m with
  | nil => simp [SMap.erase, SMap.get]
  | cons e m ih =>
    obtain ⟨a, x⟩ := e
    simp only [SMap.erase] at ih ⊢
    by_cases ha : a = k
    · subst ha
      by_cases hj : j = a
      · simp_all
      · have : ¬ a = j := fun h => hj h.symm
        simp_all [SMap.get]
    · by_cases hj : a = j
      · subst hj; simp_all [SMap.get]
      · simp_all [SMap.get]

theorem SMap.get_insert {α : Type} (d : α) (m : SMap α) (k j : Nat) (v : α) (h : SMap.get d m k = d ∨ j ≠ k)
    (hm : ∀ e ∈ m, e.1 ≠ k) : SMap.get d (SMap.insert m k v) j = if j = k then v else SMap.get d m j := by
  induction m with
  | nil =>
    by_cases hj : j = k
    · simp [SMap.insert, SMap.get, hj]
    · have : ¬ k = j := fun h => hj h.symm
      simp [SMap.insert, SMap.get, hj, this]
  | cons e m ih =>
    obtain ⟨a, x⟩ := e
    have ha : a ≠ k := hm (a, x) (by simp)
    have hm' : ∀ e ∈ m, e.1 ≠ k := fun e he => hm e (by simp [he])
    have h' : SMap.get d m k = d ∨ j ≠ k := by
      rcases h with h | h
      · left; simpa [SMap.get, ha] using h
      · exact .inr h
    simp only [SMap.insert]
    split
    · by_cases hj : j = k
      · simp [SMap.get, hj]
      · have : ¬ k = j := fun h => hj h.symm
        simp [SMap.get, hj, this]
    · by_cases haj : a = j
      · subst haj; simp [SMap.get, ha]
      · simp [SMap.get, haj, ih h' hm']

/-- Reading a map after setting a key. -/
theorem SMap.get_set {α : Type} [DecidableEq α] (d : α) (m : SMap α) (k j : Nat) (v : α) :
    SMap.get d (SMap.set d m k v) j = if j = k then v else SMap.get d m j := by
  unfold SMap.set
  split
  · next h => rw [SMap.get_erase]; simp [h]
  · rw [SMap.get_insert]
    · by_cases hj : j = k <;> simp [hj, SMap.get_erase]
    · left; simp [SMap.get_erase]
    · intro e he; simp [SMap.erase] at he; exact he.2

@[simp] theorem SMap.get_set_self {α : Type} [DecidableEq α] (d : α) (m : SMap α) (k : Nat) (v : α) :
    SMap.get d (SMap.set d m k v) k = v := by simp [SMap.get_set]

theorem SMap.get_set_ne {α : Type} [DecidableEq α] (d : α) (m : SMap α) (k j : Nat) (v : α) (h : j ≠ k) :
    SMap.get d (SMap.set d m k v) j = SMap.get d m j := by simp [SMap.get_set, h]

theorem SMap.wf_iff {α : Type} [DecidableEq α] (d : α) (m : SMap α) :
    SMap.wf d m = true ↔ m.Pairwise (fun a b => a.1 < b.1) ∧ ∀ e ∈ m, e.2 ≠ d := by
  simp [SMap.wf]

theorem SMap.mem_insert {α : Type} (m : SMap α) (k : Nat) (v : α) (e : Nat × α) :
    e ∈ SMap.insert m k v ↔ e = (k, v) ∨ e ∈ m := by
  induction m with
  | nil => simp [SMap.insert]
  | cons x m ih =>
    obtain ⟨a, b⟩ := x
    rw [SMap.insert]
    split
    · simp
    · simp only [List.mem_cons, ih]; tauto

theorem SMap.pairwise_insert {α : Type} (m : SMap α) (k : Nat) (v : α) (h : m.Pairwise (fun a b => a.1 < b.1))
    (hk : ∀ e ∈ m, e.1 ≠ k) : (SMap.insert m k v).Pairwise (fun a b => a.1 < b.1) := by
  induction m with
  | nil => simp [SMap.insert]
  | cons x m ih =>
    obtain ⟨a, b⟩ := x
    obtain ⟨h1, h2⟩ := List.pairwise_cons.1 h
    rw [SMap.insert]
    split
    · next hlt =>
      refine List.pairwise_cons.2 ⟨fun e he => ?_, h⟩
      rcases List.mem_cons.1 he with rfl | he
      · exact hlt
      · exact Nat.lt_trans hlt (h1 e he)
    · next hge =>
      refine List.pairwise_cons.2 ⟨fun e he => ?_, ih h2 (fun e he => hk e (List.mem_cons_of_mem _ he))⟩
      rcases (SMap.mem_insert m k v e).1 he with rfl | he
      · have := hk (a, b) (List.mem_cons_self ..)
        simp only at this ⊢; omega
      · exact h1 e he

/-- Setting a key keeps the canonical form. -/
theorem SMap.wf_set {α : Type} [DecidableEq α] (d : α) (m : SMap α) (k : Nat) (v : α) (h : SMap.wf d m = true) :
    SMap.wf d (SMap.set d m k v) = true := by
  rw [SMap.wf_iff] at h ⊢
  have he : (SMap.erase m k).Pairwise (fun a b => a.1 < b.1) := h.1.filter _
  have hd : ∀ e ∈ SMap.erase m k, e.2 ≠ d ∧ e.1 ≠ k := fun e he => by
    have := List.mem_filter.1 he
    exact ⟨h.2 e this.1, by simpa using this.2⟩
  unfold SMap.set
  split
  · exact ⟨he, fun e h => (hd e h).1⟩
  · next hv =>
    refine ⟨SMap.pairwise_insert _ k v he (fun e h => (hd e h).2), fun e h => ?_⟩
    rcases (SMap.mem_insert _ k v e).1 h with rfl | h
    · exact hv
    · exact (hd e h).1

/-- The last value set at a key is the one that stays. -/
theorem SMap.get_set_set {α : Type} [DecidableEq α] (d : α) (m : SMap α) (k j : Nat) (v w : α) :
    SMap.get d (SMap.set d (SMap.set d m k v) k w) j = SMap.get d (SMap.set d m k w) j := by
  simp only [SMap.get_set]; split <;> rfl

/-! ## Memory -/

theorem Mem.wf_iff (m : Mem) :
    Mem.wf m = true ↔ m.Pairwise (fun a b => a.1 < b.1) ∧ ∀ c ∈ m, c.2 ≠ 0 := by
  simp [Mem.wf]

@[simp] theorem Mem.wf_nil : Mem.wf [] = true := rfl

theorem Mem.mem_cells {a n v : Nat} {c : Host.Cell} (h : c ∈ Mem.cells a n v) : a ≤ c.1 ∧ c.1 < a + n ∧ c.2 ≠ 0 := by
  induction n generalizing a v with
  | zero => simp [Mem.cells] at h
  | succ n ih =>
    simp only [Mem.cells] at h
    split at h
    · simp at h
    · split at h
      · obtain ⟨h1, h2, h3⟩ := ih h; exact ⟨by omega, by omega, h3⟩
      · rcases List.mem_cons.1 h with rfl | h
        · exact ⟨by simp, by simp, by assumption⟩
        · obtain ⟨h1, h2, h3⟩ := ih h; exact ⟨by omega, by omega, h3⟩

theorem Mem.pairwise_cells (a n v : Nat) : (Mem.cells a n v).Pairwise (fun a b => a.1 < b.1) := by
  induction n generalizing a v with
  | zero => simp [Mem.cells]
  | succ n ih =>
    simp only [Mem.cells]
    split
    · simp
    · split
      · exact ih _ _
      · refine List.pairwise_cons.2 ⟨fun c hc => ?_, ih _ _⟩
        have := (Mem.mem_cells hc).1
        simp; omega

/-- A write keeps the canonical form. -/
theorem Mem.wf_write (m : Mem) (a n v : Nat) (h : Mem.wf m = true) : Mem.wf (Mem.write m a n v) = true := by
  rw [Mem.wf_iff] at h ⊢
  obtain ⟨hp, hz⟩ := h
  unfold Mem.write
  refine ⟨?_, ?_⟩
  · refine List.pairwise_append.2 ⟨List.pairwise_append.2 ⟨hp.filter _, Mem.pairwise_cells _ _ _, ?_⟩, hp.filter _, ?_⟩
    · intro x hx y hy
      have h1 := (List.mem_filter.1 hx).2
      have h2 := (Mem.mem_cells hy).1
      simp at h1; omega
    · intro x hx y hy
      have h2 := (List.mem_filter.1 hy).2
      simp at h2
      rcases List.mem_append.1 hx with hx | hx
      · have h1 := (List.mem_filter.1 hx).2; simp at h1; omega
      · have := (Mem.mem_cells hx).2.1; omega
  · intro c hc
    rcases List.mem_append.1 hc with hc | hc
    · rcases List.mem_append.1 hc with hc | hc
      · exact hz c (List.mem_filter.1 hc).1
      · exact (Mem.mem_cells hc).2.2
    · exact hz c (List.mem_filter.1 hc).1

/-- Taking cells out keeps the canonical form. -/
theorem Mem.wf_filter (m : Mem) (p : Host.Cell → Bool) (h : Mem.wf m = true) : Mem.wf (m.filter p) = true := by
  rw [Mem.wf_iff] at h ⊢
  exact ⟨h.1.filter _, fun c hc => h.2 c (List.mem_filter.1 hc).1⟩

theorem Mem.read_append (m l : Mem) (a n : Nat) : Mem.read (m ++ l) a n = Mem.read m a n + Mem.read l a n := by
  induction m with
  | nil => simp [Mem.read]
  | cons e m ih => obtain ⟨x, b⟩ := e; simp [Mem.read, ih, Nat.add_assoc]

theorem Mem.read_outside (m : Mem) (a n : Nat) (h : ∀ c ∈ m, c.1 < a ∨ a + n ≤ c.1) : Mem.read m a n = 0 := by
  induction m with
  | nil => rfl
  | cons e m ih =>
    obtain ⟨x, b⟩ := e
    have hx := h (x, b) (by simp)
    have : ¬ (a ≤ x ∧ x < a + n) := by simp at hx; omega
    simp only [Mem.read, if_neg this, Nat.zero_add]
    exact ih (fun c hc => h c (by simp [hc]))

theorem Mem.read_filter (m : Mem) (p : Host.Cell → Bool) (a n : Nat)
    (h : ∀ c : Host.Cell, a ≤ c.1 → c.1 < a + n → p c = true) : Mem.read (m.filter p) a n = Mem.read m a n := by
  induction m with
  | nil => rfl
  | cons e m ih =>
    obtain ⟨x, b⟩ := e
    by_cases hp : p (x, b) = true
    · simp [hp, Mem.read, ih]
    · have : ¬ (a ≤ x ∧ x < a + n) := fun hx => hp (h (x, b) hx.1 hx.2)
      simp [hp, Mem.read, ih, this]

/-- A write leaves every byte outside it alone. -/
theorem Mem.read_write_ne (m : Mem) (a n v b k : Nat) (h : b + k ≤ a ∨ a + n ≤ b) :
    Mem.read (Mem.write m a n v) b k = Mem.read m b k := by
  unfold Mem.write
  rw [Mem.read_append, Mem.read_append]
  have hc : Mem.read (Mem.cells a n v) b k = 0 :=
    Mem.read_outside _ _ _ (fun c hc => by have := Mem.mem_cells hc; omega)
  rw [hc]
  have below : ∀ c ∈ m.filter (fun c => decide (c.1 < a)), c.1 < a := fun c hc => by
    simpa using (List.mem_filter.1 hc).2
  have above : ∀ c ∈ m.filter (fun c => decide (a + n ≤ c.1)), a + n ≤ c.1 := fun c hc => by
    simpa using (List.mem_filter.1 hc).2
  rcases h with h | h
  · rw [Mem.read_filter _ _ _ _ (fun c h1 h2 => by simp; omega),
      Mem.read_outside (m.filter (fun c => decide (a + n ≤ c.1))) _ _ (fun c hc => by have := above c hc; omega)]
    simp
  · rw [Mem.read_outside (m.filter (fun c => decide (c.1 < a))) _ _ (fun c hc => by have := below c hc; omega),
      Mem.read_filter _ _ _ _ (fun c h1 h2 => by simp; omega)]
    simp

theorem Mem.read_cells (a n v : Nat) : Mem.read (Mem.cells a n v) a n = v % 2 ^ (8 * n) := by
  have key : ∀ n a v b k, b ≤ a → a + n ≤ b + k →
      Mem.read (Mem.cells a n v) b k = v % 2 ^ (8 * n) * 2 ^ (8 * (a - b)) := by
    intro n
    induction n with
    | zero => intro a v b k _ _; simp [Mem.cells, Mem.read, Nat.mod_one]
    | succ n ih =>
      intro a v b k h1 h2
      have e1 : v % 2 ^ (8 * (n + 1)) = v % 256 + v / 256 % 2 ^ (8 * n) * 256 := by
        rw [show 8 * (n + 1) = 8 + 8 * n from by ring, Nat.pow_add, Nat.mod_mul]
        norm_num; ring
      have e2 : (2 : Nat) ^ (8 * (a + 1 - b)) = 256 * 2 ^ (8 * (a - b)) := by
        rw [show 8 * (a + 1 - b) = 8 + 8 * (a - b) from by omega, Nat.pow_add]
      have hs : v >>> 8 = v / 256 := Nat.shiftRight_eq_div_pow v 8
      simp only [Mem.cells]
      split
      · next hv => subst hv; simp [Mem.read]
      · split
        · next hb =>
          have hb' : v % 256 = 0 := by simpa [BitVec.ofNat_eq_ofNat, ← BitVec.toNat_inj] using hb
          rw [ih (a + 1) (v >>> 8) b k (by omega) (by omega), e1, hs, hb', e2]; ring
        · rw [Mem.read, if_pos (by omega), ih (a + 1) (v >>> 8) b k (by omega) (by omega), e1, hs, e2,
            Nat.shiftLeft_eq, BitVec.toNat_ofNat]
          norm_num; ring
  simpa using key n a v a n (le_refl _) (le_refl _)

/-- A read after a write to the same bytes gives the value written. -/
theorem Mem.read_write_self (m : Mem) (a n v : Nat) : Mem.read (Mem.write m a n v) a n = v % 2 ^ (8 * n) := by
  unfold Mem.write
  rw [Mem.read_append, Mem.read_append, Mem.read_cells,
    Mem.read_outside (m.filter _) _ _ (fun c hc => by have := (List.mem_filter.1 hc).2; simp at this; omega),
    Mem.read_outside (m.filter _) _ _ (fun c hc => by have := (List.mem_filter.1 hc).2; simp at this; omega)]
  simp

end Sys2Proof.Machine
end

