-- ==== Sys2Proof/Laws/State.lean ====
section
/-! SUPPORT. What each named operation over the state leaves alone, field by field, and what contexts, engines, scalars and
predicates read as after it. -/

namespace Sys2Proof.Machine

/-! ## Fields that an operation leaves alone -/

@[simp] theorem State.setAt_cur (s : State) (k : Nat) (c : Ctx) : (s.setAt k c).cur = s.cur := rfl
@[simp] theorem State.setAt_iss (s : State) (k : Nat) (c : Ctx) : (s.setAt k c).iss = s.iss := rfl
@[simp] theorem State.setAt_agenda (s : State) (k : Nat) (c : Ctx) : (s.setAt k c).agenda = s.agenda := rfl
@[simp] theorem State.setAt_dcc (s : State) (k : Nat) (c : Ctx) : (s.setAt k c).dcc = s.dcc := rfl
@[simp] theorem State.setAt_mem (s : State) (k : Nat) (c : Ctx) : (s.setAt k c).mem = s.mem := rfl
@[simp] theorem State.setAt_owner (s : State) (k : Nat) (c : Ctx) : (s.setAt k c).owner = s.owner := rfl
@[simp] theorem State.setAt_badLines (s : State) (k : Nat) (c : Ctx) : (s.setAt k c).badLines = s.badLines := rfl
@[simp] theorem State.setAt_told (s : State) (k : Nat) (c : Ctx) : (s.setAt k c).told = s.told := rfl
@[simp] theorem State.setAt_binds (s : State) (k : Nat) (c : Ctx) : (s.setAt k c).binds = s.binds := rfl
@[simp] theorem State.setAt_tiles (s : State) (k : Nat) (c : Ctx) : (s.setAt k c).tiles = s.tiles := rfl
@[simp] theorem State.setAt_worlds (s : State) (k : Nat) (c : Ctx) : (s.setAt k c).worlds = s.worlds := rfl
@[simp] theorem State.setAt_gangs (s : State) (k : Nat) (c : Ctx) : (s.setAt k c).gangs = s.gangs := rfl
@[simp] theorem State.setAt_launches (s : State) (k : Nat) (c : Ctx) : (s.setAt k c).launches = s.launches := rfl
@[simp] theorem State.setAt_items (s : State) (k : Nat) (c : Ctx) : (s.setAt k c).items = s.items := rfl
@[simp] theorem State.setAt_turn (s : State) (k : Nat) (c : Ctx) : (s.setAt k c).turn = s.turn := rfl
@[simp] theorem State.setAt_nextLaunch (s : State) (k : Nat) (c : Ctx) : (s.setAt k c).nextLaunch = s.nextLaunch := rfl
@[simp] theorem State.setAt_ports (s : State) (k : Nat) (c : Ctx) : (s.setAt k c).ports = s.ports := rfl
@[simp] theorem State.setAt_campus (s : State) (k : Nat) (c : Ctx) : (s.setAt k c).campus = s.campus := rfl
@[simp] theorem State.setAt_net (s : State) (k : Nat) (c : Ctx) : (s.setAt k c).net = s.net := rfl
@[simp] theorem State.setAt_acks (s : State) (k : Nat) (c : Ctx) : (s.setAt k c).acks = s.acks := rfl
@[simp] theorem State.setAt_rx (s : State) (k : Nat) (c : Ctx) : (s.setAt k c).rx = s.rx := rfl
@[simp] theorem State.setAt_landing (s : State) (k : Nat) (c : Ctx) : (s.setAt k c).landing = s.landing := rfl
@[simp] theorem State.setAt_layers (s : State) (k : Nat) (c : Ctx) : (s.setAt k c).layers = s.layers := rfl
@[simp] theorem State.setAt_incrs (s : State) (k : Nat) (c : Ctx) : (s.setAt k c).incrs = s.incrs := rfl
@[simp] theorem State.setAt_shared (s : State) (k : Nat) (c : Ctx) : (s.setAt k c).shared = s.shared := rfl
@[simp] theorem State.setAt_chans (s : State) (k : Nat) (c : Ctx) : (s.setAt k c).chans = s.chans := rfl
@[simp] theorem State.setAt_dev (s : State) (k : Nat) (c : Ctx) : (s.setAt k c).dev = s.dev := rfl

@[simp] theorem State.setCtx_cur (s : State) (c : Ctx) : (s.setCtx c).cur = s.cur := rfl
@[simp] theorem State.setCtx_iss (s : State) (c : Ctx) : (s.setCtx c).iss = s.iss := rfl
@[simp] theorem State.setCtx_agenda (s : State) (c : Ctx) : (s.setCtx c).agenda = s.agenda := rfl
@[simp] theorem State.setCtx_dcc (s : State) (c : Ctx) : (s.setCtx c).dcc = s.dcc := rfl
@[simp] theorem State.setCtx_mem (s : State) (c : Ctx) : (s.setCtx c).mem = s.mem := rfl
@[simp] theorem State.setCtx_owner (s : State) (c : Ctx) : (s.setCtx c).owner = s.owner := rfl
@[simp] theorem State.setCtx_badLines (s : State) (c : Ctx) : (s.setCtx c).badLines = s.badLines := rfl
@[simp] theorem State.setCtx_told (s : State) (c : Ctx) : (s.setCtx c).told = s.told := rfl
@[simp] theorem State.setCtx_binds (s : State) (c : Ctx) : (s.setCtx c).binds = s.binds := rfl
@[simp] theorem State.setCtx_tiles (s : State) (c : Ctx) : (s.setCtx c).tiles = s.tiles := rfl
@[simp] theorem State.setCtx_worlds (s : State) (c : Ctx) : (s.setCtx c).worlds = s.worlds := rfl
@[simp] theorem State.setCtx_gangs (s : State) (c : Ctx) : (s.setCtx c).gangs = s.gangs := rfl
@[simp] theorem State.setCtx_launches (s : State) (c : Ctx) : (s.setCtx c).launches = s.launches := rfl
@[simp] theorem State.setCtx_items (s : State) (c : Ctx) : (s.setCtx c).items = s.items := rfl
@[simp] theorem State.setCtx_turn (s : State) (c : Ctx) : (s.setCtx c).turn = s.turn := rfl
@[simp] theorem State.setCtx_nextLaunch (s : State) (c : Ctx) : (s.setCtx c).nextLaunch = s.nextLaunch := rfl
@[simp] theorem State.setCtx_ports (s : State) (c : Ctx) : (s.setCtx c).ports = s.ports := rfl
@[simp] theorem State.setCtx_campus (s : State) (c : Ctx) : (s.setCtx c).campus = s.campus := rfl
@[simp] theorem State.setCtx_net (s : State) (c : Ctx) : (s.setCtx c).net = s.net := rfl
@[simp] theorem State.setCtx_acks (s : State) (c : Ctx) : (s.setCtx c).acks = s.acks := rfl
@[simp] theorem State.setCtx_rx (s : State) (c : Ctx) : (s.setCtx c).rx = s.rx := rfl
@[simp] theorem State.setCtx_landing (s : State) (c : Ctx) : (s.setCtx c).landing = s.landing := rfl
@[simp] theorem State.setCtx_layers (s : State) (c : Ctx) : (s.setCtx c).layers = s.layers := rfl
@[simp] theorem State.setCtx_incrs (s : State) (c : Ctx) : (s.setCtx c).incrs = s.incrs := rfl
@[simp] theorem State.setCtx_shared (s : State) (c : Ctx) : (s.setCtx c).shared = s.shared := rfl
@[simp] theorem State.setCtx_chans (s : State) (c : Ctx) : (s.setCtx c).chans = s.chans := rfl
@[simp] theorem State.setCtx_dev (s : State) (c : Ctx) : (s.setCtx c).dev = s.dev := rfl

@[simp] theorem State.setWorld_cur (s : State) (w : Nat) (x : World) : (s.setWorld w x).cur = s.cur := rfl
@[simp] theorem State.setWorld_iss (s : State) (w : Nat) (x : World) : (s.setWorld w x).iss = s.iss := rfl
@[simp] theorem State.setWorld_agenda (s : State) (w : Nat) (x : World) : (s.setWorld w x).agenda = s.agenda := rfl
@[simp] theorem State.setWorld_dcc (s : State) (w : Nat) (x : World) : (s.setWorld w x).dcc = s.dcc := rfl
@[simp] theorem State.setWorld_mem (s : State) (w : Nat) (x : World) : (s.setWorld w x).mem = s.mem := rfl
@[simp] theorem State.setWorld_owner (s : State) (w : Nat) (x : World) : (s.setWorld w x).owner = s.owner := rfl
@[simp] theorem State.setWorld_badLines (s : State) (w : Nat) (x : World) : (s.setWorld w x).badLines = s.badLines := rfl
@[simp] theorem State.setWorld_told (s : State) (w : Nat) (x : World) : (s.setWorld w x).told = s.told := rfl
@[simp] theorem State.setWorld_ctxs (s : State) (w : Nat) (x : World) : (s.setWorld w x).ctxs = s.ctxs := rfl
@[simp] theorem State.setWorld_binds (s : State) (w : Nat) (x : World) : (s.setWorld w x).binds = s.binds := rfl
@[simp] theorem State.setWorld_tiles (s : State) (w : Nat) (x : World) : (s.setWorld w x).tiles = s.tiles := rfl
@[simp] theorem State.setWorld_gangs (s : State) (w : Nat) (x : World) : (s.setWorld w x).gangs = s.gangs := rfl
@[simp] theorem State.setWorld_launches (s : State) (w : Nat) (x : World) : (s.setWorld w x).launches = s.launches := rfl
@[simp] theorem State.setWorld_items (s : State) (w : Nat) (x : World) : (s.setWorld w x).items = s.items := rfl
@[simp] theorem State.setWorld_turn (s : State) (w : Nat) (x : World) : (s.setWorld w x).turn = s.turn := rfl
@[simp] theorem State.setWorld_nextLaunch (s : State) (w : Nat) (x : World) : (s.setWorld w x).nextLaunch = s.nextLaunch := rfl
@[simp] theorem State.setWorld_ports (s : State) (w : Nat) (x : World) : (s.setWorld w x).ports = s.ports := rfl
@[simp] theorem State.setWorld_campus (s : State) (w : Nat) (x : World) : (s.setWorld w x).campus = s.campus := rfl
@[simp] theorem State.setWorld_net (s : State) (w : Nat) (x : World) : (s.setWorld w x).net = s.net := rfl
@[simp] theorem State.setWorld_acks (s : State) (w : Nat) (x : World) : (s.setWorld w x).acks = s.acks := rfl
@[simp] theorem State.setWorld_rx (s : State) (w : Nat) (x : World) : (s.setWorld w x).rx = s.rx := rfl
@[simp] theorem State.setWorld_landing (s : State) (w : Nat) (x : World) : (s.setWorld w x).landing = s.landing := rfl
@[simp] theorem State.setWorld_layers (s : State) (w : Nat) (x : World) : (s.setWorld w x).layers = s.layers := rfl
@[simp] theorem State.setWorld_incrs (s : State) (w : Nat) (x : World) : (s.setWorld w x).incrs = s.incrs := rfl
@[simp] theorem State.setWorld_shared (s : State) (w : Nat) (x : World) : (s.setWorld w x).shared = s.shared := rfl
@[simp] theorem State.setWorld_chans (s : State) (w : Nat) (x : World) : (s.setWorld w x).chans = s.chans := rfl
@[simp] theorem State.setWorld_dev (s : State) (w : Nat) (x : World) : (s.setWorld w x).dev = s.dev := rfl

@[simp] theorem State.setGang_cur (s : State) (g : Nat) (x : Option Gang) : (s.setGang g x).cur = s.cur := rfl
@[simp] theorem State.setGang_iss (s : State) (g : Nat) (x : Option Gang) : (s.setGang g x).iss = s.iss := rfl
@[simp] theorem State.setGang_agenda (s : State) (g : Nat) (x : Option Gang) : (s.setGang g x).agenda = s.agenda := rfl
@[simp] theorem State.setGang_dcc (s : State) (g : Nat) (x : Option Gang) : (s.setGang g x).dcc = s.dcc := rfl
@[simp] theorem State.setGang_mem (s : State) (g : Nat) (x : Option Gang) : (s.setGang g x).mem = s.mem := rfl
@[simp] theorem State.setGang_owner (s : State) (g : Nat) (x : Option Gang) : (s.setGang g x).owner = s.owner := rfl
@[simp] theorem State.setGang_badLines (s : State) (g : Nat) (x : Option Gang) : (s.setGang g x).badLines = s.badLines := rfl
@[simp] theorem State.setGang_told (s : State) (g : Nat) (x : Option Gang) : (s.setGang g x).told = s.told := rfl
@[simp] theorem State.setGang_ctxs (s : State) (g : Nat) (x : Option Gang) : (s.setGang g x).ctxs = s.ctxs := rfl
@[simp] theorem State.setGang_binds (s : State) (g : Nat) (x : Option Gang) : (s.setGang g x).binds = s.binds := rfl
@[simp] theorem State.setGang_tiles (s : State) (g : Nat) (x : Option Gang) : (s.setGang g x).tiles = s.tiles := rfl
@[simp] theorem State.setGang_worlds (s : State) (g : Nat) (x : Option Gang) : (s.setGang g x).worlds = s.worlds := rfl
@[simp] theorem State.setGang_launches (s : State) (g : Nat) (x : Option Gang) : (s.setGang g x).launches = s.launches := rfl
@[simp] theorem State.setGang_items (s : State) (g : Nat) (x : Option Gang) : (s.setGang g x).items = s.items := rfl
@[simp] theorem State.setGang_turn (s : State) (g : Nat) (x : Option Gang) : (s.setGang g x).turn = s.turn := rfl
@[simp] theorem State.setGang_nextLaunch (s : State) (g : Nat) (x : Option Gang) : (s.setGang g x).nextLaunch = s.nextLaunch := rfl
@[simp] theorem State.setGang_ports (s : State) (g : Nat) (x : Option Gang) : (s.setGang g x).ports = s.ports := rfl
@[simp] theorem State.setGang_campus (s : State) (g : Nat) (x : Option Gang) : (s.setGang g x).campus = s.campus := rfl
@[simp] theorem State.setGang_net (s : State) (g : Nat) (x : Option Gang) : (s.setGang g x).net = s.net := rfl
@[simp] theorem State.setGang_acks (s : State) (g : Nat) (x : Option Gang) : (s.setGang g x).acks = s.acks := rfl
@[simp] theorem State.setGang_rx (s : State) (g : Nat) (x : Option Gang) : (s.setGang g x).rx = s.rx := rfl
@[simp] theorem State.setGang_landing (s : State) (g : Nat) (x : Option Gang) : (s.setGang g x).landing = s.landing := rfl
@[simp] theorem State.setGang_layers (s : State) (g : Nat) (x : Option Gang) : (s.setGang g x).layers = s.layers := rfl
@[simp] theorem State.setGang_incrs (s : State) (g : Nat) (x : Option Gang) : (s.setGang g x).incrs = s.incrs := rfl
@[simp] theorem State.setGang_shared (s : State) (g : Nat) (x : Option Gang) : (s.setGang g x).shared = s.shared := rfl
@[simp] theorem State.setGang_chans (s : State) (g : Nat) (x : Option Gang) : (s.setGang g x).chans = s.chans := rfl
@[simp] theorem State.setGang_dev (s : State) (g : Nat) (x : Option Gang) : (s.setGang g x).dev = s.dev := rfl

@[simp] theorem State.ctl_cur (s : State) (f : Ctrl → Ctrl) : (s.ctl f).cur = s.cur := rfl
@[simp] theorem State.ctl_iss (s : State) (f : Ctrl → Ctrl) : (s.ctl f).iss = s.iss := rfl
@[simp] theorem State.ctl_agenda (s : State) (f : Ctrl → Ctrl) : (s.ctl f).agenda = s.agenda := rfl
@[simp] theorem State.ctl_dcc (s : State) (f : Ctrl → Ctrl) : (s.ctl f).dcc = s.dcc := rfl
@[simp] theorem State.ctl_mem (s : State) (f : Ctrl → Ctrl) : (s.ctl f).mem = s.mem := rfl
@[simp] theorem State.ctl_owner (s : State) (f : Ctrl → Ctrl) : (s.ctl f).owner = s.owner := rfl
@[simp] theorem State.ctl_badLines (s : State) (f : Ctrl → Ctrl) : (s.ctl f).badLines = s.badLines := rfl
@[simp] theorem State.ctl_told (s : State) (f : Ctrl → Ctrl) : (s.ctl f).told = s.told := rfl
@[simp] theorem State.ctl_binds (s : State) (f : Ctrl → Ctrl) : (s.ctl f).binds = s.binds := rfl
@[simp] theorem State.ctl_tiles (s : State) (f : Ctrl → Ctrl) : (s.ctl f).tiles = s.tiles := rfl
@[simp] theorem State.ctl_worlds (s : State) (f : Ctrl → Ctrl) : (s.ctl f).worlds = s.worlds := rfl
@[simp] theorem State.ctl_gangs (s : State) (f : Ctrl → Ctrl) : (s.ctl f).gangs = s.gangs := rfl
@[simp] theorem State.ctl_launches (s : State) (f : Ctrl → Ctrl) : (s.ctl f).launches = s.launches := rfl
@[simp] theorem State.ctl_items (s : State) (f : Ctrl → Ctrl) : (s.ctl f).items = s.items := rfl
@[simp] theorem State.ctl_turn (s : State) (f : Ctrl → Ctrl) : (s.ctl f).turn = s.turn := rfl
@[simp] theorem State.ctl_nextLaunch (s : State) (f : Ctrl → Ctrl) : (s.ctl f).nextLaunch = s.nextLaunch := rfl
@[simp] theorem State.ctl_ports (s : State) (f : Ctrl → Ctrl) : (s.ctl f).ports = s.ports := rfl
@[simp] theorem State.ctl_campus (s : State) (f : Ctrl → Ctrl) : (s.ctl f).campus = s.campus := rfl
@[simp] theorem State.ctl_net (s : State) (f : Ctrl → Ctrl) : (s.ctl f).net = s.net := rfl
@[simp] theorem State.ctl_acks (s : State) (f : Ctrl → Ctrl) : (s.ctl f).acks = s.acks := rfl
@[simp] theorem State.ctl_rx (s : State) (f : Ctrl → Ctrl) : (s.ctl f).rx = s.rx := rfl
@[simp] theorem State.ctl_landing (s : State) (f : Ctrl → Ctrl) : (s.ctl f).landing = s.landing := rfl
@[simp] theorem State.ctl_layers (s : State) (f : Ctrl → Ctrl) : (s.ctl f).layers = s.layers := rfl
@[simp] theorem State.ctl_incrs (s : State) (f : Ctrl → Ctrl) : (s.ctl f).incrs = s.incrs := rfl
@[simp] theorem State.ctl_shared (s : State) (f : Ctrl → Ctrl) : (s.ctl f).shared = s.shared := rfl
@[simp] theorem State.ctl_chans (s : State) (f : Ctrl → Ctrl) : (s.ctl f).chans = s.chans := rfl
@[simp] theorem State.ctl_dev (s : State) (f : Ctrl → Ctrl) : (s.ctl f).dev = s.dev := rfl

@[simp] theorem State.setS_cur (s : State) (r : BitVec 5) (v : Word) : (s.setS r v).cur = s.cur := rfl
@[simp] theorem State.setS_iss (s : State) (r : BitVec 5) (v : Word) : (s.setS r v).iss = s.iss := rfl
@[simp] theorem State.setS_agenda (s : State) (r : BitVec 5) (v : Word) : (s.setS r v).agenda = s.agenda := rfl
@[simp] theorem State.setS_dcc (s : State) (r : BitVec 5) (v : Word) : (s.setS r v).dcc = s.dcc := rfl
@[simp] theorem State.setS_mem (s : State) (r : BitVec 5) (v : Word) : (s.setS r v).mem = s.mem := rfl
@[simp] theorem State.setS_owner (s : State) (r : BitVec 5) (v : Word) : (s.setS r v).owner = s.owner := rfl
@[simp] theorem State.setS_badLines (s : State) (r : BitVec 5) (v : Word) : (s.setS r v).badLines = s.badLines := rfl
@[simp] theorem State.setS_told (s : State) (r : BitVec 5) (v : Word) : (s.setS r v).told = s.told := rfl
@[simp] theorem State.setS_binds (s : State) (r : BitVec 5) (v : Word) : (s.setS r v).binds = s.binds := rfl
@[simp] theorem State.setS_tiles (s : State) (r : BitVec 5) (v : Word) : (s.setS r v).tiles = s.tiles := rfl
@[simp] theorem State.setS_worlds (s : State) (r : BitVec 5) (v : Word) : (s.setS r v).worlds = s.worlds := rfl
@[simp] theorem State.setS_gangs (s : State) (r : BitVec 5) (v : Word) : (s.setS r v).gangs = s.gangs := rfl
@[simp] theorem State.setS_launches (s : State) (r : BitVec 5) (v : Word) : (s.setS r v).launches = s.launches := rfl
@[simp] theorem State.setS_items (s : State) (r : BitVec 5) (v : Word) : (s.setS r v).items = s.items := rfl
@[simp] theorem State.setS_turn (s : State) (r : BitVec 5) (v : Word) : (s.setS r v).turn = s.turn := rfl
@[simp] theorem State.setS_nextLaunch (s : State) (r : BitVec 5) (v : Word) : (s.setS r v).nextLaunch = s.nextLaunch := rfl
@[simp] theorem State.setS_ports (s : State) (r : BitVec 5) (v : Word) : (s.setS r v).ports = s.ports := rfl
@[simp] theorem State.setS_campus (s : State) (r : BitVec 5) (v : Word) : (s.setS r v).campus = s.campus := rfl
@[simp] theorem State.setS_net (s : State) (r : BitVec 5) (v : Word) : (s.setS r v).net = s.net := rfl
@[simp] theorem State.setS_acks (s : State) (r : BitVec 5) (v : Word) : (s.setS r v).acks = s.acks := rfl
@[simp] theorem State.setS_rx (s : State) (r : BitVec 5) (v : Word) : (s.setS r v).rx = s.rx := rfl
@[simp] theorem State.setS_landing (s : State) (r : BitVec 5) (v : Word) : (s.setS r v).landing = s.landing := rfl
@[simp] theorem State.setS_layers (s : State) (r : BitVec 5) (v : Word) : (s.setS r v).layers = s.layers := rfl
@[simp] theorem State.setS_incrs (s : State) (r : BitVec 5) (v : Word) : (s.setS r v).incrs = s.incrs := rfl
@[simp] theorem State.setS_shared (s : State) (r : BitVec 5) (v : Word) : (s.setS r v).shared = s.shared := rfl
@[simp] theorem State.setS_chans (s : State) (r : BitVec 5) (v : Word) : (s.setS r v).chans = s.chans := rfl
@[simp] theorem State.setS_dev (s : State) (r : BitVec 5) (v : Word) : (s.setS r v).dev = s.dev := rfl

@[simp] theorem State.setP_cur (s : State) (r : BitVec 3) (v : Bool) : (s.setP r v).cur = s.cur := rfl
@[simp] theorem State.setP_iss (s : State) (r : BitVec 3) (v : Bool) : (s.setP r v).iss = s.iss := rfl
@[simp] theorem State.setP_agenda (s : State) (r : BitVec 3) (v : Bool) : (s.setP r v).agenda = s.agenda := rfl
@[simp] theorem State.setP_dcc (s : State) (r : BitVec 3) (v : Bool) : (s.setP r v).dcc = s.dcc := rfl
@[simp] theorem State.setP_mem (s : State) (r : BitVec 3) (v : Bool) : (s.setP r v).mem = s.mem := rfl
@[simp] theorem State.setP_owner (s : State) (r : BitVec 3) (v : Bool) : (s.setP r v).owner = s.owner := rfl
@[simp] theorem State.setP_badLines (s : State) (r : BitVec 3) (v : Bool) : (s.setP r v).badLines = s.badLines := rfl
@[simp] theorem State.setP_told (s : State) (r : BitVec 3) (v : Bool) : (s.setP r v).told = s.told := rfl
@[simp] theorem State.setP_binds (s : State) (r : BitVec 3) (v : Bool) : (s.setP r v).binds = s.binds := rfl
@[simp] theorem State.setP_tiles (s : State) (r : BitVec 3) (v : Bool) : (s.setP r v).tiles = s.tiles := rfl
@[simp] theorem State.setP_worlds (s : State) (r : BitVec 3) (v : Bool) : (s.setP r v).worlds = s.worlds := rfl
@[simp] theorem State.setP_gangs (s : State) (r : BitVec 3) (v : Bool) : (s.setP r v).gangs = s.gangs := rfl
@[simp] theorem State.setP_launches (s : State) (r : BitVec 3) (v : Bool) : (s.setP r v).launches = s.launches := rfl
@[simp] theorem State.setP_items (s : State) (r : BitVec 3) (v : Bool) : (s.setP r v).items = s.items := rfl
@[simp] theorem State.setP_turn (s : State) (r : BitVec 3) (v : Bool) : (s.setP r v).turn = s.turn := rfl
@[simp] theorem State.setP_nextLaunch (s : State) (r : BitVec 3) (v : Bool) : (s.setP r v).nextLaunch = s.nextLaunch := rfl
@[simp] theorem State.setP_ports (s : State) (r : BitVec 3) (v : Bool) : (s.setP r v).ports = s.ports := rfl
@[simp] theorem State.setP_campus (s : State) (r : BitVec 3) (v : Bool) : (s.setP r v).campus = s.campus := rfl
@[simp] theorem State.setP_net (s : State) (r : BitVec 3) (v : Bool) : (s.setP r v).net = s.net := rfl
@[simp] theorem State.setP_acks (s : State) (r : BitVec 3) (v : Bool) : (s.setP r v).acks = s.acks := rfl
@[simp] theorem State.setP_rx (s : State) (r : BitVec 3) (v : Bool) : (s.setP r v).rx = s.rx := rfl
@[simp] theorem State.setP_landing (s : State) (r : BitVec 3) (v : Bool) : (s.setP r v).landing = s.landing := rfl
@[simp] theorem State.setP_layers (s : State) (r : BitVec 3) (v : Bool) : (s.setP r v).layers = s.layers := rfl
@[simp] theorem State.setP_incrs (s : State) (r : BitVec 3) (v : Bool) : (s.setP r v).incrs = s.incrs := rfl
@[simp] theorem State.setP_shared (s : State) (r : BitVec 3) (v : Bool) : (s.setP r v).shared = s.shared := rfl
@[simp] theorem State.setP_chans (s : State) (r : BitVec 3) (v : Bool) : (s.setP r v).chans = s.chans := rfl
@[simp] theorem State.setP_dev (s : State) (r : BitVec 3) (v : Bool) : (s.setP r v).dev = s.dev := rfl

@[simp] theorem State.occupy_cur (s : State) (n : Nat) : (s.occupy n).cur = s.cur := rfl
@[simp] theorem State.occupy_iss (s : State) (n : Nat) : (s.occupy n).iss = s.iss := rfl
@[simp] theorem State.occupy_agenda (s : State) (n : Nat) : (s.occupy n).agenda = s.agenda := rfl
@[simp] theorem State.occupy_dcc (s : State) (n : Nat) : (s.occupy n).dcc = s.dcc := rfl
@[simp] theorem State.occupy_mem (s : State) (n : Nat) : (s.occupy n).mem = s.mem := rfl
@[simp] theorem State.occupy_owner (s : State) (n : Nat) : (s.occupy n).owner = s.owner := rfl
@[simp] theorem State.occupy_badLines (s : State) (n : Nat) : (s.occupy n).badLines = s.badLines := rfl
@[simp] theorem State.occupy_told (s : State) (n : Nat) : (s.occupy n).told = s.told := rfl
@[simp] theorem State.occupy_binds (s : State) (n : Nat) : (s.occupy n).binds = s.binds := rfl
@[simp] theorem State.occupy_tiles (s : State) (n : Nat) : (s.occupy n).tiles = s.tiles := rfl
@[simp] theorem State.occupy_worlds (s : State) (n : Nat) : (s.occupy n).worlds = s.worlds := rfl
@[simp] theorem State.occupy_gangs (s : State) (n : Nat) : (s.occupy n).gangs = s.gangs := rfl
@[simp] theorem State.occupy_launches (s : State) (n : Nat) : (s.occupy n).launches = s.launches := rfl
@[simp] theorem State.occupy_items (s : State) (n : Nat) : (s.occupy n).items = s.items := rfl
@[simp] theorem State.occupy_turn (s : State) (n : Nat) : (s.occupy n).turn = s.turn := rfl
@[simp] theorem State.occupy_nextLaunch (s : State) (n : Nat) : (s.occupy n).nextLaunch = s.nextLaunch := rfl
@[simp] theorem State.occupy_ports (s : State) (n : Nat) : (s.occupy n).ports = s.ports := rfl
@[simp] theorem State.occupy_campus (s : State) (n : Nat) : (s.occupy n).campus = s.campus := rfl
@[simp] theorem State.occupy_net (s : State) (n : Nat) : (s.occupy n).net = s.net := rfl
@[simp] theorem State.occupy_acks (s : State) (n : Nat) : (s.occupy n).acks = s.acks := rfl
@[simp] theorem State.occupy_rx (s : State) (n : Nat) : (s.occupy n).rx = s.rx := rfl
@[simp] theorem State.occupy_landing (s : State) (n : Nat) : (s.occupy n).landing = s.landing := rfl
@[simp] theorem State.occupy_layers (s : State) (n : Nat) : (s.occupy n).layers = s.layers := rfl
@[simp] theorem State.occupy_incrs (s : State) (n : Nat) : (s.occupy n).incrs = s.incrs := rfl
@[simp] theorem State.occupy_shared (s : State) (n : Nat) : (s.occupy n).shared = s.shared := rfl
@[simp] theorem State.occupy_chans (s : State) (n : Nat) : (s.occupy n).chans = s.chans := rfl
@[simp] theorem State.occupy_dev (s : State) (n : Nat) : (s.occupy n).dev = s.dev := rfl

@[simp] theorem State.holdAs_cur (s : State) (h : Hold) : (s.holdAs h).cur = s.cur := rfl
@[simp] theorem State.holdAs_iss (s : State) (h : Hold) : (s.holdAs h).iss = s.iss := rfl
@[simp] theorem State.holdAs_agenda (s : State) (h : Hold) : (s.holdAs h).agenda = s.agenda := rfl
@[simp] theorem State.holdAs_dcc (s : State) (h : Hold) : (s.holdAs h).dcc = s.dcc := rfl
@[simp] theorem State.holdAs_mem (s : State) (h : Hold) : (s.holdAs h).mem = s.mem := rfl
@[simp] theorem State.holdAs_owner (s : State) (h : Hold) : (s.holdAs h).owner = s.owner := rfl
@[simp] theorem State.holdAs_badLines (s : State) (h : Hold) : (s.holdAs h).badLines = s.badLines := rfl
@[simp] theorem State.holdAs_told (s : State) (h : Hold) : (s.holdAs h).told = s.told := rfl
@[simp] theorem State.holdAs_binds (s : State) (h : Hold) : (s.holdAs h).binds = s.binds := rfl
@[simp] theorem State.holdAs_tiles (s : State) (h : Hold) : (s.holdAs h).tiles = s.tiles := rfl
@[simp] theorem State.holdAs_worlds (s : State) (h : Hold) : (s.holdAs h).worlds = s.worlds := rfl
@[simp] theorem State.holdAs_gangs (s : State) (h : Hold) : (s.holdAs h).gangs = s.gangs := rfl
@[simp] theorem State.holdAs_launches (s : State) (h : Hold) : (s.holdAs h).launches = s.launches := rfl
@[simp] theorem State.holdAs_items (s : State) (h : Hold) : (s.holdAs h).items = s.items := rfl
@[simp] theorem State.holdAs_turn (s : State) (h : Hold) : (s.holdAs h).turn = s.turn := rfl
@[simp] theorem State.holdAs_nextLaunch (s : State) (h : Hold) : (s.holdAs h).nextLaunch = s.nextLaunch := rfl
@[simp] theorem State.holdAs_ports (s : State) (h : Hold) : (s.holdAs h).ports = s.ports := rfl
@[simp] theorem State.holdAs_campus (s : State) (h : Hold) : (s.holdAs h).campus = s.campus := rfl
@[simp] theorem State.holdAs_net (s : State) (h : Hold) : (s.holdAs h).net = s.net := rfl
@[simp] theorem State.holdAs_acks (s : State) (h : Hold) : (s.holdAs h).acks = s.acks := rfl
@[simp] theorem State.holdAs_rx (s : State) (h : Hold) : (s.holdAs h).rx = s.rx := rfl
@[simp] theorem State.holdAs_landing (s : State) (h : Hold) : (s.holdAs h).landing = s.landing := rfl
@[simp] theorem State.holdAs_layers (s : State) (h : Hold) : (s.holdAs h).layers = s.layers := rfl
@[simp] theorem State.holdAs_incrs (s : State) (h : Hold) : (s.holdAs h).incrs = s.incrs := rfl
@[simp] theorem State.holdAs_shared (s : State) (h : Hold) : (s.holdAs h).shared = s.shared := rfl
@[simp] theorem State.holdAs_chans (s : State) (h : Hold) : (s.holdAs h).chans = s.chans := rfl
@[simp] theorem State.holdAs_dev (s : State) (h : Hold) : (s.holdAs h).dev = s.dev := rfl

@[simp] theorem State.moveFirst_cur (s : State) (m : Move) : (s.moveFirst m).cur = s.cur := rfl
@[simp] theorem State.moveFirst_iss (s : State) (m : Move) : (s.moveFirst m).iss = s.iss := rfl
@[simp] theorem State.moveFirst_dcc (s : State) (m : Move) : (s.moveFirst m).dcc = s.dcc := rfl
@[simp] theorem State.moveFirst_mem (s : State) (m : Move) : (s.moveFirst m).mem = s.mem := rfl
@[simp] theorem State.moveFirst_owner (s : State) (m : Move) : (s.moveFirst m).owner = s.owner := rfl
@[simp] theorem State.moveFirst_badLines (s : State) (m : Move) : (s.moveFirst m).badLines = s.badLines := rfl
@[simp] theorem State.moveFirst_told (s : State) (m : Move) : (s.moveFirst m).told = s.told := rfl
@[simp] theorem State.moveFirst_ctxs (s : State) (m : Move) : (s.moveFirst m).ctxs = s.ctxs := rfl
@[simp] theorem State.moveFirst_binds (s : State) (m : Move) : (s.moveFirst m).binds = s.binds := rfl
@[simp] theorem State.moveFirst_tiles (s : State) (m : Move) : (s.moveFirst m).tiles = s.tiles := rfl
@[simp] theorem State.moveFirst_worlds (s : State) (m : Move) : (s.moveFirst m).worlds = s.worlds := rfl
@[simp] theorem State.moveFirst_gangs (s : State) (m : Move) : (s.moveFirst m).gangs = s.gangs := rfl
@[simp] theorem State.moveFirst_launches (s : State) (m : Move) : (s.moveFirst m).launches = s.launches := rfl
@[simp] theorem State.moveFirst_items (s : State) (m : Move) : (s.moveFirst m).items = s.items := rfl
@[simp] theorem State.moveFirst_turn (s : State) (m : Move) : (s.moveFirst m).turn = s.turn := rfl
@[simp] theorem State.moveFirst_nextLaunch (s : State) (m : Move) : (s.moveFirst m).nextLaunch = s.nextLaunch := rfl
@[simp] theorem State.moveFirst_ports (s : State) (m : Move) : (s.moveFirst m).ports = s.ports := rfl
@[simp] theorem State.moveFirst_campus (s : State) (m : Move) : (s.moveFirst m).campus = s.campus := rfl
@[simp] theorem State.moveFirst_net (s : State) (m : Move) : (s.moveFirst m).net = s.net := rfl
@[simp] theorem State.moveFirst_acks (s : State) (m : Move) : (s.moveFirst m).acks = s.acks := rfl
@[simp] theorem State.moveFirst_rx (s : State) (m : Move) : (s.moveFirst m).rx = s.rx := rfl
@[simp] theorem State.moveFirst_landing (s : State) (m : Move) : (s.moveFirst m).landing = s.landing := rfl
@[simp] theorem State.moveFirst_layers (s : State) (m : Move) : (s.moveFirst m).layers = s.layers := rfl
@[simp] theorem State.moveFirst_incrs (s : State) (m : Move) : (s.moveFirst m).incrs = s.incrs := rfl
@[simp] theorem State.moveFirst_shared (s : State) (m : Move) : (s.moveFirst m).shared = s.shared := rfl
@[simp] theorem State.moveFirst_chans (s : State) (m : Move) : (s.moveFirst m).chans = s.chans := rfl
@[simp] theorem State.moveFirst_dev (s : State) (m : Move) : (s.moveFirst m).dev = s.dev := rfl

@[simp] theorem State.onEng_cur (s : State) (e : Engine) (f : Eng → Eng) : (s.onEng e f).cur = s.cur := rfl
@[simp] theorem State.onEng_iss (s : State) (e : Engine) (f : Eng → Eng) : (s.onEng e f).iss = s.iss := rfl
@[simp] theorem State.onEng_agenda (s : State) (e : Engine) (f : Eng → Eng) : (s.onEng e f).agenda = s.agenda := rfl
@[simp] theorem State.onEng_dcc (s : State) (e : Engine) (f : Eng → Eng) : (s.onEng e f).dcc = s.dcc := rfl
@[simp] theorem State.onEng_mem (s : State) (e : Engine) (f : Eng → Eng) : (s.onEng e f).mem = s.mem := rfl
@[simp] theorem State.onEng_owner (s : State) (e : Engine) (f : Eng → Eng) : (s.onEng e f).owner = s.owner := rfl
@[simp] theorem State.onEng_badLines (s : State) (e : Engine) (f : Eng → Eng) : (s.onEng e f).badLines = s.badLines := rfl
@[simp] theorem State.onEng_told (s : State) (e : Engine) (f : Eng → Eng) : (s.onEng e f).told = s.told := rfl
@[simp] theorem State.onEng_binds (s : State) (e : Engine) (f : Eng → Eng) : (s.onEng e f).binds = s.binds := rfl
@[simp] theorem State.onEng_tiles (s : State) (e : Engine) (f : Eng → Eng) : (s.onEng e f).tiles = s.tiles := rfl
@[simp] theorem State.onEng_worlds (s : State) (e : Engine) (f : Eng → Eng) : (s.onEng e f).worlds = s.worlds := rfl
@[simp] theorem State.onEng_gangs (s : State) (e : Engine) (f : Eng → Eng) : (s.onEng e f).gangs = s.gangs := rfl
@[simp] theorem State.onEng_launches (s : State) (e : Engine) (f : Eng → Eng) : (s.onEng e f).launches = s.launches := rfl
@[simp] theorem State.onEng_items (s : State) (e : Engine) (f : Eng → Eng) : (s.onEng e f).items = s.items := rfl
@[simp] theorem State.onEng_turn (s : State) (e : Engine) (f : Eng → Eng) : (s.onEng e f).turn = s.turn := rfl
@[simp] theorem State.onEng_nextLaunch (s : State) (e : Engine) (f : Eng → Eng) : (s.onEng e f).nextLaunch = s.nextLaunch := rfl
@[simp] theorem State.onEng_ports (s : State) (e : Engine) (f : Eng → Eng) : (s.onEng e f).ports = s.ports := rfl
@[simp] theorem State.onEng_campus (s : State) (e : Engine) (f : Eng → Eng) : (s.onEng e f).campus = s.campus := rfl
@[simp] theorem State.onEng_net (s : State) (e : Engine) (f : Eng → Eng) : (s.onEng e f).net = s.net := rfl
@[simp] theorem State.onEng_acks (s : State) (e : Engine) (f : Eng → Eng) : (s.onEng e f).acks = s.acks := rfl
@[simp] theorem State.onEng_rx (s : State) (e : Engine) (f : Eng → Eng) : (s.onEng e f).rx = s.rx := rfl
@[simp] theorem State.onEng_landing (s : State) (e : Engine) (f : Eng → Eng) : (s.onEng e f).landing = s.landing := rfl
@[simp] theorem State.onEng_layers (s : State) (e : Engine) (f : Eng → Eng) : (s.onEng e f).layers = s.layers := rfl
@[simp] theorem State.onEng_incrs (s : State) (e : Engine) (f : Eng → Eng) : (s.onEng e f).incrs = s.incrs := rfl
@[simp] theorem State.onEng_shared (s : State) (e : Engine) (f : Eng → Eng) : (s.onEng e f).shared = s.shared := rfl
@[simp] theorem State.onEng_chans (s : State) (e : Engine) (f : Eng → Eng) : (s.onEng e f).chans = s.chans := rfl
@[simp] theorem State.onEng_dev (s : State) (e : Engine) (f : Eng → Eng) : (s.onEng e f).dev = s.dev := rfl

/-! ## Contexts -/

@[simp] theorem State.ctxAt_setAt (s : State) (k j : Nat) (c : Ctx) :
    (s.setAt k c).ctxAt j = if j = k then c else s.ctxAt j := by simp [State.setAt, State.ctxAt, SMap.get_set]
@[simp] theorem State.ctxAt_setCtx (s : State) (j : Nat) (c : Ctx) :
    (s.setCtx c).ctxAt j = if j = s.cur then c else s.ctxAt j := by simp [State.setCtx]
@[simp] theorem State.ctx_setCtx (s : State) (c : Ctx) : (s.setCtx c).ctx = c := by simp [State.ctx]
@[simp] theorem State.ctx_ctl (s : State) (f : Ctrl → Ctrl) : (s.ctl f).ctx = { s.ctx with ctl := f s.ctx.ctl } := by
  simp [State.ctl]
@[simp] theorem State.ctx_onEng (s : State) (e : Engine) (f : Eng → Eng) :
    (s.onEng e f).ctx = s.ctx.setEng e (f (s.ctx.engAt e)) := by simp [State.onEng]
@[simp] theorem State.ctx_setWorld (s : State) (w : Nat) (x : World) : (s.setWorld w x).ctx = s.ctx := rfl
@[simp] theorem State.ctx_setGang (s : State) (g : Nat) (x : Option Gang) : (s.setGang g x).ctx = s.ctx := rfl
@[simp] theorem State.ctx_moveFirst (s : State) (m : Move) : (s.moveFirst m).ctx = s.ctx := rfl
@[simp] theorem State.ctx_setS (s : State) (r : BitVec 5) (v : Word) :
    (s.setS r v).ctx = { s.ctx with ctl := s.ctx.ctl.setS r v } := by simp [State.setS]
@[simp] theorem State.ctx_setP (s : State) (r : BitVec 3) (v : Bool) :
    (s.setP r v).ctx = { s.ctx with ctl := s.ctx.ctl.setP r v } := by simp [State.setP]
@[simp] theorem State.ctx_occupy (s : State) (n : Nat) :
    (s.occupy n).ctx = { s.ctx with ctl := { s.ctx.ctl with due := s.dcc.toNat + n, late := none } } := by simp [State.occupy]
@[simp] theorem State.world_setWorld (s : State) (w v : Nat) (x : World) :
    (s.setWorld w x).world v = if v = w then x else s.world v := by simp [State.setWorld, State.world, SMap.get_set]
@[simp] theorem State.gang_setGang (s : State) (g h : Nat) (x : Option Gang) :
    (s.setGang g x).gang h = if h = g then x else s.gang h := by simp [State.setGang, State.gang, SMap.get_set]

/-! ## Engines -/

theorem engIdx_inj {a b : Engine} : Config.engIdx a = Config.engIdx b ↔ a = b := by
  cases a <;> cases b <;> simp [Config.engIdx]

@[simp] theorem Ctx.engAt_setEng (c : Ctx) (e x : Engine) (v : Eng) :
    (c.setEng e v).engAt x = if x = e then v else c.engAt x := by
  simp only [Ctx.engAt, Ctx.setEng, SMap.get_set, engIdx_inj]

@[simp] theorem Ctx.setEng_ctl (c : Ctx) (e : Engine) (x : Eng) : (c.setEng e x).ctl = c.ctl := rfl
@[simp] theorem Ctx.setEng_csr (c : Ctx) (e : Engine) (x : Eng) : (c.setEng e x).csr = c.csr := rfl
@[simp] theorem Ctx.setEng_lp (c : Ctx) (e : Engine) (x : Eng) : (c.setEng e x).lp = c.lp := rfl
@[simp] theorem Ctx.setEng_fl (c : Ctx) (e : Engine) (x : Eng) : (c.setEng e x).fl = c.fl := rfl
@[simp] theorem Ctx.setEng_rq (c : Ctx) (e : Engine) (x : Eng) : (c.setEng e x).rq = c.rq := rfl
@[simp] theorem Ctx.setEng_vec (c : Ctx) (e : Engine) (x : Eng) : (c.setEng e x).vec = c.vec := rfl
@[simp] theorem Ctx.setEng_mat (c : Ctx) (e : Engine) (x : Eng) : (c.setEng e x).mat = c.mat := rfl
@[simp] theorem Ctx.setEng_pump (c : Ctx) (e : Engine) (x : Eng) : (c.setEng e x).pump = c.pump := rfl
@[simp] theorem Ctx.setEng_grids (c : Ctx) (e : Engine) (x : Eng) : (c.setEng e x).grids = c.grids := rfl
@[simp] theorem Ctx.setEng_sig (c : Ctx) (e : Engine) (x : Eng) : (c.setEng e x).sig = c.sig := rfl
@[simp] theorem Ctx.setEng_fab (c : Ctx) (e : Engine) (x : Eng) : (c.setEng e x).fab = c.fab := rfl
@[simp] theorem Ctx.setEng_en (c : Ctx) (e : Engine) (x : Eng) : (c.setEng e x).en = c.en := rfl
@[simp] theorem Ctx.setEng_tagmode (c : Ctx) (e : Engine) (x : Eng) : (c.setEng e x).tagmode = c.tagmode := rfl
@[simp] theorem Ctx.setEng_phase (c : Ctx) (e : Engine) (x : Eng) : (c.setEng e x).phase = c.phase := rfl
@[simp] theorem Ctx.setEng_exp (c : Ctx) (e : Engine) (x : Eng) : (c.setEng e x).exp = c.exp := rfl
@[simp] theorem Ctx.setEng_img (c : Ctx) (e : Engine) (x : Eng) : (c.setEng e x).img = c.img := rfl
@[simp] theorem Ctx.push_ctl (c : Ctx) (e : Engine) (i : QItem) : (c.push e i).ctl = c.ctl := rfl
@[simp] theorem Ctx.push_csr (c : Ctx) (e : Engine) (i : QItem) : (c.push e i).csr = c.csr := rfl
@[simp] theorem Ctx.push_lp (c : Ctx) (e : Engine) (i : QItem) : (c.push e i).lp = c.lp := rfl
@[simp] theorem Ctx.push_fl (c : Ctx) (e : Engine) (i : QItem) : (c.push e i).fl = c.fl := rfl
@[simp] theorem Ctx.push_rq (c : Ctx) (e : Engine) (i : QItem) : (c.push e i).rq = c.rq := rfl
@[simp] theorem Ctx.push_vec (c : Ctx) (e : Engine) (i : QItem) : (c.push e i).vec = c.vec := rfl
@[simp] theorem Ctx.push_mat (c : Ctx) (e : Engine) (i : QItem) : (c.push e i).mat = c.mat := rfl
@[simp] theorem Ctx.push_pump (c : Ctx) (e : Engine) (i : QItem) : (c.push e i).pump = c.pump := rfl
@[simp] theorem Ctx.push_grids (c : Ctx) (e : Engine) (i : QItem) : (c.push e i).grids = c.grids := rfl
@[simp] theorem Ctx.push_sig (c : Ctx) (e : Engine) (i : QItem) : (c.push e i).sig = c.sig := rfl
@[simp] theorem Ctx.push_fab (c : Ctx) (e : Engine) (i : QItem) : (c.push e i).fab = c.fab := rfl
@[simp] theorem Ctx.push_en (c : Ctx) (e : Engine) (i : QItem) : (c.push e i).en = c.en := rfl
@[simp] theorem Ctx.push_tagmode (c : Ctx) (e : Engine) (i : QItem) : (c.push e i).tagmode = c.tagmode := rfl
@[simp] theorem Ctx.push_phase (c : Ctx) (e : Engine) (i : QItem) : (c.push e i).phase = c.phase := rfl
@[simp] theorem Ctx.push_exp (c : Ctx) (e : Engine) (i : QItem) : (c.push e i).exp = c.exp := rfl
@[simp] theorem Ctx.push_img (c : Ctx) (e : Engine) (i : QItem) : (c.push e i).img = c.img := rfl

/-! ## Scalars, predicates, counters -/

@[simp] theorem Ctrl.getS_zero (c : Ctrl) : c.getS 0 = 0 := by simp [Ctrl.getS]
@[simp] theorem Ctrl.getP_zero (c : Ctrl) : c.getP 0 = true := by simp [Ctrl.getP]

/-- A scalar after a write: the written one holds the value, s0 stays zero, the others are unchanged. -/
theorem Ctrl.getS_setS (c : Ctrl) (d r : BitVec 5) (v : Word) :
    (c.setS d v).getS r = if r = d ∧ r ≠ 0 then v else c.getS r := by
  by_cases hd : d = 0
  · by_cases hr : r = 0
    · subst hr; simp [Ctrl.getS]
    · rw [if_neg (fun h => hr (h.1.trans hd))]; simp only [Ctrl.setS, if_pos hd]
  · by_cases hr : r = 0
    · subst hr; simp [Ctrl.getS]
    · simp only [Ctrl.setS, if_neg hd, Ctrl.getS, SMap.get_set, BitVec.toNat_inj, ne_eq, hr,
        not_false_eq_true, and_true, ↓reduceIte]

/-- A predicate after a write: the written one holds the value, p0 stays true, the others are unchanged. -/
theorem Ctrl.getP_setP (c : Ctrl) (d r : BitVec 3) (v : Bool) :
    (c.setP d v).getP r = if r = d ∧ r ≠ 0 then v else c.getP r := by
  by_cases hd : d = 0
  · by_cases hr : r = 0
    · subst hr; simp [Ctrl.getP]
    · rw [if_neg (fun h => hr (h.1.trans hd))]; simp only [Ctrl.setP, if_pos hd]
  · by_cases hr : r = 0
    · subst hr; simp [Ctrl.getP]
    · have hlt : r.toNat < 8 := r.isLt
      simp only [Ctrl.setP, if_neg hd, Ctrl.getP, hr, decide_false, Bool.false_or, ne_eq, not_false_eq_true, and_true]
      by_cases h : r = d
      · subst h; cases v <;> simp [hlt]
      · have h2 : ¬ r.toNat = d.toNat := fun e => h (BitVec.eq_of_toNat_eq e)
        cases v <;> simp [h, h2, hlt]

/-- A counter after a write. -/
theorem Ctrl.getE_setE (c : Ctrl) (n m : BitVec 6) (v : BitVec 32) :
    (c.setE n v).getE m = if m = n then v else c.getE m := by
  simp only [Ctrl.setE, Ctrl.getE, SMap.get_set, BitVec.toNat_inj]

@[simp] theorem Ctrl.setS_fetch (c : Ctrl) (d : BitVec 5) (v : Word) : (c.setS d v).fetch = c.fetch := by unfold Ctrl.setS; split <;> rfl
@[simp] theorem Ctrl.setS_line (c : Ctrl) (d : BitVec 5) (v : Word) : (c.setS d v).line = c.line := by unfold Ctrl.setS; split <;> rfl
@[simp] theorem Ctrl.setS_lane (c : Ctrl) (d : BitVec 5) (v : Word) : (c.setS d v).lane = c.lane := by unfold Ctrl.setS; split <;> rfl
@[simp] theorem Ctrl.setS_nline (c : Ctrl) (d : BitVec 5) (v : Word) : (c.setS d v).nline = c.nline := by unfold Ctrl.setS; split <;> rfl
@[simp] theorem Ctrl.setS_nlane (c : Ctrl) (d : BitVec 5) (v : Word) : (c.setS d v).nlane = c.nlane := by unfold Ctrl.setS; split <;> rfl
@[simp] theorem Ctrl.setS_p (c : Ctrl) (d : BitVec 5) (v : Word) : (c.setS d v).p = c.p := by unfold Ctrl.setS; split <;> rfl
@[simp] theorem Ctrl.setS_h (c : Ctrl) (d : BitVec 5) (v : Word) : (c.setS d v).h = c.h := by unfold Ctrl.setS; split <;> rfl
@[simp] theorem Ctrl.setS_e (c : Ctrl) (d : BitVec 5) (v : Word) : (c.setS d v).e = c.e := by unfold Ctrl.setS; split <;> rfl
@[simp] theorem Ctrl.setS_hold (c : Ctrl) (d : BitVec 5) (v : Word) : (c.setS d v).hold = c.hold := by unfold Ctrl.setS; split <;> rfl
@[simp] theorem Ctrl.setS_held (c : Ctrl) (d : BitVec 5) (v : Word) : (c.setS d v).held = c.held := by unfold Ctrl.setS; split <;> rfl
@[simp] theorem Ctrl.setS_due (c : Ctrl) (d : BitVec 5) (v : Word) : (c.setS d v).due = c.due := by unfold Ctrl.setS; split <;> rfl
@[simp] theorem Ctrl.setS_acquired (c : Ctrl) (d : BitVec 5) (v : Word) : (c.setS d v).acquired = c.acquired := by unfold Ctrl.setS; split <;> rfl
@[simp] theorem Ctrl.setS_nextAge (c : Ctrl) (d : BitVec 5) (v : Word) : (c.setS d v).nextAge = c.nextAge := by unfold Ctrl.setS; split <;> rfl
@[simp] theorem Ctrl.setS_late (c : Ctrl) (d : BitVec 5) (v : Word) : (c.setS d v).late = c.late := by unfold Ctrl.setS; split <;> rfl
@[simp] theorem Ctrl.setP_fetch (c : Ctrl) (d : BitVec 3) (v : Bool) : (c.setP d v).fetch = c.fetch := by unfold Ctrl.setP; split <;> rfl
@[simp] theorem Ctrl.setP_line (c : Ctrl) (d : BitVec 3) (v : Bool) : (c.setP d v).line = c.line := by unfold Ctrl.setP; split <;> rfl
@[simp] theorem Ctrl.setP_lane (c : Ctrl) (d : BitVec 3) (v : Bool) : (c.setP d v).lane = c.lane := by unfold Ctrl.setP; split <;> rfl
@[simp] theorem Ctrl.setP_nline (c : Ctrl) (d : BitVec 3) (v : Bool) : (c.setP d v).nline = c.nline := by unfold Ctrl.setP; split <;> rfl
@[simp] theorem Ctrl.setP_nlane (c : Ctrl) (d : BitVec 3) (v : Bool) : (c.setP d v).nlane = c.nlane := by unfold Ctrl.setP; split <;> rfl
@[simp] theorem Ctrl.setP_s (c : Ctrl) (d : BitVec 3) (v : Bool) : (c.setP d v).s = c.s := by unfold Ctrl.setP; split <;> rfl
@[simp] theorem Ctrl.setP_h (c : Ctrl) (d : BitVec 3) (v : Bool) : (c.setP d v).h = c.h := by unfold Ctrl.setP; split <;> rfl
@[simp] theorem Ctrl.setP_e (c : Ctrl) (d : BitVec 3) (v : Bool) : (c.setP d v).e = c.e := by unfold Ctrl.setP; split <;> rfl
@[simp] theorem Ctrl.setP_hold (c : Ctrl) (d : BitVec 3) (v : Bool) : (c.setP d v).hold = c.hold := by unfold Ctrl.setP; split <;> rfl
@[simp] theorem Ctrl.setP_held (c : Ctrl) (d : BitVec 3) (v : Bool) : (c.setP d v).held = c.held := by unfold Ctrl.setP; split <;> rfl
@[simp] theorem Ctrl.setP_due (c : Ctrl) (d : BitVec 3) (v : Bool) : (c.setP d v).due = c.due := by unfold Ctrl.setP; split <;> rfl
@[simp] theorem Ctrl.setP_acquired (c : Ctrl) (d : BitVec 3) (v : Bool) : (c.setP d v).acquired = c.acquired := by unfold Ctrl.setP; split <;> rfl
@[simp] theorem Ctrl.setP_nextAge (c : Ctrl) (d : BitVec 3) (v : Bool) : (c.setP d v).nextAge = c.nextAge := by unfold Ctrl.setP; split <;> rfl
@[simp] theorem Ctrl.setP_late (c : Ctrl) (d : BitVec 3) (v : Bool) : (c.setP d v).late = c.late := by unfold Ctrl.setP; split <;> rfl
@[simp] theorem Ctrl.setE_fetch (c : Ctrl) (n : BitVec 6) (v : BitVec 32) : (c.setE n v).fetch = c.fetch := rfl
@[simp] theorem Ctrl.setE_line (c : Ctrl) (n : BitVec 6) (v : BitVec 32) : (c.setE n v).line = c.line := rfl
@[simp] theorem Ctrl.setE_lane (c : Ctrl) (n : BitVec 6) (v : BitVec 32) : (c.setE n v).lane = c.lane := rfl
@[simp] theorem Ctrl.setE_nline (c : Ctrl) (n : BitVec 6) (v : BitVec 32) : (c.setE n v).nline = c.nline := rfl
@[simp] theorem Ctrl.setE_nlane (c : Ctrl) (n : BitVec 6) (v : BitVec 32) : (c.setE n v).nlane = c.nlane := rfl
@[simp] theorem Ctrl.setE_s (c : Ctrl) (n : BitVec 6) (v : BitVec 32) : (c.setE n v).s = c.s := rfl
@[simp] theorem Ctrl.setE_p (c : Ctrl) (n : BitVec 6) (v : BitVec 32) : (c.setE n v).p = c.p := rfl
@[simp] theorem Ctrl.setE_h (c : Ctrl) (n : BitVec 6) (v : BitVec 32) : (c.setE n v).h = c.h := rfl
@[simp] theorem Ctrl.setE_hold (c : Ctrl) (n : BitVec 6) (v : BitVec 32) : (c.setE n v).hold = c.hold := rfl
@[simp] theorem Ctrl.setE_held (c : Ctrl) (n : BitVec 6) (v : BitVec 32) : (c.setE n v).held = c.held := rfl
@[simp] theorem Ctrl.setE_due (c : Ctrl) (n : BitVec 6) (v : BitVec 32) : (c.setE n v).due = c.due := rfl
@[simp] theorem Ctrl.setE_acquired (c : Ctrl) (n : BitVec 6) (v : BitVec 32) : (c.setE n v).acquired = c.acquired := rfl
@[simp] theorem Ctrl.setE_nextAge (c : Ctrl) (n : BitVec 6) (v : BitVec 32) : (c.setE n v).nextAge = c.nextAge := rfl
@[simp] theorem Ctrl.setE_late (c : Ctrl) (n : BitVec 6) (v : BitVec 32) : (c.setE n v).late = c.late := rfl

@[simp] theorem State.getS_zero (s : State) : s.getS 0 = 0 := Ctrl.getS_zero _
/-- A scalar of the moving context after a write. -/
theorem State.getS_setS (s : State) (d r : BitVec 5) (v : Word) :
    (s.setS d v).getS r = if r = d ∧ r ≠ 0 then v else s.getS r := by
  simp [State.getS, Ctrl.getS_setS]

end Sys2Proof.Machine
end

