-- ==== Sys2Proof/Laws/Ops.lean ====
section
/-! SUPPORT. What the shared operations of the control stream do: going on, closing loop delivery, jumping, and
entering a trap. -/

namespace Sys2Proof

open Sys2Proof.Machine

theorem OnlyMoving.refl (s : State) : OnlyMoving s s := ⟨rfl, fun _ _ => rfl⟩

theorem OnlyMoving.setCtx (s : State) (c : Ctx) : OnlyMoving s (s.setCtx c) :=
  ⟨rfl, fun k hk => by simp [hk]⟩

theorem OnlyMoving.trans {s t u : State} (h : OnlyMoving s t) (g : OnlyMoving t u) : OnlyMoving s u := by
  have hc : t.cur = s.cur := by rw [h.1]
  refine ⟨?_, fun k hk => (g.2 k (by rw [hc]; exact hk)).trans (h.2 k hk)⟩
  rw [g.1]; conv_lhs => rw [h.1]

theorem OnlyMoving.cur {s t : State} (h : OnlyMoving s t) : t.cur = s.cur := by rw [h.1]

/-- Pushing an owed marker changes only loop delivery's OWED and one queue. -/
theorem Machine.State.pushOwed_spec (s : State) :
    OnlyMoving s s.pushOwed ∧
    (s.pushOwed).ctx = { s.ctx with lp := { s.ctx.lp with owed := (s.pushOwed).ctx.lp.owed }, eng := (s.pushOwed).ctx.eng } ∧
    ∀ e, ∃ n, (s.pushOwed).ctx.engAt e =
      { s.ctx.engAt e with q := (s.ctx.engAt e).q ++ List.replicate n (.endMark s.ctx.lp.endAge) } := by
  unfold State.pushOwed
  split
  · exact ⟨.refl _, rfl, fun e => ⟨0, by simp⟩⟩
  · next x hx =>
    split
    · refine ⟨.setCtx _ _, ?_, fun e => ?_⟩
      · simp [Ctx.push, Ctx.setEng]
      · by_cases he : e = x
        · refine ⟨1, ?_⟩
          subst he
          simp [Ctx.engAt, Ctx.push, Ctx.setEng]
        · refine ⟨0, ?_⟩
          simp [Ctx.engAt, Ctx.push, Ctx.setEng, SMap.get_set, engIdx_inj, he]
    · exact ⟨.refl _, rfl, fun e => ⟨0, by simp⟩⟩

theorem Machine.State.pushOwedN_spec (n : Nat) (s : State) :
    OnlyMoving s (State.pushOwedN n s) ∧
    (State.pushOwedN n s).ctx = { s.ctx with
      lp := { s.ctx.lp with owed := (State.pushOwedN n s).ctx.lp.owed }, eng := (State.pushOwedN n s).ctx.eng } ∧
    ∀ e, ∃ m, (State.pushOwedN n s).ctx.engAt e =
      { s.ctx.engAt e with q := (s.ctx.engAt e).q ++ List.replicate m (.endMark s.ctx.lp.endAge) } := by
  induction n generalizing s with
  | zero => exact ⟨.refl _, rfl, fun e => ⟨0, by simp [State.pushOwedN]⟩⟩
  | succ n ih =>
    obtain ⟨h1, h2, h3⟩ := State.pushOwed_spec s
    obtain ⟨g1, g2, g3⟩ := ih s.pushOwed
    refine ⟨h1.trans g1, ?_, fun e => ?_⟩
    · simp only [State.pushOwedN]
      rw [g2, h2]
    · obtain ⟨a, ha⟩ := h3 e
      obtain ⟨b, hb⟩ := g3 e
      refine ⟨a + b, ?_⟩
      have hage : s.pushOwed.ctx.lp.endAge = s.ctx.lp.endAge := by rw [h2]
      simp only [State.pushOwedN]
      rw [hb, ha, hage]
      simp [List.append_assoc]

/-- Closing loop delivery. -/
theorem Machine.State.closeLoop_spec (s : State) :
    OnlyControl s s.closeLoop ∧ LoopKept s s.closeLoop s.ctx.lp.open_ ∧
    s.closeLoop.ctx.ctl = { s.ctx.ctl with nextAge := s.closeLoop.ctx.ctl.nextAge } := by
  unfold State.closeLoop
  split
  · next ho =>
    simp only [State.newAge]
    generalize hu : State.setCtx _ _ = u
    obtain ⟨h1, h2, h3⟩ := State.pushOwedN_spec 6 u
    have hm : OnlyMoving s u := by
      rw [← hu]; exact (OnlyMoving.setCtx s _).trans (OnlyMoving.setCtx _ _)
    have hc : u.ctx = { s.ctx with
        ctl := { s.ctx.ctl with nextAge := s.ctx.ctl.nextAge + 1 }
        lp := { s.ctx.lp with open_ := false, owed := s.ctx.lp.owed ||| s.ctx.lp.mask, endAge := s.ctx.ctl.nextAge * 2 ^ 40 } } := by
      rw [← hu]; simp
    refine ⟨⟨hm.trans h1, ?_⟩, ⟨?_, ?_⟩, ?_⟩
    · rw [h2, hc]
    · intro h; rw [ho] at h; cases h
    · intro _
      refine ⟨by rw [h2, hc], fun e => ?_⟩
      obtain ⟨m, hm⟩ := h3 e
      refine ⟨m, ?_⟩
      rw [hm]
      have : (State.pushOwedN 6 u).ctx.lp.endAge = u.ctx.lp.endAge := by rw [h2]
      rw [this, hc]; rfl
    · rw [h2, hc]
  · next ho =>
    refine ⟨⟨.refl _, rfl⟩, ⟨fun _ => ⟨rfl, rfl⟩, fun h => absurd h ho⟩, rfl⟩

/-- Two contexts agree but for the control stream, loop delivery and the engines. -/
theorem ctx_control_iff (c d : Ctx) : d = { c with ctl := d.ctl, lp := d.lp, eng := d.eng } ↔
    d.csr = c.csr ∧ d.fl = c.fl ∧ d.rq = c.rq ∧ d.vec = c.vec ∧ d.mat = c.mat ∧ d.pump = c.pump ∧ d.grids = c.grids ∧
    d.sig = c.sig ∧ d.fab = c.fab ∧ d.en = c.en ∧ d.tagmode = c.tagmode ∧ d.phase = c.phase ∧ d.exp = c.exp ∧
    d.img = c.img := by
  cases c; cases d; simp

theorem ctx_control_trans {c d e : Ctx} (h : d = { c with ctl := d.ctl, lp := d.lp, eng := d.eng })
    (g : e = { d with ctl := e.ctl, lp := e.lp, eng := e.eng }) : e = { c with ctl := e.ctl, lp := e.lp, eng := e.eng } := by
  rw [ctx_control_iff] at *
  simp_all

/-- The registers of the control stream are those of another state. -/
def SameRegs (s t : State) : Prop :=
  t.ctx.ctl.s = s.ctx.ctl.s ∧ t.ctx.ctl.p = s.ctx.ctl.p ∧ t.ctx.ctl.h = s.ctx.ctl.h ∧ t.ctx.ctl.e = s.ctx.ctl.e ∧
  t.ctx.ctl.due = s.ctx.ctl.due ∧ t.ctx.ctl.acquired = s.ctx.ctl.acquired

/-- Going on from a state that an instruction has left with other registers. -/
theorem Machine.State.advance_spec (s u : State) (h : OnlyControl s u) (hl : u.ctx.lp = s.ctx.lp) (he : u.ctx.eng = s.ctx.eng)
    (hf : u.ctx.ctl.fetch = s.ctx.ctl.fetch) :
    MovesTo s u.advance u.ctx.ctl.nline u.ctx.ctl.nlane (leavesLoop s u.ctx.ctl.nline) ∧ SameRegs u u.advance := by
  unfold State.advance
  simp only
  generalize hv : State.ctl u _ = v
  have hvc : v.ctx = { u.ctx with ctl := { u.ctx.ctl with line := u.ctx.ctl.nline, lane := u.ctx.ctl.nlane, hold := .none, held := 0 } } := by
    rw [← hv]; simp
  have hm : OnlyMoving s v := by rw [← hv]; exact h.1.trans (OnlyMoving.setCtx _ _)
  have huv : v.ctx = { u.ctx with ctl := v.ctx.ctl, lp := v.ctx.lp, eng := v.ctx.eng } := by rw [hvc]
  by_cases hcl : u.ctx.lp.open_ = true ∧ u.ctx.lp.last < u.ctx.ctl.nline
  · rw [if_pos hcl]
    obtain ⟨g1, g2, g4⟩ := State.closeLoop_spec v
    obtain ⟨n3, g3⟩ : ∃ n, v.closeLoop.ctx.ctl = { v.ctx.ctl with nextAge := n } := ⟨_, g4⟩
    have hl' : leavesLoop s u.ctx.ctl.nline = true := by
      rw [hl] at hcl; simp [leavesLoop, hcl.1, hcl.2]
    have ho : v.ctx.lp.open_ = true := by rw [hvc]; exact hcl.1
    rw [ho] at g2
    refine ⟨⟨⟨hm.trans g1.1, ?_⟩, ⟨?_, ?_⟩, ?_⟩, ?_⟩
    · exact ctx_control_trans (ctx_control_trans h.2 huv) g1.2
    · intro h; rw [hl'] at h; cases h
    · intro _
      refine ⟨(g2.2 rfl).1, fun e => ?_⟩
      obtain ⟨n, hn⟩ := (g2.2 rfl).2 e
      refine ⟨n, ?_⟩
      have : v.ctx.engAt e = s.ctx.engAt e := by simp only [Ctx.engAt, hvc, he]
      rw [hn, this]
    · simp [g3, hvc, hf]
    · rw [SameRegs, g3, hvc]; simp
  · rw [if_neg hcl]
    have hl' : leavesLoop s u.ctx.ctl.nline = false := by
      rw [hl] at hcl; simpa [leavesLoop] using hcl
    refine ⟨⟨⟨hm, ?_⟩, ⟨?_, ?_⟩, ?_⟩, ?_⟩
    · exact ctx_control_trans h.2 huv
    · intro _; rw [hvc]; exact ⟨hl, he⟩
    · intro h; rw [hl'] at h; cases h
    · simp [hvc, hf]
    · rw [SameRegs, hvc]; simp

theorem OnlyControl.refl (s : State) : OnlyControl s s := ⟨.refl _, rfl⟩

theorem OnlyControl.ctl (s : State) (f : Ctrl → Ctrl) : OnlyControl s (s.ctl f) :=
  ⟨.setCtx _ _, by simp⟩

/-- Going on after a change of the control stream that leaves the place and fetch alone. -/
theorem Machine.State.advance_ctl (s : State) (f : Ctrl → Ctrl) (hf : (f s.ctx.ctl).fetch = s.ctx.ctl.fetch)
    (hn : (f s.ctx.ctl).nline = s.ctx.ctl.nline) (hm : (f s.ctx.ctl).nlane = s.ctx.ctl.nlane) :
    MovesOn s (s.ctl f).advance ∧ SameRegs (s.ctl f) (s.ctl f).advance := by
  obtain ⟨g, g'⟩ := State.advance_spec s (s.ctl f) (.ctl _ _) (by simp) (by simp) (by simpa using hf)
  refine ⟨?_, g'⟩
  have e1 : (s.ctl f).ctx.ctl.nline = s.ctx.ctl.nline := by simpa using hn
  have e2 : (s.ctl f).ctx.ctl.nlane = s.ctx.ctl.nlane := by simpa using hm
  rw [e1, e2] at g
  exact g

/-- A transfer: delivery closes, the next place is lane 0 of the line, and three cycles pass. -/
theorem Machine.State.jump_spec (s u : State) (line : Nat) (h : OnlyControl s u) (hl : u.ctx.lp = s.ctx.lp)
    (he : u.ctx.eng = s.ctx.eng) (hf : u.ctx.ctl.fetch = s.ctx.ctl.fetch) :
    MovesTo s (u.jump line).advance line 0 s.ctx.lp.open_ ∧
    (u.jump line).advance.ctx.ctl.s = u.ctx.ctl.s ∧ (u.jump line).advance.ctx.ctl.p = u.ctx.ctl.p ∧
    (u.jump line).advance.ctx.ctl.h = u.ctx.ctl.h ∧ (u.jump line).advance.ctx.ctl.e = u.ctx.ctl.e ∧
    (u.jump line).advance.ctx.ctl.due = u.dcc.toNat + 3 := by
  unfold State.jump
  generalize hv : State.ctl u _ = v
  have hvc : v.ctx = { u.ctx with ctl := { u.ctx.ctl with nline := line, nlane := 0 } } := by rw [← hv]; simp
  obtain ⟨g1, g2, g0⟩ := State.closeLoop_spec v
  obtain ⟨n3, g3⟩ : ∃ n, v.closeLoop.ctx.ctl = { v.ctx.ctl with nextAge := n } := ⟨_, g0⟩
  have hm : OnlyMoving s v := by rw [← hv]; exact h.1.trans (OnlyMoving.setCtx _ _)
  have hopen : v.closeLoop.ctx.lp.open_ = false := by
    cases ho : v.ctx.lp.open_
    · rw [(g2.1 ho).1, ho]
    · exact (g2.2 ho).1
  generalize hw : State.occupy v.closeLoop 3 = w
  have hwc : w.ctx = { v.closeLoop.ctx with ctl := { v.closeLoop.ctx.ctl with due := v.closeLoop.dcc.toNat + 3, late := none } } := by
    rw [← hw]; simp
  have hwm : OnlyMoving s w := by
    rw [← hw]; exact (hm.trans g1.1).trans (OnlyMoving.setCtx _ _)
  have hd : v.closeLoop.dcc = u.dcc := by
    rw [(hm.trans g1.1).1]; rw [h.1.1]
  have hadv : w.advance = w.ctl (fun c => { c with line := c.nline, lane := c.nlane, hold := .none, held := 0 }) := by
    unfold State.advance
    have : w.ctx.lp.open_ = false := by rw [hwc]; exact hopen
    simp [this]
  rw [hadv]
  have huv : v.ctx = { u.ctx with ctl := v.ctx.ctl, lp := v.ctx.lp, eng := v.ctx.eng } := by rw [hvc]
  refine ⟨⟨⟨hwm.trans (OnlyMoving.setCtx _ _), ?_⟩, ⟨?_, ?_⟩, ?_⟩, ?_, ?_, ?_, ?_, ?_⟩
  · refine ctx_control_trans (ctx_control_trans (ctx_control_trans h.2 huv) g1.2) ?_
    rw [State.ctx_ctl, hwc]
  · intro ho
    have hv' : v.ctx.lp.open_ = false := by rw [hvc]; simp [hl, ho]
    have := g2.1 hv'
    simp [hwc, this.1, this.2, hvc, hl, he]
  · intro ho
    have hv' : v.ctx.lp.open_ = true := by rw [hvc]; simp [hl, ho]
    obtain ⟨g4, g5⟩ := g2.2 hv'
    refine ⟨by simp [hwc, g4], fun e => ?_⟩
    obtain ⟨n, hn⟩ := g5 e
    refine ⟨n, ?_⟩
    have e1 : v.ctx.engAt e = s.ctx.engAt e := by simp only [Ctx.engAt, hvc, he]
    have e2 : (w.ctl (fun c => { c with line := c.nline, lane := c.nlane, hold := .none, held := 0 })).ctx.engAt e = v.closeLoop.ctx.engAt e := by
      simp [Ctx.engAt, hwc]
    rw [e2, hn, e1]; simp [hwc]
  all_goals simp [hwc, g3, hvc, hf, hd]

theorem OnlyControl.trans {s t u : State} (h : OnlyControl s t) (g : OnlyControl t u) : OnlyControl s u :=
  ⟨h.1.trans g.1, ctx_control_trans h.2 g.2⟩

/-- A control instruction that leaves a state with other registers goes on from it. -/
theorem controlOp_ok_spec (s u : State) (h : OnlyControl s u) (hl : u.ctx.lp = s.ctx.lp) (he : u.ctx.eng = s.ctx.eng)
    (hf : u.ctx.ctl.fetch = s.ctx.ctl.fetch) (hn : u.ctx.ctl.nline = s.ctx.ctl.nline)
    (hm : u.ctx.ctl.nlane = s.ctx.ctl.nlane) :
    ∃ t, controlOp (.ok u) = .next t ∧ MovesOn s t ∧ SameRegs u t := by
  refine ⟨_, rfl, ?_⟩
  obtain ⟨g, g'⟩ := State.advance_spec s u h hl he hf
  rw [hn, hm] at g
  exact ⟨g, g'⟩

end Sys2Proof
end

