-- ==== Sys2Proof/Laws/Access.lean ====
section
/-! SUPPORT. What the operations over memory and the resolution of an access do: a store writes its bytes and marks the lines
of HBM; a resolution changes translation, energy and records alone; all of them keep memory canonical. -/

namespace Sys2Proof

open Sys2Proof.Machine

/-! ## Lines -/

/-- While no line carries an owner and none is bad, no line fails its check (R399). -/
theorem Machine.State.badLine_none (s : State) (a n : Nat) (h : s.owner = []) (h' : s.badLines = []) : s.badLine a n = none := by
  refine List.find?_eq_none.2 (fun l _ => ?_)
  simp [State.lineOk, h, h']

/-! ## Stores -/

/-- A store writes its bytes; of everything else only what HBM lines carry and walkers still read changes (R246, R399). -/
theorem Machine.State.store_spec (s : State) (a n v : Nat) :
    ∃ o b w, s.store a n v = { s with mem := s.mem.write a n v, owner := o, badLines := b, told := w } := by
  unfold State.store
  split
  · exact ⟨_, _, _, rfl⟩
  · exact ⟨s.owner, s.badLines, s.told, rfl⟩

@[simp] theorem Machine.State.store_mem (s : State) (a n v : Nat) : (s.store a n v).mem = s.mem.write a n v := by
  obtain ⟨o, b, w, h⟩ := s.store_spec a n v
  rw [h]

/-- The bytes of several pieces are written one after another, and nothing else changes but what HBM lines carry. -/
theorem Machine.State.storeSegs_spec (s : State) (l : List Seg) :
    ∃ o b w, s.storeSegs l =
      { s with mem := l.foldl (fun m g => m.write g.a g.n g.v) s.mem, owner := o, badLines := b, told := w } := by
  induction l generalizing s with
  | nil => exact ⟨s.owner, s.badLines, s.told, rfl⟩
  | cons g l ih =>
    obtain ⟨o, b, w, h⟩ := s.store_spec g.a g.n g.v
    obtain ⟨o', b', w', h'⟩ := ih (s.store g.a g.n g.v)
    refine ⟨o', b', w', ?_⟩
    have e : s.storeSegs (g :: l) = (s.store g.a g.n g.v).storeSegs l := rfl
    rw [e, h', h]; rfl

@[simp] theorem Machine.State.storeSegs_mem (s : State) (l : List Seg) :
    (s.storeSegs l).mem = l.foldl (fun m g => m.write g.a g.n g.v) s.mem := by
  obtain ⟨o, b, w, h⟩ := s.storeSegs_spec l
  rw [h]

theorem Machine.Mem.wf_writes (l : List Seg) (m : Mem) (h : Mem.wf m = true) :
    Mem.wf (l.foldl (fun m g => m.write g.a g.n g.v) m) = true := by
  induction l generalizing m with
  | nil => exact h
  | cons g l ih => exact ih _ (Mem.wf_write m g.a g.n g.v h)

/-- What pieces do not touch reads as before. -/
theorem Machine.Mem.read_writes_ne (l : List Seg) (m : Mem) (b k : Nat) (h : ∀ g ∈ l, b + k ≤ g.a ∨ g.a + g.n ≤ b) :
    Mem.read (l.foldl (fun m g => m.write g.a g.n g.v) m) b k = Mem.read m b k := by
  induction l generalizing m with
  | nil => rfl
  | cons g l ih =>
    rw [List.foldl_cons, ih _ (fun x hx => h x (List.mem_cons_of_mem g hx)), Mem.read_write_ne m g.a g.n g.v b k (h g (List.mem_cons_self ..))]

theorem MemCanonical.store {s : State} (h : MemCanonical s) (a n v : Nat) : MemCanonical (s.store a n v) := by
  simpa [MemCanonical] using Mem.wf_write s.mem a n v h

theorem MemCanonical.storeSegs {s : State} (h : MemCanonical s) (l : List Seg) : MemCanonical (s.storeSegs l) := by
  simpa [MemCanonical] using Mem.wf_writes l s.mem h

/-- A reader's view of a context's own posted writes is canonical too. -/
theorem Machine.Ctx.wf_view (c : Ctx) (src : Nat) (m : Mem) (h : Mem.wf m = true) : Mem.wf (c.view src m) = true := by
  unfold Ctx.view
  generalize c.fl.filter _ = l
  induction l generalizing m with
  | nil => exact h
  | cons f l ih => exact ih _ (Mem.wf_writes _ m h)

/-! ## Resolution -/

/-- Nothing changed but translation and its notifications, energy accounts, vectors and the log. -/
def Translated (s t : State) : Prop :=
  t = { s with mem := t.mem, owner := t.owner, badLines := t.badLines, told := t.told, ctxs := t.ctxs, worlds := t.worlds, dev := t.dev } ∧
  (∀ k, t.ctxAt k = { s.ctxAt k with en := (t.ctxAt k).en }) ∧ (MemCanonical s → MemCanonical t)

theorem Translated.refl (s : State) : Translated s s := ⟨rfl, fun _ => rfl, id⟩

theorem Translated.trans {s t u : State} (h : Translated s t) (g : Translated t u) : Translated s u := by
  refine ⟨?_, fun k => ?_, g.2.2 ∘ h.2.2⟩
  · rw [g.1]; conv_lhs => rw [h.1]
  · rw [g.2.1 k]; conv_lhs => rw [h.2.1 k]

theorem Translated.cur {s t : State} (h : Translated s t) : t.cur = s.cur := by rw [h.1]

theorem Translated.setWorld (s : State) (w : Nat) (x : World) : Translated s (s.setWorld w x) := ⟨rfl, fun _ => rfl, id⟩

theorem Translated.dev (s : State) (d : Device) : Translated s { s with dev := d } := ⟨rfl, fun _ => rfl, id⟩

theorem Translated.store (s : State) (a n v : Nat) : Translated s (s.store a n v) := by
  obtain ⟨o, b, w, h⟩ := s.store_spec a n v
  refine ⟨by rw [h], fun k => by rw [h]; rfl, fun hm => hm.store a n v⟩

theorem Translated.charge (s : State) (k cls n : Nat) : Translated s (s.charge k cls n) := by
  refine ⟨rfl, fun j => ?_, id⟩
  simp only [State.charge]
  by_cases hj : j = k
  · subst hj; simp
  · simp [hj]

theorem Translated.chargeRuns (s : State) (k : Nat) (l : List (Nat × Nat)) : Translated s (s.chargeRuns k l) := by
  unfold State.chargeRuns
  induction l generalizing s with
  | nil => exact .refl s
  | cons r l ih =>
    rw [List.foldl_cons]
    refine Translated.trans ?_ (ih _)
    split
    · exact .charge ..
    · split
      · exact .charge ..
      · exact .refl s

theorem Translated.logged (s : State) (c : Nat) (d : Word) : Translated s (s.logged c d) := (Translated.dev ..).trans (.dev ..)

theorem Translated.integrity (s : State) (w line : Nat) : Translated s (s.integrity w line) :=
  ((Translated.setWorld ..).trans (.setWorld ..)).trans (.logged ..)

theorem Translated.recordFault (s : State) (w va l r : Nat) (line : Option Nat) : Translated s (s.recordFault w va l r line) := by
  unfold State.recordFault
  refine Translated.trans ?_ ((Translated.setWorld ..).trans (.setWorld ..))
  split
  · exact .integrity ..
  · exact .refl s

/-- An entry posted, where what puts it translates only. -/
theorem Translated.notify (s : State) (w : Nat) (put : State → Nat → State × Option Nat) (t : Tlb) (c : Nat)
    (h : ∀ s va, Translated s (put s va).1) : Translated s (s.notify w put t c) := by
  unfold State.notify
  simp only
  split
  · exact .refl s
  · split
    · exact .setWorld ..
    · have p := h s ((s.world w).x.nqva + 16 * (s.world w).x.nqtail.toNat)
      split
      · next e => rw [e] at p; exact p.trans (.setWorld ..)
      · next e => rw [e] at p; exact ((p.trans (.store ..)).trans (.setWorld ..)).trans (.setWorld ..)

theorem Translated.notifyAt (s : State) (w : Nat) (count : State → Tlb → Nat → State) (va : Nat)
    (h : ∀ s p va, Translated s (count s p va)) : Translated s (s.notifyAt w count va).1 := by
  unfold State.notifyAt
  split
  · split
    · exact .refl s
    · split
      · exact .logged ..
      · exact h ..
  · exact .recordFault ..
  · exact .logged ..
  · exact .refl s

theorem Translated.countLines (s : State) (w fuel : Nat) (t : Tlb) (va n : Nat) : Translated s (s.countLines w fuel t va n) := by
  induction fuel generalizing s t va n with
  | zero => exact .setWorld ..
  | succ fuel ih =>
    unfold State.countLines
    split
    · simp only
      split
      · exact (Translated.setWorld ..).trans (.notify _ _ _ _ _ (fun s va => .notifyAt _ _ _ _ (fun s p va => ih ..)))
      · exact .setWorld ..
    · exact .setWorld ..

/-- The state that a resolution leaves. -/
def Machine.Acc.state : Acc → State
  | .ok s _ => s
  | .page s _ => s
  | .blocked s _ => s
  | .denied s => s

theorem Translated.foldl {α : Type} (f : State → α → State) (h : ∀ s a, Translated s (f s a)) (l : List α) (s : State) :
    Translated s (l.foldl f s) := by
  induction l generalizing s with
  | nil => exact .refl s
  | cons a l ih => exact (h s a).trans (ih _)

theorem Translated.dropFrom (s : State) (c w : Nat) (t : Tlb) : Translated s (s.dropFrom c w t) := by
  unfold State.dropFrom
  simp only
  split
  · refine Translated.trans ?_ (.setWorld ..)
    unfold State.writeBack
    split
    · exact .store ..
    · exact .refl s
  · exact .setWorld ..

theorem Translated.markIn (s : State) (w : Nat) (t : Tlb) (c : Nat) : Translated s (s.markIn w t c) := by
  unfold State.markIn
  split
  · split
    · exact .refl s
    · exact .setWorld ..
  · exact .refl s

theorem Translated.keepIn (s : State) (w : Nat) (t : Tlb) (c : Nat) : Translated s (s.keepIn w t c) := by
  have h := Translated.markIn s w t c
  unfold State.keepIn
  simp only
  split
  · split
    · exact h.trans (.dropFrom ..)
    · exact h
  · exact h

/-- A translation of virtual bytes, whatever it meets (R242 to R247, R390). -/
theorem Machine.State.trace_spec (s : State) (c : List Nat) (w va n : Nat) (wr : Bool) : Translated s (s.trace c w va n wr).state := by
  unfold State.trace
  split
  · exact .recordFault ..
  · exact .logged ..
  · next l _ =>
    have h : Translated s (l.foldl (fun s e => c.foldl (fun s c => s.keepIn w e.1 c) (s.cacheSet w e.1)) s) :=
      Translated.foldl _ (fun s e => (Translated.setWorld ..).trans (Translated.foldl _ (fun s c => .keepIn ..) _ _)) _ s
    simp only
    split
    · exact h
    · split
      · exact .logged ..
      · exact h

theorem Translated.countVa (s : State) (w va n : Nat) : Translated s (s.countVa w va n) := by
  unfold State.countVa
  split
  · refine Translated.foldl _ (fun s e => ?_) _ s
    split
    · exact .countLines ..
    · exact .refl s
  · exact .refl s

/-- A resolution of virtual bytes by any unit, whatever it meets (R242 to R251, R390). -/
theorem Machine.State.reach_spec (s : State) (c : List Nat) (w va n : Nat) (wr : Bool) : Translated s (s.reach c w va n wr).state := by
  have h := s.trace_spec c w va n wr
  unfold State.reach
  split
  · next e => rw [e] at h; exact h.trans (.countVa ..)
  · exact h

/-- A resolution of virtual bytes for a context, whatever it meets (R386). -/
theorem Machine.State.resolveVa_spec (s : State) (k w va n : Nat) (wr : Bool) : Translated s (s.resolveVa k w va n wr).state := by
  have h := s.reach_spec (cachesAt k) w va n wr
  unfold State.resolveVa
  split
  · next e => rw [e] at h; exact h.trans (.chargeRuns ..)
  · exact h

/-- Accesses translated together. -/
theorem Machine.State.traceAll_spec {c : List Nat} {w : Nat} {wr : Bool} {l : List (Nat × Nat)} {s u : State} {rs : List (List (Nat × Nat))}
    (e : State.traceAll c w wr l s = .ok (u, rs)) : Translated s u := by
  induction l generalizing s rs with
  | nil => simp only [State.traceAll] at e; cases e; exact .refl _
  | cons x l ih =>
    obtain ⟨va, n⟩ := x
    have h := s.trace_spec c w va n wr
    simp only [State.traceAll] at e
    split at e
    · next t runs ht =>
      rw [ht] at h
      split at e
      · next v rs' hv => cases e; exact h.trans (ih hv)
      · next hv => exact (hv _ _ e).elim
    · cases e

/-- Virtual accesses of one instruction resolved together. -/
theorem Machine.State.resolveVas_spec {s u : State} {k w : Nat} {l : List (Nat × Nat)} {wr : Bool} {rs : List (List (Nat × Nat))}
    (e : s.resolveVas k w l wr = .ok (u, rs)) : Translated s u := by
  unfold Machine.State.resolveVas at e
  split at e
  · next ht =>
    cases e
    exact ((State.traceAll_spec ht).trans (Translated.foldl _ (fun s e => .countVa ..) _ _)).trans (.chargeRuns ..)
  · cases e

/-- A resolution of an access through a handle, whatever it meets (R30, R242 to R251, R386, R390). -/
theorem Machine.State.resolveAt_spec (s : State) (k : Nat) (h : Handle) (o n : Nat) (wr : Bool) :
    Translated s (s.resolveAt k h o n wr).state := by
  unfold State.resolveAt
  split
  · exact .refl s
  · split
    · split
      · split
        · exact .chargeRuns ..
        · exact .logged ..
      · exact .logged ..
    · exact s.resolveVa_spec ..

/-- A resolution that succeeds. -/
theorem Machine.State.resolve_spec {s u : State} {h : Handle} {o n : Nat} {wr : Bool} {l : List (Nat × Nat)}
    (e : s.resolve h o n wr = .ok u l) : Translated s u := by
  have := s.resolveAt_spec s.cur h o n wr
  unfold State.resolve at e
  rw [e] at this
  exact this

/-- Accesses of one instruction through a handle resolved together. -/
theorem Machine.State.resolveMany_spec {s u : State} {k : Nat} {h : Handle} {l : List (Nat × Nat)} {wr : Bool} {rs : List (List (Nat × Nat))}
    (e : s.resolveMany k h l wr = .ok (u, rs)) : Translated s u := by
  unfold State.resolveMany at e
  split at e
  · split at e
    · cases e; exact .chargeRuns ..
    · cases e
    · cases e
  · exact State.resolveVas_spec e

/-- What resolving a waiting write leaves. -/
theorem Machine.State.resolveSegs_spec {s u : State} {w : Nat} {l g : List Seg} (e : s.resolveSegs w l = .ok (u, g)) :
    Translated s u := by
  unfold State.resolveSegs at e
  split at e
  · next h => cases e; exact State.resolveVas_spec h
  · cases e

end Sys2Proof
end

