-- ==== Sys2Proof/Laws/Dispatch.lean ====
section
/-! SUPPORT. What exec answers for each instruction, and what an event that the device brings about performs. -/

namespace Sys2Proof.Machine

@[simp] theorem exec_add (d a b : BitVec 5) (s : State) : exec (.add d a b) s = execAdd d a b s := rfl
@[simp] theorem exec_sub (d a b : BitVec 5) (s : State) : exec (.sub d a b) s = execSub d a b s := rfl
@[simp] theorem exec_mul (d a b : BitVec 5) (s : State) : exec (.mul d a b) s = execMul d a b s := rfl
@[simp] theorem exec_mulh (d a b : BitVec 5) (s : State) : exec (.mulh d a b) s = execMulh d a b s := rfl
@[simp] theorem exec_div (d a b : BitVec 5) (s : State) : exec (.div d a b) s = execDiv d a b s := rfl
@[simp] theorem exec_divu (d a b : BitVec 5) (s : State) : exec (.divu d a b) s = execDivu d a b s := rfl
@[simp] theorem exec_rem (d a b : BitVec 5) (s : State) : exec (.rem d a b) s = execRem d a b s := rfl
@[simp] theorem exec_and (d a b : BitVec 5) (s : State) : exec (.and d a b) s = execAnd d a b s := rfl
@[simp] theorem exec_or (d a b : BitVec 5) (s : State) : exec (.or d a b) s = execOr d a b s := rfl
@[simp] theorem exec_xor (d a b : BitVec 5) (s : State) : exec (.xor d a b) s = execXor d a b s := rfl
@[simp] theorem exec_sll (d a b : BitVec 5) (s : State) : exec (.sll d a b) s = execSll d a b s := rfl
@[simp] theorem exec_srl (d a b : BitVec 5) (s : State) : exec (.srl d a b) s = execSrl d a b s := rfl
@[simp] theorem exec_sra (d a b : BitVec 5) (s : State) : exec (.sra d a b) s = execSra d a b s := rfl
@[simp] theorem exec_min (d a b : BitVec 5) (s : State) : exec (.min d a b) s = execMin d a b s := rfl
@[simp] theorem exec_max (d a b : BitVec 5) (s : State) : exec (.max d a b) s = execMax d a b s := rfl
@[simp] theorem exec_clz (d a : BitVec 5) (s : State) : exec (.clz d a) s = execClz d a s := rfl
@[simp] theorem exec_popc (d a : BitVec 5) (s : State) : exec (.popc d a) s = execPopc d a s := rfl
@[simp] theorem exec_addi (d a : BitVec 5) (imm : BitVec 11) (s : State) : exec (.addi d a imm) s = execAddi d a imm s := rfl
@[simp] theorem exec_subi (d a : BitVec 5) (imm : BitVec 11) (s : State) : exec (.subi d a imm) s = execSubi d a imm s := rfl
@[simp] theorem exec_andi (d a : BitVec 5) (imm : BitVec 11) (s : State) : exec (.andi d a imm) s = execAndi d a imm s := rfl
@[simp] theorem exec_ori (d a : BitVec 5) (imm : BitVec 11) (s : State) : exec (.ori d a imm) s = execOri d a imm s := rfl
@[simp] theorem exec_xori (d a : BitVec 5) (imm : BitVec 11) (s : State) : exec (.xori d a imm) s = execXori d a imm s := rfl
@[simp] theorem exec_slli (d a : BitVec 5) (imm : BitVec 11) (s : State) : exec (.slli d a imm) s = execSlli d a imm s := rfl
@[simp] theorem exec_srli (d a : BitVec 5) (imm : BitVec 11) (s : State) : exec (.srli d a imm) s = execSrli d a imm s := rfl
@[simp] theorem exec_srai (d a : BitVec 5) (imm : BitVec 11) (s : State) : exec (.srai d a imm) s = execSrai d a imm s := rfl
@[simp] theorem exec_li (d : BitVec 5) (imm : BitVec 16) (s : State) : exec (.li d imm) s = execLi d imm s := rfl
@[simp] theorem exec_liLong (d : BitVec 5) (imm : BitVec 64) (s : State) : exec (.liLong d imm) s = execLiLong d imm s := rfl
@[simp] theorem exec_cmpeq (p : BitVec 3) (a b : BitVec 5) (s : State) : exec (.cmpeq p a b) s = execCmpeq p a b s := rfl
@[simp] theorem exec_cmpne (p : BitVec 3) (a b : BitVec 5) (s : State) : exec (.cmpne p a b) s = execCmpne p a b s := rfl
@[simp] theorem exec_cmplt (p : BitVec 3) (a b : BitVec 5) (s : State) : exec (.cmplt p a b) s = execCmplt p a b s := rfl
@[simp] theorem exec_cmple (p : BitVec 3) (a b : BitVec 5) (s : State) : exec (.cmple p a b) s = execCmple p a b s := rfl
@[simp] theorem exec_cmpltu (p : BitVec 3) (a b : BitVec 5) (s : State) : exec (.cmpltu p a b) s = execCmpltu p a b s := rfl
@[simp] theorem exec_cmpleu (p : BitVec 3) (a b : BitVec 5) (s : State) : exec (.cmpleu p a b) s = execCmpleu p a b s := rfl
@[simp] theorem exec_cmpeqImm (p : BitVec 3) (a : BitVec 5) (imm : BitVec 13) (s : State) : exec (.cmpeqImm p a imm) s = execCmpeqImm p a imm s := rfl
@[simp] theorem exec_cmpneImm (p : BitVec 3) (a : BitVec 5) (imm : BitVec 13) (s : State) : exec (.cmpneImm p a imm) s = execCmpneImm p a imm s := rfl
@[simp] theorem exec_cmpltImm (p : BitVec 3) (a : BitVec 5) (imm : BitVec 13) (s : State) : exec (.cmpltImm p a imm) s = execCmpltImm p a imm s := rfl
@[simp] theorem exec_cmpleImm (p : BitVec 3) (a : BitVec 5) (imm : BitVec 13) (s : State) : exec (.cmpleImm p a imm) s = execCmpleImm p a imm s := rfl
@[simp] theorem exec_cmpltuImm (p : BitVec 3) (a : BitVec 5) (imm : BitVec 13) (s : State) : exec (.cmpltuImm p a imm) s = execCmpltuImm p a imm s := rfl
@[simp] theorem exec_cmpleuImm (p : BitVec 3) (a : BitVec 5) (imm : BitVec 13) (s : State) : exec (.cmpleuImm p a imm) s = execCmpleuImm p a imm s := rfl
@[simp] theorem exec_andp (d a b : BitVec 3) (s : State) : exec (.andp d a b) s = execAndp d a b s := rfl
@[simp] theorem exec_orp (d a b : BitVec 3) (s : State) : exec (.orp d a b) s = execOrp d a b s := rfl
@[simp] theorem exec_xorp (d a b : BitVec 3) (s : State) : exec (.xorp d a b) s = execXorp d a b s := rfl
@[simp] theorem exec_notp (d a : BitVec 3) (s : State) : exec (.notp d a) s = execNotp d a s := rfl
@[simp] theorem exec_ldb (d : BitVec 5) (h : BitVec 6) (a u : BitVec 5) (s : State) : exec (.ldb d h a u) s = execLdb d h a u s := rfl
@[simp] theorem exec_ldbu (d : BitVec 5) (h : BitVec 6) (a u : BitVec 5) (s : State) : exec (.ldbu d h a u) s = execLdbu d h a u s := rfl
@[simp] theorem exec_ldh (d : BitVec 5) (h : BitVec 6) (a u : BitVec 5) (s : State) : exec (.ldh d h a u) s = execLdh d h a u s := rfl
@[simp] theorem exec_ldhu (d : BitVec 5) (h : BitVec 6) (a u : BitVec 5) (s : State) : exec (.ldhu d h a u) s = execLdhu d h a u s := rfl
@[simp] theorem exec_ldw (d : BitVec 5) (h : BitVec 6) (a u : BitVec 5) (s : State) : exec (.ldw d h a u) s = execLdw d h a u s := rfl
@[simp] theorem exec_ldwu (d : BitVec 5) (h : BitVec 6) (a u : BitVec 5) (s : State) : exec (.ldwu d h a u) s = execLdwu d h a u s := rfl
@[simp] theorem exec_ldd (d : BitVec 5) (h : BitVec 6) (a u : BitVec 5) (s : State) : exec (.ldd d h a u) s = execLdd d h a u s := rfl
@[simp] theorem exec_stb (d : BitVec 5) (h : BitVec 6) (a u : BitVec 5) (s : State) : exec (.stb d h a u) s = execStb d h a u s := rfl
@[simp] theorem exec_sth (d : BitVec 5) (h : BitVec 6) (a u : BitVec 5) (s : State) : exec (.sth d h a u) s = execSth d h a u s := rfl
@[simp] theorem exec_stw (d : BitVec 5) (h : BitVec 6) (a u : BitVec 5) (s : State) : exec (.stw d h a u) s = execStw d h a u s := rfl
@[simp] theorem exec_std (d : BitVec 5) (h : BitVec 6) (a u : BitVec 5) (s : State) : exec (.std d h a u) s = execStd d h a u s := rfl
@[simp] theorem exec_ldbLong (d : BitVec 5) (h : BitVec 6) (a : BitVec 5) (imm : BitVec 28) (s : State) : exec (.ldbLong d h a imm) s = execLdbLong d h a imm s := rfl
@[simp] theorem exec_ldbuLong (d : BitVec 5) (h : BitVec 6) (a : BitVec 5) (imm : BitVec 28) (s : State) : exec (.ldbuLong d h a imm) s = execLdbuLong d h a imm s := rfl
@[simp] theorem exec_ldhLong (d : BitVec 5) (h : BitVec 6) (a : BitVec 5) (imm : BitVec 28) (s : State) : exec (.ldhLong d h a imm) s = execLdhLong d h a imm s := rfl
@[simp] theorem exec_ldhuLong (d : BitVec 5) (h : BitVec 6) (a : BitVec 5) (imm : BitVec 28) (s : State) : exec (.ldhuLong d h a imm) s = execLdhuLong d h a imm s := rfl
@[simp] theorem exec_ldwLong (d : BitVec 5) (h : BitVec 6) (a : BitVec 5) (imm : BitVec 28) (s : State) : exec (.ldwLong d h a imm) s = execLdwLong d h a imm s := rfl
@[simp] theorem exec_ldwuLong (d : BitVec 5) (h : BitVec 6) (a : BitVec 5) (imm : BitVec 28) (s : State) : exec (.ldwuLong d h a imm) s = execLdwuLong d h a imm s := rfl
@[simp] theorem exec_lddLong (d : BitVec 5) (h : BitVec 6) (a : BitVec 5) (imm : BitVec 28) (s : State) : exec (.lddLong d h a imm) s = execLddLong d h a imm s := rfl
@[simp] theorem exec_stbLong (d : BitVec 5) (h : BitVec 6) (a : BitVec 5) (imm : BitVec 28) (s : State) : exec (.stbLong d h a imm) s = execStbLong d h a imm s := rfl
@[simp] theorem exec_sthLong (d : BitVec 5) (h : BitVec 6) (a : BitVec 5) (imm : BitVec 28) (s : State) : exec (.sthLong d h a imm) s = execSthLong d h a imm s := rfl
@[simp] theorem exec_stwLong (d : BitVec 5) (h : BitVec 6) (a : BitVec 5) (imm : BitVec 28) (s : State) : exec (.stwLong d h a imm) s = execStwLong d h a imm s := rfl
@[simp] theorem exec_stdLong (d : BitVec 5) (h : BitVec 6) (a : BitVec 5) (imm : BitVec 28) (s : State) : exec (.stdLong d h a imm) s = execStdLong d h a imm s := rfl
@[simp] theorem exec_amo (dw : Bool) (d : BitVec 5) (h : BitVec 6) (a : BitVec 5) (op : AOp) (sc : Scope) (ord : Ord) (b : BitVec 5) (s : State) : exec (.amo dw d h a op sc ord b) s = execAmo dw d h a op sc ord b s := rfl
@[simp] theorem exec_acas (dw : Bool) (d : BitVec 5) (h : BitVec 6) (a : BitVec 5) (sc : Scope) (ord : Ord) (b c : BitVec 5) (s : State) : exec (.acas dw d h a sc ord b c) s = execAcas dw d h a sc ord b c s := rfl
@[simp] theorem exec_hq (d : BitVec 5) (h : BitVec 6) (sel : BitVec 4) (s : State) : exec (.hq d h sel) s = execHq d h sel s := rfl
@[simp] theorem exec_hderive (hd ha : BitVec 6) (a b keep : BitVec 5) (s : State) : exec (.hderive hd ha a b keep) s = execHderive hd ha a b keep s := rfl
@[simp] theorem exec_hoff (hd ha : BitVec 6) (a : BitVec 5) (s : State) : exec (.hoff hd ha a) s = execHoff hd ha a s := rfl
@[simp] theorem exec_hclear (hd : BitVec 6) (s : State) : exec (.hclear hd) s = execHclear hd s := rfl
@[simp] theorem exec_b (line : BitVec 13) (s : State) : exec (.b line) s = execB line s := rfl
@[simp] theorem exec_bc (p : BitVec 3) (line : BitVec 13) (s : State) : exec (.bc p line) s = execBc p line s := rfl
@[simp] theorem exec_bcn (p : BitVec 3) (line : BitVec 13) (s : State) : exec (.bcn p line) s = execBcn p line s := rfl
@[simp] theorem exec_call (d : BitVec 5) (line : BitVec 13) (s : State) : exec (.call d line) s = execCall d line s := rfl
@[simp] theorem exec_callr (d a : BitVec 5) (s : State) : exec (.callr d a) s = execCallr d a s := rfl
@[simp] theorem exec_ret (a : BitVec 5) (s : State) : exec (.ret a) s = execRet a s := rfl
@[simp] theorem exec_loopb (mask : BitVec 6) (lm1 : BitVec 5) (nm1 : BitVec 16) (skews : Skews) (s : State) : exec (.loopb mask lm1 nm1 skews) s = execLoopb mask lm1 nm1 skews s := rfl
@[simp] theorem exec_csrr (r : BitVec 5) (num : BitVec 12) (s : State) : exec (.csrr r num) s = execCsrr r num s := rfl
@[simp] theorem exec_csrw (r : BitVec 5) (num : BitVec 12) (s : State) : exec (.csrw r num) s = execCsrw r num s := rfl
@[simp] theorem exec_csrs (r : BitVec 5) (num : BitVec 12) (s : State) : exec (.csrs r num) s = execCsrs r num s := rfl
@[simp] theorem exec_csrc (r : BitVec 5) (num : BitVec 12) (s : State) : exec (.csrc r num) s = execCsrc r num s := rfl
@[simp] theorem exec_rddcc (r : BitVec 5) (s : State) : exec (.rddcc r) s = execRddcc r s := rfl
@[simp] theorem exec_dccwait (r : BitVec 5) (s : State) : exec (.dccwait r) s = execDccwait r s := rfl
@[simp] theorem exec_evinc (e : BitVec 6) (a : BitVec 5) (sc : Scope) (rel : Bool) (s : State) : exec (.evinc e a sc rel) s = execEvinc e a sc rel s := rfl
@[simp] theorem exec_evincN (e : BitVec 6) (a : BitVec 5) (sc : Scope) (rel : Bool) (b : BitVec 5) (s : State) : exec (.evincN e a sc rel b) s = execEvincN e a sc rel b s := rfl
@[simp] theorem exec_evwait (e : BitVec 6) (acq : Bool) (t : BitVec 11) (s : State) : exec (.evwait e acq t) s = execEvwait e acq t s := rfl
@[simp] theorem exec_evwaitReg (e : BitVec 6) (acq : Bool) (t : BitVec 5) (s : State) : exec (.evwaitReg e acq t) s = execEvwaitReg e acq t s := rfl
@[simp] theorem exec_evread (d : BitVec 5) (e : BitVec 6) (s : State) : exec (.evread d e) s = execEvread d e s := rfl
@[simp] theorem exec_fencem (mask : BitVec 6) (s : State) : exec (.fencem mask) s = execFencem mask s := rfl
@[simp] theorem exec_fence (sc : Scope) (s : State) : exec (.fence sc) s = execFence sc s := rfl
@[simp] theorem exec_banklend (bank : BitVec 2) (grp : BitVec 1) (s : State) : exec (.banklend bank grp) s = execBanklend bank grp s := rfl
@[simp] theorem exec_bankret (grp : BitVec 1) (s : State) : exec (.bankret grp) s = execBankret grp s := rfl
@[simp] theorem exec_tbar (team : BitVec 8) (a : BitVec 5) (s : State) : exec (.tbar team a) s = execTbar team a s := rfl
@[simp] theorem exec_svc (code : BitVec 16) (s : State) : exec (.svc code) s = execSvc code s := rfl
@[simp] theorem exec_trap (code : BitVec 16) (s : State) : exec (.trap code) s = execTrap code s := rfl
@[simp] theorem exec_tret (s : State) : exec (.tret) s = execTret s := rfl
@[simp] theorem exec_halt (s : State) : exec (.halt) s = execHalt s := rfl
@[simp] theorem exec_nop (s : State) : exec (.nop) s = execNop s := rfl
@[simp] theorem exec_vadd (f : Fmt) (o : VOp) (s : State) : exec (.vadd f o) s = execVadd f o s := rfl
@[simp] theorem exec_vsub (f : Fmt) (o : VOp) (s : State) : exec (.vsub f o) s = execVsub f o s := rfl
@[simp] theorem exec_vmul (f : Fmt) (o : VOp) (s : State) : exec (.vmul f o) s = execVmul f o s := rfl
@[simp] theorem exec_vfma (f : Fmt) (o : VOp) (s : State) : exec (.vfma f o) s = execVfma f o s := rfl
@[simp] theorem exec_vmin (f : Fmt) (o : VOp) (s : State) : exec (.vmin f o) s = execVmin f o s := rfl
@[simp] theorem exec_vmax (f : Fmt) (o : VOp) (s : State) : exec (.vmax f o) s = execVmax f o s := rfl
@[simp] theorem exec_vabs (f : Fmt) (o : VOp) (s : State) : exec (.vabs f o) s = execVabs f o s := rfl
@[simp] theorem exec_vneg (f : Fmt) (o : VOp) (s : State) : exec (.vneg f o) s = execVneg f o s := rfl
@[simp] theorem exec_vdiv (o : VOp) (s : State) : exec (.vdiv o) s = execVdiv o s := rfl
@[simp] theorem exec_vsqrt (o : VOp) (s : State) : exec (.vsqrt o) s = execVsqrt o s := rfl
@[simp] theorem exec_vcmpeq (f : Fmt) (kd : BitVec 3) (o : VOp) (s : State) : exec (.vcmpeq f kd o) s = execVcmpeq f kd o s := rfl
@[simp] theorem exec_vcmplt (f : Fmt) (kd : BitVec 3) (o : VOp) (s : State) : exec (.vcmplt f kd o) s = execVcmplt f kd o s := rfl
@[simp] theorem exec_vcmple (f : Fmt) (kd : BitVec 3) (o : VOp) (s : State) : exec (.vcmple f kd o) s = execVcmple f kd o s := rfl
@[simp] theorem exec_vkand (kd ka kb dp : BitVec 3) (s : State) : exec (.vkand kd ka kb dp) s = execVkand kd ka kb dp s := rfl
@[simp] theorem exec_vkor (kd ka kb dp : BitVec 3) (s : State) : exec (.vkor kd ka kb dp) s = execVkor kd ka kb dp s := rfl
@[simp] theorem exec_vkxor (kd ka kb dp : BitVec 3) (s : State) : exec (.vkxor kd ka kb dp) s = execVkxor kd ka kb dp s := rfl
@[simp] theorem exec_vknot (kd ka dp : BitVec 3) (s : State) : exec (.vknot kd ka dp) s = execVknot kd ka dp s := rfl
@[simp] theorem exec_vkset (kd : BitVec 3) (n : BitVec 12) (dp : BitVec 3) (s : State) : exec (.vkset kd n dp) s = execVkset kd n dp s := rfl
@[simp] theorem exec_vkcnt (ka : BitVec 3) (o : VOp) (s : State) : exec (.vkcnt ka o) s = execVkcnt ka o s := rfl
@[simp] theorem exec_vsel (o : VOp) (s : State) : exec (.vsel o) s = execVsel o s := rfl
@[simp] theorem exec_vand (o : VOp) (s : State) : exec (.vand o) s = execVand o s := rfl
@[simp] theorem exec_vor (o : VOp) (s : State) : exec (.vor o) s = execVor o s := rfl
@[simp] theorem exec_vxor (o : VOp) (s : State) : exec (.vxor o) s = execVxor o s := rfl
@[simp] theorem exec_vnot (o : VOp) (s : State) : exec (.vnot o) s = execVnot o s := rfl
@[simp] theorem exec_vshl (o : VOp) (s : State) : exec (.vshl o) s = execVshl o s := rfl
@[simp] theorem exec_vshr (o : VOp) (s : State) : exec (.vshr o) s = execVshr o s := rfl
@[simp] theorem exec_vsra (o : VOp) (s : State) : exec (.vsra o) s = execVsra o s := rfl
@[simp] theorem exec_vcvt (f : Fmt) (o : VOp) (s : State) : exec (.vcvt f o) s = execVcvt f o s := rfl
@[simp] theorem exec_vtag (f : Fmt) (o : VOp) (s : State) : exec (.vtag f o) s = execVtag f o s := rfl
@[simp] theorem exec_vexp (o : VOp) (s : State) : exec (.vexp o) s = execVexp o s := rfl
@[simp] theorem exec_vlog (o : VOp) (s : State) : exec (.vlog o) s = execVlog o s := rfl
@[simp] theorem exec_vrcp (o : VOp) (s : State) : exec (.vrcp o) s = execVrcp o s := rfl
@[simp] theorem exec_vrsqrt (o : VOp) (s : State) : exec (.vrsqrt o) s = execVrsqrt o s := rfl
@[simp] theorem exec_vtanh (o : VOp) (s : State) : exec (.vtanh o) s = execVtanh o s := rfl
@[simp] theorem exec_vsig (o : VOp) (s : State) : exec (.vsig o) s = execVsig o s := rfl
@[simp] theorem exec_vredsum (f : Fmt) (o : VOp) (s : State) : exec (.vredsum f o) s = execVredsum f o s := rfl
@[simp] theorem exec_vredmax (f : Fmt) (o : VOp) (s : State) : exec (.vredmax f o) s = execVredmax f o s := rfl
@[simp] theorem exec_vredmin (f : Fmt) (o : VOp) (s : State) : exec (.vredmin f o) s = execVredmin f o s := rfl
@[simp] theorem exec_vscan (f : Fmt) (o : VOp) (s : State) : exec (.vscan f o) s = execVscan f o s := rfl
@[simp] theorem exec_vperm (o : VOp) (s : State) : exec (.vperm o) s = execVperm o s := rfl
@[simp] theorem exec_vbcst (f : Fmt) (d : VR) (imm : BitVec 32) (k dp : BitVec 3) (s : State) : exec (.vbcst f d imm k dp) s = execVbcst f d imm k dp s := rfl
@[simp] theorem exec_vgather (w : Width) (o : GOp) (s : State) : exec (.vgather w o) s = execVgather w o s := rfl
@[simp] theorem exec_vscatter (w : Width) (o : GOp) (s : State) : exec (.vscatter w o) s = execVscatter w o s := rfl
@[simp] theorem exec_vld (f : Fmt) (o : MOp) (s : State) : exec (.vld f o) s = execVld f o s := rfl
@[simp] theorem exec_vst (f : Fmt) (o : MOp) (s : State) : exec (.vst f o) s = execVst f o s := rfl
@[simp] theorem exec_vpsplit (pc : BitVec 3) (o : VOp) (s : State) : exec (.vpsplit pc o) s = execVpsplit pc o s := rfl
@[simp] theorem exec_vpmerge (pc : BitVec 3) (o : VOp) (s : State) : exec (.vpmerge pc o) s = execVpmerge pc o s := rfl
@[simp] theorem exec_vbscale (f : Fmt) (pc : BitVec 3) (o : VOp) (s : State) : exec (.vbscale f pc o) s = execVbscale f pc o s := rfl
@[simp] theorem exec_vmov (o : VOp) (s : State) : exec (.vmov o) s = execVmov o s := rfl
@[simp] theorem exec_vrnd (rm : RMode) (dp : BitVec 3) (s : State) : exec (.vrnd rm dp) s = execVrnd rm dp s := rfl
@[simp] theorem exec_vclamp (f : Fmt) (o : VOp) (s : State) : exec (.vclamp f o) s = execVclamp f o s := rfl
@[simp] theorem exec_viota (o : VOp) (s : State) : exec (.viota o) s = execViota o s := rfl
@[simp] theorem exec_mldw (f : Fmt) (o : MHOp) (s : State) : exec (.mldw f o) s = execMldw f o s := rfl
@[simp] theorem exec_mmul (f : Fmt) (a : BitVec 4) (o : MHOp) (s : State) : exec (.mmul f a o) s = execMmul f a o s := rfl
@[simp] theorem exec_mmulq (f : Fmt) (a : BitVec 4) (q : BitVec 5) (pk : Bool) (dp : BitVec 3) (s : State) : exec (.mmulq f a q pk dp) s = execMmulq f a q pk dp s := rfl
@[simp] theorem exec_mldwq (f : Fmt) (q : BitVec 5) (dp : BitVec 3) (s : State) : exec (.mldwq f q dp) s = execMldwq f q dp s := rfl
@[simp] theorem exec_mldg (o : MHOp) (s : State) : exec (.mldg o) s = execMldg o s := rfl
@[simp] theorem exec_mldacc (a : BitVec 4) (o : MHOp) (s : State) : exec (.mldacc a o) s = execMldacc a o s := rfl
@[simp] theorem exec_mpre (o : MHOp) (s : State) : exec (.mpre o) s = execMpre o s := rfl
@[simp] theorem exec_mdrain (f : Fmt) (a : BitVec 4) (q : BitVec 5) (rows : BitVec 8) (dp : BitVec 3) (s : State) : exec (.mdrain f a q rows dp) s = execMdrain f a q rows dp s := rfl
@[simp] theorem exec_mdrainc (f : Fmt) (a : BitVec 4) (o : MDOp) (s : State) : exec (.mdrainc f a o) s = execMdrainc f a o s := rfl
@[simp] theorem exec_mdrains (f : Fmt) (a : BitVec 4) (pr : BitVec 5) (o : MDOp) (s : State) : exec (.mdrains f a pr o) s = execMdrains f a pr o s := rfl
@[simp] theorem exec_mdrainp (a : BitVec 4) (o : MDOp) (s : State) : exec (.mdrainp a o) s = execMdrainp a o s := rfl
@[simp] theorem exec_mzero (a : BitVec 4) (dp : BitVec 3) (s : State) : exec (.mzero a dp) s = execMzero a dp s := rfl
@[simp] theorem exec_maccmov (a b : BitVec 4) (dp : BitVec 3) (s : State) : exec (.maccmov a b dp) s = execMaccmov a b dp s := rfl
@[simp] theorem exec_mscale (a : BitVec 4) (x : VR) (dp : BitVec 3) (s : State) : exec (.mscale a x dp) s = execMscale a x dp s := rfl
@[simp] theorem exec_mbias (a : BitVec 4) (x : VR) (dp : BitVec 3) (s : State) : exec (.mbias a x dp) s = execMbias a x dp s := rfl
@[simp] theorem exec_mswap (a b : BitVec 4) (dp : BitVec 3) (s : State) : exec (.mswap a b dp) s = execMswap a b dp s := rfl
@[simp] theorem exec_mcfg (m k n : BitVec 7) (dp : BitVec 3) (s : State) : exec (.mcfg m k n dp) s = execMcfg m k n dp s := rfl
@[simp] theorem exec_mrnd (rm : RMode) (dp : BitVec 3) (s : State) : exec (.mrnd rm dp) s = execMrnd rm dp s := rfl
@[simp] theorem exec_pcopy (be : Bool) (o : POp) (s : State) : exec (.pcopy be o) s = execPcopy be o s := rfl
@[simp] theorem exec_pcopy2d (be : Bool) (rows : BitVec 10) (o : POp) (s : State) : exec (.pcopy2d be rows o) s = execPcopy2d be rows o s := rfl
@[simp] theorem exec_pcopyd (be : Bool) (o : POp) (s : State) : exec (.pcopyd be o) s = execPcopyd be o s := rfl
@[simp] theorem exec_pcopyhIn (o : POp) (s : State) : exec (.pcopyhIn o) s = execPcopyhIn o s := rfl
@[simp] theorem exec_pcopyhOut (o : POp) (s : State) : exec (.pcopyhOut o) s = execPcopyhOut o s := rfl
@[simp] theorem exec_pover (o : POp) (s : State) : exec (.pover o) s = execPover o s := rfl
@[simp] theorem exec_pcmd (o : POp) (s : State) : exec (.pcmd o) s = execPcmd o s := rfl
@[simp] theorem exec_pfill (o : POp) (s : State) : exec (.pfill o) s = execPfill o s := rfl
@[simp] theorem exec_ptagset (o : POp) (s : State) : exec (.ptagset o) s = execPtagset o s := rfl
@[simp] theorem exec_ptagchk (o : POp) (s : State) : exec (.ptagchk o) s = execPtagchk o s := rfl
@[simp] theorem exec_pprefetch (o : POp) (s : State) : exec (.pprefetch o) s = execPprefetch o s := rfl
@[simp] theorem exec_pevent (e : BitVec 6) (t a : BitVec 5) (dp : BitVec 3) (s : State) : exec (.pevent e t a dp) s = execPevent e t a dp s := rfl
@[simp] theorem exec_ptab (h : BitVec 6) (t : BitVec 4) (dp : BitVec 3) (s : State) : exec (.ptab h t dp) s = execPtab h t dp s := rfl
@[simp] theorem exec_pcancel (c : BitVec 4) (dp : BitVec 3) (s : State) : exec (.pcancel c dp) s = execPcancel c dp s := rfl
@[simp] theorem exec_pflush (dp : BitVec 3) (s : State) : exec (.pflush dp) s = execPflush dp s := rfl
@[simp] theorem exec_gdecl (g : BitVec 4) (h : BitVec 6) (dp : BitVec 3) (s : State) : exec (.gdecl g h dp) s = execGdecl g h dp s := rfl
@[simp] theorem exec_gbind (g : BitVec 4) (e : BitVec 6) (dp : BitVec 3) (s : State) : exec (.gbind g e dp) s = execGbind g e dp s := rfl
@[simp] theorem exec_gbound (g : BitVec 4) (face : Face) (rule : Rule) (dp : BitVec 3) (s : State) : exec (.gbound g face rule dp) s = execGbound g face rule dp s := rfl
@[simp] theorem exec_gdepth (g : BitVec 4) (bm1 : BitVec 2) (a : BitVec 5) (dp : BitVec 3) (s : State) : exec (.gdepth g bm1 a dp) s = execGdepth g bm1 a dp s := rfl
@[simp] theorem exec_gface (g : BitVec 4) (face : Face) (kind : Kind) (a : BitVec 5) (dp : BitVec 3) (s : State) : exec (.gface g face kind a dp) s = execGface g face kind a dp s := rfl
@[simp] theorem exec_gstep (g : BitVec 4) (dp : BitVec 3) (s : State) : exec (.gstep g dp) s = execGstep g dp s := rfl
@[simp] theorem exec_gxchg (g : BitVec 4) (dp : BitVec 3) (s : State) : exec (.gxchg g dp) s = execGxchg g dp s := rfl
@[simp] theorem exec_gwait (g : BitVec 4) (st : BitVec 5) (e : BitVec 6) (dp : BitVec 3) (s : State) : exec (.gwait g st e dp) s = execGwait g st e dp s := rfl
@[simp] theorem exec_greset (g : BitVec 4) (dp : BitVec 3) (s : State) : exec (.greset g dp) s = execGreset g dp s := rfl
@[simp] theorem exec_gfree (g : BitVec 4) (dp : BitVec 3) (s : State) : exec (.gfree g dp) s = execGfree g dp s := rfl
@[simp] theorem exec_gld (f : Fmt) (o : GMOp) (s : State) : exec (.gld f o) s = execGld f o s := rfl
@[simp] theorem exec_gst (f : Fmt) (o : GMOp) (s : State) : exec (.gst f o) s = execGst f o s := rfl
@[simp] theorem exec_sigcfg (dim : BitVec 4) (dep : BitVec 2) (dp : BitVec 3) (s : State) : exec (.sigcfg dim dep dp) s = execSigcfg dim dep dp s := rfl
@[simp] theorem exec_sigzero (a : BitVec 5) (dp : BitVec 3) (s : State) : exec (.sigzero a dp) s = execSigzero a dp s := rfl
@[simp] theorem exec_sigseg (a b : BitVec 5) (dp : BitVec 3) (s : State) : exec (.sigseg a b dp) s = execSigseg a b dp s := rfl
@[simp] theorem exec_siginc (f : Fmt) (x : VR) (dp : BitVec 3) (s : State) : exec (.siginc f x dp) s = execSiginc f x dp s := rfl
@[simp] theorem exec_sigincb (f : Fmt) (h : BitVec 6) (a b : BitVec 5) (dp : BitVec 3) (s : State) : exec (.sigincb f h a b dp) s = execSigincb f h a b dp s := rfl
@[simp] theorem exec_sigjoin (left : Bool) (h : BitVec 6) (a : BitVec 5) (dp : BitVec 3) (s : State) : exec (.sigjoin left h a dp) s = execSigjoin left h a dp s := rfl
@[simp] theorem exec_siglog (dp : BitVec 3) (s : State) : exec (.siglog dp) s = execSiglog dp s := rfl
@[simp] theorem exec_sigexp (dp : BitVec 3) (s : State) : exec (.sigexp dp) s = execSigexp dp s := rfl
@[simp] theorem exec_sigld (h : BitVec 6) (a : BitVec 5) (dp : BitVec 3) (s : State) : exec (.sigld h a dp) s = execSigld h a dp s := rfl
@[simp] theorem exec_sigst (f : Fmt) (h : BitVec 6) (a : BitVec 5) (dp : BitVec 3) (s : State) : exec (.sigst f h a dp) s = execSigst f h a dp s := rfl
@[simp] theorem exec_sigdrain (q : BitVec 5) (lvl : BitVec 2) (dp : BitVec 3) (s : State) : exec (.sigdrain q lvl dp) s = execSigdrain q lvl dp s := rfl
@[simp] theorem exec_xst (f : Fmt) (o : FMOp) (s : State) : exec (.xst f o) s = execXst f o s := rfl
@[simp] theorem exec_xld (f : Fmt) (o : FMOp) (ei : BitVec 6) (s : State) : exec (.xld f o ei) s = execXld f o ei s := rfl
@[simp] theorem exec_xamo (dw : Bool) (op : AOp) (o : FAOp) (s : State) : exec (.xamo dw op o) s = execXamo dw op o s := rfl
@[simp] theorem exec_xacas (dw : Bool) (c : BitVec 5) (o : FAOp) (s : State) : exec (.xacas dw c o) s = execXacas dw c o s := rfl
@[simp] theorem exec_xevinc (e : BitVec 6) (pr : BitVec 5) (sc : Scope) (rel : Bool) (dp : BitVec 3) (s : State) : exec (.xevinc e pr sc rel dp) s = execXevinc e pr sc rel dp s := rfl
@[simp] theorem exec_xtrig (ew : BitVec 6) (th : BitVec 5) (slot : BitVec 6) (dp : BitVec 3) (s : State) : exec (.xtrig ew th slot dp) s = execXtrig ew th slot dp s := rfl
@[simp] theorem exec_xtile (ti : BitVec 5) (h : BitVec 6) (pr : BitVec 5) (opr : Opr) (a : BitVec 5) (dp : BitVec 3) (s : State) : exec (.xtile ti h pr opr a dp) s = execXtile ti h pr opr a dp s := rfl
@[simp] theorem exec_xready (ti : BitVec 5) (dp : BitVec 3) (s : State) : exec (.xready ti dp) s = execXready ti dp s := rfl
@[simp] theorem exec_xring (op : RingOp) (ring : BitVec 4) (h : BitVec 6) (a b : BitVec 5) (ei ew : BitVec 6) (th : BitVec 5) (dp : BitVec 3) (s : State) : exec (.xring op ring h a b ei ew th dp) s = execXring op ring h a b ei ew th dp s := rfl
@[simp] theorem exec_xsched (port : BitVec 4) (h : BitVec 6) (t : BitVec 5) (dp : BitVec 3) (s : State) : exec (.xsched port h t dp) s = execXsched port h t dp s := rfl
@[simp] theorem exec_xport (pr : BitVec 5) (h : BitVec 6) (f : Fmt) (rm : RMode) (dp : BitVec 3) (s : State) : exec (.xport pr h f rm dp) s = execXport pr h f rm dp s := rfl
@[simp] theorem exec_xcomp (hs hr : BitVec 6) (kp : BitVec 3) (cp : BitVec 2) (ei : BitVec 6) (dp : BitVec 3) (s : State) : exec (.xcomp hs hr kp cp ei dp) s = execXcomp hs hr kp cp ei dp s := rfl
@[simp] theorem exec_xresid (hs hr : BitVec 6) (cp : BitVec 2) (ei : BitVec 6) (dp : BitVec 3) (s : State) : exec (.xresid hs hr cp ei dp) s = execXresid hs hr cp ei dp s := rfl
@[simp] theorem exec_xallow (w : BitVec 4) (a : BitVec 5) (dp : BitVec 3) (s : State) : exec (.xallow w a dp) s = execXallow w a dp s := rfl
@[simp] theorem exec_xfence (w : BitVec 4) (e : BitVec 6) (dp : BitVec 3) (s : State) : exec (.xfence w e dp) s = execXfence w e dp s := rfl
@[simp] theorem exec_xcoll (op : CollOp) (o : FKOp) (s : State) : exec (.xcoll op o) s = execXcoll op o s := rfl
@[simp] theorem exec_xsend (h : BitVec 6) (cp : BitVec 2) (a : BitVec 5) (ei : BitVec 6) (dp : BitVec 3) (s : State) : exec (.xsend h cp a ei dp) s = execXsend h cp a ei dp s := rfl
@[simp] theorem exec_xrecv (h : BitVec 6) (cp : BitVec 2) (a : BitVec 5) (ei : BitVec 6) (dp : BitVec 3) (s : State) : exec (.xrecv h cp a ei dp) s = execXrecv h cp a ei dp s := rfl
@[simp] theorem exec_xput (o : FBOp) (s : State) : exec (.xput o) s = execXput o s := rfl
@[simp] theorem exec_xget (o : FBOp) (s : State) : exec (.xget o) s = execXget o s := rfl
@[simp] theorem exec_deliverEngineInstruction (lanes : List Lane) (s : State) : exec (.deliverEngineInstruction lanes) s = execDeliverEngineInstruction lanes s := rfl
@[simp] theorem exec_trapEntry (s : State) : exec (.trapEntry) s = execTrapEntry s := rfl
@[simp] theorem exec_engineCommandComplete (eng : Engine) (age : Nat) (s : State) : exec (.engineCommandComplete eng age) s = execEngineCommandComplete eng age s := rfl
@[simp] theorem exec_scalarStoreWritten (age : Nat) (s : State) : exec (.scalarStoreWritten age) s = execScalarStoreWritten age s := rfl
@[simp] theorem exec_fetchHoldRelease (s : State) : exec (.fetchHoldRelease) s = execFetchHoldRelease s := rfl
@[simp] theorem exec_strandRetire (s : State) : exec (.strandRetire) s = execStrandRetire s := rfl
@[simp] theorem exec_launchSubmit (port world prio : Nat) (bell : Doorbell) (s : State) : exec (.launchSubmit port world prio bell) s = execLaunchSubmit port world prio bell s := rfl
@[simp] theorem exec_gangBind (launch : Nat) (s : State) : exec (.gangBind launch) s = execGangBind launch s := rfl
@[simp] theorem exec_launchAging (launch : Nat) (s : State) : exec (.launchAging launch) s = execLaunchAging launch s := rfl
@[simp] theorem exec_dispatchReady (s : State) : exec (.dispatchReady) s = execDispatchReady s := rfl
@[simp] theorem exec_gangStart (gang : Nat) (s : State) : exec (.gangStart gang) s = execGangStart gang s := rfl
@[simp] theorem exec_preemption (gang : Nat) (s : State) : exec (.preemption gang) s = execPreemption gang s := rfl
@[simp] theorem exec_imageTransferDone (s : State) : exec (.imageTransferDone) s = execImageTransferDone s := rfl
@[simp] theorem exec_gangResume (gang : Nat) (s : State) : exec (.gangResume gang) s = execGangResume gang s := rfl
@[simp] theorem exec_gangFaultRetire (gang : Nat) (s : State) : exec (.gangFaultRetire gang) s = execGangFaultRetire gang s := rfl
@[simp] theorem exec_completionPost (world : Nat) (s : State) : exec (.completionPost world) s = execCompletionPost world s := rfl
@[simp] theorem exec_queuePush (eng : Engine) (s : State) : exec (.queuePush eng) s = execQueuePush eng s := rfl
@[simp] theorem exec_queueReadStep (eng : Engine) (s : State) : exec (.queueReadStep eng) s = execQueueReadStep eng s := rfl
@[simp] theorem exec_qstallLimit (eng : Engine) (s : State) : exec (.qstallLimit eng) s = execQstallLimit eng s := rfl
@[simp] theorem exec_loopSkewEnd (eng : Engine) (s : State) : exec (.loopSkewEnd eng) s = execLoopSkewEnd eng s := rfl
@[simp] theorem exec_loopEndMarker (eng : Engine) (s : State) : exec (.loopEndMarker eng) s = execLoopEndMarker eng s := rfl
@[simp] theorem exec_owedMarkerPush (s : State) : exec (.owedMarkerPush) s = execOwedMarkerPush s := rfl
@[simp] theorem exec_fenceMarkerHead (eng : Engine) (s : State) : exec (.fenceMarkerHead eng) s = execFenceMarkerHead eng s := rfl
@[simp] theorem exec_replayEntry (idx : Nat) (s : State) : exec (.replayEntry idx) s = execReplayEntry idx s := rfl
@[simp] theorem exec_translationWalk (world : Nat) (va : BitVec 57) (s : State) : exec (.translationWalk world va) s = execTranslationWalk world va s := rfl
@[simp] theorem exec_translationWaitResume (age : Nat) (s : State) : exec (.translationWaitResume age) s = execTranslationWaitResume age s := rfl
@[simp] theorem exec_xinv (port world : Nat) (v : Word) (s : State) : exec (.xinv port world v) s = execXinv port world v s := rfl
@[simp] theorem exec_invalidationComplete (world : Nat) (s : State) : exec (.invalidationComplete world) s = execInvalidationComplete world s := rfl
@[simp] theorem exec_counterIncrementArrival (inc : Incr) (s : State) : exec (.counterIncrementArrival inc) s = execCounterIncrementArrival inc s := rfl
@[simp] theorem exec_evwaitMet (s : State) : exec (.evwaitMet) s = execEvwaitMet s := rfl
@[simp] theorem exec_waitlimit (s : State) : exec (.waitlimit) s = execWaitlimit s := rfl
@[simp] theorem exec_dccwaitExpiry (s : State) : exec (.dccwaitExpiry) s = execDccwaitExpiry s := rfl
@[simp] theorem exec_barrierLeave (gang team : Nat) (s : State) : exec (.barrierLeave gang team) s = execBarrierLeave gang team s := rfl
@[simp] theorem exec_svcReply (s : State) : exec (.svcReply) s = execSvcReply s := rfl
@[simp] theorem exec_svcVersionQuery (s : State) : exec (.svcVersionQuery) s = execSvcVersionQuery s := rfl
@[simp] theorem exec_svcSubmitLaunch (s : State) : exec (.svcSubmitLaunch) s = execSvcSubmitLaunch s := rfl
@[simp] theorem exec_svcGangState (s : State) : exec (.svcGangState) s = execSvcGangState s := rfl
@[simp] theorem exec_svcUndefined (s : State) : exec (.svcUndefined) s = execSvcUndefined s := rfl
@[simp] theorem exec_pumpStart (age : Nat) (s : State) : exec (.pumpStart age) s = execPumpStart age s := rfl
@[simp] theorem exec_writeWindowStart (age : Nat) (s : State) : exec (.writeWindowStart age) s = execWriteWindowStart age s := rfl
@[simp] theorem exec_pumpEnd (age : Nat) (s : State) : exec (.pumpEnd age) s = execPumpEnd age s := rfl
@[simp] theorem exec_ptabLoadEnd (t : BitVec 4) (s : State) : exec (.ptabLoadEnd t) s = execPtabLoadEnd t s := rfl
@[simp] theorem exec_cancelAck (c : BitVec 4) (s : State) : exec (.cancelAck c) s = execCancelAck c s := rfl
@[simp] theorem exec_haloLayerSend (g : BitVec 4) (face : Face) (s : State) : exec (.haloLayerSend g face) s = execHaloLayerSend g face s := rfl
@[simp] theorem exec_haloLayerArrival (l : LayerMsg) (s : State) : exec (.haloLayerArrival l) s = execHaloLayerArrival l s := rfl
@[simp] theorem exec_haloPhaseAdvance (g : BitVec 4) (s : State) : exec (.haloPhaseAdvance g) s = execHaloPhaseAdvance g s := rfl
@[simp] theorem exec_gxchgComplete (g : BitVec 4) (s : State) : exec (.gxchgComplete g) s = execGxchgComplete g s := rfl
@[simp] theorem exec_gwaitMet (s : State) : exec (.gwaitMet) s = execGwaitMet s := rfl
@[simp] theorem exec_stalehalo (s : State) : exec (.stalehalo) s = execStalehalo s := rfl
@[simp] theorem exec_remoteWriteArrival (m : Msg) (s : State) : exec (.remoteWriteArrival m) s = execRemoteWriteArrival m s := rfl
@[simp] theorem exec_remoteAck (a : Ack) (s : State) : exec (.remoteAck a) s = execRemoteAck a s := rfl
@[simp] theorem exec_xldResponse (a : Ack) (s : State) : exec (.xldResponse a) s = execXldResponse a s := rfl
@[simp] theorem exec_xfenceRelease (w : BitVec 4) (s : State) : exec (.xfenceRelease w) s = execXfenceRelease w s := rfl
@[simp] theorem exec_triggerFire (s : State) : exec (.triggerFire) s = execTriggerFire s := rfl
@[simp] theorem exec_tileApply (m : Msg) (s : State) : exec (.tileApply m) s = execTileApply m s := rfl
@[simp] theorem exec_ringComplete (age : Nat) (others : List Nat) (agree : Bool) (s : State) : exec (.ringComplete age others agree) s = execRingComplete age others agree s := rfl
@[simp] theorem exec_collectiveComplete (age : Nat) (others : List Nat) (agree : Bool) (s : State) : exec (.collectiveComplete age others agree) s = execCollectiveComplete age others agree s := rfl
@[simp] theorem exec_campusFrameReceive (cp : BitVec 2) (f : Frame) (s : State) : exec (.campusFrameReceive cp f) s = execCampusFrameReceive cp f s := rfl
@[simp] theorem exec_campusAckReceive (cp : BitVec 2) (stream : BitVec 16) (ack nseq : BitVec 48) (ncnt : BitVec 16) (s : State) : exec (.campusAckReceive cp stream ack nseq ncnt) s = execCampusAckReceive cp stream ack nseq ncnt s := rfl
@[simp] theorem exec_campusResendTimeout (cp : BitVec 2) (stream : BitVec 16) (seq : BitVec 48) (s : State) : exec (.campusResendTimeout cp stream seq) s = execCampusResendTimeout cp stream seq s := rfl
@[simp] theorem exec_campusAckonly (cp : BitVec 2) (stream : BitVec 16) (s : State) : exec (.campusAckonly cp stream) s = execCampusAckonly cp stream s := rfl
@[simp] theorem exec_flitSlot (port : BitVec 4) (s : State) : exec (.flitSlot port) s = execFlitSlot port s := rfl
@[simp] theorem exec_flitDelivery (port : BitVec 4) (f : Flit) (errs : List (Nat × Nat)) (s : State) : exec (.flitDelivery port f errs) s = execFlitDelivery port f errs s := rfl
@[simp] theorem exec_groupVerify (port : BitVec 4) (ent : BitVec 12) (grp : Nat) (ok : Bool) (s : State) : exec (.groupVerify port ent grp ok) s = execGroupVerify port ent grp ok s := rfl
@[simp] theorem exec_laneLockLoss (port : BitVec 4) (lane : BitVec 3) (s : State) : exec (.laneLockLoss port lane) s = execLaneLockLoss port lane s := rfl
@[simp] theorem exec_healthWindow (port : BitVec 4) (s : State) : exec (.healthWindow port) s = execHealthWindow port s := rfl
@[simp] theorem exec_scheduleTableSwitch (port : BitVec 4) (s : State) : exec (.scheduleTableSwitch port) s = execScheduleTableSwitch port s := rfl
@[simp] theorem exec_portOpen (port : BitVec 4) (s : State) : exec (.portOpen port) s = execPortOpen port s := rfl
@[simp] theorem exec_portClose (port : BitVec 4) (s : State) : exec (.portClose port) s = execPortClose port s := rfl
@[simp] theorem exec_trainComplete (port : BitVec 4) (locked : Bool) (txlat rxlat : Nat) (peerDev : BitVec 9) (peerPort : BitVec 4) (s : State) : exec (.trainComplete port locked txlat rxlat peerDev peerPort) s = execTrainComplete port locked txlat rxlat peerDev peerPort s := rfl
@[simp] theorem exec_attestComplete (campus : Bool) (port : BitVec 4) (ok : Bool) (s : State) : exec (.attestComplete campus port ok) s = execAttestComplete campus port ok s := rfl
@[simp] theorem exec_keyedComplete (campus : Bool) (port : BitVec 4) (ok : Bool) (s : State) : exec (.keyedComplete campus port ok) s = execKeyedComplete campus port ok s := rfl
@[simp] theorem exec_heartbeatMiss (campus : Bool) (port : BitVec 4) (s : State) : exec (.heartbeatMiss campus port) s = execHeartbeatMiss campus port s := rfl
@[simp] theorem exec_linkKeySwitch (campus : Bool) (port : BitVec 4) (world : Nat) (s : State) : exec (.linkKeySwitch campus port world) s = execLinkKeySwitch campus port world s := rfl
@[simp] theorem exec_campusPortOpen (cp : BitVec 2) (s : State) : exec (.campusPortOpen cp) s = execCampusPortOpen cp s := rfl
@[simp] theorem exec_campusPortClose (cp : BitVec 2) (s : State) : exec (.campusPortClose cp) s = execCampusPortClose cp s := rfl
@[simp] theorem exec_leaseRenew (port : Nat) (s : State) : exec (.leaseRenew port) s = execLeaseRenew port s := rfl
@[simp] theorem exec_leaseTake (port : Nat) (s : State) : exec (.leaseTake port) s = execLeaseTake port s := rfl
@[simp] theorem exec_leaseExpiry (s : State) : exec (.leaseExpiry) s = execLeaseExpiry s := rfl
@[simp] theorem exec_cqheadWrite (port world : Nat) (pos : BitVec 16) (s : State) : exec (.cqheadWrite port world pos) s = execCqheadWrite port world pos s := rfl
@[simp] theorem exec_msixFire (fn v : Nat) (s : State) : exec (.msixFire fn v) s = execMsixFire fn v s := rfl
@[simp] theorem exec_msixTimer (fn v : Nat) (s : State) : exec (.msixTimer fn v) s = execMsixTimer fn v s := rfl
@[simp] theorem exec_msixUnmask (fn : Nat) (v : MsixWrite) (s : State) : exec (.msixUnmask fn v) s = execMsixUnmask fn v s := rfl
@[simp] theorem exec_getVersion (world : Nat) (s : State) : exec (.getVersion world) s = execGetVersion world s := rfl
@[simp] theorem exec_getCapabilities (world : Nat) (s : State) : exec (.getCapabilities world) s = execGetCapabilities world s := rfl
@[simp] theorem exec_lockInterfaceRequest (world : Nat) (s : State) : exec (.lockInterfaceRequest world) s = execLockInterfaceRequest world s := rfl
@[simp] theorem exec_getDeviceInterfaceReport (world : Nat) (s : State) : exec (.getDeviceInterfaceReport world) s = execGetDeviceInterfaceReport world s := rfl
@[simp] theorem exec_getDeviceInterfaceState (world : Nat) (s : State) : exec (.getDeviceInterfaceState world) s = execGetDeviceInterfaceState world s := rfl
@[simp] theorem exec_startInterfaceRequest (world : Nat) (s : State) : exec (.startInterfaceRequest world) s = execStartInterfaceRequest world s := rfl
@[simp] theorem exec_stopInterfaceRequest (world : Nat) (s : State) : exec (.stopInterfaceRequest world) s = execStopInterfaceRequest world s := rfl
@[simp] theorem exec_tdispUnsupportedMessage (world code : Nat) (s : State) : exec (.tdispUnsupportedMessage world code) s = execTdispUnsupportedMessage world code s := rfl
@[simp] theorem exec_keyProg (world : Nat) (rx : Bool) (set : Bool) (key : BitVec 256) (s : State) : exec (.keyProg world rx set key) s = execKeyProg world rx set key s := rfl
@[simp] theorem exec_kSetGo (world : Nat) (rx : Bool) (set : Bool) (s : State) : exec (.kSetGo world rx set) s = execKSetGo world rx set s := rfl
@[simp] theorem exec_ideCompletionTimeout (tag : BitVec 14) (s : State) : exec (.ideCompletionTimeout tag) s = execIdeCompletionTimeout tag s := rfl
@[simp] theorem exec_memoryWindowAccess (port : Nat) (vf : Option Nat) (off n : Nat) (wr : Option Nat) (s : State) : exec (.memoryWindowAccess port vf off n wr) s = execMemoryWindowAccess port vf off n wr s := rfl
@[simp] theorem exec_hartReset (imm : Nat) (v : Word) (s : State) : exec (.hartReset imm v) s = execHartReset imm v s := rfl
@[simp] theorem exec_fwctlGo (port : Nat) (len : BitVec 10) (s : State) : exec (.fwctlGo port len) s = execFwctlGo port len s := rfl
@[simp] theorem exec_fwVerifyDone (sigOk verOk : Bool) (version : BitVec 32) (s : State) : exec (.fwVerifyDone sigOk verOk version) s = execFwVerifyDone sigOk verOk version s := rfl
@[simp] theorem exec_fwSwap (s : State) : exec (.fwSwap) s = execFwSwap s := rfl
@[simp] theorem exec_migExport (world : Nat) (port : BitVec 4) (s : State) : exec (.migExport world port) s = execMigExport world port s := rfl
@[simp] theorem exec_migAccept (world : Nat) (port : BitVec 4) (s : State) : exec (.migAccept world port) s = execMigAccept world port s := rfl
@[simp] theorem exec_migResume (ctl : MigCtl) (s : State) : exec (.migResume ctl) s = execMigResume ctl s := rfl
@[simp] theorem exec_migDiscard (ctl : MigCtl) (s : State) : exec (.migDiscard ctl) s = execMigDiscard ctl s := rfl
@[simp] theorem exec_migrationReceipt (ok : Bool) (s : State) : exec (.migrationReceipt ok) s = execMigrationReceipt ok s := rfl
@[simp] theorem exec_migrationConfirm (s : State) : exec (.migrationConfirm) s = execMigrationConfirm s := rfl
@[simp] theorem exec_migrationLossNotice (s : State) : exec (.migrationLossNotice) s = execMigrationLossNotice s := rfl
@[simp] theorem exec_powerUp (part : PowerUp) (s : State) : exec (.powerUp part) s = execPowerUp part s := rfl
@[simp] theorem exec_thermWarn (tj tout : BitVec 8) (s : State) : exec (.thermWarn tj tout) s = execThermWarn tj tout s := rfl
@[simp] theorem exec_thermalReset (tj tout : BitVec 8) (s : State) : exec (.thermalReset tj tout) s = execThermalReset tj tout s := rfl
@[simp] theorem exec_hrevokeGen (port world : Nat) (gen : BitVec 32) (s : State) : exec (.hrevokeGen port world gen) s = execHrevokeGen port world gen s := rfl
@[simp] theorem exec_hrevokeFloor (port world : Nat) (gen : BitVec 32) (s : State) : exec (.hrevokeFloor port world gen) s = execHrevokeFloor port world gen s := rfl
@[simp] theorem exec_revocationSweepDone (world : Nat) (s : State) : exec (.revocationSweepDone world) s = execRevocationSweepDone world s := rfl
@[simp] theorem exec_krotGo (port world : Nat) (s : State) : exec (.krotGo port world) s = execKrotGo port world s := rfl
@[simp] theorem exec_keyDrawDone (world : Nat) (s : State) : exec (.keyDrawDone world) s = execKeyDrawDone world s := rfl
@[simp] theorem exec_rotationLine (world : Nat) (s : State) : exec (.rotationLine world) s = execRotationLine world s := rfl
@[simp] theorem exec_departureScrub (s : State) : exec (.departureScrub) s = execDepartureScrub s := rfl
@[simp] theorem exec_worldClose (world : Nat) (s : State) : exec (.worldClose world) s = execWorldClose world s := rfl
@[simp] theorem exec_dbghalt (port world : Nat) (gang : BitVec 16) (s : State) : exec (.dbghalt port world gang) s = execDbghalt port world gang s := rfl
@[simp] theorem exec_dbgresume (port world : Nat) (gang : BitVec 16) (s : State) : exec (.dbgresume port world gang) s = execDbgresume port world gang s := rfl
@[simp] theorem exec_snapshotWindowWrite (off : Nat) (v : Word) (s : State) : exec (.snapshotWindowWrite off v) s = execSnapshotWindowWrite off v s := rfl
@[simp] theorem exec_registerWrite (port : Nat) (vf : Option Nat) (page : RegPage) (off : Nat) (v : Word) (s : State) : exec (.registerWrite port vf page off v) s = execRegisterWrite port vf page off v s := rfl
@[simp] theorem exec_arithmeticClockTick (s : State) : exec (.arithmeticClockTick) s = execArithmeticClockTick s := rfl
@[simp] theorem exec_deviceReset (s : State) : exec (.deviceReset) s = execDeviceReset s := rfl
@[simp] theorem exec_functionReset (world : Nat) (s : State) : exec (.functionReset world) s = execFunctionReset world s := rfl
@[simp] theorem exec_peerClosed (port : BitVec 4) (s : State) : exec (.peerClosed port) s = execPeerClosed port s := rfl
@[simp] theorem exec_slipNotice (key : Nat) (tinfo : Word) (s : State) : exec (.slipNotice key tinfo) s = execSlipNotice key tinfo s := rfl
@[simp] theorem exec_hostCompletion (tag : BitVec 14) (port : Nat) (ok : Bool) (data : Nat) (s : State) : exec (.hostCompletion tag port ok data) s = execHostCompletion tag port ok data s := rfl
@[simp] theorem exec_migrationContextArrival (world : Nat) (sealOk : Bool) (image : Sealed) (s : State) : exec (.migrationContextArrival world sealOk image) s = execMigrationContextArrival world sealOk image s := rfl
@[simp] theorem exec_worldOpen (world : Nat) (s : State) : exec (.worldOpen world) s = execWorldOpen world s := rfl

/-- An event that the device brings about performs what exec answers for some event of the table; the steps of a migration,
which the table gives no row of their own, are the one exception. -/
theorem Auto.perform_eq_exec (a : Auto) (s : State) (h : a ≠ .migStep) : ∃ i, a.perform s = exec i s := by
  cases a with
  | queuePush e => exact ⟨.queuePush e, rfl⟩
  | qstallLimit e => exact ⟨.qstallLimit e, rfl⟩
  | queueReadStep e => exact ⟨.queueReadStep e, rfl⟩
  | loopSkewEnd e => exact ⟨.loopSkewEnd e, rfl⟩
  | loopEndMarker e => exact ⟨.loopEndMarker e, rfl⟩
  | fenceMarkerHead e => exact ⟨.fenceMarkerHead e, rfl⟩
  | gwaitMet => exact ⟨.gwaitMet, rfl⟩
  | stalehalo => exact ⟨.stalehalo, rfl⟩
  | pumpStart age => exact ⟨.pumpStart age, rfl⟩
  | writeWindowStart age => exact ⟨.writeWindowStart age, rfl⟩
  | pumpEnd age => exact ⟨.pumpEnd age, rfl⟩
  | ptabLoadEnd t => exact ⟨.ptabLoadEnd t, rfl⟩
  | cancelAck c => exact ⟨.cancelAck c, rfl⟩
  | haloLayerSend g face => exact ⟨.haloLayerSend g face, rfl⟩
  | haloPhaseAdvance g => exact ⟨.haloPhaseAdvance g, rfl⟩
  | gxchgComplete g => exact ⟨.gxchgComplete g, rfl⟩
  | haloLayerArrival l => exact ⟨.haloLayerArrival l, rfl⟩
  | slipNotice key ti => exact ⟨.slipNotice key ti, rfl⟩
  | triggerFire => exact ⟨.triggerFire, rfl⟩
  | xfenceRelease w => exact ⟨.xfenceRelease w, rfl⟩
  | collectiveComplete age => exact ⟨.collectiveComplete age [] true, rfl⟩
  | ringComplete age => exact ⟨.ringComplete age [] true, rfl⟩
  | trapEntry => exact ⟨.trapEntry, rfl⟩
  | owedMarkerPush => exact ⟨.owedMarkerPush, rfl⟩
  | strandRetire => exact ⟨.strandRetire, rfl⟩
  | fetchHoldRelease => exact ⟨.fetchHoldRelease, rfl⟩
  | evwaitMet => exact ⟨.evwaitMet, rfl⟩
  | waitlimit => exact ⟨.waitlimit, rfl⟩
  | dccwaitExpiry => exact ⟨.dccwaitExpiry, rfl⟩
  | svcVersionQuery => exact ⟨.svcVersionQuery, rfl⟩
  | svcSubmitLaunch => exact ⟨.svcSubmitLaunch, rfl⟩
  | svcGangState => exact ⟨.svcGangState, rfl⟩
  | svcUndefined => exact ⟨.svcUndefined, rfl⟩
  | svcReply => exact ⟨.svcReply, rfl⟩
  | engineCommandComplete e age => exact ⟨.engineCommandComplete e age, rfl⟩
  | scalarStoreWritten age => exact ⟨.scalarStoreWritten age, rfl⟩
  | translationWaitResume age => exact ⟨.translationWaitResume age, rfl⟩
  | replayEntry idx => exact ⟨.replayEntry idx, rfl⟩
  | dispatchReady => exact ⟨.dispatchReady, rfl⟩
  | imageTransferDone => exact ⟨.imageTransferDone, rfl⟩
  | departureScrub => exact ⟨.departureScrub, rfl⟩
  | remoteWriteArrival m => exact ⟨.remoteWriteArrival m, rfl⟩
  | tileApply m => exact ⟨.tileApply m, rfl⟩
  | remoteAck a => exact ⟨.remoteAck a, rfl⟩
  | xldResponse a => exact ⟨.xldResponse a, rfl⟩
  | counterIncrementArrival inc => exact ⟨.counterIncrementArrival inc, rfl⟩
  | gangFaultRetire gang => exact ⟨.gangFaultRetire gang, rfl⟩
  | preemption gang => exact ⟨.preemption gang, rfl⟩
  | gangStart gang => exact ⟨.gangStart gang, rfl⟩
  | gangResume gang => exact ⟨.gangResume gang, rfl⟩
  | barrierLeave gang team => exact ⟨.barrierLeave gang team, rfl⟩
  | launchAging launch => exact ⟨.launchAging launch, rfl⟩
  | gangBind launch => exact ⟨.gangBind launch, rfl⟩
  | msixFire fn v => exact ⟨.msixFire fn v, rfl⟩
  | msixTimer fn v => exact ⟨.msixTimer fn v, rfl⟩
  | completionPost world => exact ⟨.completionPost world, rfl⟩
  | invalidationComplete world => exact ⟨.invalidationComplete world, rfl⟩
  | revocationSweepDone world => exact ⟨.revocationSweepDone world, rfl⟩
  | keyDrawDone world => exact ⟨.keyDrawDone world, rfl⟩
  | rotationLine world => exact ⟨.rotationLine world, rfl⟩
  | worldClose world => exact ⟨.worldClose world, rfl⟩
  | healthWindow port => exact ⟨.healthWindow port, rfl⟩
  | scheduleTableSwitch port => exact ⟨.scheduleTableSwitch port, rfl⟩
  | flitSlot port => exact ⟨.flitSlot port, rfl⟩
  | campusResendTimeout cp stream seq => exact ⟨.campusResendTimeout cp stream seq, rfl⟩
  | campusAckonly cp stream => exact ⟨.campusAckonly cp stream, rfl⟩
  | hostCompletion tag port data => exact ⟨.hostCompletion tag port true data, rfl⟩
  | leaseExpiry => exact ⟨.leaseExpiry, rfl⟩
  | fwSwap => exact ⟨.fwSwap, rfl⟩
  | migStep => exact absurd rfl h
  | arithmeticClockTick => exact ⟨.arithmeticClockTick, rfl⟩


end Sys2Proof.Machine
end

