-- ==== Sys2Proof/Laws/Engines.lean ====
section
/-! SUPPORT. What the shared operations of the engines do: a change of one engine, the read step, pushes, a freeze; and how a
gang is stopped and a trap entered. -/

namespace Sys2Proof

open Sys2Proof.Machine

/-! ## One engine -/

@[simp] theorem Machine.State.onEng_engAt (s : State) (e : Engine) (f : Eng → Eng) :
    (s.onEng e f).ctx.engAt e = f (s.ctx.engAt e) := by
  simp [State.onEng, Ctx.engAt, Ctx.setEng]

theorem Machine.State.onEng_engAt_ne (s : State) (e d : Engine) (f : Eng → Eng) (h : d ≠ e) :
    (s.onEng e f).ctx.engAt d = s.ctx.engAt d := by
  simp [State.onEng, Ctx.engAt, Ctx.setEng, SMap.get_set, engIdx_inj, h]

/-- Of the moving context only the vector and matrix registers and the engines changed, and of these only one. -/
def OnlyEngine (s t : State) (e : Engine) : Prop :=
  OnlyMoving s t ∧ t.ctx = { s.ctx with vec := t.ctx.vec, mat := t.ctx.mat, eng := t.ctx.eng } ∧
  ∀ d, d ≠ e → t.ctx.engAt d = s.ctx.engAt d

theorem OnlyEngine.refl (s : State) (e : Engine) : OnlyEngine s s e := ⟨.refl s, rfl, fun _ _ => rfl⟩

theorem OnlyEngine.trans {s t u : State} {e : Engine} (h : OnlyEngine s t e) (g : OnlyEngine t u e) : OnlyEngine s u e := by
  refine ⟨h.1.trans g.1, ?_, fun d hd => (g.2.2 d hd).trans (h.2.2 d hd)⟩
  rw [g.2.1]; conv_lhs => rw [h.2.1]

theorem OnlyEngine.onEng (s : State) (e : Engine) (f : Eng → Eng) : OnlyEngine s (s.onEng e f) e :=
  ⟨.setCtx .., by simp [State.onEng, Ctx.setEng], fun d hd => s.onEng_engAt_ne e d f hd⟩

theorem OnlyEngine.onVec (s : State) (e : Engine) (f : Vec → Vec) : OnlyEngine s (s.onVec f) e :=
  ⟨.setCtx .., by simp [State.onVec], fun d _ => by simp [State.onVec, Ctx.engAt]⟩

theorem OnlyEngine.onMat (s : State) (e : Engine) (f : Mat → Mat) : OnlyEngine s (s.onMat f) e :=
  ⟨.setCtx .., by simp [State.onMat], fun d _ => by simp [State.onMat, Ctx.engAt]⟩

/-- A stall keeps the head and everything but the engine's count (R135). -/
theorem Machine.State.stall_spec (s : State) (e : Engine) (w : Stall) :
    OnlyEngine s (s.stall e w) e ∧ (s.stall e w).ctx.vec = s.ctx.vec ∧
    (s.stall e w).ctx.engAt e =
      { s.ctx.engAt e with stall := w, stalled := if (s.ctx.engAt e).stall.goesOn w then (s.ctx.engAt e).stalled else 0 } := by
  refine ⟨OnlyEngine.onEng s e _, by simp [State.stall, State.onEng, Ctx.setEng], ?_⟩
  rw [State.stall, State.onEng_engAt]

/-- The read step reads every queue once or stalls (R133); an engine that has read goes on as it is. -/
theorem Machine.State.readStep_spec (s : State) (e : Engine) :
    OnlyEngine s (s.readStep e).1 e ∧ ((s.eng e).latched = true → s.readStep e = (s, true)) ∧
    (queueReads s.iss.instr = [] → s.readStep e = (s, true)) := by
  refine ⟨?_, fun h => by simp [State.readStep, h], fun h => by simp [State.readStep, h]⟩
  unfold State.readStep
  split
  · exact .refl ..
  · simp only
    split
    · exact .refl ..
    · split
      · exact (s.stall_spec e _).1
      · simp only [State.readAll]
        exact (OnlyEngine.onVec s e _).trans (OnlyEngine.onEng _ e _)

/-- One push goes to its queue (R132). -/
theorem Machine.State.pushOne_spec (s : State) (e : Engine) (p : Push) :
    OnlyEngine s (s.pushOne p) e ∧ (s.pushOne p).ctx.vec = s.ctx.vec.push p.q p.v p.f ∧ (s.pushOne p).ctx.eng = s.ctx.eng := by
  unfold State.pushOne
  simp only
  split
  · exact ⟨(OnlyEngine.onVec s e _).trans (.onMat ..), by simp [State.onVec, State.onMat], by simp [State.onVec, State.onMat]⟩
  · exact ⟨.onVec .., by simp [State.onVec], by simp [State.onVec]⟩

/-- Pushes change queue registers and row positions, and their engine alone (R132, R135). -/
theorem Machine.State.pushAll_spec (e : Engine) (l : List Push) (s : State) : OnlyEngine s (State.pushAll e l s) e := by
  induction l generalizing s with
  | nil => exact .onEng ..
  | cons p l ih =>
    unfold State.pushAll
    split
    · exact ((s.pushOne_spec e p).1.trans (OnlyEngine.onEng _ e _)).trans (ih _)
    · exact (OnlyEngine.onEng s e _).trans (State.stall_spec _ e _).1

/-- After its last push the instruction leaves (R142). -/
@[simp] theorem Machine.State.pushAll_nil (e : Engine) (s : State) : State.pushAll e [] s = s.onEng e Eng.leave := rfl

theorem Machine.State.pushAll_room (e : Engine) (p : Push) (l : List Push) (s : State) (h : s.ctx.vec.qcount p.q < 4) :
    State.pushAll e (p :: l) s = State.pushAll e l ((s.pushOne p).onEng e (fun x => { x with made := x.made + 1, stall := .none, stalled := 0 })) := by
  rw [State.pushAll, if_pos h]

theorem Machine.State.pushAll_full (e : Engine) (p : Push) (l : List Push) (s : State) (h : ¬ s.ctx.vec.qcount p.q < 4) :
    State.pushAll e (p :: l) s = (s.onEng e (fun x => { x with pushes := p :: l })).stall e (.push p.q) := by
  rw [State.pushAll, if_neg h]

/-- An E trap: its engine is frozen with the instruction at its head, and the trap is pending; while the engine's trap slot is
taken the instruction stays as it is (R364, R366). -/
theorem Machine.State.freeze_spec (s : State) (e : Engine) (code : BitVec 8) (ti : Word) :
    OnlyEngine s (s.freeze e code ti) e ∧ (s.freeze e code ti).ctx.vec = s.ctx.vec ∧
    (s.freeze e code ti).ctx.engAt e =
      if (s.ctx.engAt e).pend.isSome then s.ctx.engAt e
      else { s.ctx.engAt e with
        frozen := true, stall := .none, stalled := 0
        pend := some ⟨false, code, ti, s.iss.line, s.iss.lane, s.dcc, false⟩ } := by
  refine ⟨by unfold State.freeze; exact OnlyEngine.onEng s e _, by simp [State.freeze, State.onEng, Ctx.setEng], ?_⟩
  simp only [State.freeze, State.onEng_engAt, Eng.raise]
  cases h : (s.ctx.engAt e).pend <;> simp

/-- An A trap is pending on its engine, or marks the pending one as having lost another (R364, R366). -/
theorem Machine.State.raiseA_spec (s : State) (k : Nat) (e : Engine) (code : BitVec 8) (ti : Word) (line lane : Nat) :
    s.raiseA k e code ti line lane = { s with ctxs := (s.raiseA k e code ti line lane).ctxs } ∧
    (∀ j, j ≠ k → (s.raiseA k e code ti line lane).ctxAt j = s.ctxAt j) ∧
    ((s.raiseA k e code ti line lane).ctxAt k).engAt e = ((s.ctxAt k).engAt e).raise ⟨true, code, ti, line, lane, s.dcc, false⟩ ∧
    (s.raiseA k e code ti line lane).ctxAt k = { s.ctxAt k with eng := ((s.raiseA k e code ti line lane).ctxAt k).eng } := by
  refine ⟨rfl, fun j hj => by simp [State.raiseA, hj], ?_, ?_⟩
  · simp [State.raiseA, Ctx.engAt, Ctx.setEng]
  · simp [State.raiseA, Ctx.setEng]

/-! ## The instruction -/

/-- An engine instruction always answers a next state. -/
theorem Machine.engineOp_next (e : Engine) (body : Body) (s : State) : ∃ t, engineOp e body s = .next t := by
  unfold engineOp
  simp only
  split
  · exact ⟨_, rfl⟩
  · split
    · exact ⟨_, rfl⟩
    · split
      · exact ⟨_, rfl⟩
      · split <;> exact ⟨_, rfl⟩

/-- A control instruction always answers a next state. -/
theorem Machine.controlOp_next (r : Res' State) : ∃ t, controlOp r = .next t := by
  unfold controlOp
  split <;> exact ⟨_, rfl⟩

/-- An engine instruction whose pushes are open makes them (R132). -/
theorem Machine.engineOp_pushes (e : Engine) (body : Body) (s : State) (h : (s.eng e).pushes ≠ []) :
    engineOp e body s = .next (State.pushAll e (s.eng e).pushes s) := by
  simp [engineOp, h]

/-- An engine instruction whose operands are read does what its body says. -/
theorem Machine.engineOp_ok (e : Engine) (body : Body) (s t u : State) (l : List Push) (hp : (s.eng e).pushes = [])
    (hb : s.ctx.vec.bankCheck s.iss.instr = none) (hr : s.readStep e = (t, true)) (hn : (s.eng e).latched = false)
    (h : body t = .ok (u, l)) :
    engineOp e body s = .next (State.pushAll e l u) := by
  simp [engineOp, hp, hb, hr, h, hn]

/-- One that has latched its operands goes on from its latches (R183, R209). -/
theorem Machine.engineOp_latched (e : Engine) (body : Body) (s u : State) (l : List Push) (hp : (s.eng e).pushes = [])
    (hb : s.ctx.vec.bankCheck s.iss.instr = none) (hn : (s.eng e).latched = true) (h : fromLatch e body s = .ok (u, l)) :
    engineOp e body s = .next (State.pushAll e l u) := by
  simp [engineOp, hp, hb, hn, h, State.readStep]

/-- An engine instruction whose body traps is frozen (R364). -/
theorem Machine.engineOp_trap (e : Engine) (body : Body) (s t u : State) (code : BitVec 8) (ti : Word)
    (hp : (s.eng e).pushes = []) (hb : s.ctx.vec.bankCheck s.iss.instr = none) (hr : s.readStep e = (t, true))
    (hn : (s.eng e).latched = false) (h : body t = .error (.trap u code ti)) : engineOp e body s = .next ((u.unread e).freeze e code ti) := by
  simp [engineOp, hp, hb, hr, h, hn]

/-- An engine instruction that names a lent bank or a group that is not lent is frozen (R146). -/
theorem Machine.engineOp_bank (e : Engine) (body : Body) (s : State) (ti : Word) (hp : (s.eng e).pushes = [])
    (hb : s.ctx.vec.bankCheck s.iss.instr = some ti) : engineOp e body s = .next (s.freeze e tBANKBUSY ti) := by
  simp [engineOp, hp, hb]

/-! ## Stopping a gang and entering a trap -/

/-- A stopped context, with the commands of the lost messages taken out again, stays as it is. -/
theorem Machine.Ctx.stopped_again (c : Ctx) (p : XCmd → Bool) :
    ((c.without p).stopped.without p).stopped = (c.without p).stopped := by
  have h : ∀ (q : Flight → Bool) (l : List Flight), (∀ f, q { f with wait := [] } = q f) →
      (((l.map (fun f => { f with wait := [] })).filter q).map (fun f => { f with wait := [] })) =
      (l.map (fun f => { f with wait := [] })).filter q := fun q l hq => by
    rw [List.filter_map, List.map_map]; rfl
  simp only [Ctx.stopped, Ctx.without]
  rw [h _ _ (fun f => rfl)]
  simp [List.filter_filter, Bool.and_comm, Bool.and_left_comm, Bool.and_self, and_assoc, and_self_left]

/-- One context stopped; nothing else but READY's estimates and posted receives changes. -/
theorem Machine.State.stopAt_spec (s : State) (k : Nat) :
    s.stopAt k = { s with tiles := (s.stopAt k).tiles, ctxs := (s.stopAt k).ctxs, campus := (s.stopAt k).campus } ∧
    ∀ j, (s.stopAt k).ctxAt j = if j = k then ((s.ctxAt k).without (s.lost k)).stopped else s.ctxAt j := by
  have h : ∀ ages, s.settle k ages = { s with tiles := (s.settle k ages).tiles } := by
    intro ages; unfold State.settle; split <;> rfl
  unfold State.stopAt
  simp only
  rw [h]
  refine ⟨rfl, fun j => ?_⟩
  by_cases hj : j = k
  · subst hj; simp [State.ctxAt, State.setAt]
  · simp [State.ctxAt, State.setAt, SMap.get_set, hj]

theorem Machine.State.stopFold_spec (l : List Nat) (s : State) :
    l.foldl State.stopAt s = { s with
      tiles := (l.foldl State.stopAt s).tiles, ctxs := (l.foldl State.stopAt s).ctxs
      campus := (l.foldl State.stopAt s).campus } ∧
    ∀ j, (l.foldl State.stopAt s).ctxAt j = if j ∈ l then ((s.ctxAt j).without (s.lost j)).stopped else s.ctxAt j := by
  have tr : ∀ a b c : State, b = { a with tiles := b.tiles, ctxs := b.ctxs, campus := b.campus } →
      c = { b with tiles := c.tiles, ctxs := c.ctxs, campus := c.campus } →
      c = { a with tiles := c.tiles, ctxs := c.ctxs, campus := c.campus } := fun a b c h g => by
    rw [g]; conv_lhs => rw [h]
  induction l generalizing s with
  | nil => exact ⟨rfl, fun _ => rfl⟩
  | cons k l ih =>
    obtain ⟨g1, g2⟩ := s.stopAt_spec k
    obtain ⟨h1, h2⟩ := ih (s.stopAt k)
    have hl : ∀ j, (s.stopAt k).lost j = s.lost j := fun j => by rw [g1]; rfl
    refine ⟨tr _ _ _ g1 h1, fun j => ?_⟩
    rw [List.foldl_cons, h2, g2, hl]
    by_cases hj : j = k
    · subst hj
      by_cases hm : j ∈ l <;> simp [hm, Ctx.stopped_again]
    · simp [hj]

/-- Contexts stopped: what waits on translation goes, and nothing else but READY's estimates and posted receives changes. -/
theorem Machine.State.stopAll_spec (s : State) (l : List Nat) :
    s.stopAll l = { s with
      tiles := (s.stopAll l).tiles, ctxs := (s.stopAll l).ctxs, campus := (s.stopAll l).campus
      net := s.net.filter (fun m => !(m.srcDev = s.dev.num && l.any (fun k => (s.bindAt k).waits m))) } ∧
    ∀ j, (s.stopAll l).ctxAt j = if j ∈ l then ((s.ctxAt j).without (s.lost j)).stopped else s.ctxAt j := by
  obtain ⟨h1, h2⟩ := State.stopFold_spec l s
  unfold State.stopAll
  refine ⟨?_, h2⟩
  simp only
  rw [h1]

/-- A gang stops: its contexts are stopped and what waits on translation goes, the scheduler core hears of the first trap, and
nothing else but READY's estimates and posted receives changes. -/
theorem Machine.State.stopGang_spec (s : State) (k : Nat) (code : BitVec 8) :
    s.stopGang k code = { s with
      tiles := (s.stopGang k code).tiles, ctxs := (s.stopGang k code).ctxs
      campus := (s.stopGang k code).campus, gangs := (s.stopGang k code).gangs
      net := s.net.filter (fun m => !(m.srcDev = s.dev.num && (s.stopsWith k).any (fun j => (s.bindAt j).waits m))) } ∧
    (∀ j, (s.stopGang k code).ctxAt j =
      if j ∈ s.stopsWith k then ((s.ctxAt j).without (s.lost j)).stopped else s.ctxAt j) ∧
    ((s.bindAt k).valid = true → ∀ g, s.gang (s.bindAt k).gang.toNat = some g →
      (s.stopGang k code).gang (s.bindAt k).gang.toNat =
        some { g with trap := g.trap.or (some (code, (s.bindAt k).strand.toNat)) }) ∧
    ∀ i, i ≠ (s.bindAt k).gang.toNat → (s.stopGang k code).gang i = s.gang i := by
  obtain ⟨h1, h2⟩ := s.stopAll_spec (s.stopsWith k)
  unfold State.stopGang
  simp only
  generalize s.stopAll (s.stopsWith k) = t at h1 h2
  have hg : ∀ i, t.gang i = s.gang i := fun i => by rw [h1]; rfl
  split
  · next hv =>
    split
    · next g hgg =>
      refine ⟨by simp only [State.setGang]; rw [h1], h2, fun _ g' hg' => ?_, fun i hi => ?_⟩
      · rw [hg] at hgg; rw [hgg] at hg'; cases hg'; simp [State.gang, State.setGang]
      · simp only [State.gang, State.setGang, SMap.get_set, hi, if_false]; exact hg i
    · next hgg =>
      refine ⟨by rw [h1], h2, fun _ g' hg' => ?_, fun i _ => hg i⟩
      rw [hg, hg'] at hgg; cases hgg
  · next hv => exact ⟨by rw [h1], h2, fun h => absurd h hv, fun i _ => hg i⟩

@[simp] theorem Machine.State.stopGang_mem (s : State) (k : Nat) (code : BitVec 8) : (s.stopGang k code).mem = s.mem := by
  rw [(s.stopGang_spec k code).1]

/-- Where a handler can be entered, trap entry writes the trap registers and fetches at the handler (R34, R89). -/
theorem Machine.State.enterTrap_handler (s : State) (code : BitVec 8) (ti : Word) (line lane : Nat) (t : Teng)
    (hi : s.ctx.csr.intrap = false) (hv : s.ctx.csr.tvecEn = true) :
    OnlyMoving s (s.enterTrap code ti line lane t) ∧
    (s.enterTrap code ti line lane t).ctx = { s.ctx with
      csr := { s.ctx.csr with
        tline := BitVec.ofNat 14 (line / 32), tlane := BitVec.ofNat 4 lane, tcode := code, tinfo := ti
        tpred := BitVec.ofNat 7 (s.ctx.ctl.p.toNat / 2), intrap := true, teng := t }
      lp := if s.ctx.lp.open_ then { s.ctx.lp with open_ := false, susp := true } else s.ctx.lp
      ctl := { s.ctx.ctl with line := 32 * s.ctx.csr.tvecLine.toNat, lane := 0, fetch := .run, hold := .none, held := 0,
                              due := s.dcc.toNat + 3, late := none } } := by
  unfold State.enterTrap
  simp only [hi, hv, if_true, Bool.false_eq_true, if_false]
  exact ⟨.setCtx .., by simp⟩

/-- Within a handler a trap is a double trap, and without one it stops the gang (R34). -/
theorem Machine.State.enterTrap_stop (s : State) (code : BitVec 8) (ti : Word) (line lane : Nat) (t : Teng)
    (h : s.ctx.csr.intrap = true ∨ s.ctx.csr.tvecEn = false) :
    s.enterTrap code ti line lane t = s.stopGang s.cur (if s.ctx.csr.intrap then tDOUBLETRAP else code) := by
  unfold State.enterTrap
  cases hi : s.ctx.csr.intrap
  · rw [hi] at h; simp_all
  · simp [hi]

@[simp] theorem Machine.State.enterTrap_mem (s : State) (code : BitVec 8) (ti : Word) (line lane : Nat) (t : Teng) :
    (s.enterTrap code ti line lane t).mem = s.mem := by
  by_cases h : s.ctx.csr.intrap = true ∨ s.ctx.csr.tvecEn = false
  · rw [s.enterTrap_stop code ti line lane t h, State.stopGang_mem]
  · have hi : s.ctx.csr.intrap = false := by cases hc : s.ctx.csr.intrap <;> simp_all
    have hv : s.ctx.csr.tvecEn = true := by cases hc : s.ctx.csr.tvecEn <;> simp_all
    rw [(s.enterTrap_handler code ti line lane t hi hv).1.1]

end Sys2Proof
end

