-- ==== Sys2Proof/Laws/Links.lean ====
section
/-! SUPPORT. What handing flits to a port can do: it changes the ports, and of them one port's injection queues. -/

namespace Sys2Proof

open Sys2Proof.Machine

/-- Two states differ in their ports alone. -/
def OnlyPorts (s t : State) : Prop := t = { s with ports := t.ports }

theorem OnlyPorts.refl (s : State) : OnlyPorts s s := rfl

theorem OnlyPorts.trans {s t u : State} (h : OnlyPorts s t) (g : OnlyPorts t u) : OnlyPorts s u := by
  unfold OnlyPorts at *
  rw [g, h]

theorem OnlyPorts.foldl {α : Type} (f : State → α → State) (h : ∀ s a, OnlyPorts s (f s a)) (l : List α) (s : State) :
    OnlyPorts s (l.foldl f s) := by
  induction l generalizing s with
  | nil => exact .refl s
  | cons a l ih => exact (h s a).trans (ih (f s a))

theorem Machine.State.setPort_onlyPorts (s : State) (p : Nat) (x : Port) : OnlyPorts s (s.setPort p x) := rfl

theorem Machine.State.injectAt_onlyPorts (s : State) (p link who : Nat) (l : List Flit) : OnlyPorts s (s.injectAt p link who l) := rfl

theorem Machine.State.inject_onlyPorts (s : State) (core dst who : Nat) (l : List Flit) : OnlyPorts s (s.inject core dst who l) := by
  unfold State.inject
  split
  · exact .refl s
  · exact injectAt_onlyPorts ..

theorem Machine.State.ringSend_onlyPorts (s : State) (op : RingOp) (port : BitVec 4) (n t c i v : Nat) :
    OnlyPorts s (s.ringSend op port n t c i v) := injectAt_onlyPorts ..

theorem Machine.State.ringFirst_onlyPorts (s : State) (op : RingOp) (port : BitVec 4) (n data : Nat) :
    OnlyPorts s (s.ringFirst op port n data) :=
  .foldl _ (fun _ _ => .foldl _ (fun _ _ => ringSend_onlyPorts ..) _ _) _ s

theorem Machine.State.contribute_onlyPorts (s : State) (x : XCmd) (peers : List Nat) (grp seq b data : Nat) :
    OnlyPorts s (s.contribute x peers grp seq b data) :=
  .foldl _ (fun _ _ => inject_onlyPorts ..) _ s

end Sys2Proof
end

