-- ==== Sys2Proof/Laws/Snapshot.lean ====
section
/-! SUPPORT. What a seal does to an image: it changes no other byte of it, and is read back as written. -/

namespace Sys2Proof

open Sys2Proof.Machine

/-- A write of bytes that a selection leaves out does not change what it selects. -/
theorem Mem.filter_write (m : Mem) (p : Host.Cell → Bool) (a n v : Nat) (h : Mem.wf m = true)
    (hp : ∀ c : Host.Cell, a ≤ c.1 → c.1 < a + n → p c = false) : (Mem.write m a n v).filter p = m.filter p := by
  have split : ∀ l : List Host.Cell, l.Pairwise (fun a b => a.1 < b.1) →
      (l.filter (fun c => c.1 < a)).filter p ++ (l.filter (fun c => a + n ≤ c.1)).filter p = l.filter p := by
    intro l hl
    induction l with
    | nil => rfl
    | cons c l ih =>
      obtain ⟨h1, h2⟩ := List.pairwise_cons.1 hl
      by_cases ha : c.1 < a
      · simp only [List.filter_cons, ha, decide_true, if_true, show ¬ a + n ≤ c.1 by omega, decide_false,
          Bool.false_eq_true, if_false]
        split
        · rw [List.cons_append, ih h2]
        · exact ih h2
      · have none : l.filter (fun c => decide (c.1 < a)) = [] :=
          List.filter_eq_nil_iff.2 (fun x hx => by have := h1 x hx; simp; omega)
        have ih := ih h2
        rw [none] at ih
        simp only [List.filter_nil, List.nil_append] at ih
        by_cases hb : a + n ≤ c.1
        · simp only [List.filter_cons, ha, hb, decide_true, if_true, decide_false, Bool.false_eq_true, if_false, none,
            List.filter_nil, List.nil_append]
          split
          · rw [ih]
          · exact ih
        · have hc := hp c (by omega) (by omega)
          simp only [List.filter_cons, ha, hb, hc, decide_false, Bool.false_eq_true, if_false, none, List.filter_nil,
            List.nil_append]
          exact ih
  have cells : (Mem.cells a n v).filter p = [] :=
    List.filter_eq_nil_iff.2 (fun c hc => by have := Mem.mem_cells hc; simp [hp c this.1 this.2.1])
  simp only [Mem.write, List.filter_append, cells, List.append_nil]
  exact split m ((Mem.wf_iff m).1 h).1

/-- Sealing an image leaves its other bytes alone. -/
theorem Machine.State.imageCells_reseal (s : State) (k : Nat) (h : Mem.wf s.mem = true) :
    (s.reseal k).imageCells k = s.imageCells k := by
  show List.map _ (List.filter _ (Mem.write s.mem (s.saveBase k + 0x38) 8 _)) = List.map _ (List.filter _ s.mem)
  rw [Mem.filter_write _ _ _ _ _ h]
  · rfl
  · intro c h1 h2
    have e : (s.reseal k).saveBase k = s.saveBase k := rfl
    simp [e]; omega

/-- The seal is read back as it was made. -/
theorem Machine.State.read_reseal (s : State) (k : Nat) :
    (s.reseal k).mem.read ((s.reseal k).saveBase k + 0x38) 8 = (s.imageSeal k).toNat := by
  show Mem.read (Mem.write s.mem (s.saveBase k + 0x38) 8 (s.imageSeal k).toNat) (s.saveBase k + 0x38) 8 = _
  rw [Mem.read_write_self, Nat.mod_eq_of_lt (s.imageSeal k).isLt]

/-- A sealed image carries the seal that a restore checks (R383). -/
theorem Machine.State.sealed_image (s : State) (k : Nat) (h : Mem.wf s.mem = true) :
    (s.reseal k).mem.read ((s.reseal k).saveBase k + 0x38) 8 = ((s.reseal k).imageSeal k).toNat := by
  rw [s.read_reseal, State.imageSeal, State.imageSeal, s.imageCells_reseal k h]
  rfl

end Sys2Proof
end

