-- ==== Sys2Proof/Tests/Slice0.lean ====
section
/-! SUPPORT. The author's own tests: what WellFormed refuses, words of the encodings of R48 to R60 and what they decode to, and for
each statement the states and operands that meet its hypotheses. -/

namespace Sys2Proof.Tests

open Sys2Proof.Machine

set_option maxRecDepth 20000
set_option exponentiation.threshold 100000
set_option Elab.async false

/-! ## What WellFormed refuses -/

/-- No operands of a VL form. -/
def vNone : VOp := ⟨.v 0, .v 0, .v 0, .v 0, 0, 0, none, false⟩
/-- No operands of a PC form. -/
def pNone : POp := ⟨0, 0, 0, 0, 0, 0, 0, 0, 0, false, 0, 0, 0, 0, 0⟩
/-- No operands of an MH form. -/
def mhNone : MHOp := ⟨0, 0, 0, 0, 0, false, false, false, 0⟩
/-- No operands of an MDH form. -/
def mdNone : MDOp := ⟨0, 0, 0, none, false, 0, 0⟩
/-- No operands of an FK form. -/
def fkNone : FKOp := ⟨0, 0, 0, 0, .fp32, .copy, 0, 0, 0, 0⟩
/-- No operands of an FB form. -/
def fbNone : FBOp := ⟨0, 0, 0, 0, 0, 0, 0, 0, 0, 0⟩

theorem test_wf_refuses_control :
    [Instr.slli 1 2 64, .srli 1 2 64, .srai 1 2 (-1), .amo false 1 2 3 .add .die .relaxed 4, .acas false 1 2 3 .die .relaxed 4 5,
      .hq 1 2 7, .hderive 0 1 2 3 4, .hoff 0 1 2, .hclear 0, .loopb 0 0 0 ⟨0, 0, 0, 0, 0, 0⟩, .loopb 1 0 0 ⟨0, 1, 0, 0, 0, 0⟩,
      .evinc 1 2 .die false, .evincN 1 2 .die false 3, .fencem 0, .tbar 16 1].all (fun i => !i.wf) = true := by decide

theorem test_wf_refuses_vector :
    [Instr.vadd .fp8e4 vNone, .vadd .fp32 { vNone with d := .pk 1 }, .vsub .int32 { vNone with rm := some .rne },
      .vmul .int8 vNone, .vfma .int32 vNone, .vmin .fp32 { vNone with c := .v 1 }, .vmax .int8 vNone, .vabs .fp32 { vNone with b := .v 1 },
      .vneg .int32 { vNone with rm := some .rne }, .vdiv { vNone with c := .v 1 }, .vsqrt { vNone with b := .v 1 },
      .vcmpeq .fp32 1 { vNone with d := .v 1 }, .vcmplt .int8 1 vNone, .vcmple .fp32 1 { vNone with sat := true }, .vkset 1 2049 0,
      .vkcnt 1 { vNone with a := .v 1 }, .vsel vNone, .vand { vNone with sat := true }, .vor { vNone with c := .v 1 },
      .vxor { vNone with rm := some .rne }, .vshl { vNone with sat := true }, .vshr { vNone with sat := true },
      .vsra { vNone with sat := true }, .vperm { vNone with c := .v 1 }, .vnot { vNone with b := .v 1 }, .vmov { vNone with b := .v 1 },
      .vcvt .pl vNone, .vtag .fp32 { vNone with b := .v 1 }, .vexp { vNone with rm := some .rne }, .vlog { vNone with b := .v 1 },
      .vrcp { vNone with b := .v 1 }, .vrsqrt { vNone with b := .v 1 }, .vtanh { vNone with b := .v 1 }, .vsig { vNone with b := .v 1 },
      .vredsum .int8 vNone, .vredmax .fp16 vNone, .vredmin .fp16 vNone, .vscan .fp16 vNone, .vbcst .fp16 (.v 1) 65536 0 0,
      .vbcst .fp32 (.pk 1) 0 0 0, .vgather .w4 ⟨.pk 1, 0, 0, .v 0, 0, 0⟩, .vld .fp32 ⟨.pk 1, 0, 0, 0, 0, 0, none⟩,
      .vst .g4 ⟨.v 1, 0, 0, 0, 0, 0, none⟩, .vpsplit 0 { vNone with b := .v 1 }, .vpmerge 0 { vNone with b := .v 1 },
      .vbscale .fp8e4 1 vNone, .vclamp .fp16 vNone, .viota { vNone with a := .v 1 }].all (fun i => !i.wf) = true := by decide

theorem test_wf_refuses_matrix_and_pump :
    [Instr.mldw .fp32 mhNone, .mldw .g4 { mhNone with tr := true }, .mmul .bf16 0 { mhNone with pc := 1 }, .mmulq .pl 0 0 false 0,
      .mldwq .fp16 0 0, .mldg { mhNone with ac := true }, .mpre { mhNone with zs := true }, .mldacc 0 { mhNone with zs := true },
      .mdrain .fp8e5 0 0 0 0, .mdrain .fp32 0 0 129 0, .mdrainc .fp32 0 { mdNone with rows := 129 },
      .mdrains .pl 0 0 { mdNone with sat := true }, .mdrainp 0 { mdNone with sat := true }, .pcopy false { pNone with tab := 1 },
      .pcopy false { pNone with seq := 0xFFFF }, .pcopy false { pNone with ni := true, n := 1 }, .pcopy false { pNone with nimm := 1 },
      .pcopy false { pNone with th := 1 }, .pcopy2d false 0 pNone, .pcopy2d false 1 { pNone with ni := true },
      .pcopyd false { pNone with seq := 0xFFFF }, .pcopyhIn { pNone with tab := 1 }, .pcopyhOut { pNone with seq := 1 },
      .pover { pNone with hd := 1 }, .pcmd { pNone with seq := 1 }, .pfill { pNone with hs := 1 }, .ptagset { pNone with os := 1 },
      .ptagchk pNone, .ptagchk { pNone with ei := 1, od := 1 }, .pprefetch { pNone with hd := 1 }, .pcancel 0 0].all
      (fun i => !i.wf) = true := by decide

theorem test_wf_refuses_halo_signature_and_fabric :
    [Instr.gld .int32 ⟨.v 1, 0, 0, 0, 0, 0, 0, 0⟩, .gld .fp32 ⟨.pk 1, 0, 0, 0, 0, 0, 0, 0⟩, .gst .int32 ⟨.v 1, 0, 0, 0, 0, 0, 0, 0⟩,
      .siginc .fp16 (.v 1) 0, .sigincb .fp16 0 0 0 0, .sigst .fp16 0 0 0, .xst .fp16 ⟨.v 1, 0, 0, 0, 0, 0, 0⟩,
      .xld .bf16 ⟨.v 1, 0, 0, 0, 0, 0, 0⟩ 0, .xld .fp32 ⟨.pk 1, 0, 0, 0, 0, 0, 0⟩ 0, .xamo false .add ⟨0, 0, 0, 0, 0, .die, .relaxed, 0⟩,
      .xacas false 0 ⟨0, 0, 0, 0, 0, .die, .relaxed, 0⟩, .xevinc 1 0 .die false 0, .xring .rs 12 0 0 0 0 0 0 0,
      .xring .rs 0 0 0 0 0 0 1 0, .xsched 12 0 0 0, .xcoll .ag { fkNone with opr := .addF32 }, .xcoll .ar { fkNone with th := 1 },
      .xput { fbNone with th := 1 }, .xget { fbNone with th := 1 }].all (fun i => !i.wf) = true := by decide

/-! ## Words -/

theorem test_decode_arith_1 :
    decodeTableWord 32 0x32A40 = some (.add 3 5 9) ∧
    decodeTableWord 32 0x242A40 = some (.sub 4 5 9) ∧
    decodeTableWord 32 0x452A40 = some (.mul 5 5 9) ∧
    decodeTableWord 32 0x662A40 = some (.mulh 6 5 9) ∧
    decodeTableWord 32 0x872A40 = some (.div 7 5 9) ∧
    decodeTableWord 32 0xA82A40 = some (.divu 8 5 9) ∧
    decodeTableWord 32 0xC92A40 = some (.rem 9 5 9) ∧
    decodeTableWord 32 0xEA2A40 = some (.and 10 5 9) := by decide

theorem test_decode_arith_2 :
    decodeTableWord 32 0x10B2A40 = some (.or 11 5 9) ∧
    decodeTableWord 32 0x12C2A40 = some (.xor 12 5 9) ∧
    decodeTableWord 32 0x14D2A40 = some (.sll 13 5 9) ∧
    decodeTableWord 32 0x16E2A40 = some (.srl 14 5 9) ∧
    decodeTableWord 32 0x18F2A40 = some (.sra 15 5 9) ∧
    decodeTableWord 32 0x1B02A40 = some (.min 16 5 9) ∧
    decodeTableWord 32 0x1D12A40 = some (.max 17 5 9) ∧
    decodeTableWord 32 0x1FF3000 = some (.clz 31 6) := by decide

theorem test_decode_arith_3 :
    decodeTableWord 32 0x201F000 = some (.popc 1 30) := by decide

theorem test_decode_imm_1 :
    decodeTableWord 32 0x3043DA0 = some (.addi 4 7 0x5A0) ∧
    decodeTableWord 32 0x3243DA1 = some (.subi 4 7 0x5A1) ∧
    decodeTableWord 32 0x3443DA2 = some (.andi 4 7 0x5A2) ∧
    decodeTableWord 32 0x3643DA3 = some (.ori 4 7 0x5A3) ∧
    decodeTableWord 32 0x3843DA4 = some (.xori 4 7 0x5A4) ∧
    decodeTableWord 32 0x3A4383D = some (.slli 4 7 61) ∧
    decodeTableWord 32 0x3C4383E = some (.srli 4 7 62) ∧
    decodeTableWord 32 0x3E4383F = some (.srai 4 7 63) := by decide

theorem test_decode_imm_2 :
    decodeTableWord 32 0x4028001 = some (.li 2 0x8001) ∧
    decodeTableWord 96 0xCDEF000156789AB14021234 = some (.liLong 2 0x123456789ABCDEF0) := by decide

theorem test_decode_cmp_1 :
    decodeTableWord 32 0x5163200 = some (.cmpeq 5 17 18) ∧
    decodeTableWord 32 0x61A3F00 = some (.cmpeqImm 6 17 0x1F00) ∧
    decodeTableWord 32 0x5363200 = some (.cmpne 5 17 18) ∧
    decodeTableWord 32 0x63A3F01 = some (.cmpneImm 6 17 0x1F01) ∧
    decodeTableWord 32 0x5563200 = some (.cmplt 5 17 18) ∧
    decodeTableWord 32 0x65A3F02 = some (.cmpltImm 6 17 0x1F02) ∧
    decodeTableWord 32 0x5763200 = some (.cmple 5 17 18) ∧
    decodeTableWord 32 0x67A3F03 = some (.cmpleImm 6 17 0x1F03) := by decide

theorem test_decode_cmp_2 :
    decodeTableWord 32 0x5963200 = some (.cmpltu 5 17 18) ∧
    decodeTableWord 32 0x69A3F04 = some (.cmpltuImm 6 17 0x1F04) ∧
    decodeTableWord 32 0x5B63200 = some (.cmpleu 5 17 18) ∧
    decodeTableWord 32 0x6BA3F05 = some (.cmpleuImm 6 17 0x1F05) ∧
    decodeTableWord 32 0x7054000 = some (.andp 1 2 4) ∧
    decodeTableWord 32 0x7254000 = some (.orp 1 2 4) ∧
    decodeTableWord 32 0x7454000 = some (.xorp 1 2 4) ∧
    decodeTableWord 32 0x7650000 = some (.notp 1 2) := by decide

theorem test_decode_mem_1 :
    decodeTableWord 32 0x803A0B1 = some (.ldb 3 40 5 17) ∧
    decodeTableWord 32 0x823A0B2 = some (.ldbu 3 40 5 18) ∧
    decodeTableWord 32 0x843A0B3 = some (.ldh 3 40 5 19) ∧
    decodeTableWord 32 0x863A0B4 = some (.ldhu 3 40 5 20) ∧
    decodeTableWord 32 0x883A0B5 = some (.ldw 3 40 5 21) ∧
    decodeTableWord 32 0x8A3A0B6 = some (.ldwu 3 40 5 22) ∧
    decodeTableWord 32 0x8C3A0B7 = some (.ldd 3 40 5 23) ∧
    decodeTableWord 32 0x8E3A0B8 = some (.stb 3 40 5 24) := by decide

theorem test_decode_mem_2 :
    decodeTableWord 32 0x903A0B9 = some (.sth 3 40 5 25) ∧
    decodeTableWord 32 0x923A0BA = some (.stw 3 40 5 26) ∧
    decodeTableWord 32 0x943A0BB = some (.std 3 40 5 27) := by decide

theorem test_decode_mem2_1 :
    decodeTableWord 64 0x80123401803A0A0 = some (.ldbLong 3 40 5 0x8012340) ∧
    decodeTableWord 64 0x80123411823A0A0 = some (.ldbuLong 3 40 5 0x8012341) ∧
    decodeTableWord 64 0x80123421843A0A0 = some (.ldhLong 3 40 5 0x8012342) ∧
    decodeTableWord 64 0x80123431863A0A0 = some (.ldhuLong 3 40 5 0x8012343) ∧
    decodeTableWord 64 0x80123441883A0A0 = some (.ldwLong 3 40 5 0x8012344) ∧
    decodeTableWord 64 0x801234518A3A0A0 = some (.ldwuLong 3 40 5 0x8012345) ∧
    decodeTableWord 64 0x801234618C3A0A0 = some (.lddLong 3 40 5 0x8012346) ∧
    decodeTableWord 64 0x801234718E3A0A0 = some (.stbLong 3 40 5 0x8012347) := by decide

theorem test_decode_mem2_2 :
    decodeTableWord 64 0x80123481903A0A0 = some (.sthLong 3 40 5 0x8012348) ∧
    decodeTableWord 64 0x80123491923A0A0 = some (.stwLong 3 40 5 0x8012349) ∧
    decodeTableWord 64 0x801234A1943A0A0 = some (.stdLong 3 40 5 0x801234A) := by decide

theorem test_decode_atom_1 :
    decodeTableWord 64 0xA9200001961A040 = some (.amo false 1 40 2 .max .die .acquire 4) ∧
    decodeTableWord 64 0xD6200001981A040 = some (.amo true 1 40 2 .swap .system .release 4) ∧
    decodeTableWord 64 0x32200019A1A040 = some (.acas false 1 40 2 .core .acqrel 4 8) ∧
    decodeTableWord 64 0x2200019C1A040 = some (.acas true 1 40 2 .core .relaxed 4 8) := by decide

theorem test_decode_handle_1 :
    decodeTableWord 32 0xA068540 = some (.hq 6 33 5) ∧
    decodeTableWord 64 0x3CC00001A30C460 = some (.hderive 33 34 6 7 19) ∧
    decodeTableWord 32 0xA50C460 = some (.hoff 33 34 6) ∧
    decodeTableWord 32 0xA7F8000 = some (.hclear 63) := by decide

theorem test_decode_flow_1 :
    decodeTableWord 32 0xB001ABC = some (.b 0x1ABC) ∧
    decodeTableWord 32 0xB341ABC = some (.bc 5 0x1ABC) ∧
    decodeTableWord 32 0xB541ABC = some (.bcn 5 0x1ABC) ∧
    decodeTableWord 32 0xB613ABC = some (.call 9 0x1ABC) ∧
    decodeTableWord 32 0xB895000 = some (.callr 9 10) ∧
    decodeTableWord 32 0xBA05000 = some (.ret 10) ∧
    decodeTableWord 128 0x400060101020301FFFE0001BD7FC00 = some (.loopb 0x2F 31 0xFFFE ⟨1, 2, 3, 4, 0, 6⟩) ∧
    decodeTableWord 32 0xC080100 = some (.csrr 8 0x100) := by decide

theorem test_decode_flow_2 :
    decodeTableWord 32 0xC280101 = some (.csrw 8 0x101) ∧
    decodeTableWord 32 0xC480102 = some (.csrs 8 0x102) ∧
    decodeTableWord 32 0xC680103 = some (.csrc 8 0x103) ∧
    decodeTableWord 32 0xC880000 = some (.rddcc 8) ∧
    decodeTableWord 32 0xCA80000 = some (.dccwait 8) := by decide

theorem test_decode_sync_1 :
    decodeTableWord 32 0xD1089C0 = some (.evinc 33 2 .device true) ∧
    decodeTableWord 32 0xD3088CE = some (.evincN 33 2 .cluster true 7) ∧
    decodeTableWord 32 0xD50C7FE = some (.evwait 33 true 0x7FE) ∧
    decodeTableWord 32 0xD708540 = some (.evwaitReg 33 false 21) ∧
    decodeTableWord 32 0xD888400 = some (.evread 8 33) ∧
    decodeTableWord 32 0xDB08000 = some (.fencem 0x21) ∧
    decodeTableWord 32 0xDC04000 = some (.fence .domain) ∧
    decodeTableWord 32 0xE140000 = some (.banklend 2 1) := by decide

theorem test_decode_sync_2 :
    decodeTableWord 32 0xE240000 = some (.bankret 1) ∧
    decodeTableWord 32 0xE41E600 = some (.tbar 15 6) ∧
    decodeTableWord 32 0xF00ABCD = some (.svc 0xABCD) ∧
    decodeTableWord 32 0xF20ABCD = some (.trap 0xABCD) ∧
    decodeTableWord 32 0xF400000 = some (.tret) ∧
    decodeTableWord 32 0xF600000 = some (.halt) ∧
    decodeTableWord 32 0xF800000 = some (.nop) := by decide

theorem test_decode_vs_1 :
    decodeTableWord 32 0x2000FF8B = some (.vadd .fp32 ⟨.v 3, .q 31, .v 11, .v 0, 0, 0, none, false⟩) ∧
    decodeTableWord 32 0x2100FF8B = some (.vsub .int32 ⟨.v 3, .q 31, .v 11, .v 0, 0, 0, none, false⟩) ∧
    decodeTableWord 32 0x2140FF8B = some (.vmul .fp32 ⟨.v 3, .q 31, .v 11, .v 0, 0, 0, none, false⟩) ∧
    decodeTableWord 32 0x2240FF8B = some (.vmin .fp16 ⟨.v 3, .q 31, .v 11, .v 0, 0, 0, none, false⟩) ∧
    decodeTableWord 32 0x22E0FF8B = some (.vmax .bf16 ⟨.v 3, .q 31, .v 11, .v 0, 0, 0, none, false⟩) ∧
    decodeTableWord 32 0x2380FF80 = some (.vabs .int32 ⟨.v 3, .q 31, .v 0, .v 0, 0, 0, none, false⟩) ∧
    decodeTableWord 32 0x2420FF8B = some (.vdiv ⟨.v 3, .q 31, .v 11, .v 0, 0, 0, none, false⟩) ∧
    decodeTableWord 32 0x26C0FF8B = some (.vand ⟨.v 3, .q 31, .v 11, .v 0, 0, 0, none, false⟩) := by decide

theorem test_decode_vs_2 :
    decodeTableWord 32 0x26E0FF8B = some (.vor ⟨.v 3, .q 31, .v 11, .v 0, 0, 0, none, false⟩) ∧
    decodeTableWord 32 0x2700FF8B = some (.vxor ⟨.v 3, .q 31, .v 11, .v 0, 0, 0, none, false⟩) ∧
    decodeTableWord 32 0x2720FF80 = some (.vnot ⟨.v 3, .q 31, .v 0, .v 0, 0, 0, none, false⟩) ∧
    decodeTableWord 32 0x2740FF8B = some (.vshl ⟨.v 3, .q 31, .v 11, .v 0, 0, 0, none, false⟩) ∧
    decodeTableWord 32 0x2760FF8B = some (.vshr ⟨.v 3, .q 31, .v 11, .v 0, 0, 0, none, false⟩) ∧
    decodeTableWord 32 0x2780FF8B = some (.vsra ⟨.v 3, .q 31, .v 11, .v 0, 0, 0, none, false⟩) ∧
    decodeTableWord 32 0x2880FF80 = some (.vcvt .nat8 ⟨.v 3, .q 31, .v 0, .v 0, 0, 0, none, false⟩) ∧
    decodeTableWord 32 0x28C0FF80 = some (.vexp ⟨.v 3, .q 31, .v 0, .v 0, 0, 0, none, false⟩) := by decide

theorem test_decode_vs_3 :
    decodeTableWord 32 0x28E0FF80 = some (.vlog ⟨.v 3, .q 31, .v 0, .v 0, 0, 0, none, false⟩) ∧
    decodeTableWord 32 0x2900FF80 = some (.vrcp ⟨.v 3, .q 31, .v 0, .v 0, 0, 0, none, false⟩) ∧
    decodeTableWord 32 0x2920FF80 = some (.vrsqrt ⟨.v 3, .q 31, .v 0, .v 0, 0, 0, none, false⟩) ∧
    decodeTableWord 32 0x2940FF80 = some (.vtanh ⟨.v 3, .q 31, .v 0, .v 0, 0, 0, none, false⟩) ∧
    decodeTableWord 32 0x2960FF80 = some (.vsig ⟨.v 3, .q 31, .v 0, .v 0, 0, 0, none, false⟩) ∧
    decodeTableWord 32 0x29E0FF80 = some (.vredsum .int32 ⟨.v 3, .q 31, .v 0, .v 0, 0, 0, none, false⟩) ∧
    decodeTableWord 32 0x2A20FF80 = some (.vredmax .int32 ⟨.v 3, .q 31, .v 0, .v 0, 0, 0, none, false⟩) ∧
    decodeTableWord 32 0x2A40FF80 = some (.vredmin .fp32 ⟨.v 3, .q 31, .v 0, .v 0, 0, 0, none, false⟩) := by decide

theorem test_decode_vs_4 :
    decodeTableWord 32 0x2A80FF80 = some (.vscan .fp32 ⟨.v 3, .q 31, .v 0, .v 0, 0, 0, none, false⟩) ∧
    decodeTableWord 32 0x2AC0FF8B = some (.vperm ⟨.v 3, .q 31, .v 11, .v 0, 0, 0, none, false⟩) ∧
    decodeTableWord 32 0x2F00FF80 = some (.vmov ⟨.v 3, .q 31, .v 0, .v 0, 0, 0, none, false⟩) := by decide

theorem test_decode_vl_1 :
    decodeTableWord 64 0x24C2940030807040 = some (.vadd .int8 ⟨.v 3, .q 2, .pk 5, .v 0, 3, 2, none, false⟩) ∧
    decodeTableWord 64 0x24E8128632106C80 = some (.vfma .bf16 ⟨.q 3, .v 100, .v 4, .pk 1, 3, 2, (some .rdn), true⟩) ∧
    decodeTableWord 64 0x24F0000033A07040 = some (.vneg .fp32 ⟨.v 3, .q 2, .v 0, .v 0, 3, 2, (some .rna), false⟩) ∧
    decodeTableWord 64 0x24E4000234407040 = some (.vsqrt ⟨.v 3, .q 2, .v 0, .v 0, 3, 2, (some .rtz), true⟩) ∧
    decodeTableWord 64 0x24C020003460A0E0 = some (.vcmpeq .fp32 5 ⟨.v 0, .v 7, .v 8, .v 0, 3, 2, none, false⟩) ∧
    decodeTableWord 64 0x24C020003540C0E0 = some (.vcmplt .int32 6 ⟨.v 0, .v 7, .v 8, .v 0, 3, 2, none, false⟩) ∧
    decodeTableWord 64 0x24C0200035A0E0E0 = some (.vcmple .bf16 7 ⟨.v 0, .v 7, .v 8, .v 0, 3, 2, none, false⟩) ∧
    decodeTableWord 64 0x24C0140036A06080 = some (.vsel ⟨.v 3, .v 4, .v 5, .v 0, 3, 2, none, false⟩) := by decide

theorem test_decode_vl_2 :
    decodeTableWord 64 0x24EC000238206080 = some (.vcvt .fp8e5 ⟨.v 3, .v 4, .v 0, .v 0, 3, 2, (some .rup), true⟩) ∧
    decodeTableWord 64 0x24C0000038A06092 = some (.vtag .g4 ⟨.v 3, .v 4, .v 0, .v 0, 3, 2, none, false⟩) ∧
    decodeTableWord 64 0x24C014183F606080 = some (.vclamp .int32 ⟨.v 3, .v 4, .v 5, .v 6, 3, 2, none, false⟩) := by decide

theorem test_decode_mask_1 :
    decodeTableWord 32 0x25F77000 = some (.vkand 5 6 7 0) ∧
    decodeTableWord 32 0x26177000 = some (.vkor 5 6 7 0) ∧
    decodeTableWord 32 0x26377000 = some (.vkxor 5 6 7 0) ∧
    decodeTableWord 64 0x2600000036570000 = some (.vknot 5 6 3) ∧
    decodeTableWord 32 0x26740800 = some (.vkset 5 2048 0) ∧
    decodeTableWord 64 0x20000000369040C0 = some (.vkcnt 6 ⟨.q 2, .v 0, .v 0, .v 0, 0, 0, none, false⟩) := by decide

theorem test_decode_vm_1 :
    decodeTableWord 96 0x2000ABCD328000003B012000 = some (.vbcst .fp16 (.v 9) 0xABCD 2 1) ∧
    decodeTableWord 96 0x20000001328000003AF1201E = some (.vbcst .fp32 (.q 9) 0xF0000001 2 1) ∧
    decodeTableWord 64 0x24D340003B813414 = some (.vgather .h2 ⟨.v 9, 40, 5, .v 77, 3, 2⟩) ∧
    decodeTableWord 64 0x24E9C0003C113414 = some (.vscatter .b1 ⟨.q 9, 40, 5, .pk 7, 3, 2⟩) ∧
    decodeTableWord 64 0x24FABCDE3C613414 = some (.vld .bf16 ⟨.v 9, 40, 5, 0x3ABCDE, 3, 2, none⟩) ∧
    decodeTableWord 96 0x2BEEF00034FABCDE3E413414 = some (.vst .pl ⟨.v 9, 40, 5, 0x3ABCDE, 3, 2, some 0xBEEF⟩) ∧
    decodeTableWord 64 0x24C000003E60608A = some (.vpsplit 5 ⟨.v 3, .v 4, .v 0, .v 0, 3, 2, none, false⟩) ∧
    decodeTableWord 64 0x24C000003E80608E = some (.vpmerge 7 ⟨.v 3, .v 4, .v 0, .v 0, 3, 2, none, false⟩) := by decide

theorem test_decode_vm_2 :
    decodeTableWord 64 0x24C014003EE0608C = some (.vbscale .pl 6 ⟨.v 3, .v 4, .v 5, .v 0, 3, 2, none, false⟩) ∧
    decodeTableWord 32 0x2F2C0000 = some (.vrnd .rup 0) ∧
    decodeTableWord 32 0x2F80C000 = some (.viota ⟨.v 3, .v 0, .v 0, .v 0, 0, 0, none, false⟩) := by decide

theorem test_decode_matrix_1 :
    decodeTableWord 64 0x45A5A5A550A14161 = some (.mldw .pl ⟨40, 5, 33, 2, 6, true, false, false, 0x5A5A5⟩) ∧
    decodeTableWord 64 0x441DA5A550F34161 = some (.mmul .fp16 9 ⟨40, 5, 33, 2, 0, false, true, true, 0x5A5A5⟩) ∧
    decodeTableWord 32 0x41B31800 = some (.mmulq .fp8e4 9 17 true 0) ∧
    decodeTableWord 64 0x4600000052011000 = some (.mldwq .fp8e4 17 3) ∧
    decodeTableWord 64 0x4405A5A552214161 = some (.mldg ⟨40, 5, 33, 2, 0, false, false, false, 0x5A5A5⟩) ∧
    decodeTableWord 64 0x4415A5A552534161 = some (.mldacc 9 ⟨40, 5, 33, 2, 0, false, true, false, 0x5A5A5⟩) ∧
    decodeTableWord 64 0x4405A5A552614161 = some (.mpre ⟨40, 5, 33, 2, 0, false, false, false, 0x5A5A5⟩) ∧
    decodeTableWord 32 0x42D322FE = some (.mdrain .fp16 9 17 127 0) := by decide

theorem test_decode_matrix_2 :
    decodeTableWord 64 0x45303A5A53334140 = some (.mdrainc .bf16 9 ⟨40, 5, 2, some .rtz, true, 3, 0xA5A⟩) ∧
    decodeTableWord 64 0x44003A5A53D3416A = some (.mdrains .fp8e4 9 21 ⟨40, 5, 2, none, false, 3, 0xA5A⟩) ∧
    decodeTableWord 64 0x45803A5A54134140 = some (.mdrainp 9 ⟨40, 5, 2, some .rna, false, 3, 0xA5A⟩) ∧
    decodeTableWord 32 0x44320000 = some (.mzero 9 0) ∧
    decodeTableWord 64 0x4600000054534000 = some (.maccmov 9 10 3) ∧
    decodeTableWord 32 0x447209A0 = some (.mscale 9 (.v 77) 0) ∧
    decodeTableWord 32 0x449210E0 = some (.mbias 9 (.q 7) 0) ∧
    decodeTableWord 32 0x44B34000 = some (.mswap 9 10 0) := by decide

theorem test_decode_matrix_3 :
    decodeTableWord 32 0x44DFC0C0 = some (.mcfg 127 1 64 0) ∧
    decodeTableWord 32 0x44E80000 = some (.mrnd .rdn 0) := by decide

theorem test_decode_pump_1 :
    decodeTableWord 128 0x6000000B7BEEF8E47463A1207010C450 = some (.pcopy false ⟨33, 34, 5, 0, 2, 6, 7, 8, 9, false, 48879, 35, 36, 0, 11⟩) ∧
    decodeTableWord 128 0x6ABCDEFB7BEEF8E4746381307030C450 = some (.pcopy true ⟨33, 34, 5, 0, 2, 6, 7, 0, 9, true, 48879, 35, 36, 11259375, 11⟩) ∧
    decodeTableWord 128 0x6FFC000B7BEEF8E47463A1207050C450 = some (.pcopy2d false 1023 ⟨33, 34, 5, 0, 2, 6, 7, 8, 9, false, 48879, 35, 36, 0, 11⟩) ∧
    decodeTableWord 128 0x6004000B7BEEF8E47463A1207070C450 = some (.pcopy2d true 1 ⟨33, 34, 5, 0, 2, 6, 7, 8, 9, false, 48879, 35, 36, 0, 11⟩) ∧
    decodeTableWord 128 0x6000000B7BEEF8E47463A1207090C45D = some (.pcopyd false ⟨33, 34, 5, 13, 2, 6, 7, 8, 9, false, 48879, 35, 36, 0, 11⟩) ∧
    decodeTableWord 128 0x6000000B7BEEF8E47463A12070B0C45D = some (.pcopyd true ⟨33, 34, 5, 13, 2, 6, 7, 8, 9, false, 48879, 35, 36, 0, 11⟩) ∧
    decodeTableWord 128 0x6000000B7BEEF8E47463A12070D0C450 = some (.pcopyhIn ⟨33, 34, 5, 0, 2, 6, 7, 8, 9, false, 48879, 35, 36, 0, 11⟩) ∧
    decodeTableWord 128 0x6000000B700008E47463A12070F0C450 = some (.pcopyhOut ⟨33, 34, 5, 0, 2, 6, 7, 8, 9, false, 0, 35, 36, 0, 11⟩) := by decide

theorem test_decode_pump_2 :
    decodeTableWord 128 0x6000000B700008E47463A12071004450 = some (.pover ⟨0, 34, 5, 0, 2, 6, 7, 8, 9, false, 0, 35, 36, 0, 11⟩) ∧
    decodeTableWord 128 0x6000000B700008E47463A12071204450 = some (.pcmd ⟨0, 34, 5, 0, 2, 6, 7, 8, 9, false, 0, 35, 36, 0, 11⟩) ∧
    decodeTableWord 128 0x6000000B7BEEF8E47463A12071508050 = some (.pfill ⟨33, 0, 5, 0, 2, 6, 7, 8, 9, false, 48879, 35, 36, 0, 11⟩) ∧
    decodeTableWord 128 0x6000000B7BEEF8E47403A12071708050 = some (.ptagset ⟨33, 0, 5, 0, 2, 0, 7, 8, 9, false, 48879, 35, 36, 0, 11⟩) ∧
    decodeTableWord 128 0x6000000B7BEEF8E47463A12071804400 = some (.ptagchk ⟨0, 34, 0, 0, 2, 6, 7, 8, 9, false, 48879, 35, 36, 0, 11⟩) ∧
    decodeTableWord 128 0x6000000B700008E47463A12071A04400 = some (.pprefetch ⟨0, 34, 0, 0, 2, 6, 7, 8, 9, false, 0, 35, 36, 0, 11⟩) ∧
    decodeTableWord 64 0x6600000071D098E0 = some (.pevent 33 6 7 3) ∧
    decodeTableWord 64 0x6600000071F0E800 = some (.ptab 33 13 3) := by decide

theorem test_decode_pump_3 :
    decodeTableWord 32 0x62160000 = some (.pcancel 11 0) ∧
    decodeTableWord 64 0x6600000072200000 = some (.pflush 3) := by decide

theorem test_decode_halo_1 :
    decodeTableWord 32 0x80130800 = some (.gdecl 9 33 0) ∧
    decodeTableWord 64 0x8600000090320420 = some (.gbind 9 33 3) ∧
    decodeTableWord 32 0x80536000 = some (.gbound 9 .zp .zero 0) ∧
    decodeTableWord 32 0x80720418 = some (.gdepth 9 2 6 0) ∧
    decodeTableWord 32 0x80928118 = some (.gface 9 .ym .device 6 0) ∧
    decodeTableWord 32 0x80B20000 = some (.gstep 9 0) ∧
    decodeTableWord 32 0x80D20000 = some (.gxchg 9 0) ∧
    decodeTableWord 32 0x80F26840 = some (.gwait 9 6 33 0) := by decide

theorem test_decode_halo_2 :
    decodeTableWord 32 0x81120000 = some (.greset 9 0) ∧
    decodeTableWord 64 0x8600000091320000 = some (.gfree 9 3) ∧
    decodeTableWord 96 0x8A80000094E6ABCD9169B098 = some (.gld .fp16 ⟨.v 77, 33, 6, 3, 2, 9, 0x2ABCD, 21⟩) ∧
    decodeTableWord 96 0x8A80000094E6ABCD91E9B098 = some (.gst .bf16 ⟨.v 77, 33, 6, 3, 2, 9, 0x2ABCD, 21⟩) := by decide

theorem test_decode_sig_1 :
    decodeTableWord 32 0xA01F0000 = some (.sigcfg 15 2 0) ∧
    decodeTableWord 32 0xA0260000 = some (.sigzero 6 0) ∧
    decodeTableWord 64 0xA6000000B0463800 = some (.sigseg 6 7 3) ∧
    decodeTableWord 32 0xA089A000 = some (.siginc .bf16 (.v 77) 0) ∧
    decodeTableWord 64 0xA4000000B0B098E0 = some (.sigincb .fp32 33 6 7 2) ∧
    decodeTableWord 64 0xA4000000B0F09800 = some (.sigjoin false 33 6 2) ∧
    decodeTableWord 64 0xA4000000B1109800 = some (.sigjoin true 33 6 2) ∧
    decodeTableWord 32 0xA1200000 = some (.siglog 0) := by decide

theorem test_decode_sig_2 :
    decodeTableWord 64 0xA6000000B1400000 = some (.sigexp 3) ∧
    decodeTableWord 64 0xA4000000B1709800 = some (.sigld 33 6 2) ∧
    decodeTableWord 64 0xA4000000B1B09800 = some (.sigst .bf16 33 6 2) ∧
    decodeTableWord 32 0xA1D23800 = some (.sigdrain 17 3 0) := by decide

theorem test_decode_fabric_1 :
    decodeTableWord 64 0xC4EBABCDD029B098 = some (.xst .bf16 ⟨.v 77, 33, 6, 3, 2, 21, 0x1ABCD⟩) ∧
    decodeTableWord 96 0xC9000000D4EBABCDD089B098 = some (.xld .untyped ⟨.v 77, 33, 6, 3, 2, 21, 0x1ABCD⟩ 36) ∧
    decodeTableWord 64 0xC4DC0900D0D09AA7 = some (.xamo true .xor ⟨33, 6, 21, 7, 2, .device, .release, 36⟩) ∧
    decodeTableWord 64 0xC4008900D0F09AA7 = some (.xacas false 8 ⟨33, 6, 21, 7, 2, .core, .relaxed, 36⟩) ∧
    decodeTableWord 32 0xC1309AC0 = some (.xevinc 33 6 .system true 0) ∧
    decodeTableWord 64 0xC4000000D1509A20 = some (.xtrig 33 6 34 2) ∧
    decodeTableWord 64 0xC4700000D16686A8 = some (.xtile 6 33 21 .addBf16 7 2) ∧
    decodeTableWord 32 0xC1860000 = some (.xready 6 0) := by decide

theorem test_decode_fabric_2 :
    decodeTableWord 64 0xC5247500D1D7098E = some (.xring .ag 11 33 6 7 36 35 21 2) ∧
    decodeTableWord 64 0xC4000000D2170980 = some (.xsched 11 33 6 2) ∧
    decodeTableWord 32 0xC2268560 = some (.xport 6 33 .fp8e5 .rna 0) ∧
    decodeTableWord 64 0xC5C80000D250C540 = some (.xcomp 33 34 5 3 36 2) ∧
    decodeTableWord 64 0xC5C80000D270C400 = some (.xresid 33 34 3 36 2) ∧
    decodeTableWord 32 0xC2966000 = some (.xallow 11 6 0) ∧
    decodeTableWord 32 0xC2B60840 = some (.xfence 11 33 0) ∧
    decodeTableWord 96 0xC3D40000D46A48C0D310C556 = some (.xcoll .rs ⟨33, 34, 0xAB, 2, .bf16, .addBf16, 36, 35, 7, 21⟩) := by decide

theorem test_decode_fabric_3 :
    decodeTableWord 64 0xC5200000D370E600 = some (.xsend 33 3 6 36 2) ∧
    decodeTableWord 64 0xC5200000D390E600 = some (.xrecv 33 3 6 36 2) ∧
    decodeTableWord 96 0xC9235000D4742400D3B0C550 = some (.xput ⟨33, 34, 21, 2, 7, 8, 9, 36, 35, 10⟩) ∧
    decodeTableWord 96 0xC9235000D4742400D3D0C550 = some (.xget ⟨33, 34, 21, 2, 7, 8, 9, 36, 35, 10⟩) := by decide

theorem test_reset_memory : State.reset.mem.wf = true := by decide

/-! ## Witnesses: for every clause of the statements, a state and operands that meet its hypotheses -/

/-- A record of the cistern of core 0, in world 0 and with every right. -/
def cist (f : Fmt) (base len : Nat) : Handle :=
  ⟨0, BitVec.ofNat 57 base, BitVec.ofNat 48 len, 1, none, 0, f, 0, 0xFF, 0, 0, 0, 0, 0⟩
/-- A record of HBM, in world 0 and with every right. -/
def hbm (f : Fmt) (base len : Nat) : Handle :=
  ⟨1, BitVec.ofNat 57 base, BitVec.ofNat 48 len, 1, none, 0, f, 0, 0xFF, 0, 0, 0, 0, 0⟩

/-- A launch record of two strands with one team. -/
def rec2 : LaunchRec :=
  { va := 0, d0 := 0, c0 := 0, k0 := 0, nd := 1, nc := 1, nk := 2, tagmode := false, prio := 0, link := none, psize := 128
    start := 0, teams := [(0, some ⟨0, 255⟩)], strands := [⟨0, 0, 0, []⟩, ⟨0, 1, 0, []⟩], handles := [] }
/-- A running gang of two strands, on cores 0 and 1. -/
def gang1 : Gang :=
  { world := 0, tag := 7, sq := 0, prio := 0, link := none, linkN := 0, r := rec2, keys := [0, 2], bars := [], ready := some 0
    startAt := some 0, lastStart := 0, running := true, preempted := false, halted := false, migrating := false, trap := none
    retired := [], refused := false }
/-- A running context with records in h1 (cistern), h2 (HBM), h3 (cistern, FP32) and h4 (cistern, PL), and counters and scalars. -/
def run0 : Ctx :=
  { Ctx.reset with
    phase := .running
    ctl := { Ctrl.reset with
      fetch := .run, nlane := 1, 
      s := [(1, 64), (2, 3), (3, 0x1FFF), (4, 200), (5, 1), (6, 65537), (7, 0x300000000)], e := [(1, 5)], nextAge := 9
      h := [(0, some codeHandle), (1, some (cist .untyped 0 0x40000)), (2, some (hbm .untyped 0 0x10000)),
        (3, some (cist .fp32 0 0x40000)), (4, some (cist .pl 0x1000 0x40000)),
        (5, some { cist .untyped 0 0x40000 with rights := 0xFD }), (6, some { cist .untyped 0 0x40000 with rights := 0xFE }),
        (7, some { cist .fp32 0 0x40000 with geo1 := 16 }),
        (8, some (cist .untyped 0x2000 16)), (9, some (cist .untyped 0x3000 8)), (10, some (cist .bf16 0x4000 256)),
        (11, some (cist .untyped 0x4000 64))] }
    csr := { Csr.reset with tvecEn := true, tvecLine := 2 }
    en := ⟨5, 0, false⟩ }
/-- World 0, open, with translation on, one page cached and its memory granted. -/
def world0 : World :=
  { World.reset with
    isOpen := true
    x := { Xlat.reset with en := true, cache := [⟨0, 2 ^ 25, 0, false, false, false, 0, 0, []⟩] }
    g := { Guard.reset with er := [(0, ⟨0, 2 ^ 25, 0⟩)] } }
/-- The device with gang 1 running in world 0, at cycle 100. -/
def base : State :=
  { State.reset with
    dcc := 100, owner := (List.range 40).map (fun l => (l, some 0)), ctxs := [(0, run0), (2, run0)], worlds := [(0, world0)], gangs := [(1, some gang1)]
    binds := [(0, ⟨true, true, 0, 0, 1, 0, 0, 0, 0, 0, 128⟩), (2, ⟨true, true, 0, 0, 1, 1, 1, 0, 0, 0, 128⟩)] }
/-- The device with an instruction at the head of its engine's queue, about to be issued. -/
def about (s : State) (e : Engine) (i : Instr) : State :=
  { (s.placeEngine i e []) with iss := { s.capture i [] 0 with instr := i } }
/-- The device with context 0 changed. -/
def with0 (s : State) (f : Ctx → Ctx) : State := s.setAt 0 (f (s.ctxAt 0))
/-- The device with the control stream of context 0 changed. -/
def withCtl (s : State) (f : Ctrl → Ctrl) : State := with0 s (fun c => { c with ctl := f c.ctl })

theorem some_getD {α : Type} {x : Option α} (d : α) (h : x.isSome = true) : x = some (x.getD d) := by
  cases x with
  | none => cases h
  | some v => rfl
/-- The answer of a computation that succeeds. -/
def okD {ε α : Type} (x : Except ε α) (d : α) : α := match x with | .ok a => a | .error _ => d
theorem okD_eq {ε α : Type} {x : Except ε α} (d : α) (h : x.toBool = true) : x = .ok (okD x d) := by
  cases x with
  | error e => cases h
  | ok v => rfl
/-- Whether an access resolves. -/
def isOk : Acc → Bool | .ok _ _ => true | _ => false
/-- The state in which an access resolves. -/
def accSt : Acc → State | .ok s _ => s | _ => base
/-- The runs that an access resolves to. -/
def accRuns : Acc → List (Nat × Nat) | .ok _ l => l | _ => []
theorem acc_eq {x : Acc} (h : isOk x = true) : x = .ok (accSt x) (accRuns x) := by
  cases x with
  | ok s l => rfl
  | _ => cases h

/-- The state in which an access finds its page blocked. -/
def blockedSt : Acc → State | .blocked s _ => s | _ => base
/-- The first byte of the page in which an access finds it blocked or faults. -/
def accVa : Acc → Nat | .blocked _ a => a | .page _ a => a | _ => 0
theorem blocked_eq {x : Acc} (h : (match x with | .blocked _ _ => true | _ => false) = true) :
    x = .blocked (blockedSt x) (accVa x) := by
  cases x with
  | blocked s a => rfl
  | _ => cases h
/-- How accesses that do not resolve end. -/
def accOf {α : Type} : Except Acc α → Acc | .error a => a | .ok _ => .ok base []
theorem many_blocked {α : Type} {x : Except Acc α} (h : (match x with | .error (.blocked _ _) => true | _ => false) = true) :
    x = .error (.blocked (blockedSt (accOf x)) (accVa (accOf x))) := by
  cases x with
  | error a =>
    cases a with
    | blocked s v => rfl
    | _ => cases h
  | ok v => cases h
/-- The state in which an access finds its page faulting. -/
def pageSt : Acc → State | .page s _ => s | _ => base
theorem many_page {α : Type} {x : Except Acc α} (h : (match x with | .error (.page _ _) => true | _ => false) = true) :
    x = .error (.page (pageSt (accOf x)) (accVa (accOf x))) := by
  cases x with
  | error a =>
    cases a with
    | page s v => rfl
    | _ => cases h
  | ok v => cases h
/-- The device whose cached page blocks writes. -/
def blocked : State :=
  { base with worlds := [(0, { world0 with x := { world0.x with cache := [⟨0, 2 ^ 25, 0, true, false, false, 0, 0, []⟩] } })] }

/-- What several accesses resolve to. -/
def manySt (x : Except Acc (State × List (List (Nat × Nat)))) : State × List (List (Nat × Nat)) := okD x (base, [])

open Sys2Proof.Claim in
/-- The state in which an engine has posted its pieces. -/
def posted (s : State) (e : Engine) (h : Handle) (l : List Seg) (k : Nat) (ti : Word) : State :=
  let r := manySt (s.resolveMany s.cur h (l.map (fun p => (p.a, p.n))) true)
  withFlight r.1 ⟨Config.engIdx e, s.iss.age, h.sync, h.world, s.ranges s.iss,
    s.dcc.toNat, k, ti, (r.2.zip l).flatMap (fun x => cutRuns x.1 x.2.v), [], false, s.iss.line, s.iss.lane⟩
open Sys2Proof.Claim in
theorem posts_all {s : State} {e : Engine} {h : Handle} {l : List Seg} {k : Nat} {ti : Word} (h0 : h.level = 0)
    (h1 : ∀ p ∈ l, s.unplaced h p.a p.n = false)
    (h2 : (s.resolveMany s.cur h (l.map (fun p => (p.a, p.n))) true).toBool = true) :
    Posts s (posted s e h l k ti) e h l k ti :=
  ⟨.inl h0, h1, _, _, okD_eq (base, []) h2, rfl⟩
/-- An engine without a stall does not wait for a face. -/
theorem stall_none {x : Eng} (h : x.stall = .none) (a : BitVec 4) (b : Nat) : x.stall ≠ .halo a b := by
  rw [h]
  exact nofun

/-- The device with the vector registers of context 0 changed. -/
def withVec (s : State) (f : Vec → Vec) : State := with0 s (fun c => { c with vec := f c.vec })
/-- One lane active under k1, and one entry in q0 and in q1. -/
def lane0 : State := withVec base (fun v => { v with k := [(1, 1)], count := [(0, 1), (1, 1)] })
/-- The matrix engine set to one row and column. -/
def mat1 : State := with0 lane0 (fun c => { c with mat := { c.mat with tm := 1, tk := 1, tn := 1, wfmt := .bf16 } })
/-- A vector of zeros in v1, with three-operand blocks for it. -/
def vBin : VOp := { vNone with d := .v 1, a := .v 2, b := .v 3, k := 1 }
/-- A matrix operand at the start of h1. -/
def mhOne : MHOp := { mhNone with h := 1 }
/-- A drain of one row to the start of h1. -/
def mdOne : MDOp := { mdNone with h := 1, rows := 1 }

/-- A plane count of one in the scales of v1. -/
def plane0 : State := withVec lane0 (fun v => { v with r := [(1, BitVec.ofNat 65536 (2 ^ 16640))], f := [(1, .pl)] })
/-- A grid of sixteen elements whose faces are FIXED and hold step 0. -/
def grid0 : Grid :=
  { Grid.declared { cist .fp32 0 0x40000 with geo1 := 16 } with
    faces := [(0, { FaceSt.none with rule := some .fixed, hstep := some 0 }), (1, { FaceSt.none with rule := some .fixed, hstep := some 0 })]
    active := true, xstep := some 0 }
/-- The device with grid 1 declared. -/
def gridded (g : Grid) : State := with0 lane0 (fun c => { c with grids := [(1, some g)] })
/-- A signature stored at the start of h1: dimension and depth 1, FP32, from position 0 to the last. -/
def sigged : State := { base with mem := Mem.write [] Config.cisternBase 64 (0xFFFFFFFF * 2 ^ 32 + 2 ^ 64 + 2 ^ 72 + 2 ^ 80) }
/-- A pump command of 64 bytes from h1 to h1. -/
def pOne : POp := { pNone with hd := 1, hs := 1, n := 1 }

/-- A fabric command of an instruction at the head of its queue. -/
def xcmdOf (s : State) (what : Remote) : XCmd := Sys2Proof.Claim.command s what 1 0 [none] none false []
/-- A fabric command of no instruction. -/
def xNone : XCmd := xcmdOf base .load
/-- The device with one fabric command of context 0 in flight. -/
def withCmd (s : State) (x : XCmd) : State := with0 s (fun c => { c with fab := { c.fab with cmds := [x] } })
/-- A remote access of strand 1 through h1. -/
def fmOne : FMOp := ⟨.v 1, 1, 0, 1, 0, 6, 0⟩
/-- An atomic on strand 1 through h1. -/
def faOne : FAOp := ⟨1, 0, 6, 2, 0, .die, .relaxed, 0⟩
/-- A put or get of 64 bytes between h1 here and h1 of strand 1. -/
def fbOne : FBOp := ⟨1, 1, 6, 0, 1, 0, 0, 0, 0, 0⟩
/-- A tile registered for strand 1. -/
def tileOne : TileReg := ⟨65537, 1, cist .untyped 0 0x40000, 0, .copy⟩
/-- The device with that tile as entry 1, and campus port 0 UP. -/
def tiled : State :=
  with0 { base with campus := [(0, { Campus.reset with st := 4 })] } (fun c => { c with fab := { c.fab with tiles := [(1, some tileOne)] } })
/-- The device with group 0 of two strands, of which this is the first. -/
def grouped : State :=
  let m := Mem.write [] (Config.cisternBase + 0x2000) 16 (65536 + 65537 * 2 ^ 64)
  { base with mem := m.write (Config.cmdBase + 0xE000) 16 (2 + 8 * 2 ^ 32) }

theorem hasCall {s : State} (c : BitVec 16) (l : List Word) (n : Nat) (h : s.ctx.ctl.hold = .svc c l) (hn : c.toNat = n)
    (hf : s.dev.fw.state ≠ 2) : Sys2Proof.Claim.Calls s n := ⟨⟨c, l, h, hn⟩, .inl hf⟩
/-- The device with one engine of context 0 changed. -/
def withEng (s : State) (e : Engine) (f : Eng → Eng) : State := with0 s (fun c => c.setEng e (f (c.engAt e)))
/-- The device with the control stream of context 0 holding. -/
def holding0 (h : Hold) : State := withCtl base (fun c => { c with hold := h, held := 50 })
/-- A posted byte of a source. -/
def byteFl (src : Nat) : Flight := ⟨src, 3, none, 0, [], 0, 0, 0, [⟨Config.cisternBase, 1, 5⟩], [], false, 0, 0⟩
/-- A pending trap of an engine, raised at cycle 50. -/
def pend0 : Pend := ⟨false, tBOUNDS, 7, 0, 0, 50, false⟩
/-- An increment of counter 1 that is due. -/
def incr0 (g : Nat) : Incr := ⟨g, 1, 1, 5, 100⟩
/-- A push of zeros onto q3. -/
def push0 : Push := ⟨3, 0, .fp32, none⟩
/-- An instruction that pops q0, as captured. -/
def popCap : Cap := { Cap.blank with instr := .vmov { vNone with a := .q 0 } }
/-- A loop of four executions. -/
def loop0 (exec : Nat) : LoopRun := ⟨4, 0, [popCap], exec, 0, 0⟩
/-- World 0 with a submission queue and a completion queue of sixteen entries. -/
def queued : World := { world0 with sq := [(0, ⟨0x1000, 4, 0, 0⟩)], cq := ⟨0x2000, 4, 0, 0⟩, kept := [⟨0, 0⟩] }
/-- A launch of one strand on core 0, pending. -/
def launch1 : Launch :=
  { id := 3, world := 0, tag := 7, sq := 0, since := 0, aged := 0, gang := 5
    r := { rec2 with nk := 1, psize := 4, strands := [⟨0, 0, 0, []⟩] } }
/-- The device with that launch pending and nothing bound. -/
def pending (l : Launch) : State := { State.reset with dcc := 100, worlds := [(0, queued)], launches := [l] }
/-- The device with gang 1 changed, and every context's phase. -/
def ganged (g : Gang) (p : Phase) : State :=
  { base with gangs := [(1, some g)], ctxs := [(0, { run0 with phase := p }), (2, { run0 with phase := p })] }
/-- A launch of level 0 for cores 0 and 1. -/
def urgent : Launch := { launch1 with gang := 6, r := { rec2 with prio := 0 } }
/-- Gang 1 out, the image of context 0 being read back: version 1, a matrix of one row and column, an empty signature. -/
def imaged : State :=
  let s := with0 (ganged { gang1 with running := false, preempted := true } .restored) (fun c => { c with phase := .restoring })
  let cell (e : Nat × BitVec 8) : Host.Cell := (s.saveBase 0 + e.1, e.2)
  { s with
    owner := [], mem := ([(0, 1), (0x19000, 1), (0x19002, 1), (0x19004, 1), (0x30008, 1), (0x30009, 1), (0x3000A, 1)]
      : List (Nat × BitVec 8)).map cell }
theorem imaged_image : ((imaged.reseal 0).imageOf 0).isSome = true := by
  have w : imaged.mem.wf = true := by decide +kernel
  have e := imaged.imageCells_reseal 0 w
  have m := imaged.sealed_image 0 w
  have b := (imaged.reseal 0).badLine_none ((imaged.reseal 0).saveBase 0) (2 ^ 22) rfl rfl
  unfold State.imageOf
  simp only [m, e, b, ne_eq, not_true, false_or, Option.isSome_none, Bool.false_eq_true, or_false]
  decide +kernel
/-- A context that has halted with nothing left to do. -/
def halted : State := withCtl base (fun c => { c with fetch := .halted })
/-- A context that is being loaded, late enough for its partition to be clear. -/
def loading : State := { (with0 base (fun c => { c with phase := .loading })) with dcc := 3000 }

/-- A context whose vector queue is full. -/
def full : State := withEng base .vector (fun x => { x with q := List.replicate 32 (.instr popCap true) })
/-- Where a walk faults. -/
def faultOf : Walk → Nat × Nat × Option Nat | .fault l r n => (l, r, n) | _ => (0, 0, none)
theorem fault_eq {x : Walk} (h : (match x with | .fault _ _ _ => true | _ => false) = true) :
    x = .fault (faultOf x).1 (faultOf x).2.1 (faultOf x).2.2 := by
  cases x with
  | fault l r n => rfl
  | _ => cases h

/-- A pump command with h1 and s1 captured. -/
def pcmd (i : Instr) : PCmd :=
  ⟨{ Cap.blank with instr := i, age := 3, s := [(1, 64)], h := [(1, some (cist .untyped 0 0x40000))] }, 0, false, 0, 0, false,
    (0, 0), false, false, [], [], 0, none⟩
/-- The device with the pump of context 0 changed. -/
def withPump (s : State) (f : Pump → Pump) : State := with0 s (fun c => { c with pump := f c.pump })
/-- A table generation that is empty. -/
def tgen : TabGen := ⟨false, false, none, 0, 0, 0, none⟩
/-- A layer that strand 0 sends to face 0 of its own grid 1. -/
def layer0 : LayerMsg := ⟨0, 1, 0, 0, 1, 0, 1, .xm, 0, 1, 4, 1, 1, 1, false, 1, 0, false, 5, 0⟩
/-- Grid 1 with its lower face connected to strand 1, which has accepted the step, in the phase of x. -/
def meeting : Grid :=
  { grid0 with phase := 1, issued := 0, faces := [(0, { FaceSt.none with conn := true, kind := .die, peer := some 1 })] }
/-- That grid with its lower face connected to strand 1 of device 5. -/
def abroad : Grid := { meeting with faces := [(0, { FaceSt.none with conn := true, kind := .device, peer := some (5 * 2 ^ 32 + 1) })] }
/-- The device with that grid on both strands. -/
def met : State :=
  { base with ctxs := [(0, { run0 with grids := [(1, some meeting)] }), (2, { run0 with grids := [(1, some meeting)] })] }
/-- The halo engine about to start a wait on grid 1. -/
def waitCap : Cap := { Cap.blank with instr := .gwait 1 0 4 0 }
/-- The device whose strand 1 exports HBM in slot 6. -/
def peered : State :=
  { base with ctxs := [(0, run0), (2, { run0 with exp := [(6, some (hbm .untyped 0 0x10000))] })] }
/-- A message of strand 0 to slot 6 of strand 1. -/
def msg0 (op : MsgOp) (segs : List (Nat × Nat × Nat)) : Msg := ⟨0, 1, 1, 6, op, 0, 4, .untyped, 0, segs, 4, 0, 1, 0, 5, false, 0, 0, none⟩
/-- The device with that message at its peer. -/
def sentTo (s : State) (m : Msg) : State := { s with net := [m] }
/-- An answer to transaction 5 of strand 0. -/
def ack0 (ok : Bool) : Ack := ⟨0, 1, 0, 5, ok, 0, 0, 0, false, .untyped, 7, 0⟩
/-- A fabric command that awaits answers. -/
def waits (what : Remote) (i : Instr) (l : List Nat) : XCmd :=
  { xcmdOf base what with
    cap := { Cap.blank with instr := i, age := 3, s := [(1, 64)], h := [(1, some (cist .untyped 0 0x40000))] }
    first := 5, txns := l, ei := 4, started := true, data := some 0 }
/-- The device with a command that awaits an answer that has come. -/
def answered (x : XCmd) (a : Ack) : State := { (withCmd base x) with acks := [a] }
/-- A trigger whose counter meets its threshold. -/
def trig0 : Trig := ⟨1, 5, 0, 0, 0, none, [], 0⟩
/-- The device with that trigger and a word as its first record. -/
def triggered (w : Nat) : State :=
  { (with0 base (fun c => { c with fab := { c.fab with trigs := [trig0] } })) with mem := Mem.write [] Config.cmdBase 4 w }
/-- The engine and the instruction of a record. -/
def pushOf : TrigRec → Engine × Cap | .push e c => (e, c) | _ => (.pump, Cap.blank)
theorem push_eq {x : TrigRec} (h : (match x with | .push _ _ => true | _ => false) = true) : x = .push (pushOf x).1 (pushOf x).2 := by
  cases x with
  | push e c => rfl
  | _ => cases h
theorem bad_eq {x : TrigRec} (h : (match x with | .bad => true | _ => false) = true) : x = .bad := by
  cases x with
  | bad => rfl
  | _ => cases h
/-- A group collective between h1 and h1. -/
def fkOne : FKOp := ⟨1, 1, 0, 0, .fp32, .addF32, 4, 0, 1, 0⟩
theorem msg_eq {x : Except Acc (State × List (List (Nat × Nat)))} (h : x.toBool = true) (h1 : (manySt x).2.length = 1) :
    x = .ok ((manySt x).1, [(manySt x).2.headD []]) := by
  cases x with
  | error e => cases h
  | ok v =>
    obtain ⟨u, l⟩ := v
    match l, h1 with
    | [r], _ => rfl
theorem msg_ok {x : Except Acc (State × List (List (Nat × Nat)))} (h : x.toBool = true) : x = .ok ((manySt x).1, (manySt x).2) := by
  cases x with
  | error e => cases h
  | ok v => rfl
/-- A verified frame of 64 bytes of stream 3, for tag 0. -/
def frame0 (seq : BitVec 48) : Frame := ⟨0, false, false, seq, 3, 0, 0, 0, 0, 64, 5, true⟩
/-- A receive posted by context 0 for tag 0. -/
def post0 : Post := ⟨0, 3, 0, 0, hbm .untyped 0 0x10000, none, 0, none⟩
/-- Frame 2 of stream 3 in the retry buffer. -/
def kept0 (sends : Nat) : RFrame := ⟨0, 3, frame0 2, 0, sends⟩
/-- The device with campus port 0 UP and changed. -/
def camp (s : State) (f : Campus → Campus) : State := { s with campus := [(0, f { Campus.reset with st := 4 })] }
/-- A flit of world 0. -/
def flit0 : Flit := ⟨0, false, false, false, false, false, false, 0, 0, 0, 0⟩
/-- The device with Briwen port 0 UP and changed. -/
def linked (f : Port → Port) : State := { base with ports := [(0, f { Port.reset with st := 4 })] }
/-- An entry of one flit at offset 100. -/
def ent0 (kind : Nat) : Word := word (100 * 2 ^ 44 + 2 ^ 32 + kind * 2 ^ 20)
/-- The device with a load of one spare slot in h9, for a port whose next period has room for it. -/
def spared : State :=
  { (linked (fun x => { x with st := 0, pernext := 1000 })) with
    mem := Mem.write [] (Config.cisternBase + 0x3000) 8 (100 * 2 ^ 44 + 2 ^ 32 + 3 * 2 ^ 20) }
/-- The device with world 0 changed. -/
def withWorld (s : State) (f : World → World) : State := { s with worlds := [(0, f world0)] }
/-- The device with its device page changed. -/
def withDev (s : State) (f : Device → Device) : State := { s with dev := f s.dev }
/-- A device with one open world and nothing bound. -/
def idle : State := { State.reset with worlds := [(0, world0)] }
/-- A request of a pump command of context 0 to the host. -/
def req0 : HostReq := ⟨0, 0, some 0, 2, 3, [], 0, 0, 0⟩
theorem noneAll {α : Type} {x : Option α} {p : α → Prop} (h : x = none) : ∀ o, x = some o → p o := by
  intro o e
  rw [h] at e
  cases e
theorem someAll {α : Type} {x : Option α} {v : α} {p : α → Prop} (h : x = some v) (hp : p v) : ∀ o, x = some o → p o := by
  intro o e
  rw [h] at e
  exact Option.some.inj e ▸ hp
/-- The state of a step. -/
def nextOf (x : Ans) : State := match x with | .next t => t | _ => base
theorem next_eq {x : Ans} (h : (match x with | .next _ => true | _ => false) = true) : x = .next (nextOf x) := by
  cases x with
  | next t => rfl
  | _ => cases h
/-- A gang whose image a debugger may change. -/
def debugged : State :=
  { (ganged { gang1 with halted := true } .out) with
    worlds := [(0, { world0 with dbgGang := 1, g := { world0.g with dbg := true } })] }

open Sys2Proof.Claim

theorem witness_ScalarArithmeticSetsItsResult_1 :
    ∃ (i : Instr) (s : State),
    (scalarResult s i).isSome = true :=
  ⟨.div 1 2 0, base, (by decide +kernel)⟩

theorem witness_ComparesAndPredicateLogicSetTheirPredicate_1 :
    ∃ (i : Instr) (s : State),
    (predicateResult s i).isSome = true :=
  ⟨.cmpltuImm 1 2 (-1), base, (by decide +kernel)⟩

theorem witness_ReadsIntoScalars_1 :
    ∃ (i : Instr) (s : State),
    (readResult s i).isSome = true :=
  ⟨.hq 5 60 0, base, (by decide +kernel)⟩

theorem witness_TransfersGoToTheirTarget_1 :
    ∃ (i : Instr) (s : State),
    (transfer s i).isSome = true :=
  ⟨.callr 1 1, base, (by decide +kernel)⟩

theorem witness_TransfersGoToTheirTarget_2 :
    ∃ (i : Instr) (s : State),
    notTaken s i = true :=
  ⟨.bcn 0 3, base, (by decide +kernel)⟩

theorem witness_HandleInstructionsWriteOneSlot_1 :
    ∃ (i : Instr) (s : State),
    (derivedRecord s i).isSome = true :=
  ⟨.hderive 5 1 1 1 3, base, (by decide +kernel)⟩

theorem witness_HandleInstructionsWriteOneSlot_1_hoff :
    ∃ (i : Instr) (s : State),
    (derivedRecord s i).isSome = true :=
  ⟨.hoff 5 1 1, base, (by decide +kernel)⟩

theorem witness_HandleInstructionsWriteOneSlot_1_hclear :
    ∃ (i : Instr) (s : State),
    (derivedRecord s i).isSome = true :=
  ⟨.hclear 63, base, (by decide +kernel)⟩

theorem witness_CsrWritesChangeTheirFields_1 :
    ∃ (i : Instr) (s : State),
    (csrAfter s i).isSome = true :=
  ⟨.csrw 3 2, base, (by decide +kernel)⟩

theorem witness_ScalarLoadsReadTheirBytes_1 :
    ∃ (i : Instr) (s : State) (d : BitVec 5) (h : BitVec 6) (o : Int) (n : Nat) (sx : Bool) (r : Handle) (u : State) (runs : List (Nat × Nat)),
    loadOf s i = some (d, h, o, n, sx) ∧ Accessible s h rRD o n r ∧ scalarHeld s r o.toNat n false = false ∧
    s.resolve r o.toNat n false = .ok u runs ∧ u.badRun runs = none :=
  ⟨.ldh 5 1 1 31, base, _, _, _, _, _, cist .untyped 0 0x40000, _, _,
   some_getD (0, 0, 0, 0, false) (by decide +kernel), (by
    unfold Accessible
    decide +kernel),
   (by decide +kernel), acc_eq (by decide +kernel), (by decide +kernel)⟩

theorem witness_ScalarStoresPostTheirBytes_1 :
    ∃ (i : Instr) (s : State) (d : BitVec 5) (h : BitVec 6) (o : Int) (n : Nat) (r : Handle),
    storeOf s i = some (d, h, o, n) ∧ Accessible s h rWR o n r ∧ scalarHeld s r o.toNat n true = false ∧
    ((r.level = 0 ∨ s.ctx.pageParked r.world [⟨r.base.toNat + o.toNat, n, (s.getS d).toNat % 2 ^ (8 * n)⟩] = false)) ∧
    (s.newAge.1.resolveMany s.cur r [(o.toNat, n)] true).toBool = true :=
  ⟨.std 5 1 1 31, base, _, _, _, _, cist .untyped 0 0x40000, some_getD (0, 0, 0, 0) (by decide +kernel), (by
    unfold Accessible
    decide +kernel),
   (by decide +kernel), (by decide +kernel), (by decide +kernel)⟩

theorem witness_ScalarStoresPostTheirBytes_1_parked :
    ∃ (i : Instr) (s : State) (d : BitVec 5) (h : BitVec 6) (o : Int) (n : Nat) (r : Handle) (u : State) (va : Nat),
    storeOf s i = some (d, h, o, n) ∧ Accessible s h rWR o n r ∧ scalarHeld s r o.toNat n true = false ∧
    ((r.level = 0 ∨ s.ctx.pageParked r.world [⟨r.base.toNat + o.toNat, n, (s.getS d).toNat % 2 ^ (8 * n)⟩] = false)) ∧
    ((s.newAge.1.resolveMany s.cur r [(o.toNat, n)] true = .error (.page u va) ∨
      s.newAge.1.resolveMany s.cur r [(o.toNat, n)] true = .error (.blocked u va))) ∧
    u.ctx.rq.length < 64 :=
  ⟨.std 5 2 1 31, blocked, _, _, _, _, hbm .untyped 0 0x10000,
   blockedSt (accOf (blocked.newAge.1.resolveMany blocked.cur (hbm .untyped 0 0x10000) [(312, 8)] true)),
   accVa (accOf (blocked.newAge.1.resolveMany blocked.cur (hbm .untyped 0 0x10000) [(312, 8)] true)),
   some_getD (0, 0, 0, 0) (by decide +kernel), (by
    unfold Accessible
    decide +kernel), (by decide +kernel),
   (by decide +kernel), .inr (many_blocked (by decide +kernel)), (by decide +kernel)⟩

theorem witness_AtomicsReadAndWriteOnce_1 :
    ∃ (i : Instr) (s : State) (x : Atom) (h : BitVec 6) (o : Int) (ord : Ord) (r : Handle) (u : State) (runs : List (Nat × Nat)),
    atomOf s i = some (x, h, o, ord) ∧ Accessible s h rAT o x.width r ∧ r.level ≠ 2 ∧
    ((r.level = 0 → s.inPartition r o.toNat x.width = true)) ∧
    ((ord = .release ∨ ord = .acqrel → s.releaseReady s.ageNow r.sync = true)) ∧ scalarHeld s r o.toNat x.width true = false ∧
    ((r.level = 0 ∨ s.ctx.pageParked r.world [⟨r.base.toNat + o.toNat, x.width, 0⟩] = false)) ∧
    s.resolve r o.toNat x.width true = .ok u runs ∧ u.ctx.storeOver runs = false ∧ u.badRun runs = none :=
  ⟨.amo true 5 1 1 .add .die .acqrel 2, base, _, _, _, _, cist .untyped 0 0x40000, _, _,
   some_getD (⟨0, false, false, false, .add, 0, 0⟩, 0, 0, .relaxed) (by decide +kernel), (by
    unfold Accessible
    decide +kernel),
   (by decide +kernel), (by decide +kernel), (by decide +kernel), (by decide +kernel), (by decide +kernel),
   acc_eq (by decide +kernel), (by decide +kernel), (by decide +kernel)⟩

theorem witness_ScalarAccessesTrapInOrder_1 :
    ∃ (i : Instr) (s : State) (d : BitVec 5) (h : BitVec 6) (o : Int) (n : Nat) (sx : Bool),
    loadOf s i = some (d, h, o, n, sx) ∧ (accessTrap s h rRD o n).isSome = true :=
  ⟨.ldd 5 1 2 0, base, _, _, _, _, _, some_getD (0, 0, 0, 0, false) (by decide +kernel), (by decide +kernel)⟩

theorem witness_ScalarAccessesTrapInOrder_2 :
    ∃ (i : Instr) (s : State) (d : BitVec 5) (h : BitVec 6) (o : Int) (n : Nat),
    storeOf s i = some (d, h, o, n) ∧ (accessTrap s h rWR o n).isSome = true :=
  ⟨.stwLong 5 60 0 (-4), base, _, _, _, _, some_getD (0, 0, 0, 0) (by decide +kernel), (by decide +kernel)⟩

theorem witness_ScalarAccessesTrapInOrder_3 :
    ∃ (i : Instr) (s : State) (x : Atom) (h : BitVec 6) (o : Int) (ord : Ord),
    atomOf s i = some (x, h, o, ord) ∧ (accessTrap s h rAT o x.width).isSome = true :=
  ⟨.acas true 5 1 2 .die .relaxed 1 2, base, _, _, _, _,
   some_getD (⟨0, false, false, false, .add, 0, 0⟩, 0, 0, .relaxed) (by decide +kernel), (by decide +kernel)⟩

theorem witness_CisternBytesLieAtBasePlusOffset_1 :
    ∃ (s : State) (r : Handle) (o : Nat) (n : Nat) (ci : Nat),
    r.level = 0 ∧ r.geo0.toNat / 2 ^ 62 = 0 ∧ coreIdx r.core = some ci ∧ 0 < n ∧ s.inPartition r o n = true :=
  ⟨base, cist .untyped 0 0x40000, 0x3FFF8, 8, 0, (by decide +kernel), (by decide +kernel), (by decide +kernel),
   (by decide +kernel), (by decide +kernel)⟩

theorem witness_TrapEntryWritesTheTrapRegisters_1 :
    ∃ (s : State),
    CanTrap s :=
  ⟨base, (by
    unfold CanTrap
    decide +kernel)⟩

theorem witness_SoftwareTrapEntersTheHandler_1 :
    ∃ (s : State),
    CanTrap s :=
  ⟨base, (by
    unfold CanTrap
    decide +kernel)⟩

theorem witness_ControlInstructionsTrapAsTheirRulesSay_1_derive :
    ∃ (i : Instr) (s : State),
    (controlFault s i).isSome = true :=
  ⟨.hderive 5 60 1 1 0, base, (by decide +kernel)⟩

theorem witness_ControlInstructionsTrapAsTheirRulesSay_1_off :
    ∃ (i : Instr) (s : State),
    (controlFault s i).isSome = true :=
  ⟨.hoff 5 1 3, base, (by decide +kernel)⟩

theorem witness_ControlInstructionsTrapAsTheirRulesSay_1_ret :
    ∃ (i : Instr) (s : State),
    (controlFault s i).isSome = true :=
  ⟨.ret 2, base, (by decide +kernel)⟩

theorem witness_ControlInstructionsTrapAsTheirRulesSay_1_loopb :
    ∃ (i : Instr) (s : State),
    (controlFault s i).isSome = true :=
  ⟨.loopb 1 0 0 ⟨0, 0, 0, 0, 0, 0⟩, (with0 base (fun c => { c with lp := { c.lp with open_ := true } })),
   (by decide +kernel)⟩

theorem witness_ControlInstructionsTrapAsTheirRulesSay_1_evinc :
    ∃ (i : Instr) (s : State),
    (controlFault s i).isSome = true :=
  ⟨.evinc 1 3 .die false, base, (by decide +kernel)⟩

theorem witness_ControlInstructionsTrapAsTheirRulesSay_1_bank :
    ∃ (i : Instr) (s : State),
    (controlFault s i).isSome = true :=
  ⟨.bankret 0, base, (by decide +kernel)⟩

theorem witness_ControlInstructionsTrapAsTheirRulesSay_1_tbar :
    ∃ (i : Instr) (s : State),
    (controlFault s i).isSome = true :=
  ⟨.tbar 3 1, base, (by decide +kernel)⟩

theorem witness_TretRestoresPlaceAndPredicates_1 :
    ∃ (s : State),
    tretOk s = true :=
  ⟨with0 base (fun c => { c with csr := { c.csr with intrap := true } }), (by decide +kernel)⟩

theorem witness_TretRestoresPlaceAndPredicates_1_refused :
    ∃ (s : State),
    tretOk s = false :=
  ⟨with0 base (fun c => { c with csr := { c.csr with tlane := 15 } }), (by decide +kernel)⟩

theorem witness_IncrementsAreSentToTheirTarget_1 :
    ∃ (i : Instr) (s : State) (e : BitVec 6) (a : Word) (rel : Bool) (amt : BitVec 32),
    evincOf s i = some (e, a, rel, amt) ∧ (s.target a).isSome = true ∧ ((rel = true → s.releaseReady s.ageNow (some e) = true)) :=
  ⟨.evincN 1 0 .die true 2, base, _, _, _, _, some_getD (0, 0, false, 0) (by decide +kernel), (by decide +kernel),
   (by decide +kernel)⟩

theorem witness_WaitsGoOnOrHold_1 :
    ∃ (i : Instr) (s : State) (e : BitVec 6) (acq : Bool) (th : BitVec 32),
    evwaitOf s i = some (e, acq, th) ∧ (s.ctx.ctl.getE e - th).toNat < 2 ^ 31 :=
  ⟨.evwait 1 true 5, base, _, _, _, some_getD (0, false, 0) (by decide +kernel), (by decide +kernel)⟩

theorem witness_WaitsGoOnOrHold_1_holds :
    ∃ (i : Instr) (s : State) (e : BitVec 6) (acq : Bool) (th : BitVec 32),
    evwaitOf s i = some (e, acq, th) ∧ 2 ^ 31 ≤ (s.ctx.ctl.getE e - th).toNat :=
  ⟨.evwaitReg 1 false 1, base, _, _, _, some_getD (0, false, 0) (by decide +kernel), (by decide +kernel)⟩

theorem witness_DccwaitWaitsForItsCycle_1 :
    ∃ (s : State) (r : BitVec 5),
    (s.getS r).toNat ≤ s.dcc.toNat + 1 :=
  ⟨base, 1, (by decide +kernel)⟩

theorem witness_DccwaitWaitsForItsCycle_1_holds :
    ∃ (s : State) (r : BitVec 5),
    s.dcc.toNat + 1 < (s.getS r).toNat :=
  ⟨base, 4, (by decide +kernel)⟩

theorem witness_FencesPushTheirMarkers_1 :
    ∃ (i : Instr) (s : State) (m : BitVec 6) (f : Bool),
    fenceOf i = some (m, f) ∧ s.ctx.lp.open_ = false ∧ s.ctx.lp.susp = false ∧ s.ctx.ctl.hold = .none ∧
    ((∀ e, m.getLsbD (Config.engIdx e) = true → s.ctx.room e = true)) :=
  ⟨.fencem 5, base, _, _, some_getD (0, false) (by decide +kernel), (by decide +kernel), (by decide +kernel),
   (by decide +kernel), (by intro e; cases e <;> decide +kernel)⟩

theorem witness_FencesPushTheirMarkers_1_fence :
    ∃ (i : Instr) (s : State) (m : BitVec 6) (f : Bool),
    fenceOf i = some (m, f) ∧ s.ctx.lp.open_ = false ∧ s.ctx.lp.susp = false ∧ s.ctx.ctl.hold = .none ∧
    ((∀ e, m.getLsbD (Config.engIdx e) = true → s.ctx.room e = true)) :=
  ⟨.fence .die, base, _, _, some_getD (0, false) (by decide +kernel), (by decide +kernel), (by decide +kernel),
   (by decide +kernel), (by intro e; cases e <;> decide +kernel)⟩

theorem witness_FencesPushTheirMarkers_2 :
    ∃ (s : State),
    s.ctx.ctl.hold = .writes ∧ s.releaseReady s.ageNow none = true :=
  ⟨withCtl base (fun c => { c with hold := .writes }), (by decide +kernel), (by decide +kernel)⟩

theorem witness_FencesPushTheirMarkers_2_waits :
    ∃ (s : State),
    s.ctx.ctl.hold = .writes ∧ s.releaseReady s.ageNow none = false :=
  ⟨
   withCtl (with0 base (fun c => { c with fl := [⟨6, 3, none, 0, [], 0, 0, 0, [⟨0, 1, 5⟩], [], false, 0, 0⟩] })) (fun c => { c with hold := .writes }),
   (by decide +kernel), (by decide +kernel)⟩

theorem witness_LoopbOpensDelivery_1 :
    ∃ (s : State) (m : BitVec 6),
    s.ctx.lp.open_ = false ∧ s.ctx.lp.susp = false ∧ lowestOf s.ctx.lp.owed = none ∧
    ((∀ e, m.getLsbD (Config.engIdx e) = true → s.ctx.room e = true)) ∧ s.ctx.ctl.nline ≤ s.ctx.ctl.line + 32 :=
  ⟨base, 3, (by decide +kernel), (by decide +kernel), (by decide +kernel), (by intro e; cases e <;> decide +kernel),
   (by decide +kernel)⟩

theorem witness_LoopbOpensDelivery_2 :
    ∃ (s : State) (e : Engine),
    s.ctx.lp.open_ = false ∧ s.ctx.lp.susp = false ∧ lowestOf (State.pushOwedN 6 s).ctx.lp.owed = some e :=
  ⟨with0 full (fun c => { c with lp := { c.lp with owed := 3 } }), .vector, (by decide +kernel), (by decide +kernel),
   (by decide +kernel)⟩

theorem witness_BanksAreLentAndReturned_1 :
    ∃ (s : State) (b : BitVec 2) (g : BitVec 1),
    controlFault s (.banklend b g) = none :=
  ⟨base, 1, 0, (by decide +kernel)⟩

theorem witness_BanksAreLentAndReturned_2 :
    ∃ (s : State) (b : BitVec 2) (g : BitVec 1),
    controlFault s (.bankret g) = none ∧ (if g = 0 then s.ctx.vec.g0 else s.ctx.vec.g1) = some b :=
  ⟨with0 base (fun c => { c with vec := { c.vec with g1 := some 2 } }), 2, 1, (by decide +kernel), (by decide +kernel)⟩

theorem witness_TeamBarriersRecordTheArrival_1 :
    ∃ (s : State) (t : BitVec 8) (g : Gang) (tm : Team),
    s.gang s.bind.gang.toNat = some g ∧ g.team t = some tm ∧ tm.has s.bind.stage = true :=
  ⟨base, 0, _, _, some_getD gang1 (by decide +kernel), some_getD ⟨0, 0⟩ (by decide +kernel), (by decide +kernel)⟩

theorem witness_SvcHaltAndNop_1 :
    ∃ (s : State) (code : BitVec 16),
    s.ctx.ctl.hold ≠ .svc code s.svcArgs :=
  ⟨base, 2, (by decide +kernel)⟩

theorem witness_VectorArithmeticGivesItsElements_1 :
    ∃ (i : Instr) (s : State) (f : Fmt) (o : VOp),
    arithOf i = some (f, o) ∧ Issues s .vector i ∧ (arithElems s i f o).isSome = true ∧
    (kept s o.d o.k f (o.rm.getD s.ctx.vec.mode) o.sat).isSome = true :=
  ⟨.vfma .fp32 { vBin with c := .q 0 }, about lane0 .vector (.vfma .fp32 { vBin with c := .q 0 }), _, _,
   some_getD (.untyped, vNone) (by decide +kernel), (by
    unfold Issues
    decide +kernel), (by decide +kernel),
   (by decide +kernel)⟩

theorem witness_VectorArithmeticGivesItsElements_1_vexp :
    ∃ (i : Instr) (s : State) (f : Fmt) (o : VOp),
    arithOf i = some (f, o) ∧ Issues s .vector i ∧ (arithElems s i f o).isSome = true ∧
    (kept s o.d o.k f (o.rm.getD s.ctx.vec.mode) o.sat).isSome = true :=
  ⟨.vexp { vBin with b := .v 0 }, about lane0 .vector (.vexp { vBin with b := .v 0 }), _, _,
   some_getD (.untyped, vNone) (by decide +kernel), (by
    unfold Issues
    decide +kernel), (by decide +kernel),
   (by decide +kernel)⟩

theorem witness_VectorLogicAndMovesGiveTheirBits_1 :
    ∃ (i : Instr) (s : State),
    (logicResult s i).isSome = true ∧ Issues s .vector i :=
  ⟨.vand vBin, about lane0 .vector (.vand vBin), (by decide +kernel), (by
    unfold Issues
    decide +kernel)⟩

theorem witness_VectorReductionsAndPlanesGiveTheirResult_1 :
    ∃ (i : Instr) (s : State),
    (reduceResult s i).isSome = true ∧ Issues s .vector i :=
  ⟨.vredsum .fp32 { vBin with b := .v 0 }, about lane0 .vector (.vredsum .fp32 { vBin with b := .v 0 }),
   (by decide +kernel), (by
    unfold Issues
    decide +kernel)⟩

theorem witness_VectorReductionsAndPlanesGiveTheirResult_2 :
    ∃ (i : Instr) (s : State),
    (planeResult s i).isSome = true ∧ Issues s .vector i :=
  ⟨.vpsplit 0 { vBin with b := .v 0 }, about lane0 .vector (.vpsplit 0 { vBin with b := .v 0 }), (by decide +kernel),
   (by
    unfold Issues
    decide +kernel)⟩

theorem witness_MaskInstructionsWriteOneMask_1 :
    ∃ (i : Instr) (s : State),
    (maskResult s i).isSome = true ∧ Issues s .vector i :=
  ⟨.vkset 2 2048 0, about lane0 .vector (.vkset 2 2048 0), (by decide +kernel), (by
    unfold Issues
    decide +kernel)⟩

theorem witness_MaskInstructionsWriteOneMask_2 :
    ∃ (s : State) (m : RMode) (dp : BitVec 3),
    Issues s .vector (.vrnd m dp) :=
  ⟨about lane0 .vector (.vrnd .rup 0), .rup, 0, (by
    unfold Issues
    decide +kernel)⟩

theorem witness_VectorLoadsReadMemory_1 :
    ∃ (s : State) (f : Fmt) (o : MOp) (h : Handle) (c : Option Fmt),
    let off := (s.sc o.a).toInt + o.i.toInt
    Issues s .vector (.vld f o) ∧ f ≠ .pl ∧ lsCheck s (s.hrec o.h) rRD f o.k off true o.tag = .ok (h, c) ∧
    (kept s o.x o.k f s.ctx.vec.mode false).isSome = true ∧
    s.readParked h (laneBytes off (s.ctx.vec.runs o.k)) = false ∧
    (s.loadLanes 0 h off (s.ctx.vec.runs o.k)).toBool = true :=
  ⟨about lane0 .vector (.vld .fp32 ⟨.v 1, 1, 1, 0, 1, 0, none⟩), .fp32, ⟨.v 1, 1, 1, 0, 1, 0, none⟩, _, _, (by
    unfold Issues
    decide +kernel),
   (by decide +kernel), okD_eq ((cist .untyped 0 0), none) (by decide +kernel), (by decide +kernel),
   (by decide +kernel), (by decide +kernel)⟩

theorem witness_VectorLoadsReadMemory_2 :
    ∃ (s : State) (o : MOp) (h : Handle) (c : Option Fmt),
    let off := (s.sc o.a).toInt + o.i.toInt
    let p := h.pc.toNat + 1
    Issues s .vector (.vld .pl o) ∧ lsCheck s (s.hrec o.h) rRD .pl o.k off true o.tag = .ok (h, c) ∧
    (kept s o.x o.k .pl s.ctx.vec.mode false).isSome = true ∧ s.readParked h [(off.toNat, 64 + 256 * p)] = false ∧
    (s.load 0 h off.toNat (64 + 256 * p) (offW off)).toBool = true :=
  ⟨about lane0 .vector (.vld .pl ⟨.v 1, 4, 1, 0, 0, 0, none⟩), ⟨.v 1, 4, 1, 0, 0, 0, none⟩, _, _, (by
    unfold Issues
    decide +kernel),
   okD_eq ((cist .untyped 0 0), none) (by decide +kernel), (by decide +kernel), (by decide +kernel),
   (by decide +kernel)⟩

theorem witness_VectorLoadsReadMemory_3 :
    ∃ (s : State) (w : Width) (o : GOp) (h : Handle) (l : List (Nat × Nat)),
    let i := Instr.vgather w o
    let r := afterRead s .vector i
    Issues s .vector i ∧ ixCheck r rRD (widthBytes w) o = .ok (h, l) ∧ widthOk h.fmt (widthBytes w) = true ∧
    r.tileCheck h (l.map (fun e => (e.2, widthBytes w))) true none = none ∧
    r.readParked h (l.map (fun e => (e.2, widthBytes w))) = false ∧
    (r.loadElems h (widthBytes w) l 0).toBool = true :=
  ⟨about lane0 .vector (.vgather .w4 ⟨.v 1, 1, 0, .q 0, 1, 0⟩), .w4, ⟨.v 1, 1, 0, .q 0, 1, 0⟩, _, _, (by
    unfold Issues
    decide +kernel),
   okD_eq ((cist .untyped 0 0), []) (by decide +kernel), (by decide +kernel), (by decide +kernel),
   (by decide +kernel), (by decide +kernel)⟩

theorem witness_VectorStoresPostTheirBytes_1 :
    ∃ (s : State) (u : State) (f : Fmt) (o : MOp) (h : Handle) (c : Option Fmt) (rd : Nat → Nat),
    let i := Instr.vst f o
    let r := afterRead s .vector i
    let off := (s.sc o.a).toInt + o.i.toInt
    let pieces := storePieces rd c f s.ctx.vec.mode off (s.ctx.vec.runs o.k)
    Issues s .vector i ∧ f ≠ .pl ∧ lsCheck r (r.hrec o.h) rWR f o.k off false o.tag = .ok (h, c) ∧
    elems s o.x f s.ctx.vec.mode false = some rd ∧ pieces ≠ [] ∧
    Posts r u .vector h pieces 0 (offW off) :=
  ⟨about lane0 .vector (.vst .fp32 ⟨.q 0, 1, 1, 0, 1, 0, none⟩), _, .fp32, ⟨.q 0, 1, 1, 0, 1, 0, none⟩, _, _, _, (by
    unfold Issues
    decide +kernel),
   (by decide +kernel), okD_eq ((cist .untyped 0 0), none) (by decide +kernel),
   some_getD (fun _ => 0) (by decide +kernel), (by decide +kernel),
   posts_all (by decide +kernel) (by decide +kernel) (by decide +kernel)⟩

theorem witness_VectorStoresPostTheirBytes_2 :
    ∃ (s : State) (r' : State) (u : State) (o : MOp) (h : Handle) (c : Option Fmt) (q : Nat → Nat) (old : Nat),
    let i := Instr.vst .pl o
    let r := afterRead s .vector i
    let off := (s.sc o.a).toInt + o.i.toInt
    let p := h.pc.toNat + 1
    Issues s .vector i ∧ lsCheck r (r.hrec o.h) rWR .pl o.k off false o.tag = .ok (h, c) ∧
    elems s o.x .pl s.ctx.vec.mode false = some q ∧ p ≤ vget (source s o.x).1 1 2080 ∧
    (if o.k = 0 then r' = r else r.load 0 h off.toNat (64 + 256 * p) (offW off) = .ok (r', old)) ∧
    Posts r' u .vector h [⟨off.toNat, 64 + 256 * p, plTensor 2048 (fun j => if s.ctx.vec.active o.k j then q j else plElem old 2048 p j) (fun g => vget (source s o.x).1 1 (2048 + g)) p⟩]
      (if o.k = 0 then 0 else plTensor 2048 (fun j => if s.ctx.vec.active o.k j then 0 else 255) (fun _ => 0) p) (offW off) :=
  ⟨about plane0 .vector (.vst .pl ⟨.v 1, 4, 1, 0, 0, 0, none⟩),
   afterRead (about plane0 .vector (.vst .pl ⟨.v 1, 4, 1, 0, 0, 0, none⟩)) .vector (.vst .pl ⟨.v 1, 4, 1, 0, 0, 0, none⟩),
   _, ⟨.v 1, 4, 1, 0, 0, 0, none⟩, _, _, _, 0, (by
    unfold Issues
    decide +kernel),
   okD_eq ((cist .untyped 0 0), none) (by decide +kernel), some_getD (fun _ => 0) (by decide +kernel),
   (by decide +kernel), rfl, posts_all (by decide +kernel) (by decide +kernel) (by decide +kernel)⟩

theorem witness_VectorStoresPostTheirBytes_3 :
    ∃ (s : State) (u : State) (w : Width) (o : GOp) (h : Handle) (l : List (Nat × Nat)),
    let i := Instr.vscatter w o
    let r := afterRead s .vector i
    let pieces := l.map (fun e => ⟨e.2, widthBytes w, vget (source s o.x).1 (widthBytes w) e.1⟩)
    Issues s .vector i ∧ ixCheck r rWR (widthBytes w) o = .ok (h, l) ∧
    widthOk (source s o.x).2 (widthBytes w) = true ∧ pieces ≠ [] ∧
    Posts (r.charge r.cur 3 (bankLoad h l - 4)) u .vector h pieces 0 (offW (s.sc o.a).toInt) :=
  ⟨about lane0 .vector (.vscatter .w4 ⟨.v 1, 1, 0, .q 0, 1, 0⟩), _, .w4, ⟨.v 1, 1, 0, .q 0, 1, 0⟩, _, _, (by
    unfold Issues
    decide +kernel),
   okD_eq ((cist .untyped 0 0), []) (by decide +kernel), (by decide +kernel), (by decide +kernel),
   posts_all (by decide +kernel) (by decide +kernel) (by decide +kernel)⟩

theorem witness_AccumulatorInstructionsSetTheirAccumulator_1 :
    ∃ (i : Instr) (s : State),
    (accResult s i).isSome = true ∧ Issues s .matrix i :=
  ⟨.maccmov 1 2 0, about mat1 .matrix (.maccmov 1 2 0), (by decide +kernel), (by
    unfold Issues
    decide +kernel)⟩

theorem witness_MatrixSwapAndConfiguration_1 :
    ∃ (s : State) (a : BitVec 4) (b : BitVec 4) (dp : BitVec 3),
    Issues s .matrix (.mswap a b dp) ∧ (a = b ∨ s.ctx.vec.accBase a.toNat ≠ s.ctx.vec.accBase b.toNat) :=
  ⟨about mat1 .matrix (.mswap 1 2 0), 1, 2, 0, (by
    unfold Issues
    decide +kernel), (by decide +kernel)⟩

theorem witness_MatrixSwapAndConfiguration_2 :
    ∃ (s : State) (m : BitVec 7) (k : BitVec 7) (n : BitVec 7) (dp : BitVec 3),
    Issues s .matrix (.mcfg m k n dp) :=
  ⟨about mat1 .matrix (.mcfg 0 127 63 0), 0, 127, 63, 0, (by
    unfold Issues
    decide +kernel)⟩

theorem witness_MatrixSwapAndConfiguration_3 :
    ∃ (s : State) (m : RMode) (dp : BitVec 3),
    Issues s .matrix (.mrnd m dp) :=
  ⟨about mat1 .matrix (.mrnd .rna 0), .rna, 0, (by
    unfold Issues
    decide +kernel)⟩

theorem witness_MatrixSwapAndConfiguration_4 :
    ∃ (s : State) (o : MHOp) (h : Handle),
    Issues s .matrix (.mpre o) ∧ s.hrec o.h = some h ∧ h.has rRD = true ∧ s.levelFound h true = none ∧ 0 ≤ s.mhOff o ∧
    s.mhOff o < (h.len.toNat : Int) ∧ s.mhOff o % 64 = 0 ∧
    (h.level = 0 → s.inPartition h (s.mhOff o).toNat (Nat.min 65536 (h.len.toNat - (s.mhOff o).toNat)) = true) :=
  ⟨about mat1 .matrix (.mpre mhOne), mhOne, _, (by
    unfold Issues
    decide +kernel),
   some_getD (cist .untyped 0 0) (by decide +kernel), (by decide +kernel), (by decide +kernel), (by decide +kernel),
   (by decide +kernel), (by decide +kernel), (by decide +kernel)⟩

theorem witness_WeightLoadsSetTheWeights_1 :
    ∃ (s : State) (f : Fmt) (o : MHOp),
    Issues s .matrix (.mldw f o) ∧ (matRead s o (Config.fmtCode f) 1 f s.ctx.mat.tk s.ctx.mat.tn).toBool = true :=
  ⟨about mat1 .matrix (.mldw .fp32 mhOne), .fp32, mhOne, (by
    unfold Issues
    decide +kernel),
   (by decide +kernel)⟩

theorem witness_WeightLoadsSetTheWeights_2 :
    ∃ (s : State) (o : MHOp),
    Issues s .matrix (.mldg o) ∧ (matRead s o 16 1 .fp32 s.ctx.mat.tk s.ctx.mat.tn).toBool = true :=
  ⟨about mat1 .matrix (.mldg mhOne), mhOne, (by
    unfold Issues
    decide +kernel), (by decide +kernel)⟩

theorem witness_WeightsFromAQueue_1 :
    ∃ (s : State) (f : Fmt) (q : BitVec 5) (dp : BitVec 3) (rd : Nat → Nat → Nat),
    let m := s.ctx.mat
    let rpe := rowsPerEntry f
    let n := (m.tk + rpe - 1) / rpe
    let entry (e : Nat) := s.ctx.vec.slot (qSlot q.toNat (s.ctx.vec.qhead q.toNat + e))
    Issues s .matrix (.mldwq f q dp) ∧ (s.eng .matrix).made = 0 ∧ n ≤ s.ctx.vec.qcount q.toNat ∧
    ((∀ e, e < n → (tagCheck s.ctx.tagmode (entry e).2 f).map (fun c j => readAs c f m.mode false (vget (entry e).1 (fbytes f) j)) = some (rd e))) :=
  ⟨about mat1 .matrix (.mldwq .fp32 0 0), .fp32, 0, 0,
   fun _ => (elems (about mat1 .matrix (.mldwq .fp32 0 0)) (.q 0) .fp32 .rne false).getD (fun _ => 0), (by
    unfold Issues
    decide +kernel),
   (by decide +kernel), (by decide +kernel),
   (by intro e he; have h0 : e = 0 := Nat.lt_one_iff.mp he; subst h0; exact some_getD (fun _ => 0) (by decide +kernel))⟩

theorem witness_PassesSumTheirProductsOnce_1 :
    ∃ (s : State) (f : Fmt) (a : BitVec 4) (o : MHOp),
    Issues s .matrix (.mmul f a o) ∧
    (matRead s o (32 + Config.fmtCode f) 0 f s.ctx.mat.tm s.ctx.mat.tk).toBool = true ∧ pairOk f s.ctx.mat.wfmt = true :=
  ⟨about mat1 .matrix (.mmul .bf16 0 mhOne), .bf16, 0, mhOne, (by
    unfold Issues
    decide +kernel),
   (by decide +kernel), (by decide +kernel)⟩

theorem witness_PassesSumTheirProductsOnce_2 :
    ∃ (s : State) (f : Fmt) (a : BitVec 4) (q : BitVec 5) (pk : Bool) (dp : BitVec 3),
    let i := Instr.mmulq f a q pk dp
    Issues s .matrix i ∧ (elems s (if pk then .pk q else .q q) f s.ctx.mat.mode false).isSome = true ∧
    pairOk f s.ctx.mat.wfmt = true :=
  ⟨about mat1 .matrix (.mmulq .bf16 0 0 false 0), .bf16, 0, 0, false, 0, (by
    unfold Issues
    decide +kernel),
   (by decide +kernel), (by decide +kernel)⟩

theorem witness_PassesSumTheirProductsOnce_3 :
    ∃ (s : State) (a : BitVec 4) (o : MHOp),
    Issues s .matrix (.mldacc a o) ∧ (matRead s o 48 0 .fp32 s.ctx.mat.tm s.ctx.mat.tn).toBool = true :=
  ⟨about mat1 .matrix (.mldacc 0 mhOne), 0, mhOne, (by
    unfold Issues
    decide +kernel), (by decide +kernel)⟩

theorem witness_DrainsConvertTheirRows_1 :
    ∃ (s : State) (f : Fmt) (a : BitVec 4) (q : BitVec 5) (rows : BitVec 8) (dp : BitVec 3),
    let i := Instr.mdrain f a q rows dp
    let n := rowsOf rows
    let rpe := rowsPerEntry f
    let cnt := (n + rpe - 1) / rpe
    let room := 4 - s.ctx.vec.qcount q.toNat
    Issues s .matrix i ∧ cnt ≤ room :=
  ⟨about mat1 .matrix (.mdrain .fp32 0 2 1 0), .fp32, 0, 2, 1, 0, (by
    unfold Issues
    decide +kernel),
   (by decide +kernel)⟩

theorem witness_DrainsConvertTheirRows_1_waits :
    ∃ (s : State) (f : Fmt) (a : BitVec 4) (q : BitVec 5) (rows : BitVec 8) (dp : BitVec 3),
    let i := Instr.mdrain f a q rows dp
    let n := rowsOf rows
    let rpe := rowsPerEntry f
    let cnt := (n + rpe - 1) / rpe
    let room := 4 - s.ctx.vec.qcount q.toNat
    Issues s .matrix i ∧ room < cnt :=
  ⟨about mat1 .matrix (.mdrain .fp32 0 0 64 0), .fp32, 0, 0, 64, 0, (by
    unfold Issues
    decide +kernel),
   (by decide +kernel)⟩

theorem witness_DrainsConvertTheirRows_2 :
    ∃ (s : State) (u : State) (f : Fmt) (a : BitVec 4) (o : MDOp) (h : Handle) (c : Option Fmt),
    let i := Instr.mdrainc f a o
    let m := o.rm.getD s.ctx.mat.mode
    let w := s.ctx.mat.tn * fbytes f
    let g : Geo := ⟨rowsOf o.rows, w, h.pitch w⟩
    Issues s .matrix i ∧ matHandle s (s.hrec o.h) rWR 2 false (s.mdOff o) = .ok h ∧
    matSpan s h (s.mdOff o) g.span f = .ok c ∧
    Posts s u .matrix h ((List.range (rowsOf o.rows)).map (fun q => ⟨(s.mdOff o).toNat + q * g.pitch, w, packElems (fbytes f) s.ctx.mat.tn (fun j => let x := drainElem s a f m o.sat q j; match c with | some d => convert f d m false x | none => x)⟩)) 0 (offW (s.mdOff o)) :=
  ⟨about mat1 .matrix (.mdrainc .fp32 0 mdOne), _, .fp32, 0, mdOne, _, _, (by
    unfold Issues
    decide +kernel),
   okD_eq (cist .untyped 0 0) (by decide +kernel), okD_eq none (by decide +kernel),
   posts_all (by decide +kernel) (by decide +kernel) (by decide +kernel)⟩

theorem witness_DrainsConvertTheirRows_3 :
    ∃ (s : State) (u : State) (a : BitVec 4) (o : MDOp) (h : Handle),
    let i := Instr.mdrainp a o
    let m := o.rm.getD s.ctx.mat.mode
    let n := rowsOf o.rows
    let p := h.pc.toNat + 1
    let groups := (List.range (2 * n)).map (fun g => plGroup m ((List.range 64).map (fun j => decodeF .fp32 (drainElem s a .fp32 m false (g / 2) (g % 2 * 64 + j)))))
    let qs := packList 1 (groups.flatMap (fun e => e.2.map (plKeep p)))
    Issues s .matrix i ∧ matHandle s (s.hrec o.h) rWR 2 false (s.mdOff o) = .ok h ∧
    (matSpan s h (s.mdOff o) (plArea (128 * n) + p * (16 * n)) .pl).toBool = true ∧ h.fmt = .pl ∧
    Posts s u .matrix h [⟨(s.mdOff o).toNat, plArea (128 * n) + p * (16 * n), plTensor (128 * n) (fun j => qs / 2 ^ (8 * j)) (fun g => (groups.map (·.1)).getD g 0) p⟩] 0
      (offW (s.mdOff o)) :=
  ⟨about mat1 .matrix (.mdrainp 0 { mdOne with h := 4 }), _, 0, { mdOne with h := 4 }, _, (by
    unfold Issues
    decide +kernel),
   okD_eq (cist .untyped 0 0) (by decide +kernel), (by decide +kernel), (by decide +kernel),
   posts_all (by decide +kernel) (by decide +kernel) (by decide +kernel)⟩

theorem witness_EngineTrapsFreezeTheEngine_1 :
    ∃ (i : Instr) (e : Engine) (s : State),
    engineOf i = some e ∧ s.iss.instr = i ∧ (s.eng e).pushes = [] ∧ (s.ctx.vec.bankCheck i).isSome = true :=
  ⟨.mzero 8 0, .matrix, about mat1 .matrix (.mzero 8 0), (by decide +kernel), (by decide +kernel),
   (by decide +kernel), (by decide +kernel)⟩

theorem witness_EngineTrapsFreezeTheEngine_2_nohandle :
    ∃ (i : Instr) (o : POp) (rows : Nat) (be : Bool) (s : State),
    let g := s.pgeo s.iss
    pop? i = some (o, rows, be) ∧ Issues s .pump i ∧ s.ctx.pump.buf.length < 32 ∧
    s.ctx.pump.live o.cid.toNat = false ∧ g.hd = some none :=
  ⟨.pcopy false { pOne with hd := 60 }, { pOne with hd := 60 }, 1, false,
   about base .pump (.pcopy false { pOne with hd := 60 }), (by decide +kernel), (by
    unfold Issues
    decide +kernel),
   (by decide +kernel), (by decide +kernel), (by decide +kernel)⟩

theorem witness_EngineTrapsFreezeTheEngine_2_rights :
    ∃ (i : Instr) (o : POp) (rows : Nat) (be : Bool) (s : State) (h : Handle),
    let g := s.pgeo s.iss
    pop? i = some (o, rows, be) ∧ Issues s .pump i ∧ s.ctx.pump.buf.length < 32 ∧
    s.ctx.pump.live o.cid.toNat = false ∧ (g.hd = some (some h) ∧ h.has rWR = false) :=
  ⟨.pcopy false { pOne with hd := 5 }, { pOne with hd := 5 }, 1, false,
   about base .pump (.pcopy false { pOne with hd := 5 }), { cist .untyped 0 0x40000 with rights := 0xFD },
   (by decide +kernel), (by
    unfold Issues
    decide +kernel), (by decide +kernel), (by decide +kernel),
   (by decide +kernel)⟩

theorem witness_EngineTrapsFreezeTheEngine_2_source :
    ∃ (i : Instr) (o : POp) (rows : Nat) (be : Bool) (s : State),
    let g := s.pgeo s.iss
    pop? i = some (o, rows, be) ∧ Issues s .pump i ∧ s.ctx.pump.buf.length < 32 ∧
    s.ctx.pump.live o.cid.toNat = false ∧ (∃ h, g.hd = some (some h) ∧ h.has rWR = true) ∧ g.hs = some none :=
  ⟨.pcopy false { pOne with hs := 60 }, { pOne with hs := 60 }, 1, false,
   about base .pump (.pcopy false { pOne with hs := 60 }), (by decide +kernel), (by
    unfold Issues
    decide +kernel),
   (by decide +kernel), (by decide +kernel), ⟨cist .untyped 0 0x40000, by decide +kernel, by decide +kernel⟩,
   (by decide +kernel)⟩

theorem witness_EngineTrapsFreezeTheEngine_2_sourcerights :
    ∃ (i : Instr) (o : POp) (rows : Nat) (be : Bool) (s : State) (h : Handle),
    let g := s.pgeo s.iss
    pop? i = some (o, rows, be) ∧ Issues s .pump i ∧ s.ctx.pump.buf.length < 32 ∧
    s.ctx.pump.live o.cid.toNat = false ∧ (∃ h, g.hd = some (some h) ∧ h.has rWR = true) ∧
    (g.hs = some (some h) ∧ h.has rRD = false) :=
  ⟨.pcopy false { pOne with hs := 6 }, { pOne with hs := 6 }, 1, false,
   about base .pump (.pcopy false { pOne with hs := 6 }), { cist .untyped 0 0x40000 with rights := 0xFE },
   (by decide +kernel), (by
    unfold Issues
    decide +kernel), (by decide +kernel), (by decide +kernel),
   ⟨cist .untyped 0 0x40000, by decide +kernel, by decide +kernel⟩, (by decide +kernel)⟩

theorem witness_EngineTrapsFreezeTheEngine_3 :
    ∃ (f : Fmt) (o : VOp) (s : State),
    Issues s .vector (.vtag f o) ∧ 11 ≤ s.iss.auxTag ∧ (s.eng .vector).pend = none :=
  ⟨.fp32, { vBin with b := .v 0 },
   let s := about lane0 .vector (.vtag .fp32 { vBin with b := .v 0 })
   { s with iss := { s.iss with lanes := [24] } }, (by
    unfold Issues
    decide +kernel), (by decide +kernel), (by decide +kernel)⟩

theorem witness_EmptyQueuesHoldTheirReader_1 :
    ∃ (i : Instr) (e : Engine) (s : State),
    engineOf i = some e ∧ s.iss.instr = i ∧ (s.eng e).pushes = [] ∧ (s.eng e).latched = false ∧
    s.ctx.vec.bankCheck i = none ∧ (s.ctx.vec.firstEmpty (queueReads i)).isSome = true :=
  ⟨.vmov { vNone with a := .q 5 }, .vector, about base .vector (.vmov { vNone with a := .q 5 }), (by decide +kernel),
   (by decide +kernel), (by decide +kernel), (by decide +kernel), (by decide +kernel), (by decide +kernel)⟩

theorem witness_PumpCommandsEnterTheBuffer_1 :
    ∃ (i : Instr) (o : POp) (rows : Nat) (be : Bool) (s : State),
    pop? i = some (o, rows, be) ∧ Issues s .pump i ∧ s.ctx.pump.buf.length < 32 ∧
    s.ctx.pump.live o.cid.toNat = false ∧ (pumpChecks s s.iss o (s.pgeo s.iss)).toBool = true :=
  ⟨.pcopy false pOne, pOne, 1, false, about base .pump (.pcopy false pOne), (by decide +kernel), (by
    unfold Issues
    decide +kernel),
   (by decide +kernel), (by decide +kernel), (by decide +kernel)⟩

theorem witness_PumpCommandsEnterTheBuffer_1_pcopy2d :
    ∃ (i : Instr) (o : POp) (rows : Nat) (be : Bool) (s : State),
    pop? i = some (o, rows, be) ∧ Issues s .pump i ∧ s.ctx.pump.buf.length < 32 ∧
    s.ctx.pump.live o.cid.toNat = false ∧ (pumpChecks s s.iss o (s.pgeo s.iss)).toBool = true :=
  ⟨.pcopy2d false 1 pOne, pOne, 1, false, about base .pump (.pcopy2d false 1 pOne), (by decide +kernel), (by
    unfold Issues
    decide +kernel),
   (by decide +kernel), (by decide +kernel), (by decide +kernel)⟩

theorem witness_PumpCommandsEnterTheBuffer_1_pcopyd :
    ∃ (i : Instr) (o : POp) (rows : Nat) (be : Bool) (s : State),
    pop? i = some (o, rows, be) ∧ Issues s .pump i ∧ s.ctx.pump.buf.length < 32 ∧
    s.ctx.pump.live o.cid.toNat = false ∧ (pumpChecks s s.iss o (s.pgeo s.iss)).toBool = true :=
  ⟨.pcopyd true { pOne with tab := 3 }, { pOne with tab := 3 }, 1, true,
   about base .pump (.pcopyd true { pOne with tab := 3 }), (by decide +kernel), (by
    unfold Issues
    decide +kernel),
   (by decide +kernel), (by decide +kernel), (by decide +kernel)⟩

theorem witness_PumpCommandsEnterTheBuffer_1_pfill :
    ∃ (i : Instr) (o : POp) (rows : Nat) (be : Bool) (s : State),
    pop? i = some (o, rows, be) ∧ Issues s .pump i ∧ s.ctx.pump.buf.length < 32 ∧
    s.ctx.pump.live o.cid.toNat = false ∧ (pumpChecks s s.iss o (s.pgeo s.iss)).toBool = true :=
  ⟨.pfill { pOne with hs := 0 }, { pOne with hs := 0 }, 1, false, about base .pump (.pfill { pOne with hs := 0 }),
   (by decide +kernel), (by
    unfold Issues
    decide +kernel), (by decide +kernel), (by decide +kernel),
   (by decide +kernel)⟩

theorem witness_PumpCommandsEnterTheBuffer_1_ptagchk :
    ∃ (i : Instr) (o : POp) (rows : Nat) (be : Bool) (s : State),
    pop? i = some (o, rows, be) ∧ Issues s .pump i ∧ s.ctx.pump.buf.length < 32 ∧
    s.ctx.pump.live o.cid.toNat = false ∧ (pumpChecks s s.iss o (s.pgeo s.iss)).toBool = true :=
  ⟨.ptagchk { pOne with hd := 0, ei := 1 }, { pOne with hd := 0, ei := 1 }, 1, false,
   about base .pump (.ptagchk { pOne with hd := 0, ei := 1 }), (by decide +kernel), (by
    unfold Issues
    decide +kernel),
   (by decide +kernel), (by decide +kernel), (by decide +kernel)⟩

theorem witness_PumpCommandsEnterTheBuffer_1_pprefetch :
    ∃ (i : Instr) (o : POp) (rows : Nat) (be : Bool) (s : State),
    pop? i = some (o, rows, be) ∧ Issues s .pump i ∧ s.ctx.pump.buf.length < 32 ∧
    s.ctx.pump.live o.cid.toNat = false ∧ (pumpChecks s s.iss o (s.pgeo s.iss)).toBool = true :=
  ⟨.pprefetch { pOne with hd := 0, hs := 2 }, { pOne with hd := 0, hs := 2 }, 1, false,
   about base .pump (.pprefetch { pOne with hd := 0, hs := 2 }), (by decide +kernel), (by
    unfold Issues
    decide +kernel),
   (by decide +kernel), (by decide +kernel), (by decide +kernel)⟩

theorem witness_PumpCommandsEnterTheBuffer_2 :
    ∃ (e : BitVec 6) (a : BitVec 5) (b : BitVec 5) (dp : BitVec 3) (s : State),
    Issues s .pump (.pevent e a b dp) ∧ s.ctx.pump.buf.length < 32 ∧ (s.target (s.sc b)).isSome = true :=
  ⟨1, 0, 5, 0, about base .pump (.pevent 1 0 5 0), (by
    unfold Issues
    decide +kernel), (by decide +kernel),
   (by decide +kernel)⟩

theorem witness_PumpTablesCancelsAndFlushes_1 :
    ∃ (h : BitVec 6) (n : BitVec 4) (dp : BitVec 3) (r : Handle) (s : State),
    let slot := SMap.get Tab.reset s.ctx.pump.tabs n.toNat
    let g := !slot.cur
    Issues s .pump (.ptab h n dp) ∧ s.ctx.pump.buf.length < 32 ∧
    (((slot.gen g).present = false ∨ s.ctx.pump.uses n.toNat g = false)) ∧
    s.hrec h = some r ∧ r.has rRD = true ∧ r.level ≠ 2 ∧ 256 ≤ r.len.toNat ∧ s.readWaits r 0 256 = false ∧
    (s.load 2 r 0 256 0).toBool = true :=
  ⟨1, 15, 0, _, about base .pump (.ptab 1 15 0), (by
    unfold Issues
    decide +kernel), (by decide +kernel),
   (by decide +kernel), some_getD (cist .untyped 0 0) (by decide +kernel), (by decide +kernel), (by decide +kernel),
   (by decide +kernel), (by decide +kernel), (by decide +kernel)⟩

theorem witness_PumpTablesCancelsAndFlushes_2 :
    ∃ (c : BitVec 4) (dp : BitVec 3) (s : State),
    Issues s .pump (.pcancel c dp) ∧ s.ctx.pump.buf.length < 32 :=
  ⟨3, 0, about base .pump (.pcancel 3 0), (by
    unfold Issues
    decide +kernel), (by decide +kernel)⟩

theorem witness_PumpTablesCancelsAndFlushes_3 :
    ∃ (dp : BitVec 3) (s : State),
    Issues s .pump (.pflush dp) ∧ s.ctx.pump.buf.length < 32 :=
  ⟨0, about base .pump (.pflush 0), (by
    unfold Issues
    decide +kernel), (by decide +kernel)⟩

theorem witness_GridInstructionsSetTheirGrid_1 :
    ∃ (g : BitVec 4) (h : BitVec 6) (dp : BitVec 3) (r : Handle) (s : State),
    Issues s .halo (.gdecl g h dp) ∧ s.grid g = none ∧ s.hrec h = some r ∧ r.has rRD = true ∧ r.has rWR = true ∧
    s.isOwn r = true ∧ r.nx ≠ 0 ∧ ((r.nz = 0 ∨ r.ny ≠ 0)) ∧ ((r.fmt = .fp32 ∨ r.fmt = .fp16 ∨ r.fmt = .bf16)) :=
  ⟨1, 7, 0, _, about base .halo (.gdecl 1 7 0), (by
    unfold Issues
    decide +kernel), (by decide +kernel),
   some_getD (cist .untyped 0 0) (by decide +kernel), (by decide +kernel), (by decide +kernel), (by decide +kernel),
   (by decide +kernel), (by decide +kernel), (by decide +kernel)⟩

theorem witness_GridInstructionsSetTheirGrid_2 :
    ∃ (i : Instr) (g : BitVec 4) (r : Grid) (q : Grid) (s : State),
    declares s r i = some (g, q) ∧ Issues s .halo i ∧ s.grid g = some r ∧ r.active = false :=
  ⟨.gdepth 1 3 2 0, _, { grid0 with active := false }, _,
   about (gridded { grid0 with active := false }) .halo (.gdepth 1 3 2 0), some_getD (0, grid0) (by decide +kernel),
   (by
    unfold Issues
    decide +kernel), (by decide +kernel), (by decide +kernel)⟩

theorem witness_GridInstructionsSetTheirGrid_3_gstep :
    ∃ (g : BitVec 4) (r : Grid) (s : State),
    s.grid g = some r ∧ Issues s .halo (.gstep 1 0) ∧ r.active = true ∧ (r.step + 1 - r.xstep.getD 0).toNat ≤ r.depth :=
  ⟨1, grid0, about (gridded grid0) .halo (.gstep 1 0), (by decide +kernel), (by
    unfold Issues
    decide +kernel),
   (by decide +kernel), (by decide +kernel)⟩

theorem witness_GridInstructionsSetTheirGrid_3_greset :
    ∃ (g : BitVec 4) (r : Grid) (s : State),
    s.grid g = some r ∧ Issues s .halo (.greset 1 0) ∧ r.phase = 0 :=
  ⟨1, grid0, about (gridded grid0) .halo (.greset 1 0), (by decide +kernel), (by
    unfold Issues
    decide +kernel),
   (by decide +kernel)⟩

theorem witness_GridInstructionsSetTheirGrid_3_gfree :
    ∃ (g : BitVec 4) (r : Grid) (s : State),
    s.grid g = some r ∧ Issues s .halo (.gfree 1 0) ∧ r.phase = 0 :=
  ⟨1, grid0, about (gridded grid0) .halo (.gfree 1 0), (by decide +kernel), (by
    unfold Issues
    decide +kernel),
   (by decide +kernel)⟩

theorem witness_ExchangesStartAtTheirStep_1 :
    ∃ (g : BitVec 4) (dp : BitVec 3) (r : Grid) (s : State),
    Issues s .halo (.gxchg g dp) ∧ s.grid g = some r ∧ r.phase = 0 ∧ s.live (some r.hd) = some r.hd ∧
    (if r.active then (r.step - r.xstep.getD 0).toNat = r.depth else s.gridCheck r = none) ∧
    s.inPartition r.hd 0 r.size = true :=
  ⟨1, 0, { grid0 with active := false }, about (gridded { grid0 with active := false }) .halo (.gxchg 1 0), (by
    unfold Issues
    decide +kernel),
   (by decide +kernel), (by decide +kernel), (by decide +kernel), (by decide +kernel), (by decide +kernel)⟩

theorem witness_ExchangesStartAtTheirStep_1_active :
    ∃ (g : BitVec 4) (dp : BitVec 3) (r : Grid) (s : State),
    Issues s .halo (.gxchg g dp) ∧ s.grid g = some r ∧ r.phase = 0 ∧ s.live (some r.hd) = some r.hd ∧
    (if r.active then (r.step - r.xstep.getD 0).toNat = r.depth else s.gridCheck r = none) ∧
    s.inPartition r.hd 0 r.size = true :=
  ⟨1, 0, { grid0 with step := 1 }, about (gridded { grid0 with step := 1 }) .halo (.gxchg 1 0), (by
    unfold Issues
    decide +kernel),
   (by decide +kernel), (by decide +kernel), (by decide +kernel), (by decide +kernel), (by decide +kernel)⟩

theorem witness_StepAccessesNeedTheirSteps_1 :
    ∃ (g : BitVec 4) (a : BitVec 5) (e : BitVec 6) (dp : BitVec 3) (r : Grid) (s : State),
    Issues s .halo (.gwait g a e dp) ∧ s.grid g = some r ∧
    (∀ f ∈ r.used, ∃ h, (r.face f).hstep = some h ∧ stepGe h ((s.sc a).setWidth 32) = true ∧ stepGt h ((s.sc a).setWidth 32 + BitVec.ofNat 32 r.depth) = false) :=
  ⟨1, 0, 4, 0, grid0, about (gridded grid0) .halo (.gwait 1 0 4 0), (by
    unfold Issues
    decide +kernel),
   (by decide +kernel), (by
      intro f hf; have : f = 0 ∨ f = 1 := by (have h : f ∈ [0, 1] := hf); simpa using h
      rcases this with h | h <;> subst h <;> exact ⟨0, by decide +kernel, by decide +kernel, by decide +kernel⟩)⟩

theorem witness_StepAccessesNeedTheirSteps_2 :
    ∃ (s : State) (f : Fmt) (o : GMOp) (h : Handle) (c : Option Fmt) (r : Grid) (l : List Nat),
    let off := (s.sc o.a).toInt + o.i.toInt * 64
    Issues s .halo (.gld f o) ∧ f ≠ .pl ∧ lsCheck s (s.hrec o.h) rRD f o.k off false none = .ok (h, c) ∧
    s.grid o.g = some r ∧ r.active = true ∧ s.live (some r.hd) = some r.hd ∧
    gridBytes r h off s.ctx.vec o.k = some l ∧ r.check ((s.sc o.st).setWidth 32) (touched r l) = .ready ∧
    (kept s o.x o.k f .rne false).isSome = true ∧
    s.readParked h (laneBytes off (s.ctx.vec.runs o.k)) = false ∧ (∀ a b, (s.eng .halo).stall ≠ .halo a b) ∧
    (s.loadLanes 3 h off (s.ctx.vec.runs o.k)).toBool = true :=
  ⟨about (gridded grid0) .halo (.gld .fp32 ⟨.v 1, 3, 0, 1, 0, 1, 0, 0⟩), .fp32, ⟨.v 1, 3, 0, 1, 0, 1, 0, 0⟩, _, _,
   grid0, _, (by
    unfold Issues
    decide +kernel), (by decide +kernel),
   okD_eq ((cist .untyped 0 0), none) (by decide +kernel), (by decide +kernel), (by decide +kernel),
   (by decide +kernel), some_getD [] (by decide +kernel), (by decide +kernel), (by decide +kernel),
   (by decide +kernel), (by intro a b; exact stall_none (by decide +kernel) a b), (by decide +kernel)⟩

theorem witness_StepAccessesNeedTheirSteps_3 :
    ∃ (s : State) (u : State) (f : Fmt) (o : GMOp) (h : Handle) (c : Option Fmt) (rd : Nat → Nat) (r : Grid) (l : List Nat),
    let i := Instr.gst f o
    let v := afterRead s .halo i
    let off := (s.sc o.a).toInt + o.i.toInt * 64
    let n := (s.sc o.st).setWidth 32
    let pieces := storePieces rd c f .rne off (s.ctx.vec.runs o.k)
    Issues s .halo i ∧ lsCheck v (v.hrec o.h) rWR f o.k off false none = .ok (h, c) ∧ s.grid o.g = some r ∧
    r.active = true ∧ s.live (some r.hd) = some r.hd ∧ gridBytes r h off s.ctx.vec o.k = some l ∧
    stepGt n (r.xstep.getD 0) = true ∧ stepGe (r.xstep.getD 0 + BitVec.ofNat 32 r.depth) n = true ∧
    r.check (r.xstep.getD 0) (touched r l) = .ready ∧ r.unread l = false ∧ (∀ a b, (v.eng .halo).stall ≠ .halo a b) ∧
    elems s o.x f .rne false = some rd ∧ pieces ≠ [] ∧ Posts v u .halo h pieces 0 (offW off) :=
  ⟨about (gridded grid0) .halo (.gst .fp32 ⟨.v 1, 3, 0, 1, 0, 1, 1, 5⟩), _, .fp32, ⟨.v 1, 3, 0, 1, 0, 1, 1, 5⟩, _, _,
   _, grid0, _, (by
    unfold Issues
    decide +kernel), okD_eq ((cist .untyped 0 0), none) (by decide +kernel),
   (by decide +kernel), (by decide +kernel), (by decide +kernel), some_getD [] (by decide +kernel),
   (by decide +kernel), (by decide +kernel), (by decide +kernel), (by decide +kernel),
   (by intro a b; exact stall_none (by decide +kernel) a b), some_getD (fun _ => 0) (by decide +kernel), (by decide +kernel),
   posts_all (by decide +kernel) (by decide +kernel) (by decide +kernel)⟩

theorem witness_SignatureInstructionsSetTheAccumulator_1 :
    ∃ (d : BitVec 4) (n : BitVec 2) (dp : BitVec 3) (s : State),
    Issues s .signature (.sigcfg d n dp) :=
  ⟨15, 3, 0, about base .signature (.sigcfg 15 3 0), (by
    unfold Issues
    decide +kernel)⟩

theorem witness_SignatureInstructionsSetTheAccumulator_2 :
    ∃ (a : BitVec 5) (dp : BitVec 3) (s : State),
    Issues s .signature (.sigzero a dp) :=
  ⟨1, 0, about base .signature (.sigzero 1 0), (by
    unfold Issues
    decide +kernel)⟩

theorem witness_SignatureInstructionsSetTheAccumulator_3 :
    ∃ (a : BitVec 5) (b : BitVec 5) (dp : BitVec 3) (s : State),
    Issues s .signature (.sigseg a b dp) :=
  ⟨1, 2, 0, about base .signature (.sigseg 1 2 0), (by
    unfold Issues
    decide +kernel)⟩

theorem witness_SignatureInstructionsSetTheAccumulator_4 :
    ∃ (f : Fmt) (x : VR) (dp : BitVec 3) (s : State),
    Issues s .signature (.siginc f x dp) ∧ s.ctx.sig.log = false ∧
    (tagCheck s.ctx.tagmode (source s x).2 f).isSome = true :=
  ⟨.fp32, .q 0, 0, about lane0 .signature (.siginc .fp32 (.q 0) 0), (by
    unfold Issues
    decide +kernel),
   (by decide +kernel), (by decide +kernel)⟩

theorem witness_SignatureInstructionsSetTheAccumulator_5 :
    ∃ (dp : BitVec 3) (s : State),
    Issues s .signature (.siglog dp) ∧ s.ctx.sig.log = false :=
  ⟨0, about base .signature (.siglog 0), (by
    unfold Issues
    decide +kernel), (by decide +kernel)⟩

theorem witness_SignatureInstructionsSetTheAccumulator_5_sigexp :
    ∃ (dp : BitVec 3) (s : State),
    Issues s .signature (.sigexp dp) ∧ s.ctx.sig.log = true :=
  ⟨0, about (with0 base (fun c => { c with sig := { c.sig with log := true } })) .signature (.sigexp 0), (by
    unfold Issues
    decide +kernel),
   (by decide +kernel)⟩

theorem witness_SignaturesMeetMemory_1 :
    ∃ (f : Fmt) (h : BitVec 6) (a : BitVec 5) (b : BitVec 5) (dp : BitVec 3) (r : Handle) (s : State),
    let n := (s.sc b).toNat
    let d := s.ctx.sig.dim
    let w := fbytes f
    Issues s .signature (.sigincb f h a b dp) ∧ s.ctx.sig.log = false ∧ n < 2 ^ 32 ∧ n ≠ 0 ∧
    sigHandle s (s.hrec h) rRD (s.sc a).toInt = .ok r ∧ (sigBounds s r (s.sc a).toInt (n * d * w)).toBool = true ∧
    (tagCheck s.ctx.tagmode r.fmt f).isSome = true ∧ (s.sigLoad r (s.sc a).toInt.toNat (n * d * w)).toBool = true :=
  ⟨.fp32, 1, 0, 5, 0, _, about base .signature (.sigincb .fp32 1 0 5 0), (by
    unfold Issues
    decide +kernel),
   (by decide +kernel), (by decide +kernel), (by decide +kernel), okD_eq (cist .untyped 0 0) (by decide +kernel),
   (by decide +kernel), (by decide +kernel), (by decide +kernel)⟩

theorem witness_SignaturesMeetMemory_2 :
    ∃ (f : Fmt) (h : BitVec 6) (a : BitVec 5) (b : BitVec 5) (dp : BitVec 3) (s : State),
    Issues s .signature (.sigincb f h a b dp) ∧ s.ctx.sig.log = false ∧ s.sc b = 0 :=
  ⟨.fp32, 1, 0, 0, 0, about base .signature (.sigincb .fp32 1 0 0 0), (by
    unfold Issues
    decide +kernel),
   (by decide +kernel), (by decide +kernel)⟩

theorem witness_SignaturesMeetMemory_3 :
    ∃ (left : Bool) (h : BitVec 6) (a : BitVec 5) (dp : BitVec 3) (s : State) (u : State) (lv : Nat → Nat → Nat) (st : Sig),
    Issues s .signature (.sigjoin left h a dp) ∧ s.ctx.sig.log = false ∧
    sigStored s (s.hrec h) (s.sc a).toInt true = .ok (u, lv, st) ∧
    (if left then st.hi + 1 = s.ctx.sig.lo else s.ctx.sig.hi + 1 = st.lo) :=
  ⟨true, 1, 0, 0, about sigged .signature (.sigjoin true 1 0 0), _, _, _, (by
    unfold Issues
    decide +kernel),
   (by decide +kernel), okD_eq (base, (fun _ _ => 0), Sig.reset) (by decide +kernel), (by decide +kernel)⟩

theorem witness_SignaturesMeetMemory_3_right :
    ∃ (left : Bool) (h : BitVec 6) (a : BitVec 5) (dp : BitVec 3) (s : State) (u : State) (lv : Nat → Nat → Nat) (st : Sig),
    Issues s .signature (.sigjoin left h a dp) ∧ s.ctx.sig.log = false ∧
    sigStored s (s.hrec h) (s.sc a).toInt true = .ok (u, lv, st) ∧
    (if left then st.hi + 1 = s.ctx.sig.lo else s.ctx.sig.hi + 1 = st.lo) :=
  ⟨false, 1, 0, 0, about sigged .signature (.sigjoin false 1 0 0), _, _, _, (by
    unfold Issues
    decide +kernel),
   (by decide +kernel), okD_eq (base, (fun _ _ => 0), Sig.reset) (by decide +kernel), (by decide +kernel)⟩

theorem witness_SignaturesMeetMemory_4 :
    ∃ (h : BitVec 6) (a : BitVec 5) (dp : BitVec 3) (s : State),
    Issues s .signature (.sigld h a dp) ∧ (sigStored s (s.hrec h) (s.sc a).toInt false).toBool = true :=
  ⟨1, 0, 0, about sigged .signature (.sigld 1 0 0), (by
    unfold Issues
    decide +kernel), (by decide +kernel)⟩

theorem witness_SignaturesMeetMemory_5 :
    ∃ (f : Fmt) (h : BitVec 6) (a : BitVec 5) (dp : BitVec 3) (r : Handle) (s : State),
    let off := (s.sc a).toInt
    let n := sigBytes s.ctx.sig.dim s.ctx.sig.depth (fbytes f)
    Issues s .signature (.sigst f h a dp) ∧ sigHandle s (s.hrec h) rWR off = .ok r ∧
    (sigBounds s r off n).toBool = true ∧ ((r.fmt = .untyped ∨ r.fmt = f)) ∧
    s.unplaced r off.toNat n = false ∧ isOk (s.resolve r off.toNat n true) = true :=
  ⟨.bf16, 1, 0, 0, _, about base .signature (.sigst .bf16 1 0 0), (by
    unfold Issues
    decide +kernel),
   okD_eq (cist .untyped 0 0) (by decide +kernel), (by decide +kernel), (by decide +kernel), (by decide +kernel),
   (by decide +kernel)⟩

theorem witness_SignaturesMeetMemory_6 :
    ∃ (q : BitVec 5) (l : BitVec 2) (dp : BitVec 3) (s : State),
    let k := l.toNat + 1
    let n := (s.ctx.sig.dim ^ k + 2047) / 2048
    Issues s .signature (.sigdrain q l dp) ∧ k ≤ s.ctx.sig.depth ∧ n ≤ 4 - s.ctx.vec.qcount q.toNat :=
  ⟨2, 0, 0, about base .signature (.sigdrain 2 0 0), (by
    unfold Issues
    decide +kernel), (by decide +kernel),
   (by decide +kernel)⟩

theorem witness_RemoteOperationsSendOneMessage_1 :
    ∃ (f : Fmt) (o : FMOp) (rd : Nat → Nat) (s : State),
    let i := Instr.xst f o
    let v := afterRead s .fabric i
    Issues s .fabric i ∧ Fresh s ∧ (fmCheck v o rWR).toBool = true ∧
    (if f = .untyped then some (fun j => vget (source s o.x).1 4 j) else elems s o.x f .rne false) = some rd ∧
    s.overAllow (window o.h) 1 = false ∧ s.olderPut .fabric s.iss none = false :=
  ⟨.fp32, fmOne, (elems (about lane0 .fabric (.xst .fp32 fmOne)) (.v 1) .fp32 .rne false).getD (fun _ => 0),
   about lane0 .fabric (.xst .fp32 fmOne), (by
    unfold Issues
    decide +kernel), (by
    unfold Fresh
    decide +kernel),
   (by decide +kernel), some_getD (fun _ => 0) (by decide +kernel), (by decide +kernel), (by decide +kernel)⟩

theorem witness_RemoteOperationsSendOneMessage_2 :
    ∃ (i : Instr) (dw : Bool) (cas : Bool) (op : AOp) (c : Word) (o : FAOp) (h : Handle) (s : State),
    let n := if dw then 8 else 4
    fatomOf s i = some (dw, cas, op, c, o) ∧ Issues s .fabric i ∧ Fresh s ∧ Rec s o.h [rAT] h ∧
    Spans s h (s.sc o.a).toInt n n ∧ s.peerFails (s.sc o.pr) = none ∧ mayAtomic s o.ord h.sync ∧
    s.olderPut .fabric s.iss none = false :=
  ⟨.xamo true .add faOne, true, false, .add, 0, faOne, cist .untyped 0 0x40000,
   about base .fabric (.xamo true .add faOne), (by decide +kernel), (by
    unfold Issues
    decide +kernel), (by
    unfold Fresh
    decide +kernel),
   (by
    unfold Rec
    try dsimp only
    decide +kernel), (by
    unfold Spans
    try dsimp only
    decide +kernel),
   (by decide +kernel), (by
    unfold mayAtomic
    try dsimp only
    decide +kernel), (by decide +kernel)⟩

theorem witness_RemoteOperationsSendOneMessage_3 :
    ∃ (e : BitVec 6) (pr : BitVec 5) (sc : Scope) (rel : Bool) (dp : BitVec 3) (s : State),
    Issues s .fabric (.xevinc e pr sc rel dp) ∧ Fresh s ∧ s.peerFails (s.sc pr) = none ∧
    ((rel = true → s.releaseReady s.iss.age (some e) = true)) :=
  ⟨1, 6, .die, true, 0, about base .fabric (.xevinc 1 6 .die true 0), (by
    unfold Issues
    decide +kernel), (by
    unfold Fresh
    decide +kernel),
   (by decide +kernel), (by decide +kernel)⟩

theorem witness_RemoteLoadsAskAndReceive_1 :
    ∃ (f : Fmt) (o : FMOp) (ei : BitVec 6) (h : Handle) (runs : List (Nat × Nat)) (s : State),
    let i := Instr.xld f o ei
    Issues s .fabric i ∧ Fresh s ∧ fmCheck s o rRD = .ok (h, runs) ∧
    ((f = .untyped ∨ (kept s o.x o.k f .rne false).isSome)) ∧ s.olderPut .fabric s.iss none = false ∧
    (∀ y ∈ s.ctx.fab.cmds, y.what = .load → y.sent ≠ 1) :=
  ⟨.fp32, fmOne, 0, _, _, about lane0 .fabric (.xld .fp32 fmOne 0), (by
    unfold Issues
    decide +kernel), (by
    unfold Fresh
    decide +kernel),
   okD_eq ((cist .untyped 0 0), []) (by decide +kernel), (by decide +kernel), (by decide +kernel), (by decide +kernel)⟩

theorem witness_RemoteLoadsAskAndReceive_2 :
    ∃ (f : Fmt) (o : FMOp) (ei : BitVec 6) (x : XCmd) (d : Nat) (q : BitVec 5) (s : State),
    let i := Instr.xld f o ei
    Issues s .fabric i ∧ s.xcmd s.iss.age = some x ∧ x.what = .load ∧ x.failed = false ∧ x.txns = [] ∧ x.data = some d ∧
    o.x = .q q ∧ (∀ y ∈ s.ctx.fab.cmds, y.what = .load → y.sent ≠ 1) :=
  ⟨.fp32, { fmOne with x := .q 3 }, 0,
   { xcmdOf (about base .fabric (.xld .fp32 { fmOne with x := .q 3 } 0)) .load with txns := [], data := some 7 }, 7, 3,
   withCmd (about base .fabric (.xld .fp32 { fmOne with x := .q 3 } 0)) { xcmdOf (about base .fabric (.xld .fp32 { fmOne with x := .q 3 } 0)) .load with txns := [], data := some 7 },
   (by
    unfold Issues
    decide +kernel), (by decide +kernel), (by decide +kernel), (by decide +kernel), (by decide +kernel), (by decide +kernel),
   (by decide +kernel), (by decide +kernel)⟩

theorem witness_FabricSettingsAreRecorded_1 :
    ∃ (w : BitVec 4) (a : BitVec 5) (dp : BitVec 3) (s : State),
    Issues s .fabric (.xallow w a dp) ∧ (s.sc a).toNat ≠ 0 ∧ (s.sc a).toNat ≤ 65535 :=
  ⟨15, 3, 0, about base .fabric (.xallow 15 3 0), (by
    unfold Issues
    decide +kernel), (by decide +kernel),
   (by decide +kernel)⟩

theorem witness_FabricSettingsAreRecorded_2 :
    ∃ (w : BitVec 4) (e : BitVec 6) (dp : BitVec 3) (s : State),
    Issues s .fabric (.xfence w e dp) ∧ s.ctx.fab.fences.length < 8 :=
  ⟨15, 3, 0, about base .fabric (.xfence 15 3 0), (by
    unfold Issues
    decide +kernel), (by decide +kernel)⟩

theorem witness_FabricSettingsAreRecorded_3 :
    ∃ (ew : BitVec 6) (th : BitVec 5) (slot : BitVec 6) (dp : BitVec 3) (s : State),
    Issues s .fabric (.xtrig ew th slot dp) ∧ (s.ctx.fab.trigs.filter (fun t => t.fired.isNone)).length < 16 :=
  ⟨1, 5, 63, 0, about base .fabric (.xtrig 1 5 63 0), (by
    unfold Issues
    decide +kernel), (by decide +kernel)⟩

theorem witness_FabricSettingsAreRecorded_4 :
    ∃ (ti : BitVec 5) (h : BitVec 6) (pr : BitVec 5) (opr : Opr) (a : BitVec 5) (dp : BitVec 3) (r : Handle) (s : State),
    let i := Instr.xtile ti h pr opr a dp
    Issues s .fabric i ∧ Rec s h [rRD] r ∧ (s.sc ti).toNat < 256 ∧ Spans s r (s.sc a).toInt 4096 4096 ∧
    s.peerFails (s.sc pr) = none :=
  ⟨5, 1, 6, .copy, 0, 0, cist .untyped 0 0x40000, about base .fabric (.xtile 5 1 6 .copy 0 0), (by
    unfold Issues
    decide +kernel),
   (by
    unfold Rec
    try dsimp only
    decide +kernel), (by decide +kernel), (by
    unfold Spans
    try dsimp only
    decide +kernel),
   (by decide +kernel)⟩

theorem witness_FabricSettingsAreRecorded_5 :
    ∃ (port : BitVec 4) (h : BitVec 6) (a : BitVec 5) (dp : BitVec 3) (r : Handle) (data : Nat) (s : State) (u : State),
    let i := Instr.xsched port h a dp
    let l : Load := ⟨s.bind.world, loadEnts (r.len.toNat / 8) data, s.sc a⟩
    Issues s .fabric i ∧ Rec s h [rRD] r ∧ r.len.toNat % 8 = 0 ∧ r.len.toNat ≤ 32768 ∧
    s.readWaits r 0 r.len.toNat = false ∧ s.load 5 r 0 r.len.toNat 0 = .ok (u, data) ∧
    loadRefused (u.port port.toNat) (fun p => p < 12 && (u.port p).st = 4) l = none :=
  ⟨0, 9, 4, 0, cist .untyped 0x3000 8, _, about spared .fabric (.xsched 0 9 4 0), _, (by
    unfold Issues
    decide +kernel),
   (by
    unfold Rec
    try dsimp only
    decide +kernel), (by decide +kernel), (by decide +kernel), (by decide +kernel),
   okD_eq (base, 0) (by decide +kernel), (by decide +kernel)⟩

theorem witness_TransfersGoInFlight_1 :
    ∃ (i : Instr) (h1 : Handle) (h2 : Handle) (s : State),
    (launchOf s h1 h2 i).isSome = true ∧ Issues s .fabric i ∧ Fresh s ∧ Launches s h1 h2 i :=
  ⟨.xput fbOne, cist .untyped 0 0x40000, cist .untyped 0 0x40000, about base .fabric (.xput fbOne),
   (by decide +kernel), (by
    unfold Issues
    decide +kernel), (by
    unfold Fresh
    decide +kernel), (by
    unfold Launches Rec Spans Placed
    try dsimp only
    decide +kernel)⟩

theorem witness_TransfersGoInFlight_1_xget :
    ∃ (i : Instr) (h1 : Handle) (h2 : Handle) (s : State),
    (launchOf s h1 h2 i).isSome = true ∧ Issues s .fabric i ∧ Fresh s ∧ Launches s h1 h2 i :=
  ⟨.xget fbOne, cist .untyped 0 0x40000, cist .untyped 0 0x40000, about base .fabric (.xget fbOne),
   (by decide +kernel), (by
    unfold Issues
    decide +kernel), (by
    unfold Fresh
    decide +kernel), (by
    unfold Launches Rec Spans Placed
    try dsimp only
    decide +kernel)⟩

theorem witness_TransfersGoInFlight_1_xport :
    ∃ (i : Instr) (h1 : Handle) (h2 : Handle) (s : State),
    (launchOf s h1 h2 i).isSome = true ∧ Issues s .fabric i ∧ Fresh s ∧ Launches s h1 h2 i :=
  ⟨.xport 6 10 .fp16 .rne 0, cist .bf16 0x4000 256, cist .untyped 0 0x40000,
   about base .fabric (.xport 6 10 .fp16 .rne 0), (by decide +kernel), (by
    unfold Issues
    decide +kernel), (by
    unfold Fresh
    decide +kernel),
   (by
    unfold Launches Rec Spans Placed
    try dsimp only
    decide +kernel)⟩

theorem witness_TransfersGoInFlight_1_xring :
    ∃ (i : Instr) (h1 : Handle) (h2 : Handle) (s : State),
    (launchOf s h1 h2 i).isSome = true ∧ Issues s .fabric i ∧ Fresh s ∧ Launches s h1 h2 i :=
  ⟨.xring .rs 0 1 0 0 1 0 0 0, cist .untyped 0 0x40000, cist .untyped 0 0x40000,
   about base .fabric (.xring .rs 0 1 0 0 1 0 0 0), (by decide +kernel), (by
    unfold Issues
    decide +kernel),
   (by
    unfold Fresh
    decide +kernel), (by
    unfold Launches Rec Spans Placed
    try dsimp only
    decide +kernel)⟩

theorem witness_TransfersGoInFlight_1_xsend :
    ∃ (i : Instr) (h1 : Handle) (h2 : Handle) (s : State),
    (launchOf s h1 h2 i).isSome = true ∧ Issues s .fabric i ∧ Fresh s ∧ Launches s h1 h2 i :=
  ⟨.xsend 11 0 5 1 0, cist .untyped 0x4000 64, cist .untyped 0 0x40000, about tiled .fabric (.xsend 11 0 5 1 0),
   (by decide +kernel), (by
    unfold Issues
    decide +kernel), (by
    unfold Fresh
    decide +kernel), (by
    unfold Launches Rec Spans Placed
    try dsimp only
    decide +kernel)⟩

theorem witness_TransfersGoInFlight_1_xrecv :
    ∃ (i : Instr) (h1 : Handle) (h2 : Handle) (s : State),
    (launchOf s h1 h2 i).isSome = true ∧ Issues s .fabric i ∧ Fresh s ∧ Launches s h1 h2 i :=
  ⟨.xrecv 11 0 5 1 0, cist .untyped 0x4000 64, cist .untyped 0 0x40000, about tiled .fabric (.xrecv 11 0 5 1 0),
   (by decide +kernel), (by
    unfold Issues
    decide +kernel), (by
    unfold Fresh
    decide +kernel), (by
    unfold Launches Rec Spans Placed
    try dsimp only
    decide +kernel)⟩

theorem witness_TransfersGoInFlight_1_xcomp :
    ∃ (i : Instr) (h1 : Handle) (h2 : Handle) (s : State),
    (launchOf s h1 h2 i).isSome = true ∧ Issues s .fabric i ∧ Fresh s ∧ Launches s h1 h2 i :=
  ⟨.xcomp 10 10 0 0 1 0, cist .bf16 0x4000 256, cist .bf16 0x4000 256, about base .fabric (.xcomp 10 10 0 0 1 0),
   (by decide +kernel), (by
    unfold Issues
    decide +kernel), (by
    unfold Fresh
    decide +kernel), (by
    unfold Launches Rec Spans Placed
    try dsimp only
    decide +kernel)⟩

theorem witness_TransfersGoInFlight_2 :
    ∃ (ti : BitVec 5) (dp : BitVec 3) (r : TileReg) (s : State),
    Issues s .fabric (.xready ti dp) ∧ Fresh s ∧ SMap.get none s.ctx.fab.tiles (s.sc ti).toNat = some r ∧
    s.live (some r.hd) = some r.hd ∧ Placed s r.hd r.off 4096 ∧ s.overAllow (window r.slot) 1 = false :=
  ⟨5, 0, tileOne, about tiled .fabric (.xready 5 0), (by
    unfold Issues
    decide +kernel), (by
    unfold Fresh
    decide +kernel),
   (by decide +kernel), (by decide +kernel), (by
    unfold Placed
    try dsimp only
    decide +kernel),
   (by decide +kernel)⟩

theorem witness_TransfersGoInFlight_3 :
    ∃ (op : CollOp) (o : FKOp) (hs : Handle) (hr : Handle) (g : GroupEnt) (peers : List Nat) (s : State) (u : State),
    let i := Instr.xcoll op o
    let n := (s.sc o.n).toNat
    let sp := collSpans op n g.count g.rank
    Issues s .fabric i ∧ Fresh s ∧ Rec s o.hs [rRD] hs ∧ Rec s o.hr [rWR] hr ∧ collFmt op o.opr o.fmt = true ∧
    groupPeers s o.grp = .ok (u, g, peers) ∧ sp.1 ≤ hs.len.toNat ∧ sp.2 ≤ hr.len.toNat ∧
    (n % (if op = .rs ∨ op = .a2a then 64 * g.count else 64) = 0) ∧ Placed u hs 0 sp.1 ∧ Placed u hr 0 sp.2 :=
  ⟨.ag, ⟨1, 1, 0, 0, .fp32, .copy, 0, 0, 1, 0⟩, cist .untyped 0 0x40000, cist .untyped 0 0x40000, _, _,
   about grouped .fabric (.xcoll .ag ⟨1, 1, 0, 0, .fp32, .copy, 0, 0, 1, 0⟩), _, (by
    unfold Issues
    decide +kernel),
   (by
    unfold Fresh
    decide +kernel), (by
    unfold Rec
    try dsimp only
    decide +kernel), (by
    unfold Rec
    try dsimp only
    decide +kernel),
   (by decide +kernel), okD_eq (base, ⟨0, 0, 0⟩, []) (by decide +kernel), (by decide +kernel), (by decide +kernel),
   (by decide +kernel), (by
    unfold Placed
    try dsimp only
    decide +kernel), (by
    unfold Placed
    try dsimp only
    decide +kernel)⟩

theorem witness_TransfersGoInFlight_4 :
    ∃ (o : FBOp) (h1 : Handle) (h2 : Handle) (s : State),
    Issues s .fabric (.xget o) ∧ Fresh s ∧ s.sc o.n = 0 ∧ Rec s o.hd [rWR] h1 ∧ Rec s o.hs [rRD] h2 ∧
    Spans s h1 (s.sc o.od).toInt 0 64 ∧ Spans s h2 (s.sc o.os).toInt 0 64 ∧ s.peerFails (s.sc o.pr) = none :=
  ⟨{ fbOne with n := 0 }, cist .untyped 0 0x40000, cist .untyped 0 0x40000,
   about base .fabric (.xget { fbOne with n := 0 }), (by
    unfold Issues
    decide +kernel), (by
    unfold Fresh
    decide +kernel),
   (by decide +kernel), (by
    unfold Rec
    try dsimp only
    decide +kernel), (by
    unfold Rec
    try dsimp only
    decide +kernel),
   (by
    unfold Spans
    try dsimp only
    decide +kernel), (by
    unfold Spans
    try dsimp only
    decide +kernel),
   (by decide +kernel)⟩

/-- The first round of R471's example: 3.0, -1.25, 0.5 and zeros. -/
def shard : Nat := packElems 4 64 (fun i => [0x40400000, 0xBFA00000, 0x3F000000].getD i 0)
/-- The example of R471: bytes 0 to 95 of gs after event 3. -/
theorem test_xcomp_tensor :
    (compress 64 4 shard).1 = 0x7A + 0x02 * 256 ^ 64 + 0x03 * 256 ^ 72 + 0x01 * 256 ^ 80 + 0x06 * 256 ^ 88 := by decide +kernel
/-- The example of R471: the residuals of the first round. -/
theorem test_xcomp_residuals :
    (compress 64 4 shard).2.2 = packElems 4 64 (fun i => if i = 1 then 0 else 0xBE800000) := by decide +kernel
/-- The info string of R435, its fields in their order from the first byte. -/
theorem test_keyInfo : keyInfo nameBriwen 2 0x0102 0x0003 4 5 6 0x0A = 0x0000000A0605040003_0102_6E6577697262 := by decide +kernel
/-- R466: in the last step each device receives the chunk of its own position, and the first step starts at the device behind it. -/
theorem test_ring_chunks : (List.range 6).map (fun r => ringChunk .rs 6 r 5) = List.range 6 ∧
    (List.range 6).map (fun r => ringChunk .rs 6 ((r + 1) % 6) 1) = [5, 0, 1, 2, 3, 4] := by decide +kernel

theorem witness_CommandsStartWhenTheyMay_1 :
    ∃ (s : State) (x : XCmd),
    ((s.awaited x.cap = false ∨ s.behind x = true)) :=
  ⟨
   withCmd (about base .fabric (.xput { fbOne with ew := 1, th := 4 })) (xcmdOf (about base .fabric (.xput { fbOne with ew := 1, th := 4 })) (.write 1)),
   xcmdOf (about base .fabric (.xput { fbOne with ew := 1, th := 4 })) (.write 1), (by decide +kernel)⟩

theorem witness_CommandsStartWhenTheyMay_2 :
    ∃ (s : State) (x : XCmd) (o : FBOp) (h : Handle),
    x.cap.instr = .xput o ∧ x.started = false ∧ s.awaited x.cap = true ∧ s.behind x = false ∧
    SMap.get none x.cap.h o.hs.toNat = some h ∧
    (s.fabRead x h (x.cap.sc o.os).toNat (x.cap.sc o.n).toNat).toBool = true :=
  ⟨withCmd (about base .fabric (.xput fbOne)) (xcmdOf (about base .fabric (.xput fbOne)) (.write 1)),
   xcmdOf (about base .fabric (.xput fbOne)) (.write 1), fbOne, cist .untyped 0 0x40000, (by decide +kernel),
   (by decide +kernel), (by decide +kernel), (by decide +kernel), (by decide +kernel), (by decide +kernel)⟩

theorem witness_CommandsStartWhenTheyMay_3 :
    ∃ (s : State) (x : XCmd) (o : FBOp) (h : Handle),
    x.cap.instr = .xget o ∧ x.started = false ∧ s.awaited x.cap = true ∧ s.behind x = false ∧
    SMap.get none x.cap.h o.hd.toNat = some h ∧
    (h.level = 0 → x.cap.sc o.n ≠ 0 → s.inPartition h (x.cap.sc o.od).toNat (x.cap.sc o.n).toNat = true) :=
  ⟨withCmd (about base .fabric (.xget fbOne)) (xcmdOf (about base .fabric (.xget fbOne)) .get),
   xcmdOf (about base .fabric (.xget fbOne)) .get, fbOne, cist .untyped 0 0x40000, (by decide +kernel),
   (by decide +kernel), (by decide +kernel), (by decide +kernel), (by decide +kernel), (by decide +kernel)⟩

theorem witness_CommandsStartWhenTheyMay_4 :
    ∃ (s : State) (x : XCmd) (ti : BitVec 5) (dp : BitVec 3) (r : TileReg),
    x.cap.instr = .xready ti dp ∧ x.started = false ∧ s.behind x = false ∧ x.tile = some r ∧
    (s.fabRead x r.hd r.off 4096).toBool = true :=
  ⟨
   withCmd (about tiled .fabric (.xready 5 0)) ({ xcmdOf (about tiled .fabric (.xready 5 0)) (.write 1) with tile := some tileOne }),
   { xcmdOf (about tiled .fabric (.xready 5 0)) (.write 1) with tile := some tileOne }, 5, 0, tileOne,
   (by decide +kernel), (by decide +kernel), (by decide +kernel), (by decide +kernel), (by decide +kernel)⟩

theorem witness_CommandsStartWhenTheyMay_5 :
    ∃ (s : State) (x : XCmd) (op : RingOp) (p : BitVec 4) (hf : BitVec 6) (a : BitVec 5) (b : BitVec 5) (ei : BitVec 6) (ew : BitVec 6) (th : BitVec 5) (dp : BitVec 3) (h : Handle),
    x.cap.instr = .xring op p hf a b ei ew th dp ∧ x.what = .ring ∧ x.started = false ∧ s.awaited x.cap = true ∧
    SMap.get none x.cap.h hf.toNat = some h ∧ s.ringBusy p = true :=
  ⟨withCmd base (waits .ring (.xring .ag 0 1 0 1 4 0 0 0) []),
   { waits .ring (.xring .ag 0 1 0 1 4 0 0 0) [] with started := false }, .ag, 0, 1, 0, 1, 4, 0, 0, 0, cist .untyped 0 0x40000,
   (by decide +kernel), (by decide +kernel), (by decide +kernel), (by decide +kernel),
   (by decide +kernel), (by decide +kernel)⟩

theorem witness_CommandsStartWhenTheyMay_5_free :
    ∃ (s : State) (x : XCmd) (op : RingOp) (p : BitVec 4) (hf : BitVec 6) (a : BitVec 5) (b : BitVec 5) (ei : BitVec 6) (ew : BitVec 6) (th : BitVec 5) (dp : BitVec 3) (h : Handle),
    x.cap.instr = .xring op p hf a b ei ew th dp ∧ x.what = .ring ∧ x.started = false ∧ s.awaited x.cap = true ∧
    SMap.get none x.cap.h hf.toNat = some h ∧ s.ringBusy p = false ∧ s.owes x.cap = false ∧
    (s.fabRead x h (x.cap.sc a).toNat (x.cap.sc b).toNat).toBool = true :=
  ⟨base, { waits .ring (.xring .ag 0 1 0 1 4 0 0 0) [] with started := false }, .ag, 0, 1, 0, 1, 4, 0, 0, 0, cist .untyped 0 0x40000,
   (by decide +kernel), (by decide +kernel), (by decide +kernel), (by decide +kernel),
   (by decide +kernel), (by decide +kernel), (by decide +kernel), (by decide +kernel)⟩

theorem witness_CommandsStartWhenTheyMay_5_port :
    ∃ (s : State) (x : XCmd) (pr : BitVec 5) (hf : BitVec 6) (f : Fmt) (m : RMode) (dp : BitVec 3) (h : Handle),
    x.cap.instr = .xport pr hf f m dp ∧ x.started = false ∧ s.behind x = false ∧ SMap.get none x.cap.h hf.toNat = some h ∧
    (s.fabRead x h 0 h.len.toNat).toBool = true :=
  ⟨base, { waits (.write 1) (.xport 1 1 .bf16 .rne 0) [] with
      cap := { Cap.blank with instr := .xport 1 1 .bf16 .rne 0, age := 3, h := [(1, some (cist .fp32 0 64))] }, started := false },
   1, 1, .bf16, .rne, 0, cist .fp32 0 64, (by decide +kernel), (by decide +kernel), (by decide +kernel), (by decide +kernel),
   (by decide +kernel)⟩

/-- A command of a compression unit on a record of 64 bytes, not started. -/
def comp0 (i : Instr) : XCmd :=
  { waits (.comp 0) i [] with
    cap := { Cap.blank with instr := i, age := 3, h := [(1, some (cist .untyped 0 64)), (2, some (cist .untyped 0x100 128))] }
    started := false }

theorem witness_CommandsStartWhenTheyMay_6 :
    ∃ (s : State) (x : XCmd) (h1 : BitVec 6) (h2 : BitVec 6) (cp : BitVec 2) (ei : BitVec 6) (dp : BitVec 3) (hs : Handle) (hr : Handle),
    x.cap.instr = .xresid h1 h2 cp ei dp ∧ x.what = .comp cp ∧ x.started = false ∧ SMap.get none x.cap.h h1.toNat = some hs ∧
    SMap.get none x.cap.h h2.toNat = some hr ∧ s.olderComp x.cap.age cp = true :=
  ⟨camp base (fun c => { c with unit := 101 }), comp0 (.xresid 1 2 0 4 0), 1, 2, 0, 4, 0, cist .untyped 0 64, cist .untyped 0x100 128,
   (by decide +kernel), (by decide +kernel), (by decide +kernel), (by decide +kernel),
   (by decide +kernel), (by decide +kernel)⟩

/-- What such a command reads of its first record and then of its second. -/
def compReads (x : XCmd) : State × Nat := okD (base.fabRead x (cist .untyped 0 64) 0 (cist .untyped 0 64).len.toNat) (base, 0)
def compReads2 (x : XCmd) : State × Nat := okD ((compReads x).1.fabRead x (cist .untyped 0x100 128) 0 (cist .untyped 0x100 128).len.toNat) (base, 0)
theorem compReads_eq (x : XCmd) (h : (base.fabRead x (cist .untyped 0 64) 0 (cist .untyped 0 64).len.toNat).toBool = true) :
    base.fabRead x (cist .untyped 0 64) 0 (cist .untyped 0 64).len.toNat = .ok ((compReads x).1, (compReads x).2) := okD_eq (base, 0) h
theorem compReads2_eq (x : XCmd)
    (h : ((compReads x).1.fabRead x (cist .untyped 0x100 128) 0 (cist .untyped 0x100 128).len.toNat).toBool = true) :
    (compReads x).1.fabRead x (cist .untyped 0x100 128) 0 (cist .untyped 0x100 128).len.toNat =
      .ok ((compReads2 x).1, (compReads2 x).2) := okD_eq (base, 0) h

theorem witness_CommandsStartWhenTheyMay_6_starts :
    ∃ (s : State) (u : State) (v : State) (x : XCmd) (h1 : BitVec 6) (h2 : BitVec 6) (cp : BitVec 2) (ei : BitVec 6) (dp : BitVec 3) (hs : Handle) (hr : Handle) (g : Nat) (r : Nat),
    x.cap.instr = .xresid h1 h2 cp ei dp ∧ x.what = .comp cp ∧ x.started = false ∧ SMap.get none x.cap.h h1.toNat = some hs ∧
    SMap.get none x.cap.h h2.toNat = some hr ∧ s.olderComp x.cap.age cp = false ∧
    s.fabRead x hs 0 hs.len.toNat = .ok (u, g) ∧ u.fabRead x hr 0 hr.len.toNat = .ok (v, r) ∧
    (v.resolveAll [(hs, 0, 64, 0), (hr, 0, 64, 0)]).toBool = true :=
  ⟨base, (compReads (comp0 (.xresid 1 2 0 4 0))).1, (compReads2 (comp0 (.xresid 1 2 0 4 0))).1, comp0 (.xresid 1 2 0 4 0), 1, 2, 0, 4, 0, cist .untyped 0 64, cist .untyped 0x100 128,
   (compReads (comp0 (.xresid 1 2 0 4 0))).2, (compReads2 (comp0 (.xresid 1 2 0 4 0))).2,
   (by decide +kernel), (by decide +kernel), (by decide +kernel), (by decide +kernel),
   (by decide +kernel), (by decide +kernel), compReads_eq _ (by decide +kernel), compReads2_eq _ (by decide +kernel), (by decide +kernel)⟩

theorem witness_CommandsStartWhenTheyMay_7 :
    ∃ (s : State) (u : State) (v : State) (x : XCmd) (h1 : BitVec 6) (h2 : BitVec 6) (kp : BitVec 3) (cp : BitVec 2) (ei : BitVec 6) (dp : BitVec 3) (hs : Handle) (hr : Handle) (g : Nat) (r : Nat),
    x.cap.instr = .xcomp h1 h2 kp cp ei dp ∧ x.what = .comp cp ∧ x.started = false ∧ SMap.get none x.cap.h h1.toNat = some hs ∧
    SMap.get none x.cap.h h2.toNat = some hr ∧ s.olderComp x.cap.age cp = false ∧
    s.fabRead x hs 0 hs.len.toNat = .ok (u, g) ∧ u.fabRead x hr 0 hr.len.toNat = .ok (v, r) ∧
    (v.resolveAll [(hs, 0, (compress (hs.len.toNat / 4) (kp.toNat + 1) g).2.1, 0), (hr, 0, hr.len.toNat, 0)]).toBool = true :=
  ⟨base, (compReads (comp0 (.xcomp 1 2 3 0 4 0))).1, (compReads2 (comp0 (.xcomp 1 2 3 0 4 0))).1, comp0 (.xcomp 1 2 3 0 4 0), 1, 2, 3, 0, 4, 0, cist .untyped 0 64, cist .untyped 0x100 128,
   (compReads (comp0 (.xcomp 1 2 3 0 4 0))).2, (compReads2 (comp0 (.xcomp 1 2 3 0 4 0))).2,
   (by decide +kernel), (by decide +kernel), (by decide +kernel), (by decide +kernel),
   (by decide +kernel), (by decide +kernel), compReads_eq _ (by decide +kernel), compReads2_eq _ (by decide +kernel), (by decide +kernel)⟩

theorem witness_StreamingDrainsSendTheirRows_1 :
    ∃ (f : Fmt) (a : BitVec 4) (pr : BitVec 5) (o : MDOp) (h : Handle) (s : State),
    let i := Instr.mdrains f a pr o
    let n := rowsOf o.rows
    let p := h.pc.toNat + 1
    let size := if f = .pl then 64 + 16 * p else s.ctx.mat.tn * fbytes f
    Issues s .matrix i ∧ Fresh s ∧ Rec s o.h [rWR] h ∧ Spans s h (s.mdOff o) ((n - 1) * h.pitch size + size) 64 ∧
    ((f = .pl → h.fmt = .pl ∨ h.fmt = .untyped)) ∧ s.peerFails (s.sc pr) = none ∧ s.overAllow (window o.h) n = false ∧
    s.olderPut .matrix s.iss none = false :=
  ⟨.fp32, 0, 6, mdOne, cist .untyped 0 0x40000, about mat1 .matrix (.mdrains .fp32 0 6 mdOne), (by
    unfold Issues
    decide +kernel),
   (by
    unfold Fresh
    decide +kernel), (by
    unfold Rec
    try dsimp only
    decide +kernel), (by
    unfold Spans
    try dsimp only
    decide +kernel),
   (by decide +kernel), (by decide +kernel), (by decide +kernel), (by decide +kernel)⟩

theorem witness_EngineInstructionsAreDelivered_1 :
    ∃ (s : State) (l : List Lane) (i : Instr) (n : Nat) (e : Engine),
    let v := s.stepPast n
    s.canFetch = true ∧ s.ctx.ctl.hold = .none ∧ decodeLanes l = .ok i n ∧ engineOf i = some e ∧
    v.ctx.ctl.getP (uses i).dp = true ∧ s.ctx.lp.open_ = false ∧ s.ctx.room e = true ∧ s.firing = false :=
  ⟨base, lanesOfNat 0x2F2C0000, .vrnd .rup 0, 1, .vector, (by decide +kernel), (by decide +kernel),
   (by decide +kernel), (by decide +kernel), (by decide +kernel), (by decide +kernel), (by decide +kernel),
   (by decide +kernel)⟩

theorem witness_EngineInstructionsAreDelivered_1_dropped :
    ∃ (s : State) (l : List Lane) (i : Instr) (n : Nat) (e : Engine),
    let v := s.stepPast n
    s.canFetch = true ∧ s.ctx.ctl.hold = .none ∧ decodeLanes l = .ok i n ∧ engineOf i = some e ∧
    v.ctx.ctl.getP (uses i).dp = false :=
  ⟨base, lanesOfNat 0x260000003F2C0000, .vrnd .rup 3, 2, .vector, (by decide +kernel), (by decide +kernel),
   (by decide +kernel), (by decide +kernel), (by decide +kernel)⟩

theorem witness_EngineInstructionsAreDelivered_1_full :
    ∃ (s : State) (l : List Lane) (i : Instr) (n : Nat) (e : Engine),
    let v := s.stepPast n
    s.canFetch = true ∧ s.ctx.ctl.hold = .none ∧ decodeLanes l = .ok i n ∧ engineOf i = some e ∧
    v.ctx.ctl.getP (uses i).dp = true ∧ s.ctx.lp.open_ = false ∧ s.ctx.room e = false :=
  ⟨full, lanesOfNat 0x2F2C0000, .vrnd .rup 0, 1, .vector, (by decide +kernel), (by decide +kernel),
   (by decide +kernel), (by decide +kernel), (by decide +kernel), (by decide +kernel), (by decide +kernel)⟩

theorem witness_EngineInstructionsAreDelivered_2 :
    ∃ (s : State) (e : Engine),
    s.ctx.phase = .running ∧ s.ctx.ctl.fetch = .run ∧ s.ctx.ctl.hold = .queue e ∧ s.ctx.room e = true ∧
    s.firing = false :=
  ⟨holding0 (.queue .vector), .vector, (by decide +kernel), (by decide +kernel), (by decide +kernel),
   (by decide +kernel), (by decide +kernel)⟩

theorem witness_EngineInstructionsAreDelivered_3 :
    ∃ (s : State) (e : Engine),
    s.ctx.phase = .running ∧ s.ctx.csr.intrap = false ∧ lowestOf s.ctx.lp.owed = some e ∧ s.ctx.room e = true :=
  ⟨with0 base (fun c => { c with lp := { c.lp with owed := 3 } }), .vector, (by decide +kernel), (by decide +kernel),
   (by decide +kernel), (by decide +kernel)⟩

theorem witness_WaitsEndAndTrapsEnter_1 :
    ∃ (s : State) (n : BitVec 6) (th : BitVec 32) (acq : Bool),
    s.ctx.ctl.hold = .evwait n th acq ∧ s.ctx.phase = .running ∧ (s.ctx.ctl.getE n - th).toNat < 2 ^ 31 :=
  ⟨holding0 (.evwait 1 5 true), 1, 5, true, (by decide +kernel), (by decide +kernel), (by decide +kernel)⟩

theorem witness_WaitsEndAndTrapsEnter_1_limit :
    ∃ (s : State) (n : BitVec 6) (th : BitVec 32) (acq : Bool),
    s.ctx.ctl.hold = .evwait n th acq ∧ s.ctx.phase = .running ∧ 2 ^ 31 ≤ (s.ctx.ctl.getE n - th).toNat ∧
    s.ctx.csr.evstall.toNat ≠ 0 ∧ s.ctx.csr.evstall.toNat ≤ s.ctx.ctl.held ∧ CanTrap s :=
  ⟨with0 (holding0 (.evwait 1 6 true)) (fun c => { c with csr := { c.csr with evstall := 50 } }), 1, 6, true,
   (by decide +kernel), (by decide +kernel), (by decide +kernel), (by decide +kernel), (by decide +kernel), (by
    unfold CanTrap
    decide +kernel)⟩

theorem witness_WaitsEndAndTrapsEnter_2 :
    ∃ (s : State) (c : Word),
    s.ctx.ctl.hold = .dccwait c ∧ s.ctx.phase = .running ∧ c.toNat ≤ s.dcc.toNat :=
  ⟨holding0 (.dccwait 100), 100, (by decide +kernel), (by decide +kernel), (by decide +kernel)⟩

theorem witness_WaitsEndAndTrapsEnter_3 :
    ∃ (s : State) (e : Engine) (p : Pend),
    s.ctx.pending = some (e, p) ∧ s.ctx.phase = .running ∧ s.ctx.ctl.fetch ≠ .stopped ∧
    s.ctx.ctl.hold.abandoned = true ∧ s.ctx.ctl.due ≤ s.dcc.toNat ∧ p.at_.toNat + 2 ≤ s.dcc.toNat ∧ CanTrap s :=
  ⟨withEng base .pump (fun x => { x with pend := some pend0, frozen := true }), .pump, pend0, (by decide +kernel),
   (by decide +kernel), (by decide +kernel), (by decide +kernel), (by decide +kernel), (by decide +kernel), (by
    unfold CanTrap
    decide +kernel)⟩

theorem witness_WaitsEndAndTrapsEnter_4 :
    ∃ (s : State) (e : Engine) (p : Pend),
    s.ctx.pending = some (e, p) ∧ s.ctx.phase = .running ∧ s.ctx.ctl.fetch ≠ .stopped ∧ s.ctx.csr.intrap = false ∧
    s.ctx.csr.tvecEn = false :=
  ⟨with0 (withEng (holding0 (.svc 0 [])) .pump (fun x => { x with pend := some pend0, frozen := true }))
     (fun c => { c with csr := { c.csr with tvecEn := false } }),
   .pump, pend0, (by decide +kernel), (by decide +kernel), (by decide +kernel), (by decide +kernel), (by decide +kernel)⟩

theorem witness_WritesLandAndIncrementsArrive_1 :
    ∃ (s : State) (age : Nat) (f : Flight),
    Ripe s 6 age f :=
  ⟨with0 base (fun c => { c with fl := [byteFl 6] }), 3, byteFl 6, (by
    unfold Ripe
    try dsimp only
    decide +kernel)⟩

theorem witness_WritesLandAndIncrementsArrive_2 :
    ∃ (s : State) (e : Engine) (age : Nat) (f : Flight),
    Ripe s (Config.engIdx e) age f ∧ e ≠ .halo ∧ e ≠ .fabric :=
  ⟨with0 base (fun c => { c with fl := [byteFl 0] }), .vector, 3, byteFl 0, (by
    unfold Ripe
    try dsimp only
    decide +kernel),
   (by decide +kernel), (by decide +kernel)⟩

theorem witness_WritesLandAndIncrementsArrive_3 :
    ∃ (s : State) (x : Incr) (k : Nat),
    x ∈ s.incrs ∧ x.due ≤ s.dcc.toNat ∧ s.keyOf x.gang x.strand = some k ∧ (s.ctxAt k).phase ≠ .loading :=
  ⟨{ base with incrs := [incr0 1] }, incr0 1, 2, (by decide +kernel), (by decide +kernel), (by decide +kernel),
   (by decide +kernel)⟩

theorem witness_WritesLandAndIncrementsArrive_4 :
    ∃ (s : State) (x : Incr),
    x ∈ s.incrs ∧ x.due ≤ s.dcc.toNat ∧ s.keyOf x.gang x.strand = none :=
  ⟨{ base with incrs := [incr0 9] }, incr0 9, (by decide +kernel), (by decide +kernel), (by decide +kernel)⟩

theorem witness_EngineQueuesGoOn_1 :
    ∃ (s : State) (e : Engine) (p : Push),
    (s.eng e).pushes = [p] ∧ s.ctx.phase = .running ∧ (s.eng e).frozen = false ∧ s.ctx.vec.qcount p.q < 4 ∧
    p.acc = none ∧ (∀ y ∈ s.ctx.fab.cmds, y.what = .load → y.sent ≠ 1) :=
  ⟨withEng base .vector (fun x => { x with pushes := [push0] }), .vector, push0, (by decide +kernel),
   (by decide +kernel), (by decide +kernel), (by decide +kernel), (by decide +kernel), (by decide +kernel)⟩

theorem witness_EngineQueuesGoOn_2 :
    ∃ (s : State) (e : Engine) (q : Nat) (c : Cap) (b : Bool),
    (s.eng e).head = some (c, b) ∧ (s.eng e).stall = .read q ∧ s.ctx.phase = .running ∧ (s.eng e).frozen = false ∧
    s.ctx.vec.qcount q ≠ 0 ∧ s.ctx.vec.firstEmpty (queueReads c.instr) = none ∧ queueReads c.instr ≠ [] :=
  ⟨withEng lane0 .vector (fun x => { x with q := [.instr popCap true], stall := .read 0 }), .vector, 0, popCap, false,
   (by decide +kernel), (by decide +kernel), (by decide +kernel), (by decide +kernel), (by decide +kernel),
   (by decide +kernel), (by decide +kernel)⟩

theorem witness_EngineQueuesGoOn_3_under :
    ∃ (s : State) (e : Engine) (q : Nat) (c : Cap) (b : Bool),
    (s.eng e).head = some (c, b) ∧ s.ctx.phase = .running ∧ (s.eng e).frozen = false ∧ s.ctx.csr.qstall.toNat ≠ 0 ∧
    s.ctx.csr.qstall.toNat ≤ (s.eng e).stalled ∧ (s.eng e).pend = none ∧ (s.eng e).stall = .read q ∧
    s.ctx.vec.firstEmpty (queueReads c.instr) = some q :=
  ⟨withEng base .vector (fun x => { x with q := [.instr popCap true], stall := .read 0, stalled := 0x100000 }),
   .vector, 0, popCap, false, (by decide +kernel), (by decide +kernel), (by decide +kernel), (by decide +kernel),
   (by decide +kernel), (by decide +kernel), (by decide +kernel), (by decide +kernel)⟩

theorem witness_EngineQueuesGoOn_3_over :
    ∃ (s : State) (e : Engine) (q : Nat) (c : Cap) (b : Bool),
    (s.eng e).head = some (c, b) ∧ s.ctx.phase = .running ∧ (s.eng e).frozen = false ∧ s.ctx.csr.qstall.toNat ≠ 0 ∧
    s.ctx.csr.qstall.toNat ≤ (s.eng e).stalled ∧ (s.eng e).pend = none ∧ (s.eng e).stall = .push q ∧
    (s.eng e).made ≠ 0 :=
  ⟨
   withEng base .vector (fun x => { x with q := [.instr popCap true], stall := .push 3, made := 1, pushes := [push0], stalled := 0x100000 }),
   .vector, 3, popCap, false, (by decide +kernel), (by decide +kernel), (by decide +kernel), (by decide +kernel),
   (by decide +kernel), (by decide +kernel), (by decide +kernel), (by decide +kernel)⟩

theorem witness_EngineQueuesGoOn_4 :
    ∃ (s : State) (e : Engine) (age : Nat) (n : Nat) (skew : Nat) (r : List QItem),
    (s.eng e).q = .loopMark age n skew :: r ∧ (s.eng e).loop = none ∧ s.ctx.phase = .running ∧
    skew ≤ (s.eng e).stalled :=
  ⟨withEng base .vector (fun x => { x with q := [.loopMark 5 4 40], stalled := 40 }), .vector, 5, 4, 40, [],
   (by decide +kernel), (by decide +kernel), (by decide +kernel), (by decide +kernel)⟩

theorem witness_EngineQueuesGoOn_5 :
    ∃ (s : State) (e : Engine) (age : Nat) (r : List QItem) (l : LoopRun),
    (s.eng e).q = .endMark age :: r ∧ (s.eng e).loop = some l ∧ s.ctx.phase = .running ∧ l.exec = 0 ∧ 1 < l.n ∧
    l.body ≠ [] :=
  ⟨withEng base .vector (fun x => { x with q := [.endMark 9], loop := some (loop0 0) }), .vector, 9, [], loop0 0,
   (by decide +kernel), (by decide +kernel), (by decide +kernel), (by decide +kernel), (by decide +kernel),
   (by decide +kernel)⟩

theorem witness_EngineQueuesGoOn_5_last :
    ∃ (s : State) (e : Engine) (age : Nat) (r : List QItem) (l : LoopRun),
    (s.eng e).q = .endMark age :: r ∧ (s.eng e).loop = some l ∧ s.ctx.phase = .running ∧
    (((l.exec = 0 ∧ (l.n ≤ 1 ∨ l.body = [])) ∨ (l.exec ≠ 0 ∧ l.n ≤ l.exec))) :=
  ⟨withEng base .vector (fun x => { x with q := [.endMark 9], loop := some (loop0 4) }), .vector, 9, [], loop0 4,
   (by decide +kernel), (by decide +kernel), (by decide +kernel), (by decide +kernel)⟩

theorem witness_EngineQueuesGoOn_6 :
    ∃ (s : State) (e : Engine) (age : Nat) (r : List QItem) (todo : BitVec 6) (left : BitVec 6) (f : Bool),
    (s.eng e).q = .fenceMark age :: r ∧ s.ctx.phase = .running ∧ (s.eng e).frozen = false ∧
    s.ctx.ctl.hold = .marks todo left age f :=
  ⟨withEng (holding0 (.marks 0 1 9 false)) .vector (fun x => { x with q := [.fenceMark 9] }), .vector, 9, [], 0, 1,
   false, (by decide +kernel), (by decide +kernel), (by decide +kernel), (by decide +kernel)⟩

theorem witness_ServiceCallsAreAnswered_1 :
    ∃ (s : State),
    Calls s 0 :=
  ⟨holding0 (.svc 0 []), hasCall 0 _ _ rfl rfl (by decide +kernel)⟩

theorem witness_ServiceCallsAreAnswered_2 :
    ∃ (s : State),
    Calls s 1 ∧ ((2 ^ 57 ≤ (s.svcArg 2).toNat ∨ 2 ^ 16 ≤ (s.svcArg 3).toNat)) :=
  ⟨holding0 (.svc 1 [0, 0, 65536]), hasCall 1 _ _ rfl rfl (by decide +kernel),
   (by decide +kernel)⟩

theorem witness_ServiceCallsAreAnswered_3_off :
    ∃ (s u : State) (v : Option Nat),
    let w := s.bind.world.toNat
    let k := match v with | some v => fieldAt v 0 36 35 | none => 0
    let q := SMap.get Subq.reset (u.world w).sq k
    Calls s 1 ∧ (s.svcArg 2).toNat < 2 ^ 57 ∧ (s.svcArg 3).toNat < 2 ^ 16 ∧ s.readVa w (s.svcArg 2).toNat 8 = (u, v) ∧
    ((q.log < 4 ∨ 16 < q.log ∨ q.after q.tail = q.head)) :=
  ⟨holding0 (.svc 1 []), _, _, hasCall 1 _ _ rfl rfl (by decide +kernel),
   (by decide +kernel), (by decide +kernel), rfl, (by decide +kernel)⟩

theorem witness_ServiceCallsAreAnswered_3 :
    ∃ (s u r : State) (v : Option Nat) (ok : Bool),
    let w := s.bind.world.toNat
    let k := match v with | some v => fieldAt v 0 36 35 | none => 0
    let q := SMap.get Subq.reset (u.world w).sq k
    Calls s 1 ∧ (s.svcArg 2).toNat < 2 ^ 57 ∧ (s.svcArg 3).toNat < 2 ^ 16 ∧ s.readVa w (s.svcArg 2).toNat 8 = (u, v) ∧
    4 ≤ q.log ∧ q.log ≤ 16 ∧ q.after q.tail ≠ q.head ∧
    u.writeVa w (q.va + 16 * q.tail.toNat) 16 ((s.svcArg 2).toNat + (s.svcArg 3).toNat * 2 ^ 64) = (r, ok) ∧ ok = true :=
  ⟨{ (holding0 (.svc 1 [])) with worlds := [(0, queued)] }, _, _, _, _,
   hasCall 1 _ _ rfl rfl (by decide +kernel), (by decide +kernel), (by decide +kernel), rfl,
   (by decide +kernel), (by decide +kernel), (by decide +kernel), rfl, (by decide +kernel)⟩

theorem witness_ServiceCallsAreAnswered_3_refused :
    ∃ (s u r : State) (v : Option Nat) (ok : Bool),
    let w := s.bind.world.toNat
    let k := match v with | some v => fieldAt v 0 36 35 | none => 0
    let q := SMap.get Subq.reset (u.world w).sq k
    Calls s 1 ∧ (s.svcArg 2).toNat < 2 ^ 57 ∧ (s.svcArg 3).toNat < 2 ^ 16 ∧ s.readVa w (s.svcArg 2).toNat 8 = (u, v) ∧
    4 ≤ q.log ∧ q.log ≤ 16 ∧ q.after q.tail ≠ q.head ∧
    u.writeVa w (q.va + 16 * q.tail.toNat) 16 ((s.svcArg 2).toNat + (s.svcArg 3).toNat * 2 ^ 64) = (r, ok) ∧ ok = false :=
  ⟨{ (holding0 (.svc 1 [])) with worlds := [(0, { queued with sq := [(0, ⟨2 ^ 25, 4, 0, 0⟩)] })] }, _, _, _, _,
   hasCall 1 _ _ rfl rfl (by decide +kernel), (by decide +kernel), (by decide +kernel), rfl,
   (by decide +kernel), (by decide +kernel), (by decide +kernel), rfl, (by decide +kernel)⟩

theorem witness_ServiceCallsAreAnswered_4 :
    ∃ (s : State),
    Calls s 2 :=
  ⟨holding0 (.svc 2 []), hasCall 2 _ _ rfl rfl (by decide +kernel)⟩

theorem witness_ServiceCallsAreAnswered_5 :
    ∃ (s : State) (n : Nat),
    3 ≤ n ∧ Calls s n :=
  ⟨holding0 (.svc 3 []), 3, (by decide +kernel), hasCall 3 _ _ rfl rfl (by decide +kernel)⟩

theorem witness_ServiceCallsAreAnswered_6 :
    ∃ (s : State) (st : Word) (r : Word),
    s.ctx.ctl.hold = .reply st r ∧ s.ctx.phase = .running ∧ s.ctx.ctl.due ≤ s.dcc.toNat :=
  ⟨holding0 (.reply 0 7), 0, 7, (by decide +kernel), (by decide +kernel), (by decide +kernel)⟩

theorem witness_GangsAreSubmittedBoundAndStarted_1_closed :
    ∃ (s : State) (port : Nat) (w : Nat) (k : Nat) (bell : Doorbell),
    let x := s.world w
    let q := SMap.get Subq.reset x.sq k
    s.rings port w = true ∧ s.dev.ready = true ∧ k < 4 ∧ w ≤ 191 ∧ bell.pos.toNat < 2 ^ q.log ∧ x.tdisp ≠ .error ∧
    ((q.log < 4 ∨ 16 < q.log ∨ x.isOpen = false ∨ x.closing = true)) :=
  ⟨{ base with worlds := [(0, { queued with tdisp := .run, isOpen := false })] }, 0, 0, 0, ⟨15, []⟩, (by decide +kernel),
   (by decide +kernel), (by decide +kernel), (by decide +kernel), (by decide +kernel), (by decide +kernel), (by decide +kernel)⟩

theorem witness_GangsAreSubmittedBoundAndStarted_1_draining :
    ∃ (s : State) (port : Nat) (w : Nat) (k : Nat) (bell : Doorbell),
    let x := s.world w
    let q := SMap.get Subq.reset x.sq k
    s.rings port w = true ∧ s.dev.ready = true ∧ k < 4 ∧ w ≤ 191 ∧ bell.pos.toNat < 2 ^ q.log ∧ x.tdisp ≠ .error ∧ 4 ≤ q.log ∧
    q.log ≤ 16 ∧ x.isOpen = true ∧ x.closing = false ∧ s.dev.fw.state = 2 :=
  ⟨{ base with worlds := [(0, queued)], dev := { base.dev with fw := { base.dev.fw with state := 2 } } }, 0, 0, 0, ⟨1, []⟩,
   (by decide +kernel), (by decide +kernel), (by decide +kernel), (by decide +kernel), (by decide +kernel), (by decide +kernel),
   (by decide +kernel), (by decide +kernel), (by decide +kernel), (by decide +kernel), (by decide +kernel)⟩

theorem witness_GangsAreSubmittedBoundAndStarted_1 :
    ∃ (s : State) (port : Nat) (w : Nat) (k : Nat) (bell : Doorbell),
    let x := s.world w
    let q := SMap.get Subq.reset x.sq k
    s.rings port w = true ∧ s.dev.ready = true ∧ k < 4 ∧ w ≤ 191 ∧ bell.pos.toNat < 2 ^ q.log ∧ x.tdisp ≠ .error ∧ 4 ≤ q.log ∧
    q.log ≤ 16 ∧ x.isOpen = true ∧ x.closing = false ∧ s.dev.fw.state ≠ 2 ∧ x.tdisp ≠ .locked :=
  ⟨{ base with worlds := [(0, queued)] }, 0, 0, 0, ⟨1, []⟩, (by decide +kernel), (by decide +kernel), (by decide +kernel),
   (by decide +kernel), (by decide +kernel), (by decide +kernel), (by decide +kernel), (by decide +kernel), (by decide +kernel),
   (by decide +kernel), (by decide +kernel), (by decide +kernel)⟩

theorem witness_GangsAreSubmittedBoundAndStarted_2 :
    ∃ (s : State) (port w : Nat),
    (s.rings port w = false ∨ s.dev.ready = false) :=
  ⟨base, 1, 0, (by decide +kernel)⟩

theorem witness_GangsAreSubmittedBoundAndStarted_3 :
    ∃ (s : State) (l : Launch) (p : List (Nat × Nat)),
    s.launches.find? (fun x => x.id = l.id) = some l ∧ s.anyOut (s.linkedSet l.gang.toNat) = false ∧
    s.mayPlace (s.linkedSet l.gang.toNat) = true ∧
    s.pendingOf (s.linkedSet l.gang.toNat) = [l] ∧ s.mintOk l = true ∧
    s.place l.r = some p ∧ (p.map (fun x => x.1)).Nodup :=
  ⟨pending launch1, launch1, _, (by decide +kernel), (by decide +kernel), (by decide +kernel), (by decide +kernel), (by decide +kernel),
   some_getD [] (by decide +kernel), (by decide +kernel)⟩

theorem witness_GangsAreSubmittedBoundAndStarted_4 :
    ∃ (s : State) (l : Launch),
    s.launches.find? (fun x => x.id = l.id) = some l ∧ s.anyOut (s.linkedSet l.gang.toNat) = false ∧
    s.mayPlace (s.linkedSet l.gang.toNat) = true ∧
    s.pendingOf (s.linkedSet l.gang.toNat) = [l] ∧ s.mintOk l = false :=
  ⟨pending { launch1 with r := { launch1.r with handles := [⟨0, 0, 0, 0, 0, 0, 0, 0⟩] } },
   { launch1 with r := { launch1.r with handles := [⟨0, 0, 0, 0, 0, 0, 0, 0⟩] } }, (by decide +kernel), (by decide +kernel),
   (by decide +kernel), (by decide +kernel), (by decide +kernel)⟩

theorem witness_GangsAreSubmittedBoundAndStarted_6 :
    ∃ (s : State) (u : State) (h : Handle) (l : List (Nat × Nat)),
    s.ctx.phase = .loading ∧ (s.ctxAt (otherSlot s.cur)).phase ≠ .saving ∧ s.ctx.img.stop.toNat + 2048 ≤ s.dcc.toNat ∧
    SMap.get none s.ctx.ctl.h 0 = some h ∧ s.resolveVa s.cur h.world.toNat h.base.toNat h.len.toNat false = .ok u l ∧
    u.badRun l = none ∧ ((∀ r ∈ l, r.1 + r.2 ≤ Config.cisternBase ∨ Config.hostBase ≤ r.1)) ∧
    (l.map (fun r => r.2)).sum = h.len.toNat ∧ h.len.toNat ≤ 2 ^ 18 ∧ s.bindRefused = false ∧ s.cur < 768 :=
  ⟨loading, _, _, _, (by decide +kernel), (by decide +kernel), (by decide +kernel),
   some_getD (cist .untyped 0 0) (by decide +kernel), acc_eq (by decide +kernel), (by decide +kernel),
   (by decide +kernel), (by decide +kernel), (by decide +kernel), (by decide +kernel), (by decide +kernel)⟩

theorem witness_GangsAreSubmittedBoundAndStarted_6_refused :
    ∃ (s : State) (g : Gang),
    s.ctx.phase = .loading ∧ (s.ctxAt (otherSlot s.cur)).phase ≠ .saving ∧ s.ctx.img.stop.toNat + 2048 ≤ s.dcc.toNat ∧
    s.bindRefused = true ∧ s.gang s.bind.gang.toNat = some g :=
  ⟨{ loading with binds := [(0, ⟨true, true, 0, 0, 1, 0, 0, 0, 0, 1, 128⟩)] }, gang1, (by decide +kernel), (by decide +kernel),
   (by decide +kernel), (by decide +kernel), (by decide +kernel)⟩

theorem witness_GangsAreSubmittedBoundAndStarted_7 :
    ∃ (s : State) (id : Nat) (g : Gang) (c : Word),
    s.gang id = some g ∧ g.startAt = some c ∧ c.toNat ≤ s.dcc.toNat ∧ (∀ k ∈ g.keys, (s.ctxAt k).phase = .ready) ∧
    g.refused = false ∧ s.anyOut (s.linkedSet id) = false ∧ g.halted = false :=
  ⟨ganged { gang1 with running := false, startAt := some 100 } .ready, 1,
   { gang1 with running := false, startAt := some 100 }, 100, (by decide +kernel), (by decide +kernel), (by decide +kernel), (by decide +kernel),
   (by decide +kernel), (by decide +kernel), (by decide +kernel)⟩

theorem witness_GangsAreSubmittedBoundAndStarted_7_halted :
    ∃ (s : State) (id : Nat) (g : Gang) (c : Word),
    s.gang id = some g ∧ g.startAt = some c ∧ c.toNat ≤ s.dcc.toNat ∧ (∀ k ∈ g.keys, (s.ctxAt k).phase = .ready) ∧
    g.refused = false ∧ s.anyOut (s.linkedSet id) = false ∧ g.halted = true :=
  ⟨ganged { gang1 with running := false, startAt := some 100, halted := true } .ready, 1,
   { gang1 with running := false, startAt := some 100, halted := true }, 100, (by decide +kernel), (by decide +kernel),
   (by decide +kernel), (by decide +kernel), (by decide +kernel), (by decide +kernel), (by decide +kernel)⟩

theorem witness_GangsAreSubmittedBoundAndStarted_8 :
    ∃ (s : State) (id : Nat) (team : Nat) (g : Gang) (c : Word),
    s.gang id = some g ∧ g.running = true ∧ (SMap.get Bar.reset g.bars team).leave = some c ∧ c.toNat ≤ s.dcc.toNat :=
  ⟨ganged { gang1 with bars := [(0, ⟨2, [0, 1], some 100⟩)] } .running, 1, 0,
   { gang1 with bars := [(0, ⟨2, [0, 1], some 100⟩)] }, 100, (by decide +kernel), (by decide +kernel),
   (by decide +kernel), (by decide +kernel)⟩

theorem witness_GangsStopResumeAndRetire_1 :
    ∃ (s : State) (id : Nat) (g : Gang),
    s.gang id = some g ∧ g.running = true ∧ g.trap = none ∧
    ((g.halted = true ∨ g.migrating = true ∨ s.wanted (s.linkedSet id) = true)) ∧ Unlinked s id :=
  ⟨ganged { gang1 with migrating := true } .running, 1, { gang1 with migrating := true }, (by decide +kernel),
   (by decide +kernel), (by decide +kernel), (by decide +kernel), (by
    unfold Unlinked
    decide +kernel)⟩

theorem witness_GangsStopResumeAndRetire_1_wanted :
    ∃ (s : State) (id : Nat) (g : Gang),
    s.gang id = some g ∧ g.running = true ∧ g.trap = none ∧
    ((g.halted = true ∨ g.migrating = true ∨ s.wanted (s.linkedSet id) = true)) ∧ Unlinked s id :=
  ⟨{ (ganged { gang1 with prio := 3, lastStart := 0 } .running) with dcc := 0x1000000, launches := [urgent] }, 1,
   { gang1 with prio := 3, lastStart := 0 }, (by decide +kernel), (by decide +kernel), (by decide +kernel), (by decide +kernel), (by
    unfold Unlinked
    decide +kernel)⟩

theorem witness_GangsStopResumeAndRetire_2 :
    ∃ (s : State),
    s.ctx.phase = .saving :=
  ⟨with0 base (fun c => { c with phase := .saving }), (by decide +kernel)⟩

theorem witness_GangsStopResumeAndRetire_3 :
    ∃ (s : State) (g : Gang),
    s.ctx.phase = .out ∧ s.gang s.bind.gang.toNat = some g ∧ g.preempted = true ∧
    s.mayRestore s.bind.gang.toNat = true ∧ Unlinked s s.bind.gang.toNat :=
  ⟨ganged { gang1 with running := false, preempted := true } .out, { gang1 with running := false, preempted := true },
   (by decide +kernel), (by decide +kernel), (by decide +kernel), (by decide +kernel), (by
    unfold Unlinked
    decide +kernel)⟩

theorem witness_GangsStopResumeAndRetire_4 :
    ∃ (s u : State) (g : Gang),
    s.ctx.phase = .restoring ∧ s.imageOf s.cur = some u ∧ s.gang s.bind.gang.toNat = some g ∧ g.preempted = true ∧
    Unlinked s s.bind.gang.toNat ∧ (∀ k ∈ g.keys, k ≠ s.cur → (s.ctxAt k).phase = .restored) :=
  ⟨imaged.reseal 0, _, { gang1 with running := false, preempted := true }, (by decide +kernel),
   some_getD base imaged_image, (by decide +kernel), (by decide +kernel), (by
    unfold Unlinked
    decide +kernel), (by decide +kernel)⟩

theorem witness_GangsStopResumeAndRetire_5 :
    ∃ (s : State) (g : Gang),
    s.ctx.phase = .restoring ∧ s.imageOf s.cur = none ∧ s.gang s.bind.gang.toNat = some g :=
  ⟨ganged { gang1 with running := false, preempted := true } .restoring, { gang1 with running := false, preempted := true },
   (by decide +kernel), Option.isNone_iff_eq_none.1 (by decide +kernel), (by decide +kernel)⟩

theorem witness_GangsStopResumeAndRetire_6 :
    ∃ (s : State) (id : Nat) (g : Gang) (c : Word),
    s.gang id = some g ∧ g.startAt = some c ∧ c.toNat ≤ s.dcc.toNat ∧ g.preempted = true ∧ g.halted = false ∧
    Unlinked s id ∧ g.keys.Nodup ∧
    (∀ k ∈ g.keys, let x := s.ctxAt k
      x.phase = .restored ∧ (x.ctl.due ≤ x.img.stop.toNat + 1 ∨ ∀ l, x.ctl.late = some l → l.load = none) ∧
      (∀ y ∈ x.fab.cmds, y.started = false ∨ (y.what ≠ .load ∧ y.what ≠ .get)) ∧
      ∀ e ∈ x.pump.tabs, e.2.g0.loading = none ∧ e.2.g1.loading = none) :=
  ⟨with0 (ganged { gang1 with running := false, preempted := true } .restored) (fun c => { c with ctl := { c.ctl with due := 150, late := some ⟨1, 5, 7, none⟩ } }), 1,
   { gang1 with running := false, preempted := true }, 0, (by decide +kernel), (by decide +kernel),
   (by decide +kernel), (by decide +kernel), (by decide +kernel), (by
    unfold Unlinked
    decide +kernel), (by decide +kernel), (by
    intro k hk
    have : k = 0 ∨ k = 2 := by (have h : k ∈ [0, 2] := hk); simpa using h
    rcases this with h | h <;> subst h
    · refine ⟨by decide +kernel, .inr (someAll (v := ⟨1, 5, 7, none⟩) (by decide +kernel) rfl), by decide +kernel, by decide +kernel⟩
    · exact ⟨by decide +kernel, .inl (by decide +kernel), by decide +kernel, by decide +kernel⟩)⟩

theorem witness_GangsStopResumeAndRetire_7 :
    ∃ (s : State) (g : Gang),
    s.ctx.phase = .running ∧ s.ctx.ctl.fetch = .halted ∧ s.ctx.lp.owed = 0 ∧ s.ctx.drained = true ∧
    s.ctx.idle = true ∧ s.ctx.pending = none ∧ s.gang s.bind.gang.toNat = some g ∧ s.bind.strand.toNat ∉ g.retired ∧
    (s.world g.world).g.prot = false ∧ s.partitionBusy s.cur = false ∧ g.retired.length + 1 < g.r.strands.length :=
  ⟨{ halted with worlds := [(0, { world0 with g := { world0.g with prot := false } })] }, gang1, (by decide +kernel), (by decide +kernel), (by decide +kernel), (by decide +kernel),
   (by decide +kernel), (by decide +kernel), (by decide +kernel), (by decide +kernel), (by decide +kernel), (by decide +kernel),
   (by decide +kernel)⟩

theorem witness_GangsStopResumeAndRetire_7_busy :
    ∃ (s : State) (g : Gang),
    s.ctx.phase = .running ∧ s.ctx.ctl.fetch = .halted ∧ s.ctx.lp.owed = 0 ∧ s.ctx.drained = true ∧
    s.ctx.idle = true ∧ s.ctx.pending = none ∧ s.gang s.bind.gang.toNat = some g ∧ s.bind.strand.toNat ∉ g.retired ∧
    (s.world g.world).g.prot = false ∧ s.partitionBusy s.cur = true :=
  ⟨{ halted with
      worlds := [(0, { world0 with g := { world0.g with prot := false } })]
      ctxs := [(0, halted.ctxAt 0), (2, { run0 with fl := [byteFl 0] })] }, gang1, (by decide +kernel), (by decide +kernel),
   (by decide +kernel), (by decide +kernel), (by decide +kernel), (by decide +kernel), (by decide +kernel), (by decide +kernel),
   (by decide +kernel), (by decide +kernel)⟩

theorem witness_GangsStopResumeAndRetire_7_last :
    ∃ (s : State) (g : Gang),
    s.ctx.phase = .running ∧ s.ctx.ctl.fetch = .halted ∧ s.ctx.lp.owed = 0 ∧ s.ctx.drained = true ∧
    s.ctx.idle = true ∧ s.ctx.pending = none ∧ s.gang s.bind.gang.toNat = some g ∧ s.bind.strand.toNat ∉ g.retired ∧
    (s.world g.world).g.prot = true ∧ g.r.strands.length ≤ g.retired.length + 1 :=
  ⟨{ halted with
      gangs := [(1, some { gang1 with retired := [1] })], worlds := [(0, { world0 with g := { world0.g with prot := true } })] },
   { gang1 with retired := [1] },
   (by decide +kernel), (by decide +kernel), (by decide +kernel), (by decide +kernel), (by decide +kernel),
   (by decide +kernel), (by decide +kernel), (by decide +kernel), (by decide +kernel), (by decide +kernel)⟩

theorem witness_GangsStopResumeAndRetire_8 :
    ∃ (s : State) (id : Nat) (g : Gang) (code : BitVec 8) (strand : Nat),
    s.gang id = some g ∧ g.trap = some (code, strand) ∧ (∀ k ∈ g.keys, (s.ctxAt k).still = true) ∧
    s.exchangesGoOn id g = false :=
  ⟨ganged { gang1 with trap := some (tBOUNDS, 0) } .running, 1, { gang1 with trap := some (tBOUNDS, 0) }, tBOUNDS, 0,
   (by decide +kernel), (by decide +kernel), (by decide +kernel), (by decide +kernel)⟩

theorem witness_GangsStopResumeAndRetire_9 :
    ∃ (s u : State) (w : Nat) (e : Cqe) (r : List Cqe) (ok : Bool),
    let x := s.world w
    let q := x.cq
    x.kept = e :: r ∧ 4 ≤ q.log ∧ q.log ≤ 16 ∧ q.after q.tail ≠ q.head ∧ x.cqWait = false ∧
    s.writeVa w (q.va + 16 * q.tail.toNat) 16 (e.w0.toNat + (if x.phase then 2 ^ 63 else 0) + (e.w1.toNat + s.dcc.toNat % 2 ^ 32 * 2 ^ 32) * 2 ^ 64) = (u, ok) ∧
    ok = true :=
  ⟨{ base with worlds := [(0, queued)] }, _, 0, ⟨0, 0⟩, [], _, (by decide +kernel), (by decide +kernel),
   (by decide +kernel), (by decide +kernel), (by decide +kernel), rfl, (by decide +kernel)⟩

theorem witness_GangsStopResumeAndRetire_9_refused :
    ∃ (s u : State) (w : Nat) (e : Cqe) (r : List Cqe) (ok : Bool),
    let x := s.world w
    let q := x.cq
    x.kept = e :: r ∧ 4 ≤ q.log ∧ q.log ≤ 16 ∧ q.after q.tail ≠ q.head ∧ x.cqWait = false ∧
    s.writeVa w (q.va + 16 * q.tail.toNat) 16 (e.w0.toNat + (if x.phase then 2 ^ 63 else 0) + (e.w1.toNat + s.dcc.toNat % 2 ^ 32 * 2 ^ 32) * 2 ^ 64) = (u, ok) ∧
    ok = false :=
  ⟨{ base with worlds := [(0, { queued with cq := ⟨2 ^ 25, 4, 0, 0⟩ })] }, _, 0, ⟨0, 0⟩, [], _, (by decide +kernel), (by decide +kernel),
   (by decide +kernel), (by decide +kernel), (by decide +kernel), rfl, (by decide +kernel)⟩

theorem witness_GangsStopResumeAndRetire_10 :
    ∃ (s : State) (w : Nat) (pos : BitVec 16),
    s.dev.ready = true ∧ w ≤ 191 ∧ pos.toNat < 2 ^ (s.world w).cq.log :=
  ⟨{ base with worlds := [(0, queued)] }, 0, 15, (by decide +kernel), (by decide +kernel), (by decide +kernel)⟩

/-- A context that has begun to depart at cycle 100. -/
def departs0 (dcc : Word) (prot : Bool) (f : List Flight) : State :=
  { base with
    dcc := dcc, worlds := [(0, { world0 with g := { world0.g with prot := prot } })]
    ctxs := [(0, { run0 with phase := .departing, img := { run0.img with stop := 100 } }), (2, { run0 with fl := f })] }

theorem witness_GangsStopResumeAndRetire_11 :
    ∃ (s : State),
    s.ctx.phase = .departing ∧ (s.world s.bind.world.toNat).g.prot = true ∧
    ¬ s.ctx.img.stop.toNat + scrubCycles s.bind.psize ≤ s.dcc.toNat ∧
    (s.ctx.img.stop.toNat + cSCRUB5 ≤ s.dcc.toNat → s.partitionBusy s.cur = false) :=
  ⟨departs0 100 true [], (by decide +kernel), (by decide +kernel), (by decide +kernel), (by decide +kernel)⟩

theorem witness_GangsStopResumeAndRetire_11_scrub :
    ∃ (s : State),
    s.ctx.phase = .departing ∧ (s.world s.bind.world.toNat).g.prot = true ∧
    ¬ s.ctx.img.stop.toNat + scrubCycles s.bind.psize ≤ s.dcc.toNat ∧ s.ctx.img.stop.toNat + cSCRUB5 ≤ s.dcc.toNat ∧
    s.partitionBusy s.cur = false :=
  ⟨departs0 (100 + BitVec.ofNat 64 cSCRUB5) true [], (by decide +kernel), (by decide +kernel), (by decide +kernel),
   (by decide +kernel), (by decide +kernel)⟩

theorem witness_GangsStopResumeAndRetire_11_busy :
    ∃ (s : State),
    s.ctx.phase = .departing ∧ (s.world s.bind.world.toNat).g.prot = true ∧ s.ctx.img.stop.toNat + cSCRUB5 ≤ s.dcc.toNat ∧
    s.partitionBusy s.cur = true :=
  ⟨departs0 (100 + BitVec.ofNat 64 cSCRUB5) true [byteFl 0], (by decide +kernel), (by decide +kernel), (by decide +kernel),
   (by decide +kernel)⟩

theorem witness_GangsStopResumeAndRetire_11_done :
    ∃ (s : State),
    s.ctx.phase = .departing ∧ (s.world s.bind.world.toNat).g.prot = true ∧
    s.ctx.img.stop.toNat + scrubCycles s.bind.psize ≤ s.dcc.toNat ∧ s.partitionBusy s.cur = false :=
  ⟨departs0 (100 + BitVec.ofNat 64 (scrubCycles 128)) true [], (by decide +kernel), (by decide +kernel), (by decide +kernel),
   (by decide +kernel)⟩

theorem witness_GangsStopResumeAndRetire_11_open :
    ∃ (s : State),
    s.ctx.phase = .departing ∧ (s.world s.bind.world.toNat).g.prot = false ∧ s.partitionBusy s.cur = false :=
  ⟨departs0 100 false [], (by decide +kernel), (by decide +kernel), (by decide +kernel)⟩

theorem witness_GangsStopResumeAndRetire_11_waits :
    ∃ (s : State),
    s.ctx.phase = .departing ∧ (s.world s.bind.world.toNat).g.prot = false ∧ s.partitionBusy s.cur = true :=
  ⟨departs0 100 false [byteFl 0], (by decide +kernel), (by decide +kernel), (by decide +kernel)⟩

theorem witness_GangsStopResumeAndRetire_12 :
    ∃ (s : State) (w : Nat) (id : BitVec 16) (g : Gang),
    s.gang id.toNat = some g ∧ g.world = w ∧ g.running = true ∧ g.preempted = false ∧ g.trap = none ∧ Unlinked s id.toNat :=
  ⟨base, 0, 1, gang1, (by decide +kernel), (by decide +kernel), (by decide +kernel), (by decide +kernel), (by decide +kernel), (by
    unfold Unlinked
    decide +kernel)⟩

theorem witness_GangsStopResumeAndRetire_12_starting :
    ∃ (s : State) (w : Nat) (id : BitVec 16) (g : Gang),
    s.gang id.toNat = some g ∧ g.world = w ∧ g.running = false ∧ g.preempted = false ∧ Unlinked s id.toNat :=
  ⟨ganged { gang1 with running := false } .ready, 0, 1, { gang1 with running := false }, (by decide +kernel),
   (by decide +kernel), (by decide +kernel), (by decide +kernel), (by
    unfold Unlinked
    decide +kernel)⟩

theorem witness_GangsStopResumeAndRetire_12_out :
    ∃ (s : State) (w : Nat) (id : BitVec 16) (g : Gang),
    s.gang id.toNat = some g ∧ g.world = w ∧ g.running = false ∧ g.preempted = true ∧ Unlinked s id.toNat ∧
    Unlinked (s.unrestore id.toNat) id.toNat :=
  ⟨ganged { gang1 with running := false, preempted := true } .restored, 0, 1, { gang1 with running := false, preempted := true },
   (by decide +kernel), (by decide +kernel), (by decide +kernel), (by decide +kernel), (by
    unfold Unlinked
    decide +kernel), (by
    unfold Unlinked
    decide +kernel)⟩

theorem witness_TranslationsAreCachedDroppedAndRetried_1 :
    ∃ (s : State) (w : Nat) (va : BitVec 57) (e : Tlb),
    s.lookup w va.toNat = .leaf e :=
  ⟨base, 0, 0x1234, ⟨0, 2 ^ 25, 0, false, false, false, 0, 0, []⟩, rfl⟩

theorem witness_TranslationsAreCachedDroppedAndRetried_2 :
    ∃ (s : State) (w : Nat) (va : BitVec 57) (l : Nat) (r : Nat) (line : Option Nat),
    s.lookup w va.toNat = .fault l r line ∧ line = none :=
  ⟨base, 0, 2 ^ 25, _, _, _, fault_eq (x := base.lookup 0 (2 ^ 25)) (by decide +kernel), (by decide +kernel)⟩

theorem witness_TranslationsAreCachedDroppedAndRetried_2_line :
    ∃ (s : State) (w : Nat) (va : BitVec 57) (l : Nat) (r : Nat) (line : Option Nat) (ln : Nat),
    s.lookup w va.toNat = .fault l r line ∧ line = some ln :=
  ⟨{ base with badLines := [(0, true)] }, 0, 2 ^ 25, _, _, _, _,
   fault_eq (x := State.lookup { base with badLines := [(0, true)] } 0 (2 ^ 25)) (by decide +kernel), some_getD 0 (by decide +kernel)⟩

theorem witness_TranslationsAreCachedDroppedAndRetried_2_refused :
    ∃ (s : State) (w : Nat) (va : BitVec 57),
    s.lookup w va.toNat = .refused :=
  ⟨{ base with worlds := [(0, { world0 with x := { world0.x with root := 2 ^ 30 } })] }, 0, 2 ^ 25, rfl⟩

theorem witness_TranslationsAreCachedDroppedAndRetried_3 :
    ∃ (s : State) (w : Nat),
    s.dev.ready = true ∧ w ≤ 191 :=
  ⟨base, 191, (by decide +kernel), (by decide +kernel)⟩

theorem witness_TranslationsAreCachedDroppedAndRetried_4_all :
    ∃ (s : State) (w : Nat) (lo : Nat) (hi : Nat) (a : Nat),
    (s.world w).x.inv = some (lo, hi) ∧ (∀ e ∈ s.ctxs, e.2.translated w lo hi = false) ∧ lo = 0 ∧ hi = 2 ^ 57 ∧
    s.regionWorld (8 * a) = some w :=
  ⟨{ base with worlds := [(0, { world0 with x := { world0.x with inv := some (0, 2 ^ 57) } })] }, 0, 0, 2 ^ 57, 512,
   (by decide +kernel), (by decide +kernel), (by decide +kernel), (by decide +kernel), (by decide +kernel)⟩

theorem witness_TranslationsAreCachedDroppedAndRetried_4 :
    ∃ (s : State) (w : Nat) (lo : Nat) (hi : Nat),
    (s.world w).x.inv = some (lo, hi) ∧ (∀ e ∈ s.ctxs, e.2.translated w lo hi = false) :=
  ⟨{ base with worlds := [(0, { world0 with x := { world0.x with inv := some (0, 4096) } })] }, 0, 0, 4096,
   (by decide +kernel), (by decide +kernel)⟩

theorem witness_TranslationsAreCachedDroppedAndRetried_5 :
    ∃ (s : State) (age : Nat) (f : Flight),
    s.ctx.fl.find? (fun f => f.age = age ∧ f.stale) = some f ∧ (s.resolveSegs f.world.toNat f.wait).toBool = true :=
  ⟨with0 base (fun c => { c with fl := [{ byteFl 0 with stale := true, wait := [⟨64, 8, 5⟩] }] }), 3,
   { byteFl 0 with stale := true, wait := [⟨64, 8, 5⟩] }, (by decide +kernel), (by decide +kernel)⟩

theorem witness_TranslationsAreCachedDroppedAndRetried_6 :
    ∃ (s : State) (n : Nat) (p : Parked),
    s.ctx.rq[n]? = some p ∧ s.ctx.phase = .running ∧ p.covered = true ∧ p.tried = false ∧
    ((∀ o ∈ s.ctx.rq.take n, o.world = p.world → ∀ g ∈ pagesOfSegs o.segs, g ∉ pagesOfSegs p.segs)) ∧
    (s.resolveSegs p.world.toNat p.segs).toBool = true ∧ p.atom = none :=
  ⟨with0 base (fun c => { c with rq := [⟨6, 3, none, 0, [⟨64, 8, 5⟩], none, true, 0, 0, 0, 0, false⟩] }), 0,
   ⟨6, 3, none, 0, [⟨64, 8, 5⟩], none, true, 0, 0, 0, 0, false⟩, (by decide +kernel), (by decide +kernel), (by decide +kernel),
   (by decide +kernel), (by decide +kernel), (by decide +kernel), (by decide +kernel)⟩

theorem witness_TranslationsAreCachedDroppedAndRetried_6_fault :
    ∃ (s u : State) (n va : Nat) (p : Parked),
    s.ctx.rq[n]? = some p ∧ s.ctx.phase = .running ∧ p.covered = true ∧ p.tried = false ∧
    ((∀ o ∈ s.ctx.rq.take n, o.world = p.world → ∀ g ∈ pagesOfSegs o.segs, g ∉ pagesOfSegs p.segs)) ∧
    s.resolveSegs p.world.toNat p.segs = .error (.page u va) :=
  let s := with0 base (fun c => { c with rq := [⟨6, 3, none, 0, [⟨2 ^ 25, 8, 5⟩], none, true, 0, 0, 0, 0, false⟩] })
  ⟨s, pageSt (accOf (s.resolveSegs 0 [⟨2 ^ 25, 8, 5⟩])), 0, accVa (accOf (s.resolveSegs 0 [⟨2 ^ 25, 8, 5⟩])),
   ⟨6, 3, none, 0, [⟨2 ^ 25, 8, 5⟩], none, true, 0, 0, 0, 0, false⟩, (by decide +kernel), (by decide +kernel), (by decide +kernel),
   (by decide +kernel), (by decide +kernel), many_page (x := s.resolveSegs 0 [⟨2 ^ 25, 8, 5⟩]) (by decide +kernel)⟩

theorem witness_TranslationsAreCachedDroppedAndRetried_7 :
    ∃ (s : State),
    s.dev.ready = true :=
  ⟨base, (by decide +kernel)⟩

theorem witness_TranslationsAreCachedDroppedAndRetried_8 :
    ∃ (s : State),
    s.dev.ready = false :=
  ⟨{ base with dev := { base.dev with ready := false } }, (by decide +kernel)⟩

theorem witness_PumpCommandsStartAndEnd_1 :
    ∃ (s : State) (age : Nat) (x : PCmd) (e : BitVec 6) (a : BitVec 5) (b : BitVec 5) (dp : BitVec 3),
    Due s age x ∧ x.cap.instr = .pevent e a b dp ∧ (s.target (x.cap.sc b)).isSome = true :=
  ⟨withPump (base) (fun p => { p with buf := [pcmd (.pevent 1 0 0 0)] }), 3, pcmd (.pevent 1 0 0 0), 1, 0, 0, 0, (by
    unfold Due
    decide +kernel),
   (by decide +kernel), (by decide +kernel)⟩

theorem witness_PumpCommandsStartAndEnd_2 :
    ∃ (s : State) (u : State) (age : Nat) (x : PCmd) (o : POp) (h : Handle) (wr : List (Nat × Nat)),
    Due s age x ∧ x.cap.instr = .pfill o ∧ s.anyRevoked x.cap = false ∧ (s.pgeo x.cap).hd = some (some h) ∧
    s.resolveRowsAt h (s.pgeo x.cap).od.toNat (s.pgeo x.cap).pd (s.pgeo x.cap).n true 1 = .ok u wr ∧
    s.ctx.pump.overlapped s.dcc.toNat [] wr = false ∧
    (s.channels x.cap (s.pgeo x.cap) s.dcc.toNat).all (fun e => chanFree s.chans e.1 e.2) = true :=
  ⟨withPump (base) (fun p => { p with buf := [pcmd (.pfill pOne)] }), _, 3, pcmd (.pfill pOne), pOne,
   cist .untyped 0 0x40000, _, (by
    unfold Due
    decide +kernel), (by decide +kernel), (by decide +kernel),
   (by decide +kernel), acc_eq (by decide +kernel), (by decide +kernel), (by decide +kernel)⟩

theorem witness_PumpCommandsStartAndEnd_3 :
    ∃ (s : State) (age : Nat) (x : PCmd),
    Due s age x ∧ s.anyRevoked x.cap = true ∧ x.cap.time.toNat ≤ s.dcc.toNat ∧
    (∀ e a b dp, x.cap.instr ≠ .pevent e a b dp) :=
  ⟨
   withPump ({ base with worlds := [(0, { world0 with g := { world0.g with gmin := 2 } })] }) (fun p => { p with buf := [pcmd (.pfill pOne)] }),
   3, pcmd (.pfill pOne), (by
    unfold Due
    decide +kernel), (by decide +kernel), (by decide +kernel),
   (by intro e a b d h; cases h)⟩

theorem witness_PumpCommandsStartAndEnd_4 :
    ∃ (s : State) (age : Nat) (x : PCmd),
    s.ctx.pump.fly.find? (fun y => y.cap.age = age) = some x ∧ x.win = false ∧
    (∀ o, x.cap.instr ≠ .ptagset o ∧ x.cap.instr ≠ .ptagchk o) ∧
    (if (x.cap.pgeo id).be then x.start.toNat < s.dcc.toNat
      else x.fin.toNat ≤ s.dcc.toNat + (s.ptime x.cap (x.cap.pgeo id)).1) :=
  ⟨withPump base (fun p => { p with fly := [pcmd (.pfill pOne)] }), 3, pcmd (.pfill pOne), (by decide +kernel),
   (by decide +kernel), (by intro o; exact ⟨nofun, nofun⟩), (by decide +kernel)⟩

theorem witness_PumpCommandsStartAndEnd_4_be :
    ∃ (s : State) (age : Nat) (x : PCmd),
    s.ctx.pump.fly.find? (fun y => y.cap.age = age) = some x ∧ x.win = false ∧
    (∀ o, x.cap.instr ≠ .ptagset o ∧ x.cap.instr ≠ .ptagchk o) ∧ (x.cap.pgeo id).be = true ∧
    (if (x.cap.pgeo id).be then x.start.toNat < s.dcc.toNat
      else x.fin.toNat ≤ s.dcc.toNat + (s.ptime x.cap (x.cap.pgeo id)).1) :=
  ⟨withPump base (fun p => { p with fly := [pcmd (.pcopy true pOne)] }), 3, pcmd (.pcopy true pOne), (by decide +kernel),
   (by decide +kernel), (by intro o; exact ⟨nofun, nofun⟩), (by decide +kernel), (by decide +kernel)⟩

theorem witness_PumpCommandsStartAndEnd_5 :
    ∃ (s : State) (age : Nat) (x : PCmd) (o : POp) (rows : Nat),
    s.ctx.pump.fly.find? (fun y => y.cap.age = age) = some x ∧ pop? x.cap.instr = some (o, rows, false) ∧
    (∀ q, x.cap.instr ≠ .ptagchk q) ∧ s.dev.reqs.any (fun r => r.key = some s.cur ∧ r.src = 2 ∧ r.age = age) = false ∧
    x.fin.toNat ≤ s.dcc.toNat ∧ x.wait = false ∧ x.bad = none :=
  ⟨withPump base (fun p => { p with fly := [pcmd (.pfill pOne)] }), 3, pcmd (.pfill pOne), pOne, 1,
   (by decide +kernel), (by decide +kernel), (by intro q; exact nofun), (by decide +kernel), (by decide +kernel),
   (by decide +kernel), (by decide +kernel)⟩

theorem witness_PumpCommandsStartAndEnd_5_waits :
    ∃ (s : State) (age : Nat) (x : PCmd),
    s.ctx.pump.fly.find? (fun y => y.cap.age = age) = some x ∧ (∀ q, x.cap.instr ≠ .ptagchk q) ∧
    s.dev.reqs.any (fun r => r.key = some s.cur ∧ r.src = 2 ∧ r.age = age) = true :=
  ⟨withDev (withPump base (fun p => { p with fly := [pcmd (.pfill pOne)] })) (fun d => { d with reqs := [req0] }), 3,
   pcmd (.pfill pOne), (by decide +kernel), (by intro q; exact nofun), (by decide +kernel)⟩

theorem witness_PumpCommandsStartAndEnd_6 :
    ∃ (s : State) (n : BitVec 4) (c : Word),
    let slot := SMap.get Tab.reset s.ctx.pump.tabs n.toNat
    let x := slot.gen (!slot.cur)
    s.ctx.resident = true ∧ x.loading = some c ∧ c.toNat ≤ s.dcc.toNat :=
  ⟨withPump base (fun p => { p with tabs := [(0, ⟨tgen, { tgen with loading := some 50 }, false⟩)] }), 0, 50,
   (by decide +kernel), (by decide +kernel), (by decide +kernel)⟩

theorem witness_PumpCommandsStartAndEnd_7 :
    ∃ (s : State) (c : BitVec 4) (e : Nat × Word × Bool),
    s.ctx.pump.cancels.find? (fun e => e.1 = c.toNat ∧ e.2.1.toNat ≤ s.dcc.toNat) = some e :=
  ⟨withPump base (fun p => { p with cancels := [(2, 50, true)] }), 2, (2, 50, true), (by decide +kernel)⟩

theorem witness_LayersAreExchanged_1 :
    ∃ (s : State) (g : BitVec 4) (face : Face) (r : Grid) (d : Nat) (gang : Nat) (strand : Nat),
    let f := faceNum face
    s.grid g = some r ∧ s.ctx.phase = .running ∧ r.phase = f / 2 + 1 ∧ f < 2 * r.dims ∧ r.sent.getLsbD f = false ∧
    r.issued.toNat + 2 ≤ s.dcc.toNat ∧ (((r.face f).rule = none ∨ (r.face f).rule = some .periodic)) ∧
    s.partner (r.face f) = some (d, gang, strand) ∧ s.accepted (d, gang, strand) g r.tag = true ∧ d = s.dev.num.toNat :=
  ⟨met, 1, .xm, meeting, _, _, _, (by decide +kernel), (by decide +kernel), (by decide +kernel), (by decide +kernel), (by decide +kernel),
   (by decide +kernel), (by decide +kernel), some_getD (0, 0, 0) (by decide +kernel), (by decide +kernel), (by decide +kernel)⟩

/-- Whether a partner on another device has begun its exchange is a free value: with it the layer goes or waits. -/
theorem witness_LayersAreExchanged_1_device :
    ∃ (s : State) (g : BitVec 4) (face : Face) (r : Grid) (d : Nat) (gang : Nat) (strand : Nat),
    let f := faceNum face
    s.grid g = some r ∧ s.ctx.phase = .running ∧ r.phase = f / 2 + 1 ∧ f < 2 * r.dims ∧ r.sent.getLsbD f = false ∧
    r.issued.toNat + 2 ≤ s.dcc.toNat ∧ (((r.face f).rule = none ∨ (r.face f).rule = some .periodic)) ∧
    s.partner (r.face f) = some (d, gang, strand) ∧ d ≠ s.dev.num.toNat :=
  ⟨gridded abroad, 1, .xm, abroad, _, _, _, (by decide +kernel), (by decide +kernel), (by decide +kernel), (by decide +kernel), (by decide +kernel),
   (by decide +kernel), (by decide +kernel), some_getD (0, 0, 0) (by decide +kernel), (by decide +kernel)⟩

theorem witness_LayersAreExchanged_1_waits :
    ∃ (s : State) (g : BitVec 4) (face : Face) (r : Grid) (p : Nat × Nat × Nat),
    let f := faceNum face
    s.grid g = some r ∧ s.ctx.phase = .running ∧ r.phase = f / 2 + 1 ∧ f < 2 * r.dims ∧ r.sent.getLsbD f = false ∧
    r.issued.toNat + 2 ≤ s.dcc.toNat ∧ (((r.face f).rule = none ∨ (r.face f).rule = some .periodic)) ∧
    s.partner (r.face f) = some p ∧ s.accepted p g r.tag = false :=
  ⟨gridded meeting, 1, .xm, meeting, _, (by decide +kernel), (by decide +kernel), (by decide +kernel), (by decide +kernel), (by decide +kernel),
   (by decide +kernel), (by decide +kernel), some_getD (0, 0, 0) (by decide +kernel), (by decide +kernel)⟩

theorem witness_LayersAreExchanged_1_ruled :
    ∃ (s : State) (g : BitVec 4) (face : Face) (r : Grid) (rule : Rule),
    let f := faceNum face
    s.grid g = some r ∧ s.ctx.phase = .running ∧ r.phase = f / 2 + 1 ∧ f < 2 * r.dims ∧ r.sent.getLsbD f = false ∧
    r.issued.toNat + 2 ≤ s.dcc.toNat ∧ (r.face f).rule = some rule ∧ rule ≠ .fixed ∧ rule ≠ .periodic :=
  ⟨gridded { meeting with faces := [(0, { FaceSt.none with rule := some .zero })] }, 1, .xm,
   { meeting with faces := [(0, { FaceSt.none with rule := some .zero })] }, .zero, (by decide +kernel), (by decide +kernel),
   (by decide +kernel), (by decide +kernel), (by decide +kernel), (by decide +kernel), (by decide +kernel), (by decide +kernel),
   (by decide +kernel)⟩

theorem witness_LayersAreExchanged_1_world :
    ∃ (s : State) (l : LayerMsg) (k : Nat),
    l.srcDev ≠ s.dev.num ∧ s.keyOf l.gang l.strand = some k ∧ l.world ≠ (s.bindAt k).world :=
  ⟨gridded grid0, { layer0 with srcDev := 1, world := 1 }, 0, (by decide +kernel), (by decide +kernel), (by decide +kernel)⟩

theorem witness_LayersAreExchanged_2 :
    ∃ (s : State) (l : LayerMsg) (k : Nat) (r : Grid),
    ((l.srcDev = s.dev.num → l ∈ s.layers ∧ l.due ≤ s.dcc.toNat)) ∧ s.keyOf l.gang l.strand = some k ∧
    ((l.srcDev ≠ s.dev.num → l.world = (s.bindAt k).world)) ∧
    (s.ctxAt k).grid l.g.toNat = some r ∧ r.began l.step = true ∧ s.live (some r.hd) = some r.hd :=
  ⟨{ (gridded grid0) with layers := [layer0] }, layer0, 0, grid0, (by decide +kernel), (by decide +kernel),
   (by decide +kernel), (by decide +kernel), (by decide +kernel), (by decide +kernel)⟩

theorem witness_LayersAreExchanged_3 :
    ∃ (s : State) (g : BitVec 4) (r : Grid),
    s.grid g = some r ∧ s.ctx.phase = .running ∧ r.phase ≠ 0 ∧ r.phase < r.dims ∧ r.holds (2 * r.phase - 2) = true ∧
    r.holds (2 * r.phase - 1) = true :=
  ⟨gridded { grid0 with dims := 2, phase := 1 }, 1, { grid0 with dims := 2, phase := 1 }, (by decide +kernel), (by decide +kernel),
   (by decide +kernel), (by decide +kernel), (by decide +kernel), (by decide +kernel)⟩

theorem witness_LayersAreExchanged_4 :
    ∃ (s : State) (g : BitVec 4) (r : Grid),
    s.grid g = some r ∧ s.ctx.phase = .running ∧ r.phase = r.dims ∧ r.phase ≠ 0 ∧ (∀ f ∈ r.used, r.holds f = true ∧ r.read.getLsbD f = true) :=
  ⟨gridded { grid0 with phase := 1, read := 3 }, 1, { grid0 with phase := 1, read := 3 }, (by decide +kernel), (by decide +kernel),
   (by decide +kernel), (by decide +kernel), (by decide +kernel)⟩

theorem witness_LayersAreExchanged_5 :
    ∃ (s : State) (g : BitVec 4) (a : BitVec 5) (e : BitVec 6) (dp : BitVec 3) (c : Cap) (b : Bool) (r : Grid),
    (s.eng .halo).head = some (c, b) ∧ c.instr = .gwait g a e dp ∧ (s.eng .halo).frozen = false ∧
    (s.eng .halo).pushes = [] ∧ s.grid g = some r ∧ r.check ((c.sc a).setWidth 32) r.used = .ready ∧
    s.ctx.vec.bankCheck c.instr = none ∧ (s.eng .halo).latched = false :=
  ⟨withEng (gridded grid0) .halo (fun x => { x with q := [.instr waitCap true] }), 1, 0, 4, 0, waitCap, false, grid0,
   (by decide +kernel), (by decide +kernel), (by decide +kernel), (by decide +kernel), (by decide +kernel),
   (by decide +kernel), (by decide +kernel), (by decide +kernel)⟩

theorem witness_LayersAreExchanged_6 :
    ∃ (s : State) (g : BitVec 4) (f : Nat) (a : BitVec 5) (e : BitVec 6) (dp : BitVec 3) (c : Cap) (b : Bool) (r : Grid),
    (s.eng .halo).head = some (c, b) ∧ c.instr = .gwait g a e dp ∧ (s.eng .halo).stall = .halo g f ∧
    s.grid g = some r ∧ s.ctx.csr.hstall.toNat ≠ 0 ∧ s.ctx.csr.hstall.toNat ≤ (s.eng .halo).stalled ∧
    (s.eng .halo).latched = false ∧ (s.eng .halo).pend = none :=
  ⟨
   withEng (with0 (gridded grid0) (fun c => { c with csr := { c.csr with hstall := 50 } })) .halo (fun x => { x with q := [.instr waitCap true], stall := .halo 1 0, stalled := 50 }),
   1, 0, 0, 4, 0, waitCap, false, grid0, (by decide +kernel), (by decide +kernel), (by decide +kernel),
   (by decide +kernel), (by decide +kernel), (by decide +kernel), (by decide +kernel), (by decide +kernel)⟩

theorem witness_LayersAreExchanged_2_agrees :
    ∃ (s : State) (l : LayerMsg) (k : Nat) (r : Grid),
    ((l.srcDev = s.dev.num → l ∈ s.layers ∧ l.due ≤ s.dcc.toNat)) ∧ s.keyOf l.gang l.strand = some k ∧
    ((l.srcDev ≠ s.dev.num → l.world = (s.bindAt k).world)) ∧
    (s.ctxAt k).grid l.g.toNat = some r ∧ r.began l.step = true ∧ s.live (some r.hd) = some r.hd ∧
    Agrees s k r l :=
  ⟨{ (gridded { grid0 with faces := [(0, { FaceSt.none with rule := some .periodic })] }) with layers := [layer0] },
   layer0, 0, { grid0 with faces := [(0, { FaceSt.none with rule := some .periodic })] }, (by decide +kernel),
   (by decide +kernel), (by decide +kernel), (by decide +kernel), (by decide +kernel), (by decide +kernel), (by
    unfold Agrees
    decide +kernel)⟩

theorem witness_MessagesTakeEffectAtTheirPeer_1 :
    ∃ (s : State) (u : State) (m : Msg) (j : Nat) (h : Handle) (runs : List (List (Nat × Nat))),
    AtPeer s m j ∧ m.op = .write ∧ s.exported j m = .ok h ∧
    (without s m).msgRuns (s.payer j m) h m true = .ok (u, runs) :=
  ⟨sentTo peered (msg0 (.write) [(0, 4, 7)]),
   (manySt ((without (sentTo peered (msg0 (.write) [(0, 4, 7)])) (msg0 (.write) [(0, 4, 7)])).msgRuns ((sentTo peered (msg0 (.write) [(0, 4, 7)])).payer 2 (msg0 (.write) [(0, 4, 7)])) (hbm .untyped 0 0x10000) (msg0 (.write) [(0, 4, 7)]) true)).1,
   msg0 (.write) [(0, 4, 7)], 2, hbm .untyped 0 0x10000,
   (manySt ((without (sentTo peered (msg0 (.write) [(0, 4, 7)])) (msg0 (.write) [(0, 4, 7)])).msgRuns ((sentTo peered (msg0 (.write) [(0, 4, 7)])).payer 2 (msg0 (.write) [(0, 4, 7)])) (hbm .untyped 0 0x10000) (msg0 (.write) [(0, 4, 7)]) true)).2,
   (by
    unfold AtPeer
    decide +kernel), (by decide +kernel), rfl, msg_ok (by decide +kernel)⟩

theorem witness_MessagesTakeEffectAtTheirPeer_2 :
    ∃ (s : State) (u : State) (m : Msg) (j : Nat) (h : Handle) (runs : List (List (Nat × Nat))) (cas : Bool) (dw : Bool) (op : AOp) (b : Word) (c : Word),
    AtPeer s m j ∧ m.op = .atomic cas dw op b c ∧ s.exported j m = .ok h ∧
    (s.ctxAt (s.payer j m)).overParked h m.off.toNat (msgSpan m) = false ∧
    (without s m).msgRuns (s.payer j m) h m true = .ok (u, runs) ∧ u.badRun runs.flatten = none ∧
    (atomWrites ⟨0, false, cas, dw, op, b, c⟩ (readRuns u.mem runs.flatten)).isSome = true :=
  ⟨sentTo peered (msg0 (.atomic false false .add 1 1) [(0, 4, 0)]),
   (manySt ((without (sentTo peered (msg0 (.atomic false false .add 1 1) [(0, 4, 0)])) (msg0 (.atomic false false .add 1 1) [(0, 4, 0)])).msgRuns ((sentTo peered (msg0 (.atomic false false .add 1 1) [(0, 4, 0)])).payer 2 (msg0 (.atomic false false .add 1 1) [(0, 4, 0)])) (hbm .untyped 0 0x10000) (msg0 (.atomic false false .add 1 1) [(0, 4, 0)]) true)).1,
   msg0 (.atomic false false .add 1 1) [(0, 4, 0)], 2, hbm .untyped 0 0x10000,
   (manySt ((without (sentTo peered (msg0 (.atomic false false .add 1 1) [(0, 4, 0)])) (msg0 (.atomic false false .add 1 1) [(0, 4, 0)])).msgRuns ((sentTo peered (msg0 (.atomic false false .add 1 1) [(0, 4, 0)])).payer 2 (msg0 (.atomic false false .add 1 1) [(0, 4, 0)])) (hbm .untyped 0 0x10000) (msg0 (.atomic false false .add 1 1) [(0, 4, 0)]) true)).2,
   false, false, .add, 1, 1, (by
    unfold AtPeer
    decide +kernel), (by decide +kernel), rfl, (by decide +kernel),
   msg_ok (by decide +kernel), (by decide +kernel), (by decide +kernel)⟩

theorem witness_MessagesTakeEffectAtTheirPeer_2_cas :
    ∃ (s : State) (u : State) (m : Msg) (j : Nat) (h : Handle) (runs : List (List (Nat × Nat))) (cas : Bool) (dw : Bool) (op : AOp) (b : Word) (c : Word),
    AtPeer s m j ∧ m.op = .atomic cas dw op b c ∧ s.exported j m = .ok h ∧
    (s.ctxAt (s.payer j m)).overParked h m.off.toNat (msgSpan m) = false ∧
    (without s m).msgRuns (s.payer j m) h m true = .ok (u, runs) ∧ u.badRun runs.flatten = none ∧
    (atomWrites ⟨0, false, cas, dw, op, b, c⟩ (readRuns u.mem runs.flatten)).isSome = false :=
  ⟨sentTo peered (msg0 (.atomic true false .add 1 1) [(0, 4, 0)]),
   (manySt ((without (sentTo peered (msg0 (.atomic true false .add 1 1) [(0, 4, 0)])) (msg0 (.atomic true false .add 1 1) [(0, 4, 0)])).msgRuns ((sentTo peered (msg0 (.atomic true false .add 1 1) [(0, 4, 0)])).payer 2 (msg0 (.atomic true false .add 1 1) [(0, 4, 0)])) (hbm .untyped 0 0x10000) (msg0 (.atomic true false .add 1 1) [(0, 4, 0)]) true)).1,
   msg0 (.atomic true false .add 1 1) [(0, 4, 0)], 2, hbm .untyped 0 0x10000,
   (manySt ((without (sentTo peered (msg0 (.atomic true false .add 1 1) [(0, 4, 0)])) (msg0 (.atomic true false .add 1 1) [(0, 4, 0)])).msgRuns ((sentTo peered (msg0 (.atomic true false .add 1 1) [(0, 4, 0)])).payer 2 (msg0 (.atomic true false .add 1 1) [(0, 4, 0)])) (hbm .untyped 0 0x10000) (msg0 (.atomic true false .add 1 1) [(0, 4, 0)]) true)).2,
   true, false, .add, 1, 1, (by
    unfold AtPeer
    decide +kernel), (by decide +kernel), rfl, (by decide +kernel),
   msg_ok (by decide +kernel), (by decide +kernel), (by decide +kernel)⟩

theorem witness_MessagesTakeEffectAtTheirPeer_4 :
    ∃ (s : State) (m : Msg) (j : Nat),
    AtPeer s m j ∧ m.op = .incr :=
  ⟨sentTo peered (msg0 (.incr) []), msg0 (.incr) [], 2, (by
    unfold AtPeer
    decide +kernel), (by decide +kernel)⟩

/-- The peer with a write of its strand parked over the first bytes of HBM. -/
def peerParked : State :=
  { peered with ctxs := [(0, { run0 with rq := [⟨6, 3, none, 0, [⟨0, 8, 5⟩], none, false, 0, 0, 0, 0, false⟩] }),
      (2, { run0 with exp := [(6, some (hbm .untyped 0 0x10000))] })] }

theorem witness_MessagesTakeEffectAtTheirPeer_5_held :
    ∃ (s : State) (m : Msg) (j : Nat) (h : Handle),
    AtPeer s m j ∧ m.op ≠ .write ∧ m.op ≠ .incr ∧ s.exported j m = .ok h ∧
    (s.ctxAt (s.payer j m)).overParked h m.off.toNat (msgSpan m) = true :=
  ⟨sentTo peerParked (msg0 (.read) [(0, 4, 0)]), msg0 (.read) [(0, 4, 0)], 2, hbm .untyped 0 0x10000, (by
    unfold AtPeer
    decide +kernel), nofun, nofun, rfl, (by decide +kernel)⟩

theorem witness_MessagesTakeEffectAtTheirPeer_6 :
    ∃ (s : State) (m : Msg) (j : Nat) (r : Nat),
    AtPeer s m j ∧ m.op ≠ .incr ∧ (∀ o, m.op ≠ .tile o) ∧ s.exported j m = .error r :=
  ⟨sentTo base (msg0 (.write) [(0, 4, 7)]), msg0 (.write) [(0, 4, 7)], 2, 2, (by
    unfold AtPeer
    decide +kernel),
   nofun, (fun _ => nofun), rfl⟩

theorem witness_MessagesTakeEffectAtTheirPeer_7 :
    ∃ (s : State) (m : Msg),
    s.msgReady m = true ∧ m.srcDev = s.dev.num ∧ (∀ o, m.op ≠ .tile o) ∧ s.keyOf m.gang.toNat m.strand.toNat = none :=
  ⟨sentTo { base with binds := [] } (msg0 (.write) [(0, 4, 7)]), msg0 (.write) [(0, 4, 7)], (by decide +kernel),
   (by decide +kernel), (fun _ => nofun), (by decide +kernel)⟩

theorem witness_MessagesTakeEffectAtTheirPeer_8 :
    ∃ (s : State) (m : Msg) (j : Nat),
    s.msgReady m = true ∧ m.srcDev = s.dev.num ∧ (∀ o, m.op ≠ .tile o) ∧
    s.keyOf m.gang.toNat m.strand.toNat = some j ∧ (s.bindAt j).world ≠ m.world :=
  ⟨sentTo { base with binds := [(2, ⟨true, true, 0, 1, 1, 1, 1, 0, 0, 0, 128⟩)] } (msg0 (.write) [(0, 4, 7)]),
   msg0 (.write) [(0, 4, 7)], 2, (by decide +kernel), (by decide +kernel), (fun _ => nofun), (by decide +kernel),
   (by decide +kernel)⟩

theorem witness_MessagesTakeEffectAtTheirPeer_3 :
    ∃ (s : State) (u : State) (m : Msg) (j : Nat) (h : Handle) (run : List (Nat × Nat)) (g : Nat × Nat × Nat),
    AtPeer s m j ∧ m.op = .read ∧ m.segs = [g] ∧ s.exported j m = .ok h ∧
    (s.ctxAt (s.payer j m)).overParked h m.off.toNat (msgSpan m) = false ∧
    (without s m).msgRuns (s.payer j m) h m false = .ok (u, [run]) ∧ u.badRun run = none :=
  ⟨sentTo peered (msg0 (.read) [(0, 4, 0)]),
   (manySt ((without (sentTo peered (msg0 (.read) [(0, 4, 0)])) (msg0 (.read) [(0, 4, 0)])).msgRuns ((sentTo peered (msg0 (.read) [(0, 4, 0)])).payer 2 (msg0 (.read) [(0, 4, 0)])) (hbm .untyped 0 0x10000) (msg0 (.read) [(0, 4, 0)]) false)).1,
   msg0 (.read) [(0, 4, 0)], 2, hbm .untyped 0 0x10000,
   (manySt ((without (sentTo peered (msg0 (.read) [(0, 4, 0)])) (msg0 (.read) [(0, 4, 0)])).msgRuns ((sentTo peered (msg0 (.read) [(0, 4, 0)])).payer 2 (msg0 (.read) [(0, 4, 0)])) (hbm .untyped 0 0x10000) (msg0 (.read) [(0, 4, 0)]) false)).2.headD [],
   (0, 4, 0), (by
    unfold AtPeer
    decide +kernel), (by decide +kernel), (by decide +kernel), rfl, (by decide +kernel),
   msg_eq (by decide +kernel) (by decide +kernel), (by decide +kernel)⟩

theorem witness_MessagesTakeEffectAtTheirPeer_5 :
    ∃ (s : State) (u : State) (m : Msg) (j : Nat) (h : Handle) (opr : Opr) (run : List (Nat × Nat)) (g : Nat × Nat × Nat),
    AtPeer s m j ∧ m.op = .tile opr ∧ m.segs = [g] ∧ s.exported j m = .ok h ∧
    (s.ctxAt (s.payer j m)).overParked h m.off.toNat (msgSpan m) = false ∧
    (without s m).msgRuns (s.payer j m) h m true = .ok (u, [run]) ∧ u.badRun run = none :=
  ⟨sentTo peered (msg0 (.tile .copy) [(0, 4, 7)]),
   (manySt ((without (sentTo peered (msg0 (.tile .copy) [(0, 4, 7)])) (msg0 (.tile .copy) [(0, 4, 7)])).msgRuns ((sentTo peered (msg0 (.tile .copy) [(0, 4, 7)])).payer 2 (msg0 (.tile .copy) [(0, 4, 7)])) (hbm .untyped 0 0x10000) (msg0 (.tile .copy) [(0, 4, 7)]) true)).1,
   msg0 (.tile .copy) [(0, 4, 7)], 2, hbm .untyped 0 0x10000, .copy,
   (manySt ((without (sentTo peered (msg0 (.tile .copy) [(0, 4, 7)])) (msg0 (.tile .copy) [(0, 4, 7)])).msgRuns ((sentTo peered (msg0 (.tile .copy) [(0, 4, 7)])).payer 2 (msg0 (.tile .copy) [(0, 4, 7)])) (hbm .untyped 0 0x10000) (msg0 (.tile .copy) [(0, 4, 7)]) true)).2.headD [],
   (0, 4, 7), (by
    unfold AtPeer
    decide +kernel), (by decide +kernel), (by decide +kernel), rfl, (by decide +kernel),
   msg_eq (by decide +kernel) (by decide +kernel), (by decide +kernel)⟩

theorem witness_AnswersEndCommands_1 :
    ∃ (s : State) (a : Ack) (k : Nat) (x : XCmd) (w : BitVec 4),
    Awaited s a k x ∧ x.what = .write w ∧ a.ok = true ∧ x.txns = [a.txn] ∧ x.started = true :=
  ⟨answered (waits (.write 1) (.nop) [5]) (ack0 true), ack0 true, 0, waits (.write 1) (.nop) [5], 1, (by
    unfold Awaited
    decide +kernel),
   (by decide +kernel), (by decide +kernel), (by decide +kernel), (by decide +kernel)⟩

theorem witness_AnswersEndCommands_1_more :
    ∃ (s : State) (a : Ack) (k : Nat) (x : XCmd) (w : BitVec 4) (n : Nat),
    Awaited s a k x ∧ x.what = .write w ∧ a.ok = true ∧ n ∈ x.txns ∧ n ≠ a.txn :=
  ⟨answered (waits (.write 1) (.nop) [5, 6]) (ack0 true), ack0 true, 0, waits (.write 1) (.nop) [5, 6], 1, 6, (by
    unfold Awaited
    decide +kernel),
   (by decide +kernel), (by decide +kernel), (by decide +kernel), (by decide +kernel)⟩

theorem witness_AnswersEndCommands_2 :
    ∃ (s : State) (a : Ack) (k : Nat) (x : XCmd) (w : BitVec 4),
    Awaited s a k x ∧ x.what = .write w ∧ a.ok = false ∧
    ((s.ctxAt k).engAt ((engineOf x.cap.instr).getD .fabric)).pend = none :=
  ⟨answered (waits (.write 1) (.nop) [5]) (ack0 false), ack0 false, 0, waits (.write 1) (.nop) [5], 1, (by
    unfold Awaited
    decide +kernel),
   (by decide +kernel), (by decide +kernel), (by decide +kernel)⟩

theorem witness_AnswersEndCommands_3 :
    ∃ (s : State) (a : Ack) (k : Nat) (x : XCmd) (o : FMOp) (ei : BitVec 6) (n : BitVec 7),
    Awaited s a k x ∧ x.what = .load ∧ (s.ctxAt k).phase = .running ∧ x.cap.instr = .xld .untyped o ei ∧ o.x = .v n ∧
    a.ok = true ∧ x.failed = false ∧ x.started = true ∧ x.txns = [a.txn] :=
  ⟨answered (waits (.load) (.xld .untyped fmOne 4) [5]) (ack0 true), ack0 true, 0,
   waits (.load) (.xld .untyped fmOne 4) [5], fmOne, 4, 1, (by
    unfold Awaited
    decide +kernel),
   (by decide +kernel), (by decide +kernel), (by decide +kernel), (by decide +kernel), (by decide +kernel),
   (by decide +kernel), (by decide +kernel), (by decide +kernel)⟩

theorem witness_AnswersEndCommands_3_part :
    ∃ (s : State) (a : Ack) (k : Nat) (x : XCmd) (o : FMOp) (ei : BitVec 6) (n : BitVec 7),
    Awaited s a k x ∧ x.what = .load ∧ (s.ctxAt k).phase = .running ∧ x.cap.instr = .xld .untyped o ei ∧ o.x = .v n ∧
    a.ok = true ∧ x.failed = false ∧ x.started = true ∧ x.txns.erase a.txn ≠ [] :=
  ⟨answered (waits (.load) (.xld .untyped fmOne 4) [5, 6]) (ack0 true), ack0 true, 0,
   waits (.load) (.xld .untyped fmOne 4) [5, 6], fmOne, 4, 1, (by
    unfold Awaited
    decide +kernel),
   (by decide +kernel), (by decide +kernel), (by decide +kernel), (by decide +kernel), (by decide +kernel),
   (by decide +kernel), (by decide +kernel), (by decide +kernel)⟩

theorem witness_AnswersEndCommands_3_out :
    ∃ (s : State) (a : Ack) (k : Nat) (x : XCmd),
    Awaited s a k x ∧ ((x.what = .load ∨ x.what = .get)) ∧ (s.ctxAt k).phase ≠ .running :=
  ⟨with0 (answered (waits (.load) (.xld .untyped fmOne 4) [5]) (ack0 true)) (fun c => { c with phase := .out }), ack0 true, 0,
   waits (.load) (.xld .untyped fmOne 4) [5], (by
    unfold Awaited
    decide +kernel), (by decide +kernel), (by decide +kernel)⟩

theorem witness_AnswersEndCommands_4 :
    ∃ (s : State) (a : Ack) (k : Nat) (x : XCmd) (o : FBOp) (h : Handle),
    let i := a.txn - x.first
    Awaited s a k x ∧ (s.ctxAt k).phase = .running ∧ x.what = .get ∧ x.cap.instr = .xget o ∧ a.ok = true ∧
    SMap.get none x.cap.h o.hd.toNat = some h ∧ x.wait = false ∧
    isOk (State.resolve (({ s.ackGone a with cur := k } : State).settleTxn x a).1 h ((x.cap.sc o.od).toNat + i * 4096) (min 4096 ((x.cap.sc o.n).toNat - i * 4096)) true) = true :=
  ⟨answered (waits (.get) (.xget fbOne) [5]) (ack0 true), ack0 true, 0, waits (.get) (.xget fbOne) [5], fbOne,
   cist .untyped 0 0x40000, (by
    unfold Awaited
    decide +kernel), (by decide +kernel), (by decide +kernel), (by decide +kernel),
   (by decide +kernel), (by decide +kernel), (by decide +kernel), (by decide +kernel)⟩

theorem witness_AnswersEndCommands_5 :
    ∃ (s : State) (w : BitVec 4) (l : List XFence) (r : List XFence) (f : XFence),
    s.ctx.fab.fences = l ++ f :: r ∧ f.w = w ∧ s.fenceMet f = true ∧ ((∀ g ∈ l, g.w = w → s.fenceMet g = false)) :=
  ⟨with0 base (fun c => { c with fab := { c.fab with fences := [⟨1, 4, [], 9⟩] } }), 1, [], [], ⟨1, 4, [], 9⟩,
   (by decide +kernel), (by decide +kernel), (by decide +kernel), (by decide +kernel)⟩

theorem witness_AnswersEndCommands_6 :
    ∃ (s : State) (i : Nat) (x : Trig) (e : Engine) (c : Cap),
    s.ctx.phase = .running ∧ s.nextTrig = some i ∧ s.ctx.fab.trigs[i]? = some x ∧ x.fired = none ∧
    (firing s i x).1.trigRec (firing s i x).2 = .push e c ∧ s.ctx.room e = true :=
  ⟨triggered 0x62200000, 0, trig0,
   (pushOf ((firing (triggered 0x62200000) 0 trig0).1.trigRec (firing (triggered 0x62200000) 0 trig0).2)).1,
   (pushOf ((firing (triggered 0x62200000) 0 trig0).1.trigRec (firing (triggered 0x62200000) 0 trig0).2)).2,
   (by decide +kernel), (by decide +kernel), (by decide +kernel), (by decide +kernel), push_eq (by decide +kernel),
   (by decide +kernel)⟩

theorem witness_AnswersEndCommands_7 :
    ∃ (s : State) (i : Nat) (x : Trig),
    s.ctx.phase = .running ∧ s.nextTrig = some i ∧ s.ctx.fab.trigs[i]? = some x ∧ x.fired = none ∧
    (firing s i x).1.trigRec (firing s i x).2 = .bad :=
  ⟨triggered 0, 0, trig0, (by decide +kernel), (by decide +kernel), (by decide +kernel), (by decide +kernel),
   bad_eq (by decide +kernel)⟩

/-- A ring of all the gathered chunks of 64 bytes, with n of its pieces taken. -/
def ringing (n : Nat) : XCmd := { waits .ring (.xring .ag 0 1 0 1 4 0 0 0) [] with sent := n }
/-- The first piece that the ring waits for, of a command over n bytes. -/
def ringGot (n : Nat) : Got :=
  let e := ringPlace .ag 0 0 64 0
  ⟨0, 9, 0, 0, 0, e.2.1, 257, e.2.2, 0, 1, 1, 0, n, 7⟩
/-- The device with a collective command and what has come for it. -/
def collected (x : XCmd) (l : List Got) : State := { (withCmd base x) with rx := l }
/-- A group collective of strand 0 here and one strand on device 1, its own bytes sent or not yet. -/
def gathering (n : Nat) : XCmd := { waits (.coll [65536, 4295032832] 0 0) (.xcoll .ag fkOne) [] with sent := n }
/-- The contribution of the other device, with a word that says what its command is. -/
def collGot (w : Nat) : Got :=
  let n := ((gathering 0).cap.sc fkOne.n).toNat
  ⟨0, 10, 0, peerGang ((collected (gathering 0) []).peerWord 0), peerStrand ((collected (gathering 0) []).peerWord 0), 0, fkOne.grp.toNat, 16 + n, 0, 1,
    peerGang 4295032832, peerStrand 4295032832, 0, w + 7 * 2 ^ 128⟩

/-- What holds of the state that a meaning answers. -/
def after (o : Host.Outcome State Fault Refusal) (f : State → Bool) : Bool := match o with | .next t => f t | _ => false

/-- R466: once every piece is there, the results are written, the command ends and its counter gains 1. -/
theorem test_ring_ends : after (execRingComplete 3 [] true (collected (ringing 40) []))
    (fun t => t.ctx.fab.cmds.isEmpty && t.incrs.length == 1) = true := by decide +kernel
/-- R468: what the other rank contributed lies behind this rank's 64 bytes. -/
theorem test_gather_ends : after (execCollectiveComplete 3 [] true (collected (gathering 1) [collGot (gathering 1).collWord]))
    (fun t => t.ctx.fab.cmds.isEmpty && t.incrs.length == 1 && Mem.read t.mem (Config.cisternBase + 64) 4 == 7) = true := by decide +kernel

theorem witness_CollectivesWriteTheirResult_1 :
    ∃ (s : State) (age : Nat) (own : Nat) (x : XCmd) (op : RingOp) (p : BitVec 4) (hf : BitVec 6) (a : BitVec 5) (b : BitVec 5) (ei : BitVec 6) (ew : BitVec 6) (th : BitVec 5) (dp : BitVec 3) (g : Got),
    s.xcmd age = some x ∧ x.started = true ∧ x.data = some own ∧ x.cap.instr = .xring op p hf a b ei ew th dp ∧
    x.sent < ringCount op p (x.cap.sc b).toNat ∧ s.ringNext p s.bind.world = some g ∧
    ringAgrees op p s.dev.num.toNat (x.cap.sc b).toNat x.sent g = true :=
  ⟨collected (ringing 0) [ringGot 64], 3, 0, ringing 0, .ag, 0, 1, 0, 1, 4, 0, 0, 0, ringGot 64,
   (by decide +kernel), (by decide +kernel), (by decide +kernel), (by decide +kernel),
   (by decide +kernel), (by decide +kernel), (by decide +kernel)⟩

theorem witness_CollectivesWriteTheirResult_2 :
    ∃ (s : State) (age : Nat) (own : Nat) (x : XCmd) (op : RingOp) (p : BitVec 4) (hf : BitVec 6) (a : BitVec 5) (b : BitVec 5) (ei : BitVec 6) (ew : BitVec 6) (th : BitVec 5) (dp : BitVec 3) (h : Handle),
    s.xcmd age = some x ∧ x.started = true ∧ x.data = some own ∧ x.cap.instr = .xring op p hf a b ei ew th dp ∧
    x.wait = false ∧ s.owes x.cap = false ∧ ringCount op p (x.cap.sc b).toNat ≤ x.sent ∧ SMap.get none x.cap.h hf.toNat = some h ∧
    (s.resolveAll ((ringResult op p s.dev.num.toNat (x.cap.sc b).toNat own x.got).map (fun e =>
      (h, (x.cap.sc a).toNat + e.1, e.2)))).toBool = true :=
  ⟨collected (ringing 40) [], 3, 0, ringing 40, .ag, 0, 1, 0, 1, 4, 0, 0, 0, cist .untyped 0 0x40000,
   (by decide +kernel), (by decide +kernel), (by decide +kernel), (by decide +kernel), (by decide +kernel),
   (by decide +kernel), (by decide +kernel), (by decide +kernel), (by decide +kernel)⟩

theorem witness_CollectivesWriteTheirResult_3 :
    ∃ (s : State) (age : Nat) (own : Nat) (x : XCmd) (op : RingOp) (p : BitVec 4) (hf : BitVec 6) (a : BitVec 5) (b : BitVec 5) (ei : BitVec 6) (ew : BitVec 6) (th : BitVec 5) (dp : BitVec 3) (g : Got),
    s.xcmd age = some x ∧ x.started = true ∧ x.data = some own ∧ x.cap.instr = .xring op p hf a b ei ew th dp ∧
    x.sent < ringCount op p (x.cap.sc b).toNat ∧ s.ringNext p s.bind.world = some g ∧
    ringAgrees op p s.dev.num.toNat (x.cap.sc b).toNat x.sent g = false ∧ (s.eng .fabric).pend = none :=
  ⟨collected (ringing 0) [ringGot 65], 3, 0, ringing 0, .ag, 0, 1, 0, 1, 4, 0, 0, 0, ringGot 65,
   (by decide +kernel), (by decide +kernel), (by decide +kernel), (by decide +kernel),
   (by decide +kernel), (by decide +kernel), (by decide +kernel), (by decide +kernel)⟩

theorem witness_CollectivesWriteTheirResult_4 :
    ∃ (s : State) (age : Nat) (d : Nat) (r : Nat) (q : Nat) (q' : Nat) (x : XCmd) (op : CollOp) (o : FKOp),
    s.xcmd age = some x ∧ x.what = .coll [q, q'] r 0 ∧ x.data = some d ∧ x.cap.instr = .xcoll op o ∧ x.failed = false ∧
    x.sent = 0 ∧ s.disagree x o [q, q'] r 0 = false ∧ s.owes x.cap = false ∧ peerDev q = s.dev.num.toNat ∧
    peerDev q' ≠ s.dev.num.toNat ∧ firstHop s.dev.num.toNat (peerDev q') ≠ none :=
  ⟨collected (gathering 0) [], 3, 0, 0, 65536, 4295032832, gathering 0, .ag, fkOne,
   (by decide +kernel), (by decide +kernel), (by decide +kernel), (by decide +kernel),
   (by decide +kernel), (by decide +kernel), (by decide +kernel), (by decide +kernel),
   (by decide +kernel), (by decide +kernel), (by decide +kernel)⟩

theorem witness_CollectivesWriteTheirResult_5 :
    ∃ (s : State) (age : Nat) (d : Nat) (r : Nat) (q : Nat) (f : Nat → Nat) (peers : List Nat) (x : XCmd) (op : CollOp) (o : FKOp) (h : Handle),
    s.xcmd age = some x ∧ x.what = .coll peers r q ∧ x.data = some d ∧ x.cap.instr = .xcoll op o ∧ x.failed = false ∧
    x.sent ≠ 0 ∧ x.wait = false ∧ s.owes x.cap = false ∧ s.disagree x o peers r q = false ∧ f r = d ∧
    ((∀ i p, peers[i]? = some p → i ≠ r → peerDev p ≠ s.dev.num.toNat ∧
      contribution (s.contributed p o.grp.toNat q) (collBytes op (x.cap.sc o.n).toNat peers.length i) = some (f i))) ∧
    SMap.get none x.cap.h o.hr.toNat = some h ∧
    (s.resolveAll ((collResult op o.opr (x.cap.sc o.n).toNat r ((List.range peers.length).map f)).map (fun e => (h, e)))).toBool = true :=
  ⟨collected (gathering 1) [collGot (gathering 1).collWord], 3, 0, 0, 0, fun i => 7 * i, [65536, 4295032832], gathering 1, .ag, fkOne,
   cist .untyped 0 0x40000,
   (by decide +kernel), (by decide +kernel), (by decide +kernel), (by decide +kernel), (by decide +kernel),
   (by decide +kernel), (by decide +kernel), (by decide +kernel), (by decide +kernel), (by decide +kernel),
   (by intro i p h hi; match i with | 0 => exact absurd rfl hi | 1 => cases h; decide +kernel | n + 2 => cases h),
   (by decide +kernel), (by decide +kernel)⟩

theorem witness_CollectivesWriteTheirResult_6 :
    ∃ (s : State) (age : Nat) (d : Nat) (r : Nat) (q : Nat) (i : Nat) (p : Nat) (peers : List Nat) (x : XCmd) (op : CollOp) (o : FKOp) (g : Got),
    s.xcmd age = some x ∧ x.what = .coll peers r q ∧ x.data = some d ∧ x.cap.instr = .xcoll op o ∧
    (s.eng .fabric).pend = none ∧ ((∀ i p, peers[i]? = some p → i ≠ r → peerDev p ≠ s.dev.num.toNat)) ∧ peers[i]? = some p ∧
    peerDev p ≠ s.dev.num.toNat ∧ g ∈ s.contributed p o.grp.toNat q ∧ g.data % 2 ^ 128 ≠ x.collWord :=
  ⟨collected (gathering 1) [collGot 3], 3, 0, 0, 0, 1, 4295032832, [65536, 4295032832], gathering 1, .ag, fkOne, collGot 3,
   (by decide +kernel), (by decide +kernel), (by decide +kernel), (by decide +kernel), (by decide +kernel),
   (by intro i p h hi; match i with | 0 => exact absurd rfl hi | 1 => cases h; decide +kernel | n + 2 => cases h),
   (by decide +kernel), (by decide +kernel), (by decide +kernel), (by decide +kernel)⟩

theorem witness_CampusFramesAreDeliveredAndAcknowledged_1 :
    ∃ (s : State) (cp : BitVec 2) (f : Frame),
    (s.campusPort cp).st = 4 ∧ f.verified = false :=
  ⟨camp base (fun c => { c with st := 4 }), 0, { frame0 0 with verified := false }, (by decide +kernel),
   (by decide +kernel)⟩

theorem witness_CampusFramesAreDeliveredAndAcknowledged_2 :
    ∃ (s : State) (cp : BitVec 2) (f : Frame) (p : Post),
    let v := s.acked cp f.stream f.ack f.nseq f.ncnt
    (s.campusPort cp).st = 4 ∧ f.verified = true ∧ f.ackonly = false ∧ (v.campusPort cp).st = 4 ∧
    ((v.campusPort cp).stream f.stream).has f.seq = false ∧ (v.campusPort cp).postOf f = some p ∧
    8192 * bits f.dest.toNat 55 32 + f.len ≤ p.hd.len.toNat ∧ v.live (some p.hd) = some p.hd ∧
    isOk (v.resolveAt p.key p.hd (8192 * bits f.dest.toNat 55 32) f.len true) = true ∧
    (v.campusPort cp).stream f.stream = ⟨f.seq, []⟩ :=
  ⟨camp base (fun c => { c with posts := [post0] }), 0, frame0 0, post0, (by decide +kernel), (by decide +kernel),
   (by decide +kernel), (by decide +kernel), (by decide +kernel), (by decide +kernel), (by decide +kernel),
   (by decide +kernel), (by decide +kernel), (by decide +kernel)⟩

theorem witness_CampusFramesAreDeliveredAndAcknowledged_2_ahead :
    ∃ (s : State) (cp : BitVec 2) (f : Frame) (p : Post) (q : BitVec 48),
    let v := s.acked cp f.stream f.ack f.nseq f.ncnt
    (s.campusPort cp).st = 4 ∧ f.verified = true ∧ f.ackonly = false ∧ (v.campusPort cp).st = 4 ∧
    ((v.campusPort cp).stream f.stream).has f.seq = false ∧ (v.campusPort cp).postOf f = some p ∧
    8192 * bits f.dest.toNat 55 32 + f.len ≤ p.hd.len.toNat ∧ v.live (some p.hd) = some p.hd ∧
    isOk (v.resolveAt p.key p.hd (8192 * bits f.dest.toNat 55 32) f.len true) = true ∧
    (v.campusPort cp).stream f.stream = ⟨q, []⟩ ∧ q.toNat < f.seq.toNat :=
  ⟨camp base (fun c => { c with posts := [post0] }), 0, frame0 1, post0, 0, (by decide +kernel), (by decide +kernel),
   (by decide +kernel), (by decide +kernel), (by decide +kernel), (by decide +kernel), (by decide +kernel),
   (by decide +kernel), (by decide +kernel), (by decide +kernel), (by decide +kernel)⟩

theorem witness_CampusFramesAreDeliveredAndAcknowledged_2_last :
    ∃ (s : State) (u : State) (cp : BitVec 2) (f : Frame) (p : Post) (runs : List (Nat × Nat)) (x : XCmd),
    let v := s.acked cp f.stream f.ack f.nseq f.ncnt
    (s.campusPort cp).st = 4 ∧ f.verified = true ∧ f.ackonly = false ∧ (v.campusPort cp).st = 4 ∧
    ((v.campusPort cp).stream f.stream).has f.seq = false ∧ (v.campusPort cp).postOf f = some p ∧
    8192 * bits f.dest.toNat 55 32 + f.len ≤ p.hd.len.toNat ∧ v.live (some p.hd) = some p.hd ∧
    v.resolveAt p.key p.hd (8192 * bits f.dest.toNat 55 32) f.len true = .ok u runs ∧
    (v.campusPort cp).stream f.stream = ⟨f.seq, []⟩ ∧ f.seq.toNat + 1 < 2 ^ 48 ∧ bit f.dest.toNat 63 = true ∧
    (v.campusPort cp).posts = [p] ∧ (u.ctxAt p.key).fab.cmds.find? (fun x => x.cap.age = p.age) = some x :=
  ⟨camp (withCmd base (waits .recv .nop [])) (fun c => { c with posts := [post0] }), _, 0,
   { frame0 0 with dest := 2 ^ 63 }, post0, _, waits .recv .nop [], (by decide +kernel), (by decide +kernel),
   (by decide +kernel), (by decide +kernel), (by decide +kernel), (by decide +kernel), (by decide +kernel),
   (by decide +kernel), acc_eq (by decide +kernel), (by decide +kernel), (by decide +kernel), (by decide +kernel),
   (by decide +kernel), (by decide +kernel)⟩

theorem witness_CampusFramesAreDeliveredAndAcknowledged_3 :
    ∃ (s : State) (cp : BitVec 2) (f : Frame),
    (s.campusPort cp).st = 4 ∧ f.verified = true ∧
    (((s.acked cp f.stream f.ack f.nseq f.ncnt).campusPort cp).stream f.stream).has f.seq = true :=
  ⟨camp base (fun c => { c with rx := [(3, ⟨1, []⟩)] }), 0, frame0 0, (by decide +kernel), (by decide +kernel),
   (by decide +kernel)⟩

theorem witness_CampusFramesAreDeliveredAndAcknowledged_4 :
    ∃ (s : State) (cp : BitVec 2) (stream : BitVec 16) (ack : BitVec 48) (r : RFrame) (x : XCmd),
    (s.campusPort cp).st = 4 ∧ (s.campusPort cp).buf = [r] ∧ r.f.stream = stream ∧ r.f.seq.toNat < ack.toNat ∧
    (s.ctxAt r.key).fab.cmds.find? (fun x => x.cap.age = r.age) = some x ∧ x.started = true :=
  ⟨camp (withCmd base (waits (.send 0 3) .nop [])) (fun c => { c with buf := [kept0 1] }), 0, 3, 3, kept0 1,
   waits (.send 0 3) .nop [], (by decide +kernel), (by decide +kernel), (by decide +kernel), (by decide +kernel),
   (by decide +kernel), (by decide +kernel)⟩

theorem witness_CampusFramesAreDeliveredAndAcknowledged_5 :
    ∃ (s : State) (cp : BitVec 2) (stream : BitVec 16) (ack : BitVec 48) (nseq : BitVec 48) (ncnt : BitVec 16) (r : RFrame),
    (s.campusPort cp).st = 4 ∧ (s.campusPort cp).buf = [r] ∧ r.f.stream = stream ∧ ack.toNat ≤ r.f.seq.toNat ∧
    nseq.toNat ≤ r.f.seq.toNat ∧ r.f.seq.toNat < nseq.toNat + ncnt.toNat ∧ r.sends < 8 :=
  ⟨camp base (fun c => { c with buf := [kept0 1] }), 0, 3, 1, 1, 3, kept0 1, (by decide +kernel), (by decide +kernel),
   (by decide +kernel), (by decide +kernel), (by decide +kernel), (by decide +kernel), (by decide +kernel)⟩

theorem witness_CampusFramesAreDeliveredAndAcknowledged_6 :
    ∃ (s : State) (cp : BitVec 2) (stream : BitVec 16) (seq : BitVec 48) (r : RFrame),
    (s.campusPort cp).st = 4 ∧
    (s.campusPort cp).buf.find? (fun r => r.f.stream = stream ∧ r.f.seq = seq ∧ r.last.toNat + (s.campusPort cp).rto.toNat ≤ s.dcc.toNat) = some r ∧
    r.sends < 8 :=
  ⟨camp base (fun c => { c with buf := [kept0 1], rto := 50 }), 0, 3, 2, kept0 1, (by decide +kernel),
   (by decide +kernel), (by decide +kernel)⟩

theorem witness_CampusFramesAreDeliveredAndAcknowledged_5_last :
    ∃ (s : State) (cp : BitVec 2) (stream : BitVec 16) (ack : BitVec 48) (nseq : BitVec 48) (ncnt : BitVec 16) (r : RFrame),
    (s.campusPort cp).st = 4 ∧ (s.campusPort cp).buf = [r] ∧ r.f.stream = stream ∧ ack.toNat ≤ r.f.seq.toNat ∧
    nseq.toNat ≤ r.f.seq.toNat ∧ r.f.seq.toNat < nseq.toNat + ncnt.toNat ∧ 8 ≤ r.sends :=
  ⟨camp base (fun c => { c with buf := [kept0 8] }), 0, 3, 1, 1, 3, kept0 8, (by decide +kernel), (by decide +kernel),
   (by decide +kernel), (by decide +kernel), (by decide +kernel), (by decide +kernel), (by decide +kernel)⟩

theorem witness_CampusFramesAreDeliveredAndAcknowledged_6_last :
    ∃ (s : State) (cp : BitVec 2) (stream : BitVec 16) (seq : BitVec 48) (r : RFrame),
    (s.campusPort cp).st = 4 ∧
    (s.campusPort cp).buf.find? (fun r => r.f.stream = stream ∧ r.f.seq = seq ∧ r.last.toNat + (s.campusPort cp).rto.toNat ≤ s.dcc.toNat) = some r ∧
    8 ≤ r.sends :=
  ⟨camp base (fun c => { c with buf := [kept0 8], rto := 50 }), 0, 3, 2, kept0 8, (by decide +kernel),
   (by decide +kernel), (by decide +kernel)⟩

theorem witness_CampusFramesAreDeliveredAndAcknowledged_7 :
    ∃ (s : State) (cp : BitVec 2) (stream : BitVec 16),
    (s.campusPort cp).st = 4 ∧ (s.campusPort cp).stream stream ≠ Stream.reset ∧
    (SMap.get 0 (s.campusPort cp).lastAck stream.toNat).toNat + 12000 ≤ s.dcc.toNat :=
  ⟨camp { base with dcc := 20000 } (fun c => { c with rx := [(3, ⟨1, []⟩)] }), 0, 3, (by decide +kernel),
   (by decide +kernel), (by decide +kernel)⟩

theorem witness_CampusFramesAreDeliveredAndAcknowledged_8 :
    ∃ (s : State) (cp : BitVec 2),
    (s.campusPort cp).st = 0 ∧ s.dev.ready = true :=
  ⟨base, 0, (by decide +kernel), (by decide +kernel)⟩

theorem witness_CampusFramesAreDeliveredAndAcknowledged_9 :
    ∃ (s : State) (cp : BitVec 2) (k : Nat) (x : XCmd) (st : BitVec 16),
    (s.campusPort cp).st ≠ 0 ∧ (k, s.ctxAt k) ∈ s.ctxs ∧ (s.ctxAt k).fab.cmds = [x] ∧ x.what = .send cp st ∧
    ((s.ctxAt k).engAt ((engineOf x.cap.instr).getD .fabric)).pend = none :=
  ⟨camp (withCmd base (waits (.send 0 3) .nop [])) (fun c => { c with st := 4 }), 0, 0, waits (.send 0 3) .nop [], 3,
   (by decide +kernel), (by decide +kernel), (by decide +kernel), (by decide +kernel), (by decide +kernel)⟩

theorem witness_FlitsAreSentAndReceived_1 :
    ∃ (s : State) (port : BitVec 4) (f : Flit),
    (s.port port.toNat).out = some (s.dcc, f) :=
  ⟨linked (fun p => { p with out := some (100, flit0) }), 0, flit0, (by decide +kernel)⟩

theorem witness_FlitsAreSentAndReceived_2 :
    ∃ (s : State) (port : BitVec 4),
    port.toNat < 12 ∧ (s.port port.toNat).st ≠ 0 ∧ ((∀ o, (s.port port.toNat).out = some o → o.1 ≠ s.dcc)) ∧
    (s.port port.toNat).overdue s.dcc = false ∧
    (((s.port port.toNat).st ≠ 4 ∨ slotEntry (s.port port.toNat).table (s.dcc.toNat % (s.port port.toNat).per) = none)) :=
  ⟨linked (fun p => { p with st := 4 }), 0, (by decide +kernel), (by decide +kernel), noneAll (by decide +kernel),
   (by decide +kernel), (by decide +kernel)⟩

theorem witness_FlitsAreSentAndReceived_2_overdue :
    ∃ (s : State) (port : BitVec 4) (l : Lost),
    port.toNat < 12 ∧ (s.port port.toNat).st = 4 ∧ ((∀ o, (s.port port.toNat).out = some o → o.1 ≠ s.dcc)) ∧
    l ∈ (s.port port.toNat).lost ∧ l.limit ≤ s.dcc.toNat :=
  ⟨linked (fun p => { p with lost := [⟨0, 0, false, 100⟩] }), 0, ⟨0, 0, false, 100⟩, (by decide +kernel), (by decide +kernel),
   noneAll (by decide +kernel), (by decide +kernel), (by decide +kernel)⟩

theorem witness_FlitsAreSentAndReceived_3 :
    ∃ (s : State) (port : BitVec 4) (n : Nat) (e : Word) (i : Inj),
    let x := atSlot s port n e
    let idx := slotIdx s port e
    InSlot s port n e ∧ entKind e = 0 ∧ 512 * n + idx / 8 ∉ x.done ∧ (x.holds e)[x.missing n s.dcc]? = some i ∧ idx % 8 = 0 ∧
    i.f.empty = false ∧ (x.holds e).erase i = [] :=
  ⟨linked (fun p => { p with table := [(0, ent0 0)], inject := [(0, [⟨flit0, 65536, true⟩])] }), 0, 0, ent0 0,
   ⟨flit0, 65536, true⟩, ⟨by decide +kernel, by decide +kernel, noneAll (by decide +kernel), by decide +kernel, by decide +kernel⟩,
   (by decide +kernel), (by decide +kernel), (by decide +kernel), (by decide +kernel), (by decide +kernel), (by decide +kernel)⟩

theorem witness_FlitsAreSentAndReceived_3_group :
    ∃ (s : State) (port : BitVec 4) (n : Nat) (e : Word) (i : Inj) (b : Bool),
    let x := atSlot s port n e
    let idx := slotIdx s port e
    InSlot s port n e ∧ entKind e = 0 ∧ 512 * n + idx / 8 ∉ x.done ∧ (x.holds e)[x.missing n s.dcc]? = some i ∧
    idx % 8 ≠ 0 ∧ SMap.get none (s.port port.toNat).grpkey (512 * n + idx / 8) = some b :=
  ⟨linked (fun p => { p with
      table := [(0, word (99 * 2 ^ 44 + 2 * 2 ^ 32))], inject := [(0, [⟨flit0, 65536, true⟩])], grpkey := [(0, some true)] }), 0, 0,
   word (99 * 2 ^ 44 + 2 * 2 ^ 32), ⟨flit0, 65536, true⟩, true,
   ⟨by decide +kernel, by decide +kernel, noneAll (by decide +kernel), by decide +kernel, by decide +kernel⟩,
   (by decide +kernel), (by decide +kernel), (by decide +kernel), (by decide +kernel), (by decide +kernel)⟩

theorem witness_FlitsAreSentAndReceived_4 :
    ∃ (s : State) (port : BitVec 4) (n : Nat) (e : Word),
    let x := atSlot s port n e
    let idx := slotIdx s port e
    InSlot s port n e ∧ entKind e = 0 ∧ 512 * n + idx / 8 ∉ x.done ∧ (x.holds e)[x.missing n s.dcc]? = none :=
  ⟨linked (fun p => { p with table := [(0, ent0 0)] }), 0, 0, ent0 0,
   ⟨by decide +kernel, by decide +kernel, noneAll (by decide +kernel), by decide +kernel, by decide +kernel⟩, (by decide +kernel),
   (by decide +kernel), (by decide +kernel)⟩

theorem witness_FlitsAreSentAndReceived_4_done :
    ∃ (s : State) (port : BitVec 4) (n : Nat) (e : Word),
    let x := atSlot s port n e
    let idx := slotIdx s port e
    InSlot s port n e ∧ entKind e = 0 ∧ 512 * n + idx / 8 ∈ x.done :=
  ⟨linked (fun p => { p with table := [(0, word (99 * 2 ^ 44 + 2 * 2 ^ 32))], done := [0] }), 0, 0, word (99 * 2 ^ 44 + 2 * 2 ^ 32),
   ⟨by decide +kernel, by decide +kernel, noneAll (by decide +kernel), by decide +kernel, by decide +kernel⟩, (by decide +kernel),
   (by decide +kernel)⟩

theorem witness_FlitsAreSentAndReceived_5 :
    ∃ (s : State) (port : BitVec 4) (n : Nat) (e : Word) (d : Need) (g : Flit),
    InSlot s port n e ∧ entKind e = 2 ∧
    firstNeed ((s.port port.toNat).needs.filter (fun m => m.ent.toNat = entLink e && m.fidx.toNat / 64 = entWorld e && !m.again)) = some d ∧
    d.copy = some g :=
  ⟨linked (fun p => { p with table := [(1, ent0 2)], needs := [⟨0, 0, 50, some flit0, false, 0⟩] }), 0, 1, ent0 2,
   ⟨0, 0, 50, some flit0, false, 0⟩, flit0,
   ⟨by decide +kernel, by decide +kernel, noneAll (by decide +kernel), by decide +kernel, by decide +kernel⟩, (by decide +kernel),
   (by decide +kernel), (by decide +kernel)⟩

theorem witness_FlitsAreSentAndReceived_5_late :
    ∃ (s : State) (port : BitVec 4) (n : Nat) (e : Word) (d : Need) (i : Inj),
    let o := SMap.get 0 (s.port port.toNat).table d.ent.toNat
    InSlot s port n e ∧ entKind e = 2 ∧
    firstNeed ((s.port port.toNat).needs.filter (fun m => m.ent.toNat = entLink e && m.fidx.toNat / 64 = entWorld e && !m.again)) = some d ∧
    d.copy = none ∧ entKind o = 0 ∧ ((s.port port.toNat).holds o)[(s.port port.toNat).missing d.ent.toNat d.arose]? = some i :=
  ⟨linked (fun p => { p with
      table := [(0, word (20 * 2 ^ 44 + 2 ^ 32)), (1, ent0 2)], needs := [⟨0, 0, 20, none, false, 0⟩]
      inject := [(0, [⟨flit0, 65536, true⟩])] }), 0, 1, ent0 2,
   ⟨0, 0, 20, none, false, 0⟩, ⟨flit0, 65536, true⟩,
   ⟨by decide +kernel, by decide +kernel, noneAll (by decide +kernel), by decide +kernel, by decide +kernel⟩, (by decide +kernel),
   (by decide +kernel), (by decide +kernel), (by decide +kernel), (by decide +kernel)⟩

theorem witness_FlitsAreSentAndReceived_6 :
    ∃ (s : State) (port : BitVec 4) (f : Flit) (errs : List (Nat × Nat)),
    port.toNat < 12 ∧ 2 ≤ (s.port port.toNat).st ∧ 8 < errs.length ∧ (s.port port.toNat).st = 4 ∧ f.empty = false :=
  ⟨linked (fun p => { p with st := 4 }), 0, flit0, List.replicate 9 (0, 0), (by decide +kernel), (by decide +kernel),
   (by decide +kernel), (by decide +kernel), (by decide +kernel)⟩

theorem witness_FlitsAreSentAndReceived_6_opening :
    ∃ (s : State) (port : BitVec 4) (errs : List (Nat × Nat)),
    port.toNat < 12 ∧ 2 ≤ (s.port port.toNat).st ∧ 8 < errs.length ∧ (s.port port.toNat).st ≠ 4 :=
  ⟨linked (fun p => { p with st := 2 }), 0, List.replicate 9 (0, 0), (by decide +kernel), (by decide +kernel),
   (by decide +kernel), (by decide +kernel)⟩

theorem witness_FlitsAreSentAndReceived_7 :
    ∃ (s : State) (port : BitVec 4) (f : Flit) (k : Kept),
    port.toNat < 12 ∧ (s.port port.toNat).st = 4 ∧ f.empty = true ∧ f.nakv = true ∧
    (s.port port.toNat).kept.find? (fun k => k.d.setWidth 16 = f.nakcyc) = some k ∧ k.asked = false :=
  ⟨linked (fun p => { p with kept := [⟨60, flit0, false, 0⟩] }), 0,
   { flit0 with empty := true, nakv := true, nakcyc := 60 }, ⟨60, flit0, false, 0⟩, (by decide +kernel),
   (by decide +kernel), (by decide +kernel), (by decide +kernel), (by decide +kernel), (by decide +kernel)⟩

theorem witness_FlitsAreSentAndReceived_8 :
    ∃ (s : State) (port : BitVec 4) (f : Flit),
    port.toNat < 12 ∧ (s.port port.toNat).st = 4 ∧ f.empty = false ∧ f.nakv = false ∧ f.slip = false ∧
    (s.port port.toNat).groups = [] :=
  ⟨linked (fun p => { p with st := 4 }), 0, flit0, (by decide +kernel), (by decide +kernel), (by decide +kernel),
   (by decide +kernel), (by decide +kernel), (by decide +kernel)⟩

theorem witness_FlitsAreSentAndReceived_9 :
    ∃ (s : State) (port : BitVec 4) (ent : BitVec 12) (grp : Nat) (g : Group),
    port.toNat < 12 ∧ (s.port port.toNat).st = 4 ∧
    (s.port port.toNat).groups.find? (fun g => g.ent = ent ∧ g.grp = grp) = some g ∧
    (s.port port.toNat).verifies g s.dcc = true ∧ s.forwards port.toNat ent.toNat = false ∧
    (((s.port port.toNat).renews g (SMap.get Part.reset (s.port port.toNat).parts ent.toNat).next = false ∨
      (SMap.get Part.reset (s.port port.toNat).parts ent.toNat).flits = [])) ∧ g.failed = false :=
  ⟨linked (fun p => { p with groups := [⟨0, 0, [⟨{ flit0 with tagv := true }, 50⟩], false⟩] }), 0, 0, 0,
   ⟨0, 0, [⟨{ flit0 with tagv := true }, 50⟩], false⟩, (by decide +kernel), (by decide +kernel), (by decide +kernel), (by decide +kernel),
   (by decide +kernel), (by decide +kernel), (by decide +kernel)⟩

theorem witness_FlitsAreSentAndReceived_9_again :
    ∃ (s : State) (port : BitVec 4) (ent : BitVec 12) (grp : Nat) (g : Group),
    port.toNat < 12 ∧ (s.port port.toNat).st = 4 ∧
    (s.port port.toNat).groups.find? (fun g => g.ent = ent ∧ g.grp = grp) = some g ∧
    (s.port port.toNat).verifies g s.dcc = true ∧ s.forwards port.toNat ent.toNat = false ∧
    (((s.port port.toNat).renews g (SMap.get Part.reset (s.port port.toNat).parts ent.toNat).next = false ∨
      (SMap.get Part.reset (s.port port.toNat).parts ent.toNat).flits = [])) ∧ g.failed = true :=
  ⟨linked (fun p => { p with groups := [⟨0, 0, [⟨{ flit0 with tagv := true }, 50⟩], true⟩] }), 0, 0, 0,
   ⟨0, 0, [⟨{ flit0 with tagv := true }, 50⟩], true⟩, (by decide +kernel), (by decide +kernel), (by decide +kernel), (by decide +kernel),
   (by decide +kernel), (by decide +kernel), (by decide +kernel)⟩

theorem witness_FlitsAreSentAndReceived_9_verifies :
    ∃ (x : Port) (g : Group) (dcc : Word),
    x.verifies g dcc = true ∧ (g.flits.map (fun b => b.f.fidx)).Nodup ∧ (∀ b ∈ g.flits, b.f.fidx.toNat / 8 = g.grp) :=
  ⟨Port.reset, ⟨0, 0, [⟨{ flit0 with tagv := true }, 50⟩], false⟩, 100, (by decide +kernel), (by decide +kernel), (by decide +kernel)⟩

theorem witness_FlitsAreSentAndReceived_10 :
    ∃ (s : State) (port : BitVec 4) (ent : BitVec 12) (b : Fwd) (h : Got),
    port.toNat < 12 ∧ (s.port port.toNat).st = 4 ∧ (s.port port.toNat).groups = [⟨ent, 0, [b], false⟩] ∧
    b.f.tagv = true ∧ b.f.fidx = 0 ∧ (s.port port.toNat).lost = [] ∧ b.at_.toNat + 2 ≤ s.dcc.toNat ∧ s.forwards port.toNat ent.toNat = false ∧
    SMap.get Part.reset (s.port port.toNat).parts ent.toNat = Part.reset ∧
    headerOf b.f.world b.f.payload.toNat = (s.dev.num.toNat, h) ∧ h.sent ≤ 96 :=
  ⟨linked (fun p => { p with groups := [⟨0, 0, [⟨{ flit0 with tagv := true }, 50⟩], false⟩] }), 0, 0,
   ⟨{ flit0 with tagv := true }, 50⟩, (headerOf 0 0).2, (by decide +kernel), (by decide +kernel), (by decide +kernel), (by decide +kernel), (by decide +kernel),
   (by decide +kernel), (by decide +kernel), (by decide +kernel), (by decide +kernel), (by decide +kernel),
   (by decide +kernel)⟩

theorem witness_PortsMoveBetweenTheirStates_1 :
    ∃ (s : State) (port : BitVec 4),
    port.toNat < 12 ∧ (s.port port.toNat).st = 0 ∧ s.dev.ready = true :=
  ⟨base, 0, (by decide +kernel), (by decide +kernel), (by decide +kernel)⟩

theorem witness_PortsMoveBetweenTheirStates_2 :
    ∃ (s : State) (port : BitVec 4) (a b : Nat) (d : BitVec 9) (p : BitVec 4),
    port.toNat < 12 ∧ (s.port port.toNat).st = 1 ∧ (d.toNat, p.toNat) = wired s.dev.num.toNat port.toNat ∧ a ≤ 1023 ∧ b ≤ 1023 :=
  ⟨linked (fun p => { p with st := 1 }), 0, 40, 1023, BitVec.ofNat 9 (wired 0 0).1, BitVec.ofNat 4 (wired 0 0).2,
   (by decide +kernel), (by decide +kernel), (by decide +kernel), (by decide +kernel), (by decide +kernel)⟩

theorem witness_PortsMoveBetweenTheirStates_2_stranger :
    ∃ (s : State) (port : BitVec 4) (d : BitVec 9) (p : BitVec 4),
    port.toNat < 12 ∧ (s.port port.toNat).st = 1 ∧ (d.toNat, p.toNat) ≠ wired s.dev.num.toNat port.toNat :=
  ⟨linked (fun p => { p with st := 1 }), 0, 0, 0, (by decide +kernel), (by decide +kernel), (by decide +kernel)⟩

theorem witness_PortsMoveBetweenTheirStates_2_far :
    ∃ (s : State) (port : BitVec 4) (a b : Nat) (d : BitVec 9) (p : BitVec 4),
    port.toNat < 12 ∧ (s.port port.toNat).st = 1 ∧ (d.toNat, p.toNat) = wired s.dev.num.toNat port.toNat ∧
    (1023 < a ∨ 1023 < b) :=
  ⟨linked (fun p => { p with st := 1 }), 0, 1024, 48, BitVec.ofNat 9 (wired 0 0).1, BitVec.ofNat 4 (wired 0 0).2,
   (by decide +kernel), (by decide +kernel), (by decide +kernel), (by decide +kernel)⟩

theorem witness_PortsMoveBetweenTheirStates_3_2 :
    ∃ (s : State) (port : BitVec 4),
    port.toNat < 12 ∧ (s.port port.toNat).st = 2 :=
  ⟨linked (fun p => { p with st := 2 }), 0, (by decide +kernel), (by decide +kernel)⟩

theorem witness_PortsMoveBetweenTheirStates_3_3 :
    ∃ (s : State) (port : BitVec 4),
    port.toNat < 12 ∧ (s.port port.toNat).st = 3 :=
  ⟨linked (fun p => { p with st := 3 }), 0, (by decide +kernel), (by decide +kernel)⟩

theorem witness_PortsMoveBetweenTheirStates_3_4 :
    ∃ (s : State) (port : BitVec 4),
    port.toNat < 12 ∧ (s.port port.toNat).st = 4 :=
  ⟨linked (fun p => { p with st := 4 }), 0, (by decide +kernel), (by decide +kernel)⟩

theorem witness_PortsMoveBetweenTheirStates_3_keyed :
    ∃ (s : State) (port : BitVec 4) (w : Nat),
    port.toNat < 12 ∧ (s.port port.toNat).st = 3 ∧ w < 192 ∧ (s.world w).isOpen = true :=
  ⟨linked (fun p => { p with st := 3 }), 0, 0, (by decide +kernel), (by decide +kernel), (by decide +kernel), (by decide +kernel)⟩

theorem witness_PortsMoveBetweenTheirStates_4 :
    ∃ (s : State) (port : BitVec 4) (k : Nat) (who : Nat) (ent : Nat) (idx : Nat),
    port.toNat < 12 ∧ (s.port port.toNat).st ≠ 0 ∧
    (s.port port.toNat).owedTo ++ (s.port port.toNat).owedFrom = [(who, ent, idx)] ∧ who ≠ 0 ∧
    s.keyOf (who / 65536) (who % 65536) = some k ∧ s.ctxAt k ≠ Ctx.reset ∧ ((s.ctxAt k).engAt .fabric).pend = none :=
  ⟨linked (fun p => { p with inject := [(0, [⟨flit0, 65536, true⟩])] }), 0, 0, 65536, 0, 0, (by decide +kernel),
   (by decide +kernel), (by decide +kernel), (by decide +kernel), (by decide +kernel), (by decide +kernel),
   (by decide +kernel)⟩

theorem witness_PortsMoveBetweenTheirStates_5_2 :
    ∃ (s : State) (cp : BitVec 4),
    cp.toNat < 4 ∧ (s.campusPort (cp.setWidth 2)).st = 2 :=
  ⟨camp base (fun c => { c with st := 2 }), 0, (by decide +kernel), (by decide +kernel)⟩

theorem witness_PortsMoveBetweenTheirStates_5_3 :
    ∃ (s : State) (cp : BitVec 4),
    cp.toNat < 4 ∧ (s.campusPort (cp.setWidth 2)).st = 3 :=
  ⟨camp base (fun c => { c with st := 3 }), 0, (by decide +kernel), (by decide +kernel)⟩

theorem witness_PortsMoveBetweenTheirStates_5_4 :
    ∃ (s : State) (cp : BitVec 4),
    cp.toNat < 4 ∧ (s.campusPort (cp.setWidth 2)).st = 4 :=
  ⟨camp base (fun c => { c with st := 4 }), 0, (by decide +kernel), (by decide +kernel)⟩

theorem witness_PortsMoveBetweenTheirStates_6 :
    ∃ (s : State) (port : BitVec 4) (n : Nat),
    port.toNat < 12 ∧ s.dcc.toNat % 2 ^ 20 = 0 ∧ s.dcc ≠ (s.port port.toNat).window ∧ n < 8 ∧
    (BitVec.ofNat 8 (255 - min 255 (SMap.get 0 (s.port port.toNat).corr n / 64))).toNat < (s.port port.toNat).thresh.toNat :=
  ⟨{ (linked (fun p => { p with corr := [(0, 10000)] })) with dcc := 2 ^ 20 }, 0, 0, (by decide +kernel),
   (by decide +kernel), (by decide +kernel), (by decide +kernel), (by decide +kernel)⟩

theorem witness_PortsMoveBetweenTheirStates_7 :
    ∃ (s : State) (port : BitVec 4) (l : Load),
    port.toNat < 12 ∧ s.dcc.toNat % (s.port port.toNat).per = 0 ∧ (s.port port.toNat).next = [l] ∧
    l.at_.toNat ≤ s.dcc.toNat :=
  ⟨{ (linked (fun p => { p with next := [⟨0, [], 0⟩] })) with dcc := 4096 }, 0, ⟨0, [], 0⟩, (by decide +kernel),
   (by decide +kernel), (by decide +kernel), (by decide +kernel)⟩

theorem witness_PortsMoveBetweenTheirStates_8 :
    ∃ (s : State) (port : BitVec 4) (w : Nat),
    port.toNat < 12 ∧ (s.port port.toNat).st = 4 ∧ s.dcc.toNat % 2 ^ 20 = 0 ∧
    SMap.get false (s.port port.toNat).newkey w = true :=
  ⟨{ (linked (fun p => { p with newkey := [(0, true)] })) with dcc := 2 ^ 20 }, 0, 0, (by decide +kernel),
   (by decide +kernel), (by decide +kernel), (by decide +kernel)⟩

theorem witness_PortsMoveBetweenTheirStates_9 :
    ∃ (s : State) (k : Nat),
    s.ctxAt k ≠ Ctx.reset ∧ ((s.ctxAt k).engAt .fabric).pend = none :=
  ⟨base, 0, (by decide +kernel), (by decide +kernel)⟩

theorem witness_LeasesAndInterruptMessages_1 :
    ∃ (s : State) (port : Nat),
    s.dev.ready = true ∧ port = s.dev.holder :=
  ⟨base, 0, (by decide +kernel), (by decide +kernel)⟩

theorem witness_LeasesAndInterruptMessages_1_other :
    ∃ (s : State) (port : Nat),
    s.dev.ready = true ∧ port ≠ s.dev.holder :=
  ⟨base, 1, (by decide +kernel), (by decide +kernel)⟩

theorem witness_LeasesAndInterruptMessages_2 :
    ∃ (s : State) (port : Nat),
    s.dev.ready = true ∧ port < 2 ∧ port ≠ s.dev.holder ∧ s.dev.lexp.toNat ≤ s.dcc.toNat :=
  ⟨{ base with dcc := 1200000000 }, 1, (by decide +kernel), (by decide +kernel), (by decide +kernel),
   (by decide +kernel)⟩

theorem witness_LeasesAndInterruptMessages_2_early :
    ∃ (s : State) (port : Nat),
    s.dev.ready = true ∧ port < 2 ∧ s.dcc.toNat < s.dev.lexp.toNat :=
  ⟨base, 1, (by decide +kernel), (by decide +kernel), (by decide +kernel)⟩

theorem witness_LeasesAndInterruptMessages_3 :
    ∃ (s : State),
    s.dev.lexp.toNat ≤ s.dcc.toNat :=
  ⟨{ base with dcc := 1200000000 }, (by decide +kernel)⟩

theorem witness_LeasesAndInterruptMessages_4 :
    ∃ (s : State) (fn : Nat) (v : Nat),
    max 1 (s.vector fn v).cnt.toNat ≤ (s.vector fn v).e :=
  ⟨withWorld base (fun x => { x with vec := [(0, { Msix.reset with e := 1 })] }), 0, 0, (by decide +kernel)⟩

theorem witness_LeasesAndInterruptMessages_5 :
    ∃ (s : State) (fn : Nat) (v : Nat),
    (s.vector fn v).timer ≠ 0 ∧ 0 < (s.vector fn v).e ∧
    (s.vector fn v).f.toNat + 1024 * (s.vector fn v).timer.toNat ≤ s.dcc.toNat :=
  ⟨withWorld { base with dcc := 1024 } (fun x => { x with vec := [(0, { Msix.reset with e := 1, timer := 1 })] }), 0,
   0, (by decide +kernel), (by decide +kernel), (by decide +kernel)⟩

theorem witness_LeasesAndInterruptMessages_6 :
    ∃ (s : State) (fn : Nat) (v : Nat),
    s.dev.ready = true ∧ (s.vector fn v).pend = true ∧ (s.vecs fn).2 = false :=
  ⟨withWorld base (fun x => { x with vec := [(0, { Msix.reset with e := 1, pend := true })] }), 0, 0, (by decide +kernel),
   (by decide +kernel), (by decide +kernel)⟩

theorem witness_LeasesAndInterruptMessages_7 :
    ∃ (s : State) (fn : Nat) (v : Nat),
    s.dev.ready = true ∧ v < (if fn < 192 then 4 else 5) ∧ (s.vector fn v).masked = false ∧ (s.vector fn v).pend = true :=
  ⟨withWorld base (fun x => { x with vec := [(3, { Msix.reset with e := 1, pend := true, masked := false })] }), 0, 3, (by decide +kernel),
   (by decide +kernel), (by decide +kernel), (by decide +kernel)⟩

theorem witness_LeasesAndInterruptMessages_8 :
    ∃ (s : State) (v : MsixWrite),
    v.port ≠ s.dev.holder :=
  ⟨base, ⟨1, .function true⟩, (by decide +kernel)⟩

theorem witness_InterfacesAndStreams_2 :
    ∃ (s : State) (w : Nat),
    (s.world w).tdisp = .unlocked :=
  ⟨base, 0, (by decide +kernel)⟩

theorem witness_InterfacesAndStreams_3 :
    ∃ (s : State) (w : Nat),
    (s.world w).tdisp ≠ .unlocked :=
  ⟨withWorld base (fun x => { x with tdisp := .locked }), 0, (by decide +kernel)⟩

theorem witness_InterfacesAndStreams_4 :
    ∃ (s : State) (w : Nat),
    (s.world w).tdisp = .locked ∧
    ((∀ k, k < 4 → (SMap.get Subq.reset (s.world w).sq k).head = (SMap.get Subq.reset (s.world w).sq k).tail)) :=
  ⟨withWorld base (fun x => { x with tdisp := .locked }), 0, (by decide +kernel), (by decide +kernel)⟩

theorem witness_InterfacesAndStreams_5 :
    ∃ (s : State) (w : Nat),
    (s.world w).tdisp ≠ .locked :=
  ⟨base, 0, (by decide +kernel)⟩

/-- A device with a request of world 0 outstanding. -/
def asked0 : State := withDev base (fun d => { d with reqs := [req0] })

theorem witness_InterfacesAndStreams_6 :
    ∃ (s : State) (w : Nat) (set : Bool),
    s.tagsOut w set = true :=
  ⟨asked0, 0, false, (by decide +kernel)⟩

theorem witness_InterfacesAndStreams_6_drains :
    ∃ (s : State) (w : Nat) (set : Bool) (key : BitVec 256),
    (s.world w).rx.old = none ∧ (s.world w).rx.wait = some (set, key) ∧ s.tagsOut w set = false :=
  ⟨withWorld base (fun x => { x with rx := { x.rx with wait := some (true, 5) } }), 0, true, 5, (by decide +kernel),
   (by decide +kernel), (by decide +kernel)⟩

theorem witness_InterfacesAndStreams_7 :
    ∃ (s : State) (w : Nat) (rx set : Bool),
    (rx = false ∨ s.tagsOut w set = false) :=
  ⟨asked0, 0, false, false, (by decide +kernel)⟩

theorem witness_InterfacesAndStreams_7_rx :
    ∃ (s : State) (w : Nat) (rx set : Bool),
    rx = true ∧ (rx = false ∨ s.tagsOut w set = false) :=
  ⟨asked0, 0, true, true, (by decide +kernel), (by decide +kernel)⟩

theorem witness_InterfacesAndStreams_8 :
    ∃ (s : State) (w : Nat) (rx : Bool) (set : Bool),
    (ide s w rx).go ≠ set ∧ (ide s w (!rx)).old = none ∧ (s.world w).rx.wait = none :=
  ⟨base, 0, true, true, (by decide +kernel), (by decide +kernel), (by decide +kernel)⟩

theorem witness_InterfacesAndStreams_9 :
    ∃ (s : State) (tag : BitVec 14) (r : HostReq) (k : Nat),
    s.dev.reqs.find? (fun r => r.tag = tag) = some r ∧ r.key = some k ∧ r.since.toNat + 60000000 ≤ s.dcc.toNat :=
  ⟨withDev { base with dcc := 60000000 } (fun d => { d with reqs := [req0] }), 0, req0, 0, (by decide +kernel),
   (by decide +kernel), (by decide +kernel)⟩

theorem witness_InterfacesAndStreams_10 :
    ∃ (s : State) (tag : BitVec 14) (port : Nat) (k : Nat) (r : HostReq) (x : PCmd),
    s.dev.reqs.find? (fun r => r.tag = tag ∧ r.port = port) = some r ∧ r.key = some k ∧
    (s.ctxAt k).pump.fly.find? (fun x => x.cap.age = r.age) = some x :=
  ⟨withDev (withPump base (fun p => { p with fly := [pcmd (.pfill pOne)] })) (fun d => { d with reqs := [req0] }), 0,
   0, 0, req0, pcmd (.pfill pOne), (by decide +kernel), (by decide +kernel), (by decide +kernel)⟩

theorem witness_InterfacesAndStreams_10_gone :
    ∃ (s : State) (tag : BitVec 14) (port : Nat) (k : Nat) (r : HostReq),
    s.dev.reqs.find? (fun r => r.tag = tag ∧ r.port = port) = some r ∧ r.key = some k ∧
    ((r.src ≠ 2 ∨ ∀ x ∈ (s.ctxAt k).pump.fly, x.cap.age ≠ r.age)) :=
  ⟨asked0, 0, 0, 0, req0, (by decide +kernel), (by decide +kernel), (by decide +kernel)⟩

theorem witness_InterfacesAndStreams_10_none :
    ∃ (s : State) (tag : BitVec 14) (port : Nat) (r : HostReq),
    s.dev.reqs.find? (fun r => r.tag = tag ∧ r.port = port) = some r ∧ r.key = none :=
  ⟨withDev base (fun d => { d with reqs := [{ req0 with key := none }] }), 0, 0, { req0 with key := none }, (by decide +kernel),
   (by decide +kernel)⟩

theorem witness_InterfacesAndStreams_11 :
    ∃ (s : State) (tag : BitVec 14) (port : Nat),
    ((∀ r ∈ s.dev.reqs, r.tag = tag → r.port ≠ port)) :=
  ⟨withDev base (fun d => { d with reqs := [req0] }), 0, 1, (by decide +kernel)⟩

theorem witness_InterfacesAndStreams_12 :
    ∃ (s : State) (tag : BitVec 14) (port : Nat) (r : HostReq),
    s.dev.reqs.find? (fun r => r.tag = tag ∧ r.port = port) = some r :=
  ⟨withDev base (fun d => { d with reqs := [req0] }), 0, 0, req0, (by decide +kernel)⟩

theorem witness_WindowsAndRegistersAreWritten_1 :
    ∃ (s : State) (port : Nat) (off : Nat) (n : Nat),
    s.dev.ready = true ∧ port < 2 ∧ 0 < n ∧ off + n ≤ Config.hbmReserved ∧
    (∀ l ∈ linesOf off n, s.regionWorld (64 * l) = none) ∧ s.badRun [(off, n)] = none :=
  ⟨base, 0, 2 ^ 25, 64, (by decide +kernel), (by decide +kernel), (by decide +kernel), (by decide +kernel),
   (by decide +kernel), (by decide +kernel)⟩

theorem witness_WindowsAndRegistersAreWritten_2 :
    ∃ (s : State) (port : Nat) (off : Nat) (n : Nat) (l : Nat),
    s.dev.ready = true ∧ port < 2 ∧ 0 < n ∧ l ∈ linesOf off n ∧ s.regionWorld (64 * l) ≠ none :=
  ⟨base, 0, 0, 64, 0, (by decide +kernel), (by decide +kernel), (by decide +kernel), (by decide +kernel),
   (by decide +kernel)⟩

theorem witness_WindowsAndRegistersAreWritten_3 :
    ∃ (s : State) (port : Nat) (off : Nat) (n : Nat) (w : Nat) (l : List (Tlb × Nat × Nat)),
    s.dev.ready = true ∧ port < 2 ∧ 0 < n ∧ (s.world w).tdisp ≠ .error ∧ off + n ≤ 2 ^ (s.world w).mwlog ∧
    (s.heldIn 1024).length + l.length ≤ 4096 ∧ s.pagesOf w ((s.world w).mwva + off) n = .ok l ∧
    (∀ e ∈ l, e.1.host = false ∧ e.1.wb = false ∧ e.1.flat e.2.1 < Config.hostBase ∧
      s.hbmGrant (some w) (e.1.flat e.2.1) e.2.2 = true) ∧
    s.badRun (l.map (fun e => (e.1.flat e.2.1, e.2.2))) = none :=
  ⟨base, 0, 64, 64, 0, [(⟨0, 2 ^ 25, 0, false, false, false, 0, 0, []⟩, 64, 64)], (by decide +kernel),
   (by decide +kernel), (by decide +kernel), (by decide +kernel), (by decide +kernel), (by decide +kernel), rfl, (by decide +kernel),
   (by decide +kernel)⟩

theorem witness_WindowsAndRegistersAreWritten_4 :
    ∃ (s : State) (port : Nat) (n : Nat) (w : Nat),
    s.dev.ready = true ∧ port < 2 ∧ 0 < n ∧ (s.world w).tdisp = .error :=
  ⟨withWorld base (fun x => { x with tdisp := .error }), 0, 8, 0, (by decide +kernel), (by decide +kernel),
   (by decide +kernel), (by decide +kernel)⟩

theorem witness_WindowsAndRegistersAreWritten_hart_pf :
    ∃ (s : State) (i : Nat) (a : Nat) (n : Nat),
    let h := SMap.get Hart.reset s.dev.harts i
    s.dev.ready = true ∧ i < 16 ∧ 0 < n ∧ h.pfNow = true ∧ a + n ≤ 2 ^ 57 :=
  ⟨base, 15, 2 ^ 57 - 8, 8, (by decide +kernel), (by decide +kernel), (by decide +kernel), (by decide +kernel), (by decide +kernel)⟩

/-- The device with hart 0 in world 0. -/
def harted : State := withDev base (fun d => { d with harts := [(0, ⟨false, 0, false, 0, 0⟩)] })

theorem witness_WindowsAndRegistersAreWritten_hart_page :
    ∃ (s : State) (i : Nat) (a : Nat) (n : Nat),
    let h := SMap.get Hart.reset s.dev.harts i
    s.dev.ready = true ∧ i < 16 ∧ 0 < n ∧ h.pfNow = false ∧ a < 0x10000 :=
  ⟨harted, 0, 0xFFF8, 8, (by decide +kernel), (by decide +kernel), (by decide +kernel), (by decide +kernel), (by decide +kernel)⟩

theorem witness_WindowsAndRegistersAreWritten_hart_world :
    ∃ (s : State) (i : Nat) (a : Nat) (n : Nat) (l : List (Tlb × Nat × Nat)),
    let h := SMap.get Hart.reset s.dev.harts i
    s.dev.ready = true ∧ i < 16 ∧ 0 < n ∧ h.pfNow = false ∧ a + n ≤ 2 ^ 57 ∧ (s.heldIn 1024).length + l.length ≤ 4096 ∧
    s.pagesOf h.worldNow.toNat a n = .ok l ∧
    (∀ e ∈ l, e.1.host = false ∧ e.1.wb = false ∧ s.hbmGrant (some h.worldNow.toNat) (e.1.flat e.2.1) e.2.2 = true) :=
  ⟨harted, 0, 64, 64, [(⟨0, 2 ^ 25, 0, false, false, false, 0, 0, []⟩, 64, 64)], (by decide +kernel), (by decide +kernel),
   (by decide +kernel), (by decide +kernel), (by decide +kernel), (by decide +kernel), rfl, (by decide +kernel)⟩

theorem witness_WindowsAndRegistersAreWritten_5 :
    ∃ (s : State) (i : Nat),
    s.dev.ready = true ∧ i < 16 ∧ (SMap.get Hart.reset s.dev.harts i).pf = true :=
  ⟨base, 0, (by decide +kernel), (by decide +kernel), (by decide +kernel)⟩

theorem witness_WindowsAndRegistersAreWritten_5_frozen :
    ∃ (s : State) (i : Nat),
    s.dev.ready = true ∧ i < 16 ∧ (SMap.get Hart.reset s.dev.harts i).pf = false ∧
    (s.world (SMap.get Hart.reset s.dev.harts i).world.toNat).tdisp ≠ .unlocked :=
  ⟨
   withDev (withWorld base (fun x => { x with tdisp := .locked })) (fun d => { d with harts := [(0, ⟨false, 0, false, 0, 0⟩)] }),
   0, (by decide +kernel), (by decide +kernel), (by decide +kernel), (by decide +kernel)⟩

theorem witness_WindowsAndRegistersAreWritten_6 :
    ∃ (s : State) (vf : Option Nat) (page : RegPage) (off : Nat),
    ((s.dev.ready = false ∨ off % 8 ≠ 0 ∨ (∃ n, vf = some n ∧ page ≠ .world n) ∨ s.mayWriteVia 0 vf = false)) :=
  ⟨base, none, .dev, 1, .inr (.inl (by decide +kernel))⟩

theorem witness_WindowsAndRegistersAreWritten_6_vf :
    ∃ (s : State) (vf : Option Nat) (page : RegPage) (off : Nat),
    ((s.dev.ready = false ∨ off % 8 ≠ 0 ∨ (∃ n, vf = some n ∧ page ≠ .world n) ∨ s.mayWriteVia 0 vf = false)) :=
  ⟨base, (some 0), .dev, 0, .inr (.inr (.inl ⟨0, rfl, nofun⟩))⟩

theorem witness_WindowsAndRegistersAreWritten_6_early :
    ∃ (s : State) (vf : Option Nat) (page : RegPage) (off : Nat),
    ((s.dev.ready = false ∨ off % 8 ≠ 0 ∨ (∃ n, vf = some n ∧ page ≠ .world n) ∨ s.mayWriteVia 0 vf = false)) :=
  ⟨withDev base (fun d => { d with ready := false }), none, .dev, 0, .inl (by decide +kernel)⟩

theorem witness_WindowsAndRegistersAreWritten_6_hart :
    ∃ (s : State) (port : Nat) (vf : Option Nat),
    s.mayWriteVia port vf = false :=
  ⟨harted, 2, none, (by decide +kernel)⟩

theorem witness_WindowsAndRegistersAreWritten_7 :
    ∃ (s : State) (port : Nat),
    s.dev.ready = true ∧ port < 2 ∧ (∀ e ∈ s.ports, e.2.st = 0) :=
  ⟨base, 0, (by decide +kernel), (by decide +kernel), (by decide +kernel)⟩

theorem witness_WindowsAndRegistersAreWritten_8 :
    ∃ (s : State) (port : Nat),
    s.dev.ready = true ∧ port < 2 :=
  ⟨base, 0, (by decide +kernel), (by decide +kernel)⟩

theorem witness_WindowsAndRegistersAreWritten_9 :
    ∃ (s : State) (port : Nat) (w : Nat) (vf : Option Nat),
    Reaches s port vf w :=
  ⟨base, 0, 0, (some 0), (by
    unfold Reaches
    decide +kernel)⟩

theorem witness_WindowsAndRegistersAreWritten_10 :
    ∃ (s : State) (port : Nat) (w : Nat) (k : Nat) (vf : Option Nat),
    Reaches s port vf w ∧ k < 4 :=
  ⟨base, 0, 0, 3, (some 0), (by
    unfold Reaches
    decide +kernel), (by decide +kernel)⟩

theorem witness_WindowsAndRegistersAreWritten_11 :
    ∃ (s : State) (port : Nat) (w : Nat) (vf : Option Nat),
    Reaches s port vf w ∧ vf = none ∧ (s.world w).tdisp = .unlocked ∧ s.bound w = false :=
  ⟨idle, 0, 0, none, (by
    unfold Reaches
    decide +kernel), (by decide +kernel), (by decide +kernel),
   (by decide +kernel)⟩

theorem witness_WindowsAndRegistersAreWritten_11_locked :
    ∃ (s : State) (port : Nat) (w : Nat) (vf : Option Nat),
    Reaches s port vf w ∧ vf = none ∧ (s.world w).tdisp ≠ .unlocked :=
  ⟨withWorld base (fun x => { x with tdisp := .locked }), 0, 0, none, (by
    unfold Reaches
    decide +kernel),
   (by decide +kernel), (by decide +kernel)⟩

theorem witness_WindowsAndRegistersAreWritten_11_vf :
    ∃ (s : State) (port : Nat) (w : Nat) (vf : Option Nat),
    Reaches s port vf w ∧ vf = some w :=
  ⟨base, 0, 0, (some 0), (by
    unfold Reaches
    decide +kernel), (by decide +kernel)⟩

theorem witness_WindowsAndRegistersAreWritten_11_window :
    ∃ (s : State) (port : Nat) (w : Nat) (vf : Option Nat) (v : Word),
    let n := if vf = none then v.toNat % 2 ^ 6 else (s.world w).mwnext
    Reaches s port vf w ∧ vf = some w ∧ (s.world w).tdisp = .unlocked ∧ 20 ≤ n ∧ n ≤ 40 ∧ v.toNat % 2 ^ 57 / 2 ^ 20 * 2 ^ 20 % 2 ^ n = 0 :=
  ⟨base, 0, 0, some 0, 2 ^ 41, (by
    unfold Reaches
    decide +kernel), (by decide +kernel), (by decide +kernel), (by decide +kernel), (by decide +kernel), (by decide +kernel)⟩

theorem witness_WindowsAndRegistersAreWritten_11_window_frozen :
    ∃ (s : State) (port : Nat) (w : Nat) (vf : Option Nat),
    Reaches s port vf w ∧ (s.world w).tdisp ≠ .unlocked :=
  ⟨withWorld base (fun x => { x with tdisp := .locked }), 0, 0, some 0, (by
    unfold Reaches
    decide +kernel), (by decide +kernel)⟩

theorem witness_WindowsAndRegistersAreWritten_11_owner :
    ∃ (s : State) (port p b w : Nat),
    s.dev.ready = true ∧ port < 2 ∧ p < 12 ∧ b < 64 ∧ (SMap.get 0xFF (s.port p).own b).toNat = w ∧ w ≤ 191 ∧
    (s.world w).tdisp ≠ .unlocked :=
  ⟨{ (withWorld base (fun x => { x with tdisp := .run })) with ports := [(11, { Port.reset with own := [(63, 0)] })] }, 0, 11, 63, 0,
   (by decide +kernel), (by decide +kernel), (by decide +kernel), (by decide +kernel), (by decide +kernel), (by decide +kernel),
   (by decide +kernel)⟩

theorem witness_WindowsAndRegistersAreWritten_12 :
    ∃ (s : State) (port : Nat) (p : Nat) (v : Word),
    s.dev.ready = true ∧ port < 2 ∧ p < 12 ∧ v.toNat % 2 ^ 21 % 64 = 0 ∧ 1024 ≤ v.toNat % 2 ^ 21 ∧
    v.toNat % 2 ^ 21 ≤ 1048576 :=
  ⟨base, 0, 11, 1024, (by decide +kernel), (by decide +kernel), (by decide +kernel), (by decide +kernel),
   (by decide +kernel), (by decide +kernel)⟩

theorem witness_WindowsAndRegistersAreWritten_13 :
    ∃ (s : State) (port : Nat) (q : Nat) (v : Word),
    s.dev.ready = true ∧ port < 2 ∧ q < 4 ∧ 12000 ≤ v.toNat % 2 ^ 32 :=
  ⟨base, 0, 3, 12000, (by decide +kernel), (by decide +kernel), (by decide +kernel), (by decide +kernel)⟩

theorem witness_WindowsAndRegistersAreWritten_14 :
    ∃ (s : State) (port : Nat) (w : Nat) (n : Nat) (off : Nat),
    Reaches s port none w ∧ (s.world w).tdisp = .unlocked ∧ n < 16 ∧ (off = 0x600 + 24 * n ∨ off = 0x608 + 24 * n) ∧
    s.bound w = true :=
  ⟨base, 0, 0, 15, 0x770, (by
    unfold Reaches
    decide +kernel), (by decide +kernel), (by decide +kernel), (by decide +kernel), (by decide +kernel)⟩

theorem witness_WindowsAndRegistersAreWritten_14_unbound :
    ∃ (s : State) (port : Nat) (w : Nat) (n : Nat) (off : Nat) (a : Nat),
    Reaches s port none w ∧ (s.world w).tdisp = .unlocked ∧ n < 16 ∧ (off = 0x600 + 24 * n ∨ off = 0x608 + 24 * n) ∧
    s.bound w = false ∧ a < Config.hbmTop :=
  ⟨idle, 0, 0, 0, 0x600, 0, (by
    unfold Reaches
    decide +kernel), (by decide +kernel), (by decide +kernel), (by decide +kernel), (by decide +kernel),
   (by decide +kernel)⟩

theorem witness_WindowsAndRegistersAreWritten_15 :
    ∃ (s : State) (vf : Option Nat) (page : RegPage) (off : Nat),
    ((off % 8 ≠ 0 ∨ (∃ n, vf = some n ∧ page ≠ .world n) ∨ (∃ w, page = .world w ∧ 191 < w) ∨
      (s.dev.ready = false ∧ page ≠ .dev))) :=
  ⟨base, none, .world 192, 0, .inr (.inr (.inl ⟨192, rfl, (by decide +kernel)⟩))⟩

theorem witness_WindowsAndRegistersAreWritten_15_vf :
    ∃ (s : State) (vf : Option Nat) (page : RegPage) (off : Nat),
    ((off % 8 ≠ 0 ∨ (∃ n, vf = some n ∧ page ≠ .world n) ∨ (∃ w, page = .world w ∧ 191 < w) ∨
      (s.dev.ready = false ∧ page ≠ .dev))) :=
  ⟨base, some 1, .world 0, 0, .inr (.inl ⟨1, rfl, nofun⟩)⟩

theorem witness_WindowsAndRegistersAreWritten_16 :
    ∃ (s : State) (w : Nat) (vf : Option Nat),
    s.dev.ready = true ∧ w ≤ 191 ∧ (vf = none ∨ vf = some w) :=
  ⟨base, 191, some 191, (by decide +kernel), (by decide +kernel), (by decide +kernel)⟩

theorem witness_FirmwareIsSwitched_1 :
    ∃ (s : State),
    s.dev.ready = true :=
  ⟨base, (by decide +kernel)⟩

theorem witness_FirmwareIsSwitched_2 :
    ∃ (s : State) (port : Nat),
    port ≠ s.dev.holder :=
  ⟨base, 1, (by decide +kernel)⟩

theorem witness_FirmwareIsSwitched_3 :
    ∃ (s : State) (a : Bool) (b : Bool),
    s.dev.fw.state = 1 ∧ (a && b) = false :=
  ⟨withDev base (fun d => { d with fw := { d.fw with state := 1 } }), true, false, (by decide +kernel),
   (by decide +kernel)⟩

theorem witness_FirmwareIsSwitched_4 :
    ∃ (s : State),
    s.dev.fw.state = 1 :=
  ⟨withDev base (fun d => { d with fw := { d.fw with state := 1 } }), (by decide +kernel)⟩

theorem witness_FirmwareIsSwitched_5 :
    ∃ (s : State),
    s.dev.fw.state = 2 ∧ (∀ k ∈ s.dev.fw.held, (s.ctxAt k).calling = false) :=
  ⟨withDev base (fun d => { d with fw := { d.fw with state := 2, held := [0], bells := [.queue 0 1] } }), (by decide +kernel),
   (by decide +kernel)⟩

theorem witness_FirmwareIsSwitched_6 :
    ∃ (s : State) (k : Nat),
    s.dev.fw.state = 2 ∧ k ∈ s.dev.fw.held ∧ (s.ctxAt k).calling = true :=
  ⟨withDev (holding0 (.svc 0 [])) (fun d => { d with fw := { d.fw with state := 2, held := [0] } }), 0,
   (by decide +kernel), (by decide +kernel), (by decide +kernel)⟩

theorem witness_MigrationMovesAWorld_1 :
    ∃ (s : State) (w : Nat) (port : BitVec 4),
    s.dev.ready = true ∧ w ≤ 191 ∧ s.dev.mig.busy = false ∧ s.linkUp port = false :=
  ⟨base, 0, 0, (by decide +kernel), (by decide +kernel), (by decide +kernel), (by decide +kernel)⟩

theorem witness_MigrationMovesAWorld_1_empty :
    ∃ (s : State) (w : Nat) (port : BitVec 4),
    s.dev.ready = true ∧ w ≤ 191 ∧ s.dev.mig.busy = false ∧ s.linkUp port = true ∧ s.gangsOf w = [] :=
  ⟨(linked id), 191, 0, (by decide +kernel), (by decide +kernel), (by decide +kernel), (by decide +kernel),
   (by decide +kernel)⟩

theorem witness_MigrationMovesAWorld_1_starts :
    ∃ (s : State) (w : Nat) (port : BitVec 4),
    s.dev.ready = true ∧ w ≤ 191 ∧ s.dev.mig.busy = false ∧ s.linkUp port = true ∧ s.gangsOf w ≠ [] :=
  ⟨(linked id), 0, 0, (by decide +kernel), (by decide +kernel), (by decide +kernel), (by decide +kernel),
   (by decide +kernel)⟩

theorem witness_MigrationMovesAWorld_1_busy :
    ∃ (s : State) (w : Nat),
    s.dev.ready = true ∧ w ≤ 191 ∧ s.dev.mig.busy = true :=
  ⟨withDev base (fun d => { d with mig := { d.mig with state := 1 } }), 191, (by decide +kernel), (by decide +kernel), (by decide +kernel)⟩

theorem witness_MigrationMovesAWorld_2 :
    ∃ (s : State) (w : Nat),
    s.dev.ready = true ∧ w ≤ 191 ∧ s.dev.mig.busy = false :=
  ⟨base, 0, (by decide +kernel), (by decide +kernel), (by decide +kernel)⟩

theorem witness_MigrationMovesAWorld_3 :
    ∃ (s : State) (w : Nat),
    s.dev.ready = true ∧ s.dev.mig.accept = some (BitVec.ofNat 8 w) ∧ s.dev.mig.busy = false ∧
    s.linkUp s.dev.mig.ctlPort = true :=
  ⟨withDev (linked id) (fun d => { d with mig := { d.mig with accept := some 0 } }), 0, (by decide +kernel),
   (by decide +kernel), (by decide +kernel), (by decide +kernel)⟩

/-- A device with no context bound and a launch record of one strand at address 1000h of world 0. -/
def recorded : State := { idle with mem := Mem.write [] 0x1000 8 (1 + 2 ^ 38) }
/-- A gang of that record, with its strand in slot 0 of core 1. -/
def sealedGang0 : SealedGang := ⟨5, 7, 0, 0x1000, [⟨2, 0, 0, 0, [(0, 1)], []⟩]⟩
/-- The context of world 0 with that gang and region 0 as it is. -/
def sealed0 : Sealed := ⟨[sealedGang0], [(0, 0, 2 ^ 25)], [], [], 1, []⟩
/-- A device that holds it sealed. -/
def holds0 (s : State) : State := withDev s (fun d => { d with mig := { d.mig with state := 3, context := some sealed0 } })

theorem witness_MigrationMovesAWorld_4 :
    ∃ (s : State) (w : Nat) (port : BitVec 4) (c : Sealed) (g : SealedGang) (v : State),
    let m := { s.dev.mig with ctlWorld := BitVec.ofNat 8 w, ctlPort := port }
    let u := { s with dev := { s.dev with mig := m } }
    s.dev.ready = true ∧ w ≤ 191 ∧ s.dev.mig.state = 3 ∧ s.dev.mig.world = BitVec.ofNat 8 w ∧ s.dev.mig.placed = false ∧
    s.dev.mig.context = some c ∧ c.gangs = [g] ∧ s.idUsed g.id = false ∧ u.roomFor w c = true ∧
    (u.putWorld w c).putGang w g = some v :=
  ⟨holds0 recorded, 0, 0, sealed0, sealedGang0, _, (by decide +kernel), (by decide +kernel), (by decide +kernel), (by decide +kernel),
   (by decide +kernel), rfl, rfl, (by decide +kernel), (by decide +kernel), some_getD base (by decide +kernel)⟩

theorem witness_MigrationMovesAWorld_4_full :
    ∃ (s : State) (w : Nat) (port : BitVec 4) (c : Sealed),
    let m := { s.dev.mig with ctlWorld := BitVec.ofNat 8 w, ctlPort := port }
    let u := { s with dev := { s.dev with mig := m } }
    s.dev.ready = true ∧ w ≤ 191 ∧ s.dev.mig.state = 3 ∧ s.dev.mig.world = BitVec.ofNat 8 w ∧ s.dev.mig.placed = false ∧
    s.dev.mig.context = some c ∧ (∀ g ∈ c.gangs, s.idUsed g.id = false) ∧ u.roomFor w c = false :=
  ⟨holds0 base, 0, 0, sealed0, (by decide +kernel), (by decide +kernel), (by decide +kernel), (by decide +kernel),
   (by decide +kernel), rfl, (by decide +kernel), (by decide +kernel)⟩

theorem witness_MigrationMovesAWorld_4_used :
    ∃ (s : State) (w : Nat) (c : Sealed),
    s.dev.ready = true ∧ w ≤ 191 ∧ s.dev.mig.state = 3 ∧ s.dev.mig.world = BitVec.ofNat 8 w ∧ s.dev.mig.placed = false ∧
    s.dev.mig.context = some c ∧ (∃ g ∈ c.gangs, s.idUsed g.id = true) :=
  ⟨holds0 { base with gangs := [(1, some gang1), (5, some gang1)] }, 0, sealed0, (by decide +kernel), (by decide +kernel), (by decide +kernel),
   (by decide +kernel), (by decide +kernel), rfl, (by decide +kernel)⟩

theorem record_eq {x : State × Option LaunchRec} (h : x.2.isSome = true) : x = (x.1, some (x.2.getD rec2)) := by
  obtain ⟨a, b⟩ := x
  cases b with
  | none => cases h
  | some v => rfl

theorem witness_MigrationMovesAWorld_4_gang :
    ∃ (s u : State) (w : Nat) (g : SealedGang) (r : LaunchRec),
    s.readRecord w g.va = (u, some r) ∧ (g.strands.map (fun x => x.key)).Nodup :=
  ⟨recorded, _, 0, sealedGang0, _, record_eq (by decide +kernel), (by decide +kernel)⟩

theorem witness_MigrationMovesAWorld_5 :
    ∃ (s : State),
    s.dev.mig.state = 1 ∧ s.dev.mig.built = true ∧ s.dev.mig.receipt = false :=
  ⟨withDev base (fun d => { d with mig := { d.mig with state := 1, built := true } }), (by decide +kernel), (by decide +kernel),
   (by decide +kernel)⟩

theorem witness_MigrationMovesAWorld_5_early :
    ∃ (s : State),
    s.dev.mig.built = false :=
  ⟨base, (by decide +kernel)⟩

theorem witness_MigrationMovesAWorld_5_sends :
    ∃ (s : State),
    s.dev.mig.notice = none ∧ s.dev.mig.state = 1 ∧ s.dev.mig.built = false ∧ s.contextsOut s.dev.mig.world.toNat = true ∧
    s.linkUp s.dev.mig.ctlPort = true :=
  ⟨withDev { (linked id) with ctxs := (ganged gang1 .out).ctxs } (fun d => { d with mig := { d.mig with state := 1 } }), (by decide +kernel),
   (by decide +kernel), (by decide +kernel), (by decide +kernel), (by decide +kernel)⟩

theorem witness_MigrationMovesAWorld_5_waits :
    ∃ (s : State),
    s.dev.mig.notice = none ∧ s.dev.mig.state = 1 ∧ s.dev.mig.built = false ∧ s.contextsOut s.dev.mig.world.toNat = false :=
  ⟨withDev base (fun d => { d with mig := { d.mig with state := 1 } }), (by decide +kernel), (by decide +kernel), (by decide +kernel),
   (by decide +kernel)⟩

theorem witness_MigrationMovesAWorld_5_bound :
    ∃ (s : State),
    s.dev.mig.notice = none ∧ s.dev.mig.state = 1 ∧ s.dev.mig.built = true ∧ s.dev.mig.receipt = true ∧
    ((s.bound s.dev.mig.world.toNat = true ∨ (s.world s.dev.mig.world.toNat).closing = true)) :=
  ⟨withDev base (fun d => { d with mig := { d.mig with state := 1, built := true, receipt := true } }), (by decide +kernel),
   (by decide +kernel), (by decide +kernel), (by decide +kernel), (by decide +kernel)⟩

theorem witness_MigrationMovesAWorld_5_receipted :
    ∃ (s : State),
    s.dev.mig.notice = none ∧ s.dev.mig.state = 1 ∧ s.dev.mig.built = true ∧ s.dev.mig.receipt = true ∧
    s.bound s.dev.mig.world.toNat = false ∧ (s.world s.dev.mig.world.toNat).closing = false :=
  ⟨withDev idle (fun d => { d with mig := { d.mig with state := 1, built := true, receipt := true } }), (by decide +kernel),
   (by decide +kernel), (by decide +kernel), (by decide +kernel), (by decide +kernel), (by decide +kernel)⟩

theorem witness_MigrationMovesAWorld_5_running :
    ∃ (s : State),
    s.dev.mig.notice = none ∧ s.dev.mig.state = 3 ∧ s.dev.mig.placed = true ∧ s.allResumed s.dev.mig.gangs = true :=
  ⟨withDev base (fun d => { d with mig := { d.mig with state := 3, placed := true, gangs := [(1, 7, 0)] } }), (by decide +kernel),
   (by decide +kernel), (by decide +kernel), (by decide +kernel)⟩

theorem witness_MigrationMovesAWorld_5_resuming :
    ∃ (s : State),
    s.dev.mig.notice = none ∧ s.dev.mig.state = 3 ∧ s.dev.mig.placed = true ∧ s.allResumed s.dev.mig.gangs = false :=
  ⟨withDev (ganged { gang1 with running := false, preempted := true } .out)
     (fun d => { d with mig := { d.mig with state := 3, placed := true, gangs := [(1, 7, 0)] } }), (by decide +kernel),
   (by decide +kernel), (by decide +kernel), (by decide +kernel)⟩

theorem witness_MigrationMovesAWorld_5_notice :
    ∃ (s : State) (p : BitVec 4),
    s.dev.mig.notice = some p ∧ s.dev.mig.state = 7 ∧ s.dev.mig.placed = false ∧ s.linkUp p = true :=
  ⟨withDev (linked id) (fun d => { d with mig := { d.mig with state := 7, notice := some 0 } }), 0, (by decide +kernel),
   (by decide +kernel), (by decide +kernel), (by decide +kernel)⟩

theorem witness_MigrationMovesAWorld_5_notice_down :
    ∃ (s : State) (p : BitVec 4),
    s.dev.mig.notice = some p ∧ s.dev.mig.state = 7 ∧ s.dev.mig.placed = false ∧ s.linkUp p = false :=
  ⟨withDev base (fun d => { d with mig := { d.mig with state := 7, notice := some 0 } }), 0, (by decide +kernel),
   (by decide +kernel), (by decide +kernel), (by decide +kernel)⟩

theorem witness_MigrationMovesAWorld_6 :
    ∃ (s : State),
    s.dev.mig.state = 2 :=
  ⟨withDev base (fun d => { d with mig := { d.mig with state := 2 } }), (by decide +kernel)⟩

theorem witness_MigrationMovesAWorld_7 :
    ∃ (s : State),
    s.dev.mig.state = 2 :=
  ⟨withDev base (fun d => { d with mig := { d.mig with state := 2 } }), (by decide +kernel)⟩

theorem witness_MigrationMovesAWorld_8 :
    ∃ (s : State) (w : Nat),
    s.dev.ready = true ∧ s.dev.mig.world.toNat = w ∧ w ≤ 191 ∧ s.dev.mig.state = 6 :=
  ⟨withDev base (fun d => { d with mig := { d.mig with state := 6 } }), 0, (by decide +kernel), (by decide +kernel),
   (by decide +kernel), (by decide +kernel)⟩

theorem witness_MigrationMovesAWorld_8_discard :
    ∃ (s : State) (w : Nat),
    s.dev.ready = true ∧ s.dev.mig.world.toNat = w ∧ w ≤ 191 ∧ s.dev.mig.state = 3 ∧ s.dev.mig.placed = false :=
  ⟨withDev base (fun d => { d with mig := { d.mig with state := 3 } }), 0, (by decide +kernel), (by decide +kernel),
   (by decide +kernel), (by decide +kernel), (by decide +kernel)⟩

theorem witness_ResetsAndTemperatures_1 :
    ∃ (s : State),
    s.dev.mig.flash = none :=
  ⟨base, (by decide +kernel)⟩

theorem witness_ResetsAndTemperatures_2 :
    ∃ (s : State) (w : BitVec 8) (p : BitVec 4) (l : List (Nat × BitVec 16 × BitVec 2)),
    s.dev.mig.flash = some (w, p, l) :=
  ⟨withDev base (fun d => { d with mig := { d.mig with flash := some (0, 3, [(5, 7, 0)]) } }), 0, 3, [(5, 7, 0)],
   (by decide +kernel)⟩

theorem witness_ResetsAndTemperatures_3 :
    ∃ (s : State),
    s.dev.ready = false ∧ s.dev.fail = false ∧ s.dev.stage.toNat < 5 ∧ s.dev.stage = 1 :=
  ⟨withDev base (fun d => { d with ready := false, stage := 1 }), (by decide +kernel), (by decide +kernel), (by decide +kernel),
   (by decide +kernel)⟩

theorem witness_ResetsAndTemperatures_3_last :
    ∃ (s : State) (w : BitVec 8) (p : BitVec 4) (l : List (Nat × BitVec 16 × BitVec 2)),
    s.dev.ready = false ∧ s.dev.fail = false ∧ s.dev.stage.toNat < 5 ∧ s.dev.stage = 4 ∧ s.dev.mig.flash = some (w, p, l) :=
  ⟨withDev base (fun d => { d with ready := false, stage := 4, mig := { d.mig with flash := some (0, 3, [(5, 7, 0)]) } }), 0, 3,
   [(5, 7, 0)], (by decide +kernel), (by decide +kernel), (by decide +kernel), (by decide +kernel), (by decide +kernel)⟩

theorem witness_ResetsAndTemperatures_3_done :
    ∃ (s : State),
    (s.dev.ready = true ∨ s.dev.fail = true) :=
  ⟨base, (by decide +kernel)⟩

theorem witness_ResetsAndTemperatures_4 :
    ∃ (s : State) (tj tout : BitVec 8),
    tj.toNat < 110 ∧ tout.toNat < 65 ∧ s.dev.twarn.toNat ≤ tj.toNat ∧ s.dev.tj.toNat < s.dev.twarn.toNat :=
  ⟨base, 95, 64, (by decide +kernel), (by decide +kernel), (by decide +kernel), (by decide +kernel)⟩

theorem witness_ResetsAndTemperatures_4_below :
    ∃ (s : State) (tj tout : BitVec 8),
    tj.toNat < 110 ∧ tout.toNat < 65 ∧ tj.toNat < s.dev.twarn.toNat :=
  ⟨base, 94, 64, (by decide +kernel), (by decide +kernel), (by decide +kernel)⟩

theorem witness_ResetsAndTemperatures_5 :
    ∃ (tj : BitVec 8) (tout : BitVec 8),
    (110 ≤ tj.toNat ∨ 65 ≤ tout.toNat) :=
  ⟨109, 65, (by decide +kernel)⟩

theorem witness_RevokedRecordsActAsEmptySlots_1 :
    ∃ (s : State) (w : Nat) (gen : BitVec 32),
    s.dev.ready = true ∧ w ≤ 191 ∧ gen ≠ 0 ∧ (s.world w).g.revoked.length < 64 :=
  ⟨base, 191, 5, (by decide +kernel), (by decide +kernel), (by decide +kernel), (by decide +kernel)⟩

theorem witness_RevokedRecordsActAsEmptySlots_2 :
    ∃ (s : State) (w : Nat) (gen : BitVec 32),
    s.dev.ready = true ∧ w ≤ 191 ∧ ((gen = 0 ∨ 64 ≤ (s.world w).g.revoked.length)) :=
  ⟨base, 0, 0, (by decide +kernel), (by decide +kernel), (by decide +kernel)⟩

theorem witness_RevokedRecordsActAsEmptySlots_2_full :
    ∃ (s : State) (w : Nat) (gen : BitVec 32),
    s.dev.ready = true ∧ w ≤ 191 ∧ ((gen = 0 ∨ 64 ≤ (s.world w).g.revoked.length)) :=
  ⟨withWorld base (fun x => { x with g := { x.g with revoked := List.replicate 64 9 } }), 0, 5, (by decide +kernel),
   (by decide +kernel), (by decide +kernel)⟩

theorem witness_RevokedRecordsActAsEmptySlots_3 :
    ∃ (s : State) (w : Nat) (gen : BitVec 32),
    s.dev.ready = true ∧ w ≤ 191 ∧ (s.world w).g.gmin.toNat < gen.toNat :=
  ⟨base, 0, 2, (by decide +kernel), (by decide +kernel), (by decide +kernel)⟩

theorem witness_RevokedRecordsActAsEmptySlots_4 :
    ∃ (s : State) (w : Nat) (port : Nat),
    (port ≠ s.dev.holder ∨ 191 < w) :=
  ⟨base, 0, 1, (by decide +kernel)⟩

theorem witness_RevokedRecordsActAsEmptySlots_4_world :
    ∃ (s : State) (w : Nat) (port : Nat),
    (port ≠ s.dev.holder ∨ 191 < w) :=
  ⟨base, 192, 0, (by decide +kernel)⟩

theorem witness_RevokedRecordsActAsEmptySlots_5 :
    ∃ (s : State) (w : Nat),
    (s.world w).g.hbusy = true :=
  ⟨withWorld base (fun x => { x with g := { x.g with hbusy := true } }), 0, (by decide +kernel)⟩

theorem witness_KeysAreRotatedAndWorldsOpenAndClose_1 :
    ∃ (s : State) (w : Nat),
    s.dev.ready = true ∧ w ≤ 191 ∧ (s.world w).g.rot = false :=
  ⟨base, 191, (by decide +kernel), (by decide +kernel), (by decide +kernel)⟩

theorem witness_KeysAreRotatedAndWorldsOpenAndClose_1_drop :
    ∃ (s : State) (w : Nat),
    s.dev.ready = true ∧ w ≤ 191 ∧ (s.world w).g.rot = true :=
  ⟨withWorld base (fun x => { x with g := { x.g with rot := true } }), 0, (by decide +kernel), (by decide +kernel), (by decide +kernel)⟩

theorem witness_KeysAreRotatedAndWorldsOpenAndClose_2 :
    ∃ (s : State) (w : Nat),
    (s.world w).g.rot = true ∧ (s.world w).g.drawn = false :=
  ⟨withWorld base (fun x => { x with g := { x.g with rot := true } }), 0, (by decide +kernel), (by decide +kernel)⟩

theorem witness_KeysAreRotatedAndWorldsOpenAndClose_2_port :
    ∃ (s : State) (w : Nat) (p : Nat),
    (s.world w).g.rot = true ∧ (s.world w).g.drawn = false ∧ (s.port p).st = 4 :=
  ⟨{ (linked id) with worlds := [(0, { world0 with g := { world0.g with rot := true } })] }, 0, 0, (by decide +kernel),
   (by decide +kernel), (by decide +kernel)⟩

theorem witness_KeysAreRotatedAndWorldsOpenAndClose_3 :
    ∃ (s : State) (w : Nat) (n : Nat) (r : Region),
    (s.world w).g.rot = true ∧ (s.world w).g.drawn = true ∧ (s.world w).g.rotating = some (n, r) ∧
    r.mark + 64 < r.lim ∧ s.lineOk (r.mark / 64) = true :=
  ⟨withWorld base (fun x => { x with g := { x.g with rot := true, drawn := true } }), 0, 0, ⟨0, 2 ^ 25, 0⟩,
   (by decide +kernel), (by decide +kernel), (by decide +kernel), (by decide +kernel), (by decide +kernel)⟩

theorem witness_KeysAreRotatedAndWorldsOpenAndClose_3_last :
    ∃ (s : State) (w : Nat) (n : Nat) (r : Region),
    (s.world w).g.rot = true ∧ (s.world w).g.drawn = true ∧ (s.world w).g.rotating = some (n, r) ∧
    r.mark + 64 = r.lim ∧ s.lineOk (r.mark / 64) = true :=
  ⟨withWorld base (fun x => { x with
     g := { x.g with rot := true, drawn := true, er := [(0, ⟨0, 2 ^ 25, 2 ^ 25 - 64⟩)] } }), 0, 0, ⟨0, 2 ^ 25, 2 ^ 25 - 64⟩,
   (by decide +kernel), (by decide +kernel), (by decide +kernel), (by decide +kernel), (by decide +kernel)⟩

theorem witness_KeysAreRotatedAndWorldsOpenAndClose_3_bad :
    ∃ (s : State) (w : Nat) (n : Nat) (r : Region),
    (s.world w).g.rot = true ∧ (s.world w).g.drawn = true ∧ (s.world w).g.rotating = some (n, r) ∧
    s.lineOk (r.mark / 64) = false :=
  ⟨{ withWorld base (fun x => { x with g := { x.g with rot := true, drawn := true, er := [(0, ⟨0, 2 ^ 25, 2 ^ 24⟩)] } }) with
     badLines := [(2 ^ 18, true)] },
   0, 0, ⟨0, 2 ^ 25, 2 ^ 24⟩, (by decide +kernel), (by decide +kernel), (by decide +kernel), (by decide +kernel)⟩

theorem witness_KeysAreRotatedAndWorldsOpenAndClose_4 :
    ∃ (s : State) (w : Nat),
    (s.world w).g.rot = true ∧ (s.world w).g.drawn = true ∧ (s.world w).g.rotating = none :=
  ⟨
   withWorld base (fun x => { x with g := { x.g with rot := true, drawn := true, er := [(0, ⟨0, 2 ^ 25, 2 ^ 25⟩)] } }),
   0, (by decide +kernel), (by decide +kernel), (by decide +kernel)⟩

theorem witness_KeysAreRotatedAndWorldsOpenAndClose_5 :
    ∃ (s : State) (w : Nat),
    s.dev.ready = true ∧ w ≤ 191 ∧ (s.world w).isOpen = false :=
  ⟨base, 191, (by decide +kernel), (by decide +kernel), (by decide +kernel)⟩

theorem witness_KeysAreRotatedAndWorldsOpenAndClose_5_port :
    ∃ (s : State) (w : Nat) (p : Nat),
    s.dev.ready = true ∧ w ≤ 191 ∧ (s.world w).isOpen = false ∧ (s.port p).st = 4 :=
  ⟨linked id, 191, 0, (by decide +kernel), (by decide +kernel), (by decide +kernel), (by decide +kernel)⟩

theorem witness_KeysAreRotatedAndWorldsOpenAndClose_6 :
    ∃ (s : State) (w : Nat),
    (s.world w).isOpen = true ∧ s.bound w = false ∧ (∀ l ∈ s.launches, l.world ≠ w) :=
  ⟨idle, 0, (by decide +kernel), (by decide +kernel), (by decide +kernel)⟩

theorem witness_SnapshotWindowsChangeTheImage_1 :
    ∃ (s : State) (w k off : Nat),
    s.shown w = some k ∧ off % 8 = 0 ∧ s.saveBase k + 2 ^ 22 ≤ Config.imemBase ∧ 0x40 ≤ off ∧ off < 2 ^ 22 :=
  ⟨debugged, 0, 0, 0x3FFFF8, by decide +kernel⟩

theorem witness_SnapshotWindowsChangeTheImage_1_core :
    ∃ (s : State) (w k off : Nat),
    s.shown w = some k ∧ off % 8 = 0 ∧ s.saveBase k + 2 ^ 22 ≤ Config.imemBase ∧ 0x40 ≤ off ∧ off < 0x300000 ∧ ¬(0x3000 ≤ off ∧ off < 0x3100) :=
  ⟨debugged, 0, 0, 0x1008, by decide +kernel⟩

theorem witness_SnapshotWindowsChangeTheImage_1_code :
    ∃ (s : State) (w k off : Nat),
    s.shown w = some k ∧ off % 8 = 0 ∧ s.saveBase k + 2 ^ 22 ≤ Config.imemBase ∧ 0x300000 ≤ off ∧ off < 0x340000 :=
  ⟨debugged, 0, 0, 0x33FFF8, by decide +kernel⟩

theorem witness_SnapshotWindowsChangeTheImage_1_cmd :
    ∃ (s : State) (w k off : Nat),
    s.shown w = some k ∧ off % 8 = 0 ∧ s.saveBase k + 2 ^ 22 ≤ Config.imemBase ∧ 0x340000 ≤ off ∧ off < 0x350000 :=
  ⟨debugged, 0, 0, 0x340000, by decide +kernel⟩

theorem witness_SnapshotWindowsChangeTheImage_1_counters :
    ∃ (s : State) (w k off : Nat) (n : BitVec 6),
    s.shown w = some k ∧ off % 8 = 0 ∧ s.saveBase k + 2 ^ 22 ≤ Config.imemBase ∧ n.toNat % 2 = 0 ∧ off = 0x3000 + 4 * n.toNat :=
  ⟨debugged, 0, 0, 0x30F8, 62, by decide +kernel⟩

theorem witness_SnapshotWindowsChangeTheImage_1_own :
    ∃ (s : State) (w k off : Nat),
    s.shown w = some k ∧ off % 8 = 0 ∧ s.saveBase k + 2 ^ 22 ≤ Config.imemBase ∧ (off < 0x28 ∨ off = 0x38) :=
  ⟨debugged, 0, 0, 0x38, by decide +kernel⟩

theorem witness_SnapshotWindowsChangeTheImage_1_through :
    ∃ (s : State) (port w off : Nat),
    s.dev.ready = true ∧ port < 2 ∧ w ≤ 191 ∧ off % 8 = 0 ∧ off < 2 ^ 22 :=
  ⟨debugged, 0, 0, 0x3FFFF8, by decide +kernel⟩

theorem witness_SnapshotWindowsChangeTheImage_2 :
    ∃ (s : State) (w off : Nat),
    s.shown w = none ∧ off % 8 = 0 ∧ off < 2 ^ 22 :=
  ⟨base, 0, 0x3FFFF8, by decide +kernel⟩

theorem witness_DecodeEncodeRoundTrip_1 :
    ∃ (i : Instr),
    i.wf = true ∧ encode i ≠ [] :=
  ⟨.add 1 2 3, (by decide +kernel), (by decide +kernel)⟩

theorem witness_StepKeepsMemoryCanonical_1 :
    ∃ (s : State) (t : State),
    MemCanonical s ∧ step s = .next t :=
  ⟨{ base with agenda := [.fetch 0] }, nextOf (step { base with agenda := [.fetch 0] }),
   (show Mem.wf _ = true from by decide +kernel), next_eq (by decide +kernel)⟩

theorem witness_TrapsWithoutAHandlerStopTheGang_1 :
    ∃ (i : Instr) (s : State) (code : BitVec 8) (ti : Word) (g : Gang),
    controlFault s i = some (code, ti) ∧ ((s.ctx.csr.intrap = true ∨ s.ctx.csr.tvecEn = false)) ∧
    s.bind.valid = true ∧ s.gang s.bind.gang.toNat = some g ∧ g.trap = none :=
  ⟨.ret 2, with0 base (fun c => { c with csr := { c.csr with tvecEn := false } }), tMISALIGN, 3, gang1,
   (by decide +kernel), (by decide +kernel), (by decide +kernel), (by decide +kernel), (by decide +kernel)⟩

theorem witness_TrapsWithoutAHandlerStopTheGang_1_double :
    ∃ (i : Instr) (s : State) (code : BitVec 8) (ti : Word) (g : Gang),
    controlFault s i = some (code, ti) ∧ ((s.ctx.csr.intrap = true ∨ s.ctx.csr.tvecEn = false)) ∧
    s.bind.valid = true ∧ s.gang s.bind.gang.toNat = some g ∧ g.trap = none :=
  ⟨.ret 2, with0 base (fun c => { c with csr := { c.csr with intrap := true } }), tMISALIGN, 3, gang1,
   (by decide +kernel), (by decide +kernel), (by decide +kernel), (by decide +kernel), (by decide +kernel)⟩

theorem witness_StepRunsTheDecodedInstruction_1 :
    ∃ (s : State) (r : List Move) (k : Nat) (n : Nat) (i : Instr) (h : Handle),
    s.agenda = .fetch k :: r ∧ (fetching s r k).canFetch = true ∧ (fetching s r k).ctx.lp.owed = 0 ∧
    (fetching s r k).slot 0 = some h ∧ (fetching s r k).ctx.ctl.line < h.len.toNat ∧
    decodeLanes (fetching s r k).lanesHere = .ok i n ∧ engineOf i = none :=
  ⟨{ base with agenda := [.fetch 0] }, [], 0, 1, .add 0 0 0, codeHandle, (by decide +kernel), (by decide +kernel),
   (by decide +kernel), (by decide +kernel), (by decide +kernel), (by decide +kernel), (by decide +kernel)⟩

theorem witness_StepRunsTheDecodedInstruction_1_engine :
    ∃ (s : State) (r : List Move) (k : Nat) (n : Nat) (i : Instr) (h : Handle),
    s.agenda = .fetch k :: r ∧ (fetching s r k).canFetch = true ∧ (fetching s r k).ctx.lp.owed = 0 ∧
    (fetching s r k).slot 0 = some h ∧ (fetching s r k).ctx.ctl.line < h.len.toNat ∧
    decodeLanes (fetching s r k).lanesHere = .ok i n ∧ (engineOf i).isSome = true :=
  ⟨{ base with agenda := [.fetch 0], mem := Mem.write [] Config.imemBase 4 0x2F2C0000 }, [], 0, 1, .vrnd .rup 0,
   codeHandle, (by decide +kernel), (by decide +kernel), (by decide +kernel), (by decide +kernel),
   (by decide +kernel), (by decide +kernel), (by decide +kernel)⟩

theorem witness_StepRunsTheDecodedInstruction_3 :
    ∃ (s : State) (r : List Move) (k : Nat) (e : Engine) (c : Cap) (b : Bool),
    s.agenda = .issue k e :: r ∧ e ≠ .fabric ∧ ((fetching s r k).eng e).head = some (c, b) ∧
    (fetching s r k).mayIssue e c = true ∧ engineOf c.instr = some e :=
  ⟨{ (withEng base .vector (fun x => { x with q := [.instr popCap true] })) with agenda := [.issue 0 .vector] }, [],
   0, .vector, popCap, false, (by decide +kernel), (by decide +kernel), (by decide +kernel), (by decide +kernel), (by decide +kernel)⟩

theorem witness_StepRunsTheDecodedInstruction_3_illegal :
    ∃ (s : State) (r : List Move) (k : Nat) (e : Engine) (c : Cap) (b : Bool),
    s.agenda = .issue k e :: r ∧ e ≠ .fabric ∧ ((fetching s r k).eng e).head = some (c, b) ∧
    (fetching s r k).mayIssue e c = true ∧ engineOf c.instr ≠ some e :=
  ⟨{ (withEng base .vector (fun x => { x with q := [.instr { popCap with instr := .nop } true] })) with agenda := [.issue 0 .vector] }, [],
   0, .vector, { popCap with instr := .nop }, false, (by decide +kernel), (by decide +kernel), (by decide +kernel), (by decide +kernel),
   (by decide +kernel)⟩

theorem witness_StepRunsTheDecodedInstruction_4 :
    ∃ (s : State) (r : List Move) (k : Nat) (i : Instr),
    s.agenda = .event k i :: r :=
  ⟨{ base with agenda := [.event 0 .nop] }, [], 0, .nop, (by decide +kernel)⟩

theorem witness_StepRunsTheDecodedInstruction_5 :
    ∃ (s : State) (r : List Move) (k : Nat) (a : Auto),
    s.agenda = .auto k a :: r ∧ a ≠ .migStep :=
  ⟨{ base with agenda := [.auto 0 .leaseExpiry] }, [], 0, .leaseExpiry, (by decide +kernel), (by decide +kernel)⟩

theorem witness_StepRunsTheDecodedInstruction_5_migration :
    ∃ (s : State) (r : List Move) (k : Nat),
    s.agenda = .auto k .migStep :: r :=
  ⟨{ base with agenda := [.auto 0 .migStep] }, [], 0, (by decide +kernel)⟩

theorem witness_StepRunsTheDecodedInstruction_5_plan :
    ∃ (s : State) (r : List Move) (n : Nat),
    s.agenda = .plan n :: r :=
  ⟨{ base with agenda := [.plan 0] }, [], 0, (by decide +kernel)⟩

theorem witness_StepRunsTheDecodedInstruction_6 :
    ∃ (s : State),
    s.agenda = [] :=
  ⟨base, (by decide +kernel)⟩

end Sys2Proof.Tests
end

/-! PROOFS. What the events of the translation unit and of the clock do (R4, R244 to R246, R251, R268, R269, R369, R400), and O39. -/

namespace Sys2Proof

open Sys2Proof.Machine Sys2Proof.Claim

/-! ## Maps -/

/-- A key whose entries a filter takes out reads as the default. -/
theorem Machine.SMap.get_filter_of_removed {α : Type} (d : α) (m : SMap α) (p : Nat × α → Bool) (k : Nat)
    (h : ∀ x, p (k, x) = false) : SMap.get d (m.filter p) k = d := by
  induction m with
  | nil => rfl
  | cons e m ih =>
    obtain ⟨a, x⟩ := e
    by_cases hp : p (a, x) = true
    · have ha : a ≠ k := fun hk => by simp [hk, h] at hp
      simp [hp, SMap.get, ha, ih]
    · simp [hp, ih]

/-! ## Records in a world: interrupts, failed checks, translation faults -/

@[simp] theorem Machine.State.world_irq_x (s : State) (w n v : Nat) : ((s.irq w n).world v).x = (s.world v).x := by
  by_cases hv : v = w
  · subst hv; simp [State.irq]
  · simp [State.irq, hv]

@[simp] theorem Machine.State.world_irq_g (s : State) (w n v : Nat) : ((s.irq w n).world v).g = (s.world v).g := by
  by_cases hv : v = w
  · subst hv; simp [State.irq]
  · simp [State.irq, hv]

@[simp] theorem Machine.State.world_logged (s : State) (c : Nat) (d : Word) (v : Nat) : (s.logged c d).world v = s.world v := rfl

@[simp] theorem Machine.State.world_integrity_x (s : State) (w line v : Nat) : ((s.integrity w line).world v).x = (s.world v).x := by
  by_cases hv : v = w
  · subst hv; simp [State.integrity]
  · simp [State.integrity, hv]

/-- A failed check leaves its line in the world (R400). -/
@[simp] theorem Machine.State.world_integrity_g (s : State) (w line : Nat) :
    ((s.integrity w line).world w).g = { (s.world w).g with integV := true, integ := line } := by
  simp [State.integrity]

/-- Nothing changed but one world and the device page. -/
def RecordedIn (w : Nat) (s t : State) : Prop :=
  t = { s with worlds := t.worlds, dev := t.dev } ∧ ∀ v, v ≠ w → t.world v = s.world v

theorem RecordedIn.refl (w : Nat) (s : State) : RecordedIn w s s := ⟨rfl, fun _ _ => rfl⟩

theorem RecordedIn.trans {w : Nat} {s t u : State} (h : RecordedIn w s t) (g : RecordedIn w t u) : RecordedIn w s u := by
  refine ⟨?_, fun v hv => (g.2 v hv).trans (h.2 v hv)⟩
  rw [g.1]; conv_lhs => rw [h.1]

theorem RecordedIn.setWorld (s : State) (w : Nat) (x : World) : RecordedIn w s (s.setWorld w x) :=
  ⟨rfl, fun v hv => by simp [hv]⟩

theorem RecordedIn.logged (w : Nat) (s : State) (c : Nat) (d : Word) : RecordedIn w s (s.logged c d) := ⟨rfl, fun _ _ => rfl⟩

theorem RecordedIn.integrity (s : State) (w line : Nat) : RecordedIn w s (s.integrity w line) :=
  ((RecordedIn.setWorld ..).trans (.setWorld ..)).trans (.logged ..)

theorem RecordedIn.recordFault (s : State) (w va l r : Nat) (line : Option Nat) : RecordedIn w s (s.recordFault w va l r line) := by
  unfold State.recordFault
  refine RecordedIn.trans ?_ ((RecordedIn.setWorld ..).trans (.setWorld ..))
  cases line with
  | none => exact .refl w s
  | some ln => exact .integrity s w ln

/-- A recorded fault stands in XFVA and XFINFO, and the rest of translation is as before (R251). -/
theorem Machine.State.world_recordFault_x (s : State) (w va l r : Nat) (line : Option Nat) :
    ((s.recordFault w va l r line).world w).x =
      { (s.world w).x with fva := BitVec.ofNat 57 va, finfo := BitVec.ofNat 6 (l * 8 + r) } := by
  cases line <;> simp [State.recordFault]

/-- The line whose check failed is recorded with the fault (R400). -/
theorem Machine.State.world_recordFault_g (s : State) (w va l r ln : Nat) :
    ((s.recordFault w va l r (some ln)).world w).g = { (s.world w).g with integV := true, integ := ln } := by
  simp [State.recordFault]

/-- A fault without a failed check leaves the device page alone. -/
theorem Machine.State.recordFault_none_dev (s : State) (w va l r : Nat) : (s.recordFault w va l r none).dev = s.dev := rfl

/-! ## The translation registers of one world -/

theorem Claim.OnlyWorld.setWorld (s : State) (w : Nat) (x : World) : OnlyWorld s (s.setWorld w x) w :=
  ⟨rfl, fun v hv => by simp [hv]⟩

theorem Claim.OnlyWorld.onXlat (s : State) (w : Nat) (f : Xlat → Xlat) : OnlyWorld s (s.onXlat w f) w := .setWorld ..

@[simp] theorem Machine.State.world_onXlat (s : State) (w v : Nat) (f : Xlat → Xlat) :
    (s.onXlat w f).world v = if v = w then { s.world w with x := f (s.world w).x } else s.world v := by simp [State.onXlat]

/-- A page set in the cache of a world takes the place of the entry of that page. -/
theorem Machine.State.world_cacheSet (s : State) (w : Nat) (e : Tlb) :
    (s.cacheSet w e).world w = { s.world w with x := { (s.world w).x with cache := (s.world w).x.without e ++ [e] } } := by
  simp [State.cacheSet]

theorem Machine.Xlat.mem_of_mem_without {x : Xlat} {e f : Tlb} (h : f ∈ x.without e) : f ∈ x.cache := (List.mem_filter.1 h).1

/-- The range of a write to XINV: the page, the 32 MiB or the 1 GiB at its address, or everything, by its low two bits (R251). -/
theorem Machine.xinvRange_eq (v : Word) :
    xinvRange v.toNat =
      (let a := v.toNat % 2 ^ 57
      if v.toNat % 4 = 0 then (a / 2 ^ 19 * 2 ^ 19, a / 2 ^ 19 * 2 ^ 19 + 2 ^ 19)
      else if v.toNat % 4 = 1 then (a / 2 ^ 25 * 2 ^ 25, a / 2 ^ 25 * 2 ^ 25 + 2 ^ 25)
      else if v.toNat % 4 = 2 then (a / 2 ^ 30 * 2 ^ 30, a / 2 ^ 30 * 2 ^ 30 + 2 ^ 30)
      else (0, 2 ^ 57)) := by
  have hb : bits v.toNat 56 19 = v.toNat % 2 ^ 57 / 2 ^ 19 := by
    rw [bits, Nat.shiftRight_eq_div_pow]; omega
  have h25 : v.toNat % 2 ^ 57 / 2 ^ 19 * 2 ^ 19 / 2 ^ 25 = v.toNat % 2 ^ 57 / 2 ^ 25 := by omega
  have h30 : v.toNat % 2 ^ 57 / 2 ^ 19 * 2 ^ 19 / 2 ^ 30 = v.toNat % 2 ^ 57 / 2 ^ 30 := by omega
  have hk : v.toNat % 4 = 0 ∨ v.toNat % 4 = 1 ∨ v.toNat % 4 = 2 ∨ v.toNat % 4 = 3 := by omega
  simp only [xinvRange, hb, h25, h30]
  obtain hk | hk | hk | hk := hk <;> simp [hk]

/-- A write to XINV of a ready device starts an invalidation, or is ignored while one runs (R246). -/
theorem execXinv_ready {s : State} {w : Nat} {v : Word} (port : Nat) (hr : s.dev.ready = true) (hw : w ≤ 191) :
    execXinv port w v s = .next (s.onXlat w (fun x =>
      if x.inv.isSome then { x with drop := true } else { x with inv := some (xinvRange v.toNat) })) := by
  have : ¬ (191 < w) := by omega
  simp [execXinv, hr, this]

/-! ## Counts written back -/

theorem Machine.State.world_congr {s t : State} (h : t.worlds = s.worlds) (w : Nat) : t.world w = s.world w := by
  simp only [State.world, h]

theorem Machine.State.regionWorld_congr {s t : State} (h : t.worlds = s.worlds) (a : Nat) : t.regionWorld a = s.regionWorld a := by
  simp only [State.regionWorld, h]

/-- Nothing changed but memory, and with it what its lines carry and walkers still read. -/
def OnlyStored (s t : State) : Prop :=
  t = { s with mem := t.mem, owner := t.owner, badLines := t.badLines, told := t.told }

theorem OnlyStored.refl (s : State) : OnlyStored s s := rfl

theorem OnlyStored.trans {s t u : State} (h : OnlyStored s t) (g : OnlyStored t u) : OnlyStored s u := by
  unfold OnlyStored at *
  rw [g]; conv_lhs => rw [h]

theorem OnlyStored.store (s : State) (a n v : Nat) : OnlyStored s (s.store a n v) := by
  obtain ⟨o, b, w, h⟩ := s.store_spec a n v
  rw [h, OnlyStored]

theorem OnlyStored.storeSegs (s : State) (l : List Seg) : OnlyStored s (s.storeSegs l) := by
  obtain ⟨o, b, w, h⟩ := s.storeSegs_spec l
  rw [h, OnlyStored]

theorem OnlyStored.writeBack (s : State) (e : Tlb) : OnlyStored s (s.writeBack e) := by
  unfold State.writeBack
  split
  · exact .store ..
  · exact .refl s

theorem OnlyStored.writeBacks (l : List Tlb) (s : State) : OnlyStored s (l.foldl State.writeBack s) := by
  induction l generalizing s with
  | nil => exact .refl s
  | cons e l ih => exact (OnlyStored.writeBack s e).trans (ih _)

theorem OnlyStored.worlds {s t : State} (h : OnlyStored s t) : t.worlds = s.worlds := by rw [h]
theorem OnlyStored.world {s t : State} (h : OnlyStored s t) (w : Nat) : t.world w = s.world w := State.world_congr h.worlds w
theorem OnlyStored.ctx {s t : State} (h : OnlyStored s t) : t.ctx = s.ctx := by rw [h]; rfl
theorem OnlyStored.gangs {s t : State} (h : OnlyStored s t) : t.gangs = s.gangs := by rw [h]
theorem OnlyStored.tiles {s t : State} (h : OnlyStored s t) : t.tiles = s.tiles := by rw [h]

/-! ## Invalidations (R246) -/

/-- An invalidation changes no more of the state than what walkers still read of written words. -/
theorem OnlyStored.tell (s : State) (w lo hi : Nat) : OnlyStored s (s.tell w lo hi) := by
  unfold State.tell
  split <;> rfl

/-- After an invalidation of everything, no word in a region of the world is told otherwise than memory holds it. -/
theorem Machine.State.tell_all_untold (s : State) (w a : Nat) (h : s.regionWorld (8 * a) = some w) :
    SMap.get (2 ^ 64) (s.tell w 0 (2 ^ 57)).told a = 2 ^ 64 := by
  rw [State.tell, if_pos ⟨rfl, rfl⟩]
  exact SMap.get_filter_of_removed _ _ _ _ (fun _ => by simp [h])

/-- A word that is not told otherwise is read as memory holds it. -/
theorem Machine.State.tableWord_of_untold {s : State} {a : Nat} (h : SMap.get (2 ^ 64) s.told a = 2 ^ 64) :
    s.tableWord (8 * a) = s.mem.read (8 * a) 8 := by
  have ha : 8 * a / 8 = a := by omega
  simp only [State.tableWord, ha, h, if_pos]

/-- The state with the counts of the covered entries written back and their table entries effective. -/
def Machine.State.flushed (s : State) (w lo hi : Nat) : State :=
  (((s.world w).x.cache.filter (fun e => meetsRange lo hi e.va e.size)).foldl State.writeBack s).tell w lo hi

theorem OnlyStored.flushed (s : State) (w lo hi : Nat) : OnlyStored s (s.flushed w lo hi) :=
  (OnlyStored.writeBacks _ s).trans (.tell ..)

/-- The same once the counts are written back, which may have told more words. -/
theorem Machine.State.flushed_all_untold (s : State) (w a : Nat) (h : s.regionWorld (8 * a) = some w) :
    SMap.get (2 ^ 64) (s.flushed w 0 (2 ^ 57)).told a = 2 ^ 64 :=
  State.tell_all_untold _ w a ((State.regionWorld_congr (OnlyStored.writeBacks _ s).worlds _).trans h)

/-- The cached entries of a world that lie outside an invalidated range. -/
def Machine.Xlat.outside (x : Xlat) (lo hi : Nat) : List Tlb := x.cache.filter (fun e => !meetsRange lo hi e.va e.size)

/-- The state whose counts are written back, its covered entries gone and its invalidation over. -/
def Machine.State.invalidated (s : State) (w lo hi : Nat) : State :=
  (s.flushed w lo hi).onXlat w (fun x => { x with cache := (s.world w).x.outside lo hi, inv := none })

theorem Machine.State.world_invalidated (s : State) (w lo hi v : Nat) : (s.invalidated w lo hi).world v =
    if v = w then { s.world w with x := { (s.world w).x with cache := (s.world w).x.outside lo hi, inv := none } }
    else s.world v := by
  simp only [State.invalidated, State.world_onXlat, (OnlyStored.flushed s w lo hi).world]

/-- Once no translated access is left, an invalidation ends: the state is the invalidated one but for contexts and messages that
may try again, and its world no longer waits to write completions (R246). -/
theorem execInvalidationComplete_idle {s : State} {w lo hi : Nat} (hinv : (s.world w).x.inv = some (lo, hi))
    (hc : ∀ e ∈ s.ctxs, e.2.translated w lo hi = false) :
    ∃ t, execInvalidationComplete w s = .next t ∧
      t = { s.invalidated w lo hi with worlds := t.worlds, ctxs := t.ctxs, net := t.net } ∧
      t.worlds = ((s.invalidated w lo hi).setWorld w { (s.invalidated w lo hi).world w with cqWait := false }).worlds := by
  have hany : s.ctxs.any (fun e => e.2.translated w lo hi) = false := by simpa using hc
  simp only [execInvalidationComplete, hinv, hany]
  exact ⟨_, rfl, rfl, rfl⟩

/-! ## The replay queue (R268, R269) -/

/-- An entry of the replay queue that may be tried: it stands at its place in a running context, covered by an invalidation and not
tried since, and no older entry of its world shares a page with it. -/
structure Replayable (s : State) (n : Nat) (p : Parked) : Prop where
  entry : s.ctx.rq[n]? = some p
  running : s.ctx.phase = .running
  covered : p.covered = true
  untried : p.tried = false
  first : ∀ o ∈ s.ctx.rq.take n, o.world = p.world → ∀ g ∈ pagesOfSegs o.segs, g ∉ pagesOfSegs p.segs

/-- No older entry stands in the way of one that may be tried. -/
theorem Replayable.not_older {s : State} {n : Nat} {p : Parked} (h : Replayable s n p) :
    (s.ctx.rq.take n).any (fun o => decide (o.world = p.world ∧ (pagesOfSegs o.segs).any (pagesOfSegs p.segs).contains = true)) = false := by
  refine List.any_eq_false.2 (fun o ho => ?_)
  simpa using h.first o ho

/-- A parked write that is translated leaves the queue and is made. -/
theorem execReplayEntry_write {s u : State} {n : Nat} {p : Parked} {l : List Seg} (h : Replayable s n p)
    (hr : s.resolveSegs p.world.toNat p.segs = .ok (u, l)) (ha : p.atom = none) :
    execReplayEntry n s = .next
      ((u.setCtx { u.ctx with rq := u.ctx.rq.eraseIdx n }).storeSegs (keepBits u.mem p.keep l)) := by
  have ho := h.not_older
  simp only [execReplayEntry, h.entry, h.running, h.covered, h.untried, ho, hr, ha]
  rfl

/-- A parked entry whose page faults again stays, and is not tried before another invalidation of one of its pages. -/
theorem execReplayEntry_page {s u : State} {n va : Nat} {p : Parked} (h : Replayable s n p)
    (hr : s.resolveSegs p.world.toNat p.segs = .error (.page u va)) :
    execReplayEntry n s = .next (u.setCtx { u.ctx with rq := u.ctx.rq.set n { p with tried := true } }) := by
  have ho := h.not_older
  simp only [execReplayEntry, h.entry, h.running, h.covered, h.untried, ho, hr]
  rfl

/-- A waiting write that is translated waits no more (R369). -/
theorem execTranslationWaitResume_ok {s u : State} {age : Nat} {f : Flight} {l : List Seg}
    (hf : s.ctx.fl.find? (fun f => f.age = age ∧ f.stale) = some f) (hr : s.resolveSegs f.world.toNat f.wait = .ok (u, l)) :
    execTranslationWaitResume age s = .next (u.setCtx { u.ctx with
      fl := u.ctx.fl.map (fun x => if x = f then { f with segs := f.segs ++ l, wait := [], stale := false } else x) }) := by
  simp only [execTranslationWaitResume, hf, hr]

/-! ## The events of O39 -/

/-- A walk that reaches a leaf caches it (R244, R245). -/
theorem translationWalk_leaf (s : State) (w : Nat) (va : BitVec 57) (e : Tlb) (h : s.lookup w va.toNat = .leaf e) :
    exec (.translationWalk w va) s = .next (s.cacheSet w e) := by
  simp only [exec_translationWalk, execTranslationWalk, h]

/-- A walk that faults records its fault (R251). -/
theorem translationWalk_fault (s : State) (w : Nat) (va : BitVec 57) (l r : Nat) (line : Option Nat)
    (h : s.lookup w va.toNat = .fault l r line) :
    exec (.translationWalk w va) s = .next (s.recordFault w va.toNat l r line) := by
  simp only [exec_translationWalk, execTranslationWalk, h]

/-- A walk that the access tables refuse is logged (R390). -/
theorem translationWalk_refused (s : State) (w : Nat) (va : BitVec 57) (h : s.lookup w va.toNat = .refused) :
    exec (.translationWalk w va) s = .next (s.logged logRefusal (va.setWidth 64)) := by
  simp only [exec_translationWalk, execTranslationWalk, h]

/-- The clock of a device that is not ready stands still (R491). -/
theorem execArithmeticClockTick_unready {s : State} (h : s.dev.ready = false) : execArithmeticClockTick s = .next s := by
  simp [execArithmeticClockTick, h]

/-- The clock of a ready device: the DCC advances, the energy weights written hold, transfers whose cycle has come are received, and
windows that lie in the past are forgotten (R4, R386, R447). -/
theorem execArithmeticClockTick_ready {s : State} (h : s.dev.ready = true) :
    ∃ c, execArithmeticClockTick s = .next { s with
      dcc := s.dcc + 1, dev := { s.dev with ew := s.dev.ewNext }, ctxs := c
      rx := s.rx ++ (s.landing.filter (fun x => decide (x.1 ≤ s.dcc.toNat + 1))).map (·.2)
      landing := s.landing.filter (fun x => decide (s.dcc.toNat + 1 < x.1))
      chans := s.chans.filter (fun x => s.dcc.toNat < x.hi) } := by
  rw [execArithmeticClockTick, if_neg (by simp [h])]
  exact ⟨_, rfl⟩

/-- Settles O39: each event is the equation of its branch, and the caches, records, queues and clock are read off it. -/
theorem translationsAreCachedDroppedAndRetried : Obligations.TranslationsAreCachedDroppedAndRetried := by
  unfold Obligations.TranslationsAreCachedDroppedAndRetried
  refine ⟨?leaf, ?fault, translationWalk_refused, ?xinv, ?complete, ?resume, ?replay, ?again, ?tick, ?still⟩
  case leaf =>
    intro s w va e h
    have hc := s.world_cacheSet w e
    refine ⟨_, translationWalk_leaf s w va e h, .setWorld .., ?_, fun f hf => ?_, ?_⟩
    · simp [hc]
    · rw [hc] at hf
      obtain hf | hf := List.mem_append.1 hf
      · exact .inr (Xlat.mem_of_mem_without hf)
      · exact .inl (List.mem_singleton.1 hf)
    · rw [hc]
  case fault =>
    intro s w va l r line h
    obtain ⟨hkept, hworlds⟩ := RecordedIn.recordFault s w va.toNat l r line
    have hx := s.world_recordFault_x w va.toNat l r line
    refine ⟨_, translationWalk_fault s w va l r line h, hkept, hworlds, ?_, ?_, ?_, ?_, ?_⟩
    · rintro rfl; exact s.recordFault_none_dev w va.toNat l r
    · simp [hx]
    · simp [hx]
    · simp [hx]
    · rintro ln rfl; simp [s.world_recordFault_g]
  case xinv =>
    intro s port w v hr hw
    refine ⟨_, execXinv_ready port hr hw, .onXlat .., ?_⟩
    simp only [State.world_onXlat, if_pos, xinvRange_eq]
  case complete =>
    intro s w lo hi hinv hc
    obtain ⟨t, ht, hkept, hworlds⟩ := execInvalidationComplete_idle hinv hc
    have hflush := OnlyStored.flushed s w lo hi
    refine ⟨t, ht, ?_, ?_, fun v hv => ?_, ?_, ?_, fun hlo hhi a ha => State.tableWord_of_untold ?_⟩
    · simp [State.world_congr hworlds, State.world_invalidated]
    · simp [State.world_congr hworlds, State.world_invalidated, Xlat.outside, meetsRange]
    · simp [State.world_congr hworlds, State.world_invalidated, hv]
    · rw [hkept]; exact hflush.gangs
    · rw [hkept]; exact hflush.tiles
    · subst hlo hhi
      rw [hkept]; exact s.flushed_all_untold w a ha
  case resume =>
    intro s u age f l hf hr
    exact ⟨_, execTranslationWaitResume_ok hf hr, rfl⟩
  case replay =>
    intro s u n p l hn hrun hcov htried hfirst hr ha
    refine ⟨_, execReplayEntry_write ⟨hn, hrun, hcov, htried, hfirst⟩ hr ha, ?_, ?_⟩
    · rw [(OnlyStored.storeSegs ..).ctx, State.ctx_setCtx]
    · rw [State.storeSegs_mem, State.setCtx_mem]
  case again =>
    intro s u n va p hn hrun hcov htried hfirst hr
    exact ⟨_, execReplayEntry_page ⟨hn, hrun, hcov, htried, hfirst⟩ hr, rfl⟩
  case tick =>
    intro s hr
    obtain ⟨c, ht⟩ := execArithmeticClockTick_ready hr
    refine ⟨_, ht, rfl, rfl, rfl, rfl, fun e => ?_, fun g => ?_⟩
    · simp
    · simp
  case still =>
    intro s hr
    exact execArithmeticClockTick_unready hr

end Sys2Proof

/-! PROOFS. The sequential core: scalar accesses that are refused (O7), delivery (O32), traps without a handler (O58), words (O55),
the step (O59), and a debugger's halt (O38). -/

namespace Sys2Proof

open Sys2Proof.Machine Sys2Proof.Claim

/-! ## Scalar accesses that a check of R30 refuses (O7) -/

/-- Where R30 gives a trap, the check of the model raises it, with the offset as its TINFO. -/
theorem checkR30_of_accessTrap {s : State} {h : BitVec 6} {right : Nat} {o : Int} {n : Nat} {c : BitVec 8}
    (ht : accessTrap s h right o n = some c) :
    checkR30 s (s.slot h) right o n = .error (.trap s c (BitVec.ofInt 64 o)) := by
  unfold accessTrap at ht
  cases hs : s.slot h with
  | none => simp only [hs] at ht; cases ht; rfl
  | some r =>
    simp only [hs] at ht
    rw [checkR30]
    split at ht
    · next hr => cases ht; rw [if_pos (by simp [hr])]; rfl
    · next hr =>
      rw [if_neg (by simpa using hr)]
      split at ht
      · next hb => cases ht; rw [if_pos hb]; rfl
      · next hb =>
        rw [if_neg hb]
        split at ht
        · next hal => cases ht; rw [if_pos hal]; rfl
        · cases ht

/-- A scalar load is the load of its slot at its offset. -/
theorem exec_of_loadOf {i : Instr} {s : State} {d : BitVec 5} {h : BitVec 6} {o : Int} {n : Nat} {sx : Bool}
    (hi : loadOf s i = some (d, h, o, n, sx)) : exec i s = controlOp (scalarLoad n sx d h o s) := by
  unfold loadOf at hi
  split at hi <;> cases hi <;>
    simp [execLdb, execLdbu, execLdh, execLdhu, execLdw, execLdwu, execLdd, execLdbLong, execLdbuLong, execLdhLong, execLdhuLong,
      execLdwLong, execLdwuLong, execLddLong, offShort, offLong]

/-- A scalar store is the store to its slot at its offset. -/
theorem exec_of_storeOf {i : Instr} {s : State} {d : BitVec 5} {h : BitVec 6} {o : Int} {n : Nat}
    (hi : storeOf s i = some (d, h, o, n)) : exec i s = controlOp (scalarStore n d h o s) := by
  unfold storeOf at hi
  split at hi <;> cases hi <;>
    simp [execStb, execSth, execStw, execStd, execStbLong, execSthLong, execStwLong, execStdLong, offShort, offLong]

/-- An atomic is the operation at its slot and offset. -/
theorem exec_of_atomOf {i : Instr} {s : State} {x : Atom} {h : BitVec 6} {o : Int} {ord : Ord}
    (hi : atomOf s i = some (x, h, o, ord)) : exec i s = controlOp (atomic x h o ord s) := by
  unfold atomOf at hi
  split at hi <;> cases hi <;> rfl

/-- Settles O7: the check of R30 comes first in every scalar access, and its trap ends the instruction in the state before it. -/
theorem scalarAccessesTrapInOrder : Obligations.ScalarAccessesTrapInOrder := by
  unfold Obligations.ScalarAccessesTrapInOrder
  refine ⟨?load, ?store, ?atom⟩
  case load =>
    intro i s d h o n sx c hi ht
    rw [exec_of_loadOf hi, scalarLoad, checkR30_of_accessTrap ht]; rfl
  case store =>
    intro i s d h o n c hi ht
    rw [exec_of_storeOf hi, scalarStore, checkR30_of_accessTrap ht]; rfl
  case atom =>
    intro i s x h o ord c hi ht
    rw [exec_of_atomOf hi, atomic, checkR30_of_accessTrap ht]; rfl

/-! ## Delivery (O32) -/

/-- The place behind the lanes of an instruction, in its line or at the start of the next one (R27). -/
theorem Machine.State.stepPast_ctl (s : State) (n : Nat) : (s.stepPast n).ctx.ctl = { s.ctx.ctl with
    nline := if s.ctx.ctl.lane + n < 8 then s.ctx.ctl.line else s.ctx.ctl.line + 32
    nlane := if s.ctx.ctl.lane + n < 8 then s.ctx.ctl.lane + n else 0 } := by
  rw [State.stepPast, State.ctx_ctl]
  by_cases h : s.ctx.ctl.lane + n < 8 <;> simp [h]

theorem Machine.State.stepPast_ctx (s : State) (n : Nat) : (s.stepPast n).ctx = { s.ctx with ctl := (s.stepPast n).ctx.ctl } := by
  simp [State.stepPast]

theorem OnlyControl.stepPast (s : State) (n : Nat) : OnlyControl s (s.stepPast n) := .ctl ..

/-- Outside an open loop nothing is delivered into a body. -/
theorem Machine.LoopDel.inBody_closed {l : LoopDel} (e : Engine) (line : Nat) (h : l.open_ = false) : l.inBody e line = false := by
  simp [LoopDel.inBody, h]

/-- Going on outside an open loop only moves the place. -/
theorem Machine.State.advance_closed {s : State} (h : s.ctx.lp.open_ = false) :
    s.advance = s.ctl (fun c => { c with line := c.nline, lane := c.nlane, hold := .none, held := 0 }) := by
  simp [State.advance, h]

section
variable {s : State} {l : List Lane} {i : Instr} {n : Nat} {e : Engine}
  (hf : s.canFetch = true) (hh : s.ctx.ctl.hold = .none) (hd : decodeLanes l = .ok i n) (he : engineOf i = some e)
include hf hh hd he

/-- An instruction whose predicate is false is dropped (R23). -/
theorem execDeliver_dropped (hp : (s.stepPast n).ctx.ctl.getP (uses i).dp = false) :
    execDeliverEngineInstruction l s = .next (s.stepPast n).advance := by
  simp [execDeliverEngineInstruction, hf, hh, hd, he, hp]

/-- Outside an open loop an instruction whose engine has no room holds (R25). -/
theorem execDeliver_full (hp : (s.stepPast n).ctx.ctl.getP (uses i).dp = true) (ho : s.ctx.lp.open_ = false)
    (hr : s.ctx.room e = false) : execDeliverEngineInstruction l s = .next ((s.stepPast n).holdAs (.queue e)) := by
  have ho' : (s.stepPast n).ctx.lp.open_ = false := by rw [State.stepPast_ctx]; exact ho
  have hr' : (s.stepPast n).ctx.room e = false := by rw [State.stepPast_ctx]; exact hr
  simp [execDeliverEngineInstruction, hf, hh, hd, he, hp, hr', LoopDel.inBody_closed _ _ ho']

/-- Outside an open loop an instruction whose engine has room is pushed (R23, R44). -/
theorem execDeliver_pushed (hp : (s.stepPast n).ctx.ctl.getP (uses i).dp = true) (ho : s.ctx.lp.open_ = false)
    (hr : s.ctx.room e = true) (hfire : s.firing = false) :
    execDeliverEngineInstruction l s = .next ((s.stepPast n).deliver i e (l.take n) false).advance := by
  have ho' : (s.stepPast n).ctx.lp.open_ = false := by rw [State.stepPast_ctx]; exact ho
  have hr' : (s.stepPast n).ctx.room e = true := by rw [State.stepPast_ctx]; exact hr
  have hfire' : (s.stepPast n).firing = false := by rw [State.firing, State.stepPast_ctx]; exact hfire
  simp [execDeliverEngineInstruction, hf, hh, hd, he, hp, hr', hfire', LoopDel.inBody_closed _ _ ho']

end

/-- An instruction captures the same values at whatever next place is set. -/
theorem Machine.State.capture_stepPast (s : State) (n : Nat) (i : Instr) (l : List Lane) (age : Nat) :
    (s.stepPast n).capture i l age = s.capture i l age := by
  have hs : ∀ r, (s.stepPast n).slot r = s.slot r := fun r => by
    simp only [State.slot, State.stepPast_ctl]; rfl
  simp only [State.capture, hs, State.stepPast_ctl]
  rfl

/-- Delivery outside a loop's body: one entry more in the engine's queue, of an age of its own (R44, R129). -/
theorem Machine.State.ctx_deliver (s : State) (i : Instr) (e : Engine) (l : List Lane) :
    (s.deliver i e l false).ctx = ({ s.ctx with ctl := { s.ctx.ctl with nextAge := s.ctx.ctl.nextAge + 1 } } : Ctx).push e
      (.instr (s.capture i l s.ageNow) true) := by
  simp [State.deliver, State.newAge]

theorem OnlyControl.deliver (s : State) (i : Instr) (e : Engine) (l : List Lane) : OnlyControl s (s.deliver i e l false) := by
  refine ⟨(OnlyMoving.setCtx s _).trans (.setCtx ..), ?_⟩
  rw [State.ctx_deliver]; rfl

theorem Machine.Ctx.engAt_congr {c d : Ctx} (h : d.eng = c.eng) (x : Engine) : d.engAt x = c.engAt x := by
  simp only [Ctx.engAt, h]

theorem Machine.Ctx.push_eng_congr {c d : Ctx} (e : Engine) (i : QItem) (h : d.eng = c.eng) : (d.push e i).eng = (c.push e i).eng := by
  simp only [Ctx.push, Ctx.setEng, Ctx.engAt_congr h, h]

/-- A push lengthens one queue. -/
theorem Machine.Ctx.engAt_of_pushed {c d : Ctx} {e : Engine} {i : QItem} (h : d.eng = (c.push e i).eng) (x : Engine) :
    d.engAt x = { c.engAt x with q := (c.engAt x).q ++ if x = e then [i] else [] } := by
  rw [Ctx.engAt_congr h]
  by_cases hx : x = e
  · subst hx; simp [Ctx.push]
  · simp [Ctx.push, hx]

/-- A new hold starts its count. -/
theorem Machine.State.ctx_holdAs_new {s : State} {h : Hold} (hn : s.ctx.ctl.hold ≠ h) :
    (s.holdAs h).ctx = { s.ctx with ctl := { s.ctx.ctl with hold := h, held := 0 } } := by
  rw [State.holdAs, State.ctx_ctl, if_neg hn]

/-- A held instruction is handled again once its queue has room (R25). -/
theorem execFetchHoldRelease_room {s : State} {e : Engine} (hp : s.ctx.phase = .running) (hf : s.ctx.ctl.fetch = .run)
    (hh : s.ctx.ctl.hold = .queue e) (hr : s.ctx.room e = true) (hfire : s.firing = false) :
    execFetchHoldRelease s = .next ((s.ctl (fun c => { c with hold := .none, held := 0 })).moveFirst (.fetch s.cur)) := by
  simp [execFetchHoldRelease, hp, hf, hh, hr, hfire]

/-- The lowest owed marker is pushed where its queue has room (R89). -/
theorem Machine.State.pushOwed_room {s : State} {e : Engine} (h : lowestOf s.ctx.lp.owed = some e) (hr : s.ctx.room e = true) :
    s.pushOwed = s.setCtx { s.ctx.push e (.endMark s.ctx.lp.endAge) with
      lp := { s.ctx.lp with owed := dropBit s.ctx.lp.owed e } } := by
  simp [State.pushOwed, h, hr]

/-- Settles O32: the branches of delivery, of the release of a hold and of a marker's push, each read off its equation. -/
theorem engineInstructionsAreDelivered : Obligations.EngineInstructionsAreDelivered := by
  unfold Obligations.EngineInstructionsAreDelivered
  refine ⟨fun s l i n e hf hh hd he => ⟨?dropped, ?pushed, ?full⟩, ?release, ?owed⟩
  case dropped =>
    intro hp
    obtain ⟨hmoves, hs, -⟩ := State.advance_spec (s.stepPast n) (s.stepPast n) (.refl _) rfl rfl rfl
    exact ⟨_, execDeliver_dropped hf hh hd he hp, hmoves, by rw [hs, State.stepPast_ctl]⟩
  case pushed =>
    intro hp ho hr hfire
    have hctx := (s.stepPast n).ctx_deliver i e (l.take n)
    rw [State.capture_stepPast, show (s.stepPast n).ageNow = s.ageNow by rw [State.ageNow, State.stepPast_ctl]; rfl] at hctx
    have hopen : ((s.stepPast n).deliver i e (l.take n) false).ctx.lp.open_ = false := by
      rw [hctx, Ctx.push_lp, State.stepPast_ctx]; exact ho
    refine ⟨_, execDeliver_pushed hf hh hd he hp ho hr hfire, ?_⟩
    rw [State.advance_closed hopen]
    refine ⟨((OnlyControl.stepPast s n).trans (.deliver ..)).trans (.ctl ..), ?_, ?_, ?_, ?_, fun x => ?_⟩
    · simp [hctx]
    · simp [hctx]
    · simp [hctx, State.stepPast_ctl]
    · simp [hctx, State.stepPast_ctl]
    · refine Ctx.engAt_of_pushed ?_ x
      rw [State.ctx_ctl, hctx]
      exact Ctx.push_eng_congr _ _ (by rw [State.stepPast_ctx])
  case full =>
    intro hp ho hr
    have hctx : ((s.stepPast n).holdAs (.queue e)).ctx =
        { s.ctx with ctl := { (s.stepPast n).ctx.ctl with hold := .queue e, held := 0 } } := by
      rw [State.ctx_holdAs_new (by simp [State.stepPast_ctl, hh]), State.stepPast_ctx]
    obtain ⟨hkept, hothers⟩ := (OnlyMoving.setCtx s _).trans (OnlyMoving.setCtx (s.stepPast n) _)
    refine ⟨_, execDeliver_full hf hh hd he hp ho hr, ⟨hkept, hothers, ?_⟩, ?_, ?_, ?_⟩
    all_goals simp [hctx, State.stepPast_ctl]
  case release =>
    intro s e hp hf hh hr hfire
    refine ⟨_, execFetchHoldRelease_room hp hf hh hr hfire, ⟨rfl, fun k hk => ?_, ?_⟩, ?_⟩
    · exact (OnlyMoving.setCtx s _).2 k hk
    · simp
    · simp
  case owed =>
    intro s e hp hi hl hr
    have hstep : exec .owedMarkerPush s = .next s.pushOwed := by simp [execOwedMarkerPush, hp, hi]
    rw [State.pushOwed_room hl hr] at hstep
    refine ⟨_, hstep, ⟨.setCtx .., ?_⟩, ?_, ?_, fun x => ?_⟩
    · simp [Ctx.push, Ctx.setEng]
    · simp
    · simp
    · rw [State.ctx_setCtx]; exact Ctx.engAt_of_pushed rfl x

/-! ## Control instructions whose operands are refused (O58) -/

/-- Where the rule of a derived record refuses its source (R78, R79), so does the model. -/
theorem Machine.State.deriveFrom_none {s : State} {ha : BitVec 6} (off : Word) (h : s.slot ha = none) :
    s.deriveFrom ha off = .error (.trap s tNOHANDLE off) := by simp [State.deriveFrom, h]

theorem Machine.State.deriveFrom_underivable {s : State} {ha : BitVec 6} {r : Handle} (off : Word) (h : s.slot ha = some r)
    (hr : r.has rDV = false) : s.deriveFrom ha off = .error (.trap s tRIGHTS off) := by simp [State.deriveFrom, h, hr]

theorem Machine.State.deriveFrom_derivable {s : State} {ha : BitVec 6} {r : Handle} (off : Word) (h : s.slot ha = some r)
    (hr : ¬ r.has rDV = false) : s.deriveFrom ha off = .ok r := by
  have hr : r.has rDV = true := by simpa using hr
  simp [State.deriveFrom, h, hr]

theorem hderive_of_controlFault {s : State} {hd ha : BitVec 6} {a b keep : BitVec 5} {c : BitVec 8} {ti : Word}
    (h : controlFault s (.hderive hd ha a b keep) = some (c, ti)) :
    hderive hd ha (s.getS a) (s.getS b) keep s = .error (.trap s c ti) := by
  simp only [controlFault] at h
  cases hs : s.slot ha with
  | none => simp only [hs] at h; cases h; simp only [hderive, State.deriveFrom_none _ hs]
  | some r =>
    simp only [hs] at h
    split at h
    · next hr => cases h; simp only [hderive, State.deriveFrom_underivable _ hs hr]
    · next hr =>
      simp only [hderive, State.deriveFrom_derivable _ hs hr]
      split at h
      · next hlen => cases h; rw [if_pos hlen]
      · next hlen =>
        rw [if_neg hlen]
        split at h
        · next hal => cases h; rw [if_pos hal]
        · cases h

theorem hoff_of_controlFault {s : State} {hd ha : BitVec 6} {a : BitVec 5} {c : BitVec 8} {ti : Word}
    (h : controlFault s (.hoff hd ha a) = some (c, ti)) : hoff hd ha (s.getS a) s = .error (.trap s c ti) := by
  simp only [controlFault] at h
  cases hs : s.slot ha with
  | none => simp only [hs] at h; cases h; simp only [hoff, State.deriveFrom_none _ hs]
  | some r =>
    simp only [hs] at h
    split at h
    · next hr => cases h; simp only [hoff, State.deriveFrom_underivable _ hs hr]
    · next hr =>
      simp only [hoff, State.deriveFrom_derivable _ hs hr]
      split at h
      · next hlen => cases h; rw [if_pos hlen]
      · next hlen =>
        rw [if_neg hlen]
        split at h
        · next hal => cases h; rw [if_pos hal]
        · cases h

/-- A transfer to a place in a scalar raises the trap of a misaligned or too large one (R84). -/
theorem jumpTo_of_controlFault {s u : State} {a : BitVec 5} {c : BitVec 8} {ti : Word}
    (h : controlFault s (.ret a) = some (c, ti)) : jumpTo (s.getS a) s u = .error (.trap s c ti) := by
  simp only [controlFault] at h
  unfold jumpTo
  split at h
  · simp_all
  · split at h <;> simp_all

theorem Machine.State.inLoop_iff (s : State) : s.inLoop = true ↔ s.ctx.lp.open_ = true ∨ s.ctx.lp.susp = true := by simp [State.inLoop]

/-- No loop begins within a loop (R90). -/
theorem loopb_of_inLoop {s : State} (mask : BitVec 6) (lm1 : BitVec 5) (nm1 : BitVec 16) (k : Skews) (h : s.inLoop = true) :
    loopb mask lm1 nm1 k s = .error (.trap s tLOOPFAULT 0) := by rw [loopb, if_pos h]

/-- No fence begins within a loop (R276). -/
theorem startFence_of_inLoop {s : State} (mask : BitVec 6) (f : Bool) (h : s.inLoop = true) :
    startFence mask f s = .error (.trap s tLOOPFAULT 2) := by rw [startFence, if_pos h]

theorem evInc_of_no_target {s : State} {t : Word} (e : BitVec 6) (rel : Bool) (amt : BitVec 32) (h : s.target t = none) :
    evInc e t rel amt s = .error (.trap s tEVTARGET t) := by simp [evInc, h]

theorem banklend_of_controlFault {s : State} {b : BitVec 2} {g : BitVec 1} {c : BitVec 8} {ti : Word}
    (h : controlFault s (.banklend b g) = some (c, ti)) : banklend b g s = .error (.trap s c ti) := by
  simp only [controlFault] at h
  simp only [banklend, Vec.lend]
  split at h
  · next hlent => cases h; rw [if_pos hlent]; rfl
  · next hlent =>
    rw [if_neg hlent]
    cases hl : (if g = 0 then s.ctx.vec.g0 else s.ctx.vec.g1) with
    | some b' =>
      rw [hl, if_pos (by simp)] at h
      cases h
      rfl
    | none =>
      rw [hl, if_neg (by simp)] at h
      rw [if_neg (by simp)]
      split at h
      · next huse => cases h; rw [if_pos huse]; rfl
      · cases h

theorem bankret_of_controlFault {s : State} {g : BitVec 1} {c : BitVec 8} {ti : Word}
    (h : controlFault s (.bankret g) = some (c, ti)) : bankret g s = .error (.trap s c ti) := by
  simp only [controlFault] at h
  simp only [bankret, Vec.lend]
  split at h
  · simp_all [bankInfo]
  · split at h <;> simp_all [bankInfo]

theorem tbar_of_controlFault {s : State} {t : BitVec 8} {a : BitVec 5} {c : BitVec 8} {ti : Word}
    (h : controlFault s (.tbar t a) = some (c, ti)) : tbar t a s = .error (.trap s c ti) := by
  simp only [controlFault] at h
  unfold tbar
  split at h
  · split at h <;> simp_all [barInfo]
  · split at h
    · simp_all [barInfo]
    · split at h <;> simp_all [barInfo]

/-- A control instruction whose operands its rule refuses raises its trap in the state before it (R78, R79, R84, R86, R90, R94,
R144, R145, R226, R271, R276). -/
theorem exec_of_controlFault {i : Instr} {s : State} {c : BitVec 8} {ti : Word} (h : controlFault s i = some (c, ti)) :
    exec i s = .next (s.controlTrap c ti) := by
  cases i
  case hderive => rw [exec_hderive, execHderive, hderive_of_controlFault h]; rfl
  case hoff => rw [exec_hoff, execHoff, hoff_of_controlFault h]; rfl
  case callr d a => rw [exec_callr, execCallr, jumpTo_of_controlFault (a := a) h]; rfl
  case ret => rw [exec_ret, execRet, jumpTo_of_controlFault h]; rfl
  case loopb =>
    simp only [controlFault] at h
    split at h
    · next ho => cases h; rw [exec_loopb, execLoopb, loopb_of_inLoop _ _ _ _ (s.inLoop_iff.2 ho)]; rfl
    · cases h
  case fencem =>
    simp only [controlFault] at h
    split at h
    · next ho => cases h; rw [exec_fencem, execFencem, startFence_of_inLoop _ _ (s.inLoop_iff.2 ho)]; rfl
    · cases h
  case fence =>
    simp only [controlFault] at h
    split at h
    · next ho => cases h; rw [exec_fence, execFence, if_neg ho.2, startFence_of_inLoop _ _ (s.inLoop_iff.2 ho.1)]; rfl
    · cases h
  case evinc =>
    simp only [controlFault] at h
    split at h
    · next ht => cases h; rw [exec_evinc, execEvinc, evInc_of_no_target _ _ _ ht]; rfl
    · cases h
  case evincN =>
    simp only [controlFault] at h
    split at h
    · next ht => cases h; rw [exec_evincN, execEvincN, evInc_of_no_target _ _ _ ht]; rfl
    · cases h
  case banklend => rw [exec_banklend, execBanklend, banklend_of_controlFault h]; rfl
  case bankret => rw [exec_bankret, execBankret, bankret_of_controlFault h]; rfl
  case tbar => rw [exec_tbar, execTbar, tbar_of_controlFault h]; rfl
  all_goals cases h

/-- A stopped context fetches nothing, and its queued work is gone (R223). -/
theorem Machine.Ctx.halted_stopped (c : Ctx) : Halted c.stopped := ⟨rfl, rfl, rfl, rfl, rfl⟩

/-- Settles O58: the refused instruction raises its trap, which without a handler stops the gang; what a stop does is read off
`stopGang_spec`. -/
theorem trapsWithoutAHandlerStopTheGang : Obligations.TrapsWithoutAHandlerStopTheGang := by
  unfold Obligations.TrapsWithoutAHandlerStopTheGang
  intro i s code ti g hfault hno hvalid hgang htrap
  obtain ⟨-, hctxs, hgangs, -⟩ := s.stopGang_spec s.cur (stopCode s code)
  have hstep : exec i s = .next (s.stopGang s.cur (stopCode s code)) := by
    rw [exec_of_controlFault hfault, State.controlTrap, s.enterTrap_stop _ _ _ _ _ hno]; rfl
  have hset : s.stopsWith s.cur = s.cur :: s.keysOfGang s.bind.gang.toNat := by
    rw [State.stopsWith]; exact congrArg _ (if_pos hvalid)
  have hcur : (s.stopGang s.cur (stopCode s code)).cur = s.cur := by rw [(s.stopGang_spec ..).1]
  have hhalt : ∀ k ∈ s.stopsWith s.cur, Halted ((s.stopGang s.cur (stopCode s code)).ctxAt k) := fun k hk => by
    rw [hctxs, if_pos hk]; exact Ctx.halted_stopped _
  refine ⟨_, hstep, ?_, fun k hk => hhalt k (by simp [hset, hk]), ?_, State.stopGang_mem .., fun k hk hk' => ?_⟩
  · rw [State.ctx, hcur]; exact hhalt _ (by simp [hset])
  · have := hgangs hvalid g hgang
    rwa [htrap] at this
  · rw [hctxs, if_neg (by simp [hset, hk, hk'])]

/-! ## Words (O55) -/

/-- Settles O55: each word is evaluated by the decoder. -/
theorem decodeWordsAreRight : Obligations.DecodeWordsAreRight := by
  unfold Obligations.DecodeWordsAreRight
  decide

/-! ## The step (O59) -/

/-- An event that the device brings about is performed. -/
theorem step_auto {s : State} {r : List Move} {k : Nat} {a : Auto} (h : s.agenda = .auto k a :: r) :
    step s = a.perform (fetching s r k) := by
  rw [step, h]; rfl

/-- An event from outside is executed. -/
theorem step_event {s : State} {r : List Move} {k : Nat} {i : Instr} (h : s.agenda = .event k i :: r) :
    step s = exec i (fetching s r k) := by
  rw [step, h]; rfl

/-- A part of the cycle is planned when its turn comes. -/
theorem step_plan {s : State} {r : List Move} {n : Nat} (h : s.agenda = .plan n :: r) :
    step s = .next { s with agenda := ({ s with agenda := r } : State).planned n ++ r } := by
  rw [step, h]; rfl

/-- A fetch that finds an instruction executes it, or delivers it to its engine. -/
theorem step_fetch {s t : State} {r : List Move} {k : Nat} {i : Instr} {l : List Lane} (h : s.agenda = .fetch k :: r)
    (hf : (fetching s r k).fetchNext = (t, some (i, l))) :
    step s = exec (if (engineOf i).isSome then .deliverEngineInstruction l else i) t := by
  have ha : ({ s with agenda := r } : State).act (.fetch k) =
      (t, some (if (engineOf i).isSome then .deliverEngineInstruction l else i)) := by
    unfold fetching at hf
    simp only [State.act, hf]
  rw [step, h]
  simp only [ha]

/-- An issue that finds an instruction executes it. -/
theorem step_issue {s t : State} {r : List Move} {k : Nat} {e : Engine} {x : Option Instr} (h : s.agenda = .issue k e :: r)
    (hi : (fetching s r k).issueNext e = (t, x)) : step s = x.elim (.next t) (fun i => exec i t) := by
  have ha : ({ s with agenda := r } : State).act (.issue k e) = (t, x) := hi
  rw [step, h]
  simp only [ha]
  cases x <;> rfl

/-- With nothing left to do the parts of the next cycle are chosen. -/
theorem step_choose {s : State} (h : s.agenda = []) : step s = .next s.choose := by rw [step, h]

/-- Fetch at a place that holds an instruction finds it, with the next place set behind its lanes (R20, R27, R31). -/
theorem Machine.State.fetchNext_ok {s : State} {h : Handle} {i : Instr} {n : Nat} (hf : s.canFetch = true)
    (ho : s.ctx.lp.owed = 0) (hh : s.slot 0 = some h) (hl : s.ctx.ctl.line < h.len.toNat)
    (hd : decodeLanes s.lanesHere = .ok i n) : s.fetchNext = (s.stepPast n, some (i, s.lanesHere.take n)) := by
  have hl : ¬ h.len.toNat ≤ s.ctx.ctl.line := by omega
  simp only [State.fetchNext, hf, ho, hh, hd, if_neg hl, Bool.not_true, Bool.false_eq_true, if_false, ne_eq, not_true, false_and]

/-- The head of an engine that may issue is issued; lanes that hold no instruction of the engine raise ILLEGAL (R11). -/
theorem Machine.State.issueNext_head {s : State} {e : Engine} {c : Cap} {b : Bool} (he : e ≠ .fabric)
    (hh : (s.eng e).head = some (c, b)) (hm : s.mayIssue e c = true) :
    s.issueNext e = if engineOf c.instr = some e then ({ s with iss := c }, some c.instr)
      else (({ s with iss := c } : State).freeze e tILLEGAL (illegalInfo c), none) := by
  simp [State.issueNext, he, hh, hm]

/-- Settles O59: each move is the branch of the step that makes it. -/
theorem stepRunsTheDecodedInstruction : Obligations.StepRunsTheDecodedInstruction := by
  unfold Obligations.StepRunsTheDecodedInstruction
  refine ⟨?fetch, ?place, ?issue, fun s r k i h => step_event h, ?auto, fun s r k h => step_auto h,
    fun s r n h => step_plan h, ?choose⟩
  case fetch =>
    intro s r k n i h ha hf ho hh hl hd
    have hs := step_fetch ha (State.fetchNext_ok hf ho hh hl hd)
    exact ⟨fun hi => by simpa [hi] using hs, fun hi => by simpa [hi] using hs⟩
  case place =>
    intro s n
    rw [State.stepPast_ctl]
    exact ⟨rfl, rfl, rfl, rfl⟩
  case issue =>
    intro s r k e c b ha he hh hm
    have hi := State.issueNext_head he hh hm
    refine ⟨fun hc => ?_, fun hc => ?_⟩
    · rw [if_pos hc] at hi; exact step_issue ha hi
    · rw [if_neg hc] at hi; exact step_issue ha hi
  case auto =>
    intro s r k a ha hne
    obtain ⟨i, hi⟩ := Auto.perform_eq_exec a (fetching s r k) hne
    exact ⟨i, (step_auto ha).trans hi⟩
  case choose =>
    intro s ha
    exact ⟨[.plan 0, .plan 1, .plan 2, .plan 3, .plan 4], step_choose ha⟩

/-! ## A debugger's halt (O38) -/

/-- A gang of one strand, on slot 0 of core 0, that neither runs nor is pre-empted. -/
def idleGang : Gang :=
  { world := 0, tag := 0, sq := 0, prio := 0, link := none, linkN := 0
    r := { va := 0, d0 := 0, c0 := 0, k0 := 0, nd := 1, nc := 1, nk := 1, tagmode := false, prio := 0, link := none, psize := 0
           start := 0, teams := [], strands := [⟨0, 0, 0, []⟩], handles := [] }
    keys := [0], bars := [], ready := none, startAt := none, lastStart := 0, running := false, preempted := false, halted := false
    migrating := false, trap := none, retired := [], refused := false }

/-- The device with that gang, whose context is nevertheless being saved for a pre-emption. -/
def savingUnpreempted : State :=
  { State.reset with gangs := [(1, some idleGang)], ctxs := [(0, { Ctx.reset with phase := .saving, img := ⟨true, 0, []⟩ })] }

/-- The halt of the gang marks the image that is being written (R384): its context changes. -/
theorem dbghalt_savingUnpreempted :
    ∃ t, exec (.dbghalt savingUnpreempted.dev.holder 0 1) savingUnpreempted = .next t ∧ (t.ctxAt 0).img.pre = false := ⟨_, rfl, rfl⟩

/-- Refutes O38: its clause on DBGHALT of a gang that neither runs nor is pre-empted says that no context changes, of every state, and
asks nothing of the phases of the gang's contexts. Where one of them is being saved, the halt marks its image as not pre-empted by the
scheduler core (R384). The model's own events mark a gang as pre-empted when they take its contexts; the clause lacks that premise. -/
theorem not_gangsStopResumeAndRetire : ¬ Obligations.GangsStopResumeAndRetire := by
  unfold Obligations.GangsStopResumeAndRetire
  rintro ⟨-, -, -, -, -, -, -, -, -, -, -, -, -, hdebug⟩
  obtain ⟨-, hstarting, -⟩ := hdebug savingUnpreempted 0 1 idleGang rfl rfl
  obtain ⟨t, ht, -, -, hctxs⟩ := hstarting rfl rfl (by unfold Unlinked; decide)
  obtain ⟨u, hu, hpre⟩ := dbghalt_savingUnpreempted
  rw [ht] at hu
  cases hu
  have hkept : t.ctxAt 0 = savingUnpreempted.ctxAt 0 := by simp only [State.ctxAt, hctxs]
  rw [hkept] at hpre
  exact absurd hpre (by decide)

end Sys2Proof

/-! PROOFS. Control instructions: arithmetic, compares and predicate logic (O1), transfers (O2), handles (O3), control and status
registers (O4), scalar stores (O5) and loads (O8). -/

namespace Sys2Proof

open Sys2Proof.Machine Sys2Proof.Claim

/-! ## What going on keeps of the registers -/

theorem SameRegs.getS {u t : State} (h : SameRegs u t) (r : BitVec 5) : t.getS r = u.getS r := by
  simp only [State.getS, Ctrl.getS, h.1]

theorem SameRegs.getP {u t : State} (h : SameRegs u t) (r : BitVec 3) : t.ctx.ctl.getP r = u.ctx.ctl.getP r := by
  obtain ⟨-, hp, -⟩ := h
  simp only [Ctrl.getP, hp]

theorem SameRegs.others {u t : State} (h : SameRegs u t) : OthersKept u t := by
  obtain ⟨-, hp, hh, he, -, -⟩ := h
  exact ⟨hp, hh, he⟩

theorem SameRegs.due {u t : State} (h : SameRegs u t) : t.ctx.ctl.due = u.ctx.ctl.due := by
  obtain ⟨-, -, -, -, hd, -⟩ := h
  exact hd

/-- A control instruction that changes no more than registers of the control stream goes on from them. -/
theorem controlOp_ctl (s : State) (f : Ctrl → Ctrl) (hf : (f s.ctx.ctl).fetch = s.ctx.ctl.fetch)
    (hn : (f s.ctx.ctl).nline = s.ctx.ctl.nline) (hm : (f s.ctx.ctl).nlane = s.ctx.ctl.nlane) :
    ∃ t, controlOp (.ok (s.ctl f)) = .next t ∧ MovesOn s t ∧ SameRegs (s.ctl f) t :=
  ⟨_, rfl, s.advance_ctl f hf hn hm⟩

/-- Going on from a state as it stands. -/
theorem Machine.State.advance_self (s : State) : MovesOn s s.advance ∧ SameRegs s s.advance :=
  s.advance_spec s (.refl s) rfl rfl rfl

/-- A control instruction that changes nothing goes on. -/
theorem controlOp_ok (s : State) : ∃ t, controlOp (.ok s) = .next t ∧ MovesOn s t ∧ SameRegs s t :=
  ⟨_, rfl, s.advance_self⟩

/-! ## Arithmetic, compares and predicate logic (O1) -/

/-- s[d] written by an instruction of one cycle, or of n cycles whose result is then known (R97, R98). -/
def Machine.State.setSIn (s : State) (d : BitVec 5) (v : Word) : Option Nat → State
  | none => s.setS d v
  | some n => ((s.setS d v).occupy n).lateAs s d none

theorem Machine.State.ctx_setSIn (s : State) (d : BitVec 5) (v : Word) (o : Option Nat) :
    ∃ l, (s.setSIn d v o).ctx = { s.ctx with ctl := { s.ctx.ctl.setS d v with
      nextAge := s.ctx.ctl.nextAge, due := (match o with | some n => s.dcc.toNat + n | none => s.ctx.ctl.due), late := l } } := by
  rw [← Ctrl.setS_nextAge s.ctx.ctl d v]
  cases o with
  | none =>
    refine ⟨s.ctx.ctl.late, ?_⟩
    rw [State.setSIn, State.ctx_setS, ← Ctrl.setS_due s.ctx.ctl d v, ← Ctrl.setS_late s.ctx.ctl d v]
  | some n => exact ⟨_, by rw [State.setSIn, State.lateAs, State.ctx_ctl, State.ctx_occupy, State.ctx_setS]; rfl⟩

theorem OnlyControl.setS (s : State) (d : BitVec 5) (v : Word) : OnlyControl s (s.setS d v) := .ctl ..

theorem OnlyControl.occupy (s : State) (n : Nat) : OnlyControl s (s.occupy n) := .ctl ..

theorem OnlyControl.lateAs (t s : State) (d : BitVec 5) (l : Option Reload) : OnlyControl t (t.lateAs s d l) := .ctl ..

theorem OnlyControl.setSIn (s : State) (d : BitVec 5) (v : Word) (o : Option Nat) : OnlyControl s (s.setSIn d v o) := by
  cases o with
  | none => exact .setS ..
  | some n => exact ((OnlyControl.setS s d v).trans (.occupy ..)).trans (.lateAs ..)

/-- A control instruction that has written one scalar, taking cycles and perhaps an age, goes on. -/
theorem controlOp_scalarWritten {s u : State} {d : BitVec 5} {v : Word} {age due : Nat} {l : Option Late} (hu : OnlyControl s u)
    (hc : u.ctx = { s.ctx with ctl := { s.ctx.ctl.setS d v with nextAge := age, due := due, late := l } }) :
    ∃ t, controlOp (.ok u) = .next t ∧ MovesOn s t ∧ ScalarsBut s t d v ∧ OthersKept s t ∧ t.ctx.ctl.due = due := by
  obtain ⟨t, ht, hm, hr⟩ := controlOp_ok_spec s u hu (by rw [hc]) (by rw [hc]) (by simp [hc]) (by simp [hc]) (by simp [hc])
  obtain ⟨hp, hh, he⟩ := hr.others
  refine ⟨t, ht, hm, fun r => ?_, ⟨?_, ?_, ?_⟩, ?_⟩
  · rw [hr.getS, ← State.getS_setS]
    simp only [State.getS, hc, State.ctx_setS, Ctrl.getS]
  · rw [hp, hc]; exact Ctrl.setS_p ..
  · rw [hh, hc]; exact Ctrl.setS_h ..
  · rw [he, hc]; exact Ctrl.setS_e ..
  · rw [hr.due, hc]

theorem remS_eq (a b : Word) :
    remS a b = if b = 0 then a else BitVec.ofInt 64 (a.toInt - b.toInt * a.toInt.tdiv b.toInt) := by
  rw [remS, Int.tmod_def]

/-- A shift count below 64 is read as it stands (R69). -/
theorem shamt_signExtend {i : BitVec 11} (h : i.toNat < 64) : shamt (i.signExtend 64) = i.toNat := by
  have hm : i.msb = false := by rw [BitVec.msb_eq_decide, decide_eq_false_iff_not]; omega
  rw [shamt, BitVec.signExtend_eq_setWidth_of_msb_false hm, BitVec.toNat_setWidth]
  omega

/-- An arithmetic instruction writes its result in its cycles and goes on (R67 to R70, R98). -/
theorem exec_of_scalarResult {i : Instr} {s : State} {d : BitVec 5} {v : Word} (h : scalarResult s i = some (d, v)) :
    exec i s = controlOp (.ok (s.setSIn d v (occupancy i))) := by
  unfold scalarResult at h
  split at h
  -- rem: `tmod` by way of `tdiv`
  case h_7 => cases h; rw [exec_rem, execRem, aluN, remS_eq]; rfl
  -- slli, srli, srai: their counts are below 64
  case h_23 | h_24 | h_25 =>
    split at h
    · next hi =>
      cases h
      simp only [exec_slli, exec_srli, exec_srai, execSlli, execSrli, execSrai, aluI, shl, shrL, shrA, shamt_signExtend hi]
      rfl
    · cases h
  -- no arithmetic
  case h_28 => cases h
  all_goals cases h; rfl

/-- A compare or a predicate instruction writes its relation and goes on (R71, R72). -/
theorem exec_of_predicateResult {i : Instr} {s : State} {d : BitVec 3} {v : Bool} (h : predicateResult s i = some (d, v)) :
    exec i s = controlOp (.ok (s.setP d v)) := by
  unfold predicateResult at h
  split at h
  -- no compare and no predicate logic
  case h_17 => cases h
  all_goals cases h
  -- cmpne, with a scalar or an immediate
  case h_2 | h_8 => simp only [exec_cmpne, exec_cmpneImm, execCmpne, execCmpneImm, cmp2, cmpI, bne, ne_eq, decide_not]; rfl
  -- cmplt and cmple with an immediate: sign extension keeps its value
  case h_9 | h_10 =>
    simp only [exec_cmpltImm, exec_cmpleImm, execCmpltImm, execCmpleImm, cmpI, ltS, leS,
      BitVec.toInt_signExtend_of_le (show 13 ≤ 64 by decide)]
  all_goals rfl

/-- Settles O1: each instruction is the write of its one register, and going on changes no other (`controlOp_scalarWritten`,
`controlOp_ctl`). -/
theorem scalarAndPredicateResults : Obligations.ScalarAndPredicateResults := by
  unfold Obligations.ScalarAndPredicateResults
  refine ⟨?scalar, ?predicate⟩
  case scalar =>
    intro i s d v h
    obtain ⟨l, hc⟩ := s.ctx_setSIn d v (occupancy i)
    rw [exec_of_scalarResult h]
    exact controlOp_scalarWritten (.setSIn ..) hc
  case predicate =>
    intro i s d v h
    obtain ⟨t, ht, hm, hr⟩ := controlOp_ctl s (fun c => c.setP d v) (by simp) (by simp) (by simp)
    obtain ⟨hs, -, hh, he, -, -⟩ := id hr
    rw [exec_of_predicateResult h]
    refine ⟨t, ht, hm, fun r => ?_, ?_, ?_, ?_⟩
    · rw [hr.getP, State.ctx_ctl]; exact Ctrl.getP_setP ..
    · rw [hs, State.ctx_ctl]; exact Ctrl.setP_s ..
    · rw [hh, State.ctx_ctl]; exact Ctrl.setP_h ..
    · rw [he, State.ctx_ctl]; exact Ctrl.setP_e ..

/-! ## Branches, calls and returns (O2) -/

/-- The state from which a transfer goes: its link written, or none to write (R83). -/
def Linked (s u : State) (d : BitVec 5) : Prop := (u = s ∧ d = 0) ∨ u = s.setS d s.link

theorem jumpTo_ok {w : Word} (s u : State) (h : w.toNat % 32 = 0 ∧ w.toNat < 2 ^ 18) : jumpTo w s u = .ok (u.jump w.toNat) := by
  rw [jumpTo, if_neg (by simp [h.1]), if_neg (by omega)]

/-- A taken transfer writes its link and jumps (R83, R84). -/
theorem exec_of_transfer {i : Instr} {s : State} {d : BitVec 5} {line : Nat} (h : transfer s i = some (d, line)) :
    ∃ u, Linked s u d ∧ exec i s = controlOp (.ok (u.jump line)) := by
  unfold transfer at h
  split at h
  -- b
  case h_1 => cases h; exact ⟨s, .inl ⟨rfl, rfl⟩, rfl⟩
  -- bc
  case h_2 =>
    split at h
    · next hp => cases h; exact ⟨s, .inl ⟨rfl, rfl⟩, by rw [exec_bc, execBc, hp]; rfl⟩
    · cases h
  -- bcn
  case h_3 =>
    split at h
    · cases h
    · next hp => cases h; exact ⟨s, .inl ⟨rfl, rfl⟩, by rw [exec_bcn, execBcn, Bool.eq_false_iff.2 hp]; rfl⟩
  -- call
  case h_4 => cases h; exact ⟨_, .inr rfl, rfl⟩
  -- callr
  case h_5 =>
    split at h
    · next ha => cases h; exact ⟨_, .inr rfl, by rw [exec_callr, execCallr, jumpTo_ok _ _ ha]⟩
    · cases h
  -- ret
  case h_6 =>
    split at h
    · next ha => cases h; exact ⟨s, .inl ⟨rfl, rfl⟩, by rw [exec_ret, execRet, jumpTo_ok _ _ ha]⟩
    · cases h
  -- no transfer
  case h_7 => cases h

/-- A branch that is not taken changes nothing (R83). -/
theorem exec_of_notTaken {i : Instr} {s : State} (h : notTaken s i = true) : exec i s = controlOp (.ok s) := by
  unfold notTaken at h
  split at h
  case h_1 => rw [exec_bc, execBc, show s.ctx.ctl.getP _ = false by simpa using h]; rfl
  case h_2 => rw [exec_bcn, execBcn, h]; rfl
  case h_3 => cases h

theorem Linked.onlyControl {s u : State} {d : BitVec 5} (h : Linked s u d) : OnlyControl s u := by
  obtain ⟨rfl, -⟩ | rfl := h
  · exact .refl u
  · exact .setS ..

/-- Of the context only the linked scalar has been written. -/
theorem Linked.ctx {s u : State} {d : BitVec 5} (h : Linked s u d) :
    u.ctx = { s.ctx with ctl := { s.ctx.ctl with s := u.ctx.ctl.s } } := by
  obtain ⟨rfl, -⟩ | rfl := h
  · rfl
  · rw [State.ctx_setS]
    simp only [Ctrl.setS]
    split <;> rfl

theorem Linked.scalarsBut {s u : State} {d : BitVec 5} (h : Linked s u d) : ScalarsBut s u d s.link := by
  obtain ⟨rfl, rfl⟩ | rfl := h
  · exact fun r => by rw [if_neg (fun h => h.2 h.1)]
  · exact fun r => State.getS_setS ..

/-- Settles O2: a taken transfer is a jump from the state with its link written, which `jump_spec` describes. -/
theorem transfersGoToTheirTarget : Obligations.TransfersGoToTheirTarget := by
  unfold Obligations.TransfersGoToTheirTarget
  refine ⟨?taken, ?not⟩
  case taken =>
    intro i s d line h
    obtain ⟨u, hu, hx⟩ := exec_of_transfer h
    have hc := hu.ctx
    obtain ⟨hmoves, hs, hp, hh, he, hdue⟩ := State.jump_spec s u line hu.onlyControl (by rw [hc]) (by rw [hc]) (by rw [hc])
    have hdcc : u.dcc = s.dcc := by rw [hu.onlyControl.1.1]
    refine ⟨_, hx, hmoves, fun r => ?_, ⟨?_, ?_, ?_⟩, ?_⟩
    · rw [← State.link, ← hu.scalarsBut r]
      simp only [State.getS, Ctrl.getS, hs]
    · rw [hp, hc]
    · rw [hh, hc]
    · rw [he, hc]
    · rw [hdue, hdcc]
  case not =>
    intro i s h
    obtain ⟨t, ht, hm, hr⟩ := controlOp_ok s
    exact ⟨t, (exec_of_notTaken h).trans ht, hm, hr.1, hr.others⟩

/-! ## Handle instructions (O3) -/

/-- A slot written by an instruction of one cycle or of n (R78 to R80, R98). -/
def Machine.State.setSlotIn (s : State) (hd : BitVec 6) (r : Option Handle) (n : Nat) : State :=
  if n = 1 then s.setSlot hd r else (s.setSlot hd r).occupy n

theorem hderive_ok {s : State} {hd ha : BitVec 6} {off len : Word} {keep : BitVec 5} {r : Handle} (hs : s.slot ha = some r)
    (hdv : r.has rDV = true) (hlen : len.toNat ≠ 0) (hle : off.toNat + len.toNat ≤ r.len.toNat) (hal : off.toNat % 32 = 0) :
    hderive hd ha off len keep s =
      .ok ((s.setSlot hd (some (s.derive r off.toNat len.toNat (r.rights &&& keep.setWidth 8)))).occupy 4) := by
  have hlen : ¬ len = 0 := fun h => hlen (by rw [h]; rfl)
  simp only [hderive, State.deriveFrom_derivable off hs (by simp [hdv])]
  rw [if_neg (by simp only [hlen, false_or]; omega), if_neg (by simp [hal])]

theorem hoff_ok {s : State} {hd ha : BitVec 6} {off : Word} {r : Handle} (hs : s.slot ha = some r)
    (hdv : r.has rDV = true) (hlt : off.toNat < r.len.toNat) (hal : off.toNat % 32 = 0) :
    hoff hd ha off s = .ok ((s.setSlot hd (some (s.derive r off.toNat (r.len.toNat - off.toNat) r.rights))).occupy 2) := by
  simp only [hoff, State.deriveFrom_derivable off hs (by simp [hdv])]
  rw [if_neg (by omega), if_neg (by simp [hal])]

/-- A handle instruction writes its record into its slot (R78 to R80). -/
theorem exec_of_derivedRecord {i : Instr} {s : State} {hd : BitVec 6} {r : Option Handle} {n : Nat}
    (h : derivedRecord s i = some (hd, r, n)) : exec i s = controlOp (.ok (s.setSlotIn hd r n)) := by
  unfold derivedRecord at h
  split at h
  -- hderive
  case h_1 =>
    split at h
    · next x hs =>
      simp only at h
      split at h
      · next hx =>
        obtain ⟨hdv, hlen, hle, hal⟩ := hx
        cases h
        rw [exec_hderive, execHderive, hderive_ok hs hdv hlen hle hal]
        rfl
      · cases h
    · cases h
  -- hoff
  case h_2 =>
    split at h
    · next x hs =>
      simp only at h
      split at h
      · next hx =>
        obtain ⟨hdv, hlt, hal⟩ := hx
        cases h
        rw [exec_hoff, execHoff, hoff_ok hs hdv hlt hal]
        rfl
      · cases h
    · cases h
  -- hclear
  case h_3 => cases h; rfl
  -- no handle instruction
  case h_4 => cases h

theorem OnlyControl.setSlotIn (s : State) (hd : BitVec 6) (r : Option Handle) (n : Nat) : OnlyControl s (s.setSlotIn hd r n) := by
  unfold State.setSlotIn
  split
  · exact .ctl ..
  · exact (OnlyControl.ctl s _).trans (.occupy ..)

theorem Machine.State.ctx_setSlotIn (s : State) (hd : BitVec 6) (r : Option Handle) (n : Nat) :
    ∃ l, (s.setSlotIn hd r n).ctx = { s.ctx with ctl := { s.ctx.ctl with
      h := SMap.set none s.ctx.ctl.h hd.toNat r
      due := if n = 1 then s.ctx.ctl.due else s.dcc.toNat + n, late := l } } := by
  unfold State.setSlotIn
  split
  · exact ⟨s.ctx.ctl.late, by rw [State.setSlot, State.ctx_ctl]⟩
  · exact ⟨none, by rw [State.ctx_occupy, State.setSlot, State.ctx_ctl]; rfl⟩

/-- Settles O3: the enabling conditions leave the one branch of the model that writes the slot. -/
theorem handleInstructionsWriteOneSlot : Obligations.HandleInstructionsWriteOneSlot := by
  unfold Obligations.HandleInstructionsWriteOneSlot
  intro i s hd r n h
  obtain ⟨l, hc⟩ := s.ctx_setSlotIn hd r n
  obtain ⟨t, ht, hm, hs, hp, hh, he, hdue, -⟩ :=
    controlOp_ok_spec s _ (.setSlotIn s hd r n) (by rw [hc]) (by rw [hc]) (by rw [hc]) (by rw [hc]) (by rw [hc])
  rw [exec_of_derivedRecord h]
  refine ⟨t, ht, hm, ?_, ?_, ?_, fun k => ?_, ?_⟩
  · rw [hs, hc]
  · rw [hp, hc]
  · rw [he, hc]
  · rw [hh, hc]; exact SMap.get_set ..
  · rw [hdue, hc]

/-! ## Control and status registers (O4) -/

/-- The moving context with sixteen waiting xfences, and bit 32 of s1 set. -/
def sixteenFences : State := State.reset.setCtx { Ctx.reset with
  ctl := { Ctrl.reset with s := [(1, 2 ^ 32)] }, fab := { Fab.reset with fences := List.replicate 16 ⟨0, 0, [], 0⟩ } }

/-- The count of the fences stands from bit 28 on, so that sixteen of them set bit 32, which no write clears. -/
theorem csrw_sixteenFences :
    ∃ t, exec (.csrw 1 0x036) sixteenFences = .next t ∧ csrRead t 0x036 = 2 ^ 32 := ⟨_, rfl, by decide⟩

theorem csrAfter_sixteenFences : csrAfter sixteenFences (.csrw 1 0x036) = some (0x036, 0) := by decide

/-- Refutes O4: its clause on writes speaks of every state, and where sixteen xfences wait, their count in XSTAT reaches bit 32, the
place of the W1C flag, so that the bit still reads 1 after a 1 has been written to it. The model's own `xfence` holds at eight (R453,
R472); the clause lacks that premise. -/
theorem not_scalarReadsAndCsrWrites : ¬ Obligations.ScalarReadsAndCsrWrites := by
  unfold Obligations.ScalarReadsAndCsrWrites
  rintro ⟨-, hwrite⟩
  obtain ⟨t, ht, hread, -⟩ := hwrite _ _ _ _ csrAfter_sixteenFences
  obtain ⟨u, hu, hstays⟩ := csrw_sixteenFences
  rw [ht] at hu
  cases hu
  rw [hread] at hstays
  exact absurd hstays (by decide)

/-! ## Scalar stores (O5) -/

/-- An access that R30 lets pass passes the model's check. -/
theorem checkR30_of_accessible {s : State} {h : BitVec 6} {right : Nat} {o : Int} {n : Nat} {r : Handle}
    (ha : Accessible s h right o n r) : checkR30 s (s.slot h) right o n = .ok r := by
  obtain ⟨hs, hr, hlo, hhi, hal⟩ := ha
  simp only [checkR30, hs, hr, Bool.not_true, Bool.false_eq_true, if_false]
  rw [if_neg (by omega), if_neg (by simp [hal])]

theorem OnlyControl.newAge (s : State) : OnlyControl s s.newAge.1 :=
  .ctl s (fun c => { c with nextAge := c.nextAge + 1 })

theorem Machine.State.phase_newAge (s : State) (k : Nat) : (s.newAge.1.ctxAt k).phase = (s.ctxAt k).phase := by
  simp only [State.newAge, State.ctl, State.ctxAt_setCtx]
  split
  · next hk => rw [hk]; rfl
  · rfl

@[simp] theorem Machine.State.unplaced_newAge (s : State) (h : Handle) (o n : Nat) :
    s.newAge.1.unplaced h o n = s.unplaced h o n := by
  have hb : ∀ k, s.newAge.1.bindAt k = s.bindAt k := fun _ => rfl
  simp only [State.unplaced, State.partitionIn, State.phase_newAge, hb]

/-- What a scalar store waits for, it does not wait for where nothing holds it. -/
theorem unplaced_of_not_held {s : State} {h : Handle} {o n : Nat} (hh : scalarHeld s h o n true = false) :
    s.unplaced h o n = false := by
  simp only [scalarHeld, if_true, Bool.or_eq_false_iff] at hh
  exact hh.1.2

/-- A write is not parked behind an older one whose pages hold none of its bytes (R267). -/
theorem not_parked_behind {c : Ctx} {h : Handle} {l : List Seg} (hp : h.level = 0 ∨ c.pageParked h.world l = false) :
    ¬ (h.level ≠ 0 ∧ c.pageParked h.world l = true) :=
  fun ⟨h0, h1⟩ => hp.elim h0 (fun h2 => by rw [h2] at h1; cases h1)

section
variable {s u : State} {src age keep due : Nat} {h : Handle} {rngs : List Rng} {p : Seg} {ti : Word}
  (hp : h.level = 0 ∨ s.ctx.pageParked h.world [{ p with a := h.base.toNat + p.a }] = false)
  (hu : s.unplaced h p.a p.n = false)
include hp hu

/-- A posted write of one piece whose bytes are translated is in flight (R74). -/
theorem Machine.State.post_ok {rs : List (List (Nat × Nat))} (hr : s.resolveMany s.cur h [(p.a, p.n)] true = .ok (u, rs)) :
    s.post src age h rngs [p] ti keep due = .ok (withFlight u ⟨src, age, h.sync, h.world, rngs, due, keep, ti,
      (rs.zip [p.v]).flatMap (fun e => cutRuns e.1 e.2), [], false, s.iss.line, s.iss.lane⟩) := by
  have hpark := not_parked_behind hp
  have hzip : (rs.zip [p]).flatMap (fun e => cutRuns e.1 e.2.v) = (rs.zip [p.v]).flatMap (fun e => cutRuns e.1 e.2) := by
    cases rs <;> simp
  simp only [State.post, List.map_cons, List.map_nil, if_neg hpark, List.any_cons, List.any_nil, hu, hr, Bool.or_false,
    Bool.false_eq_true, if_false, hzip]
  rfl

/-- A posted write of one piece whose page faults or blocks writes is parked (R74, R267). -/
theorem Machine.State.post_parked {va : Nat} (hr : s.resolveMany s.cur h [(p.a, p.n)] true = .error (.page u va) ∨
      s.resolveMany s.cur h [(p.a, p.n)] true = .error (.blocked u va)) (hroom : u.ctx.rq.length < 64) :
    s.post src age h rngs [p] ti keep due = .ok (withParked u ⟨src, age, h.sync, h.world, [{ p with a := h.base.toNat + p.a }],
      none, false, s.iss.line, s.iss.lane, keep, ti, false⟩) := by
  have hpark := not_parked_behind hp
  obtain hr | hr := hr <;>
  · simp only [State.post, List.map_cons, List.map_nil, if_neg hpark, List.any_cons, List.any_nil, hu, hr, Bool.or_false,
      Bool.false_eq_true, if_false, if_pos hroom]
    rfl

end

/-- A store that passes R30 and that nothing holds posts its bytes (R73, R74, R98). -/
theorem scalarStore_posts {s : State} {n : Nat} {d : BitVec 5} {h : BitVec 6} {o : Int} {r : Handle}
    (ha : Accessible s h rWR o n r) (hheld : scalarHeld s r o.toNat n true = false) :
    scalarStore n d h o s = s.newAge.1.post 6 s.ageNow r (s.blocks r o (o + n - 1) true)
      [⟨o.toNat, n, (s.getS d).toNat % 2 ^ (8 * n)⟩] (BitVec.ofInt 64 o) 0 (s.dcc.toNat + s.pathCycles r [8, 30, 52, 128] 380) := by
  rw [scalarStore, checkR30_of_accessible ha]
  simp only [hheld, Bool.false_eq_true, if_false]
  rfl

theorem MovesTo.mem {s t : State} {line lane : Nat} {b : Bool} (h : MovesTo s t line lane b) : t.mem = s.mem := by
  rw [h.1.1.1]

/-- A control instruction goes on from a state that differs in what is in flight or parked alone. -/
theorem controlOp_queued {u w : State} (hmem : w.mem = u.mem) (hctl : w.ctx.ctl = u.ctx.ctl) :
    ∃ t, controlOp (.ok w) = .next t ∧ t.mem = u.mem ∧ MovesOn w t ∧ t.ctx.ctl.s = u.ctx.ctl.s ∧ OthersKept u t := by
  obtain ⟨t, ht, hm, hr⟩ := controlOp_ok w
  obtain ⟨hp, hh, he⟩ := hr.others
  exact ⟨t, ht, hm.mem.trans hmem, hm, by rw [hr.1, hctl], by rw [hp, hctl], by rw [hh, hctl], by rw [he, hctl]⟩

/-- Settles O5: the store is one posted write under a new age; its bytes are in flight where they resolve, and parked where a page
stops them. -/
theorem scalarStoresPostTheirBytes : Obligations.ScalarStoresPostTheirBytes := by
  unfold Obligations.ScalarStoresPostTheirBytes
  intro i s d h o n r hi ha hheld hpark
  have hx := (exec_of_storeOf hi).trans (congrArg controlOp (scalarStore_posts ha hheld))
  have hu : s.newAge.1.unplaced r o.toNat n = false := by rw [State.unplaced_newAge]; exact unplaced_of_not_held hheld
  have hp : r.level = 0 ∨ s.newAge.1.ctx.pageParked r.world
      [⟨r.base.toNat + o.toNat, n, (s.getS d).toNat % 2 ^ (8 * n)⟩] = false := by
    simpa [State.newAge, Ctx.pageParked] using hpark
  refine ⟨fun u rs hr => ?posted, fun u va hr hroom => ?parked⟩
  case posted =>
    rw [hx, State.post_ok hp hu hr]
    exact controlOp_queued rfl (by rw [withFlight, State.ctx_setCtx])
  case parked =>
    rw [hx, State.post_parked hp hu hr hroom]
    exact controlOp_queued rfl (by rw [withParked, State.ctx_setCtx])

/-! ## Scalar loads, and the bytes of a cistern (O8) -/

/-- Writing a scalar and giving an age change different fields. -/
theorem Machine.Ctrl.setS_of_nextAge (c : Ctrl) (d : BitVec 5) (v : Word) (a : Nat) :
    ({ c with nextAge := a } : Ctrl).setS d v = { c.setS d v with nextAge := a } := by
  simp only [Ctrl.setS]; split <;> rfl

/-- The state that a load leaves: an age taken, its value written, its cycles taken and its result known (R73, R97, R98). -/
def Machine.State.afterLoad (u s : State) (d : BitVec 5) (v : Word) (n : Nat) (l : Option Reload) : State :=
  ((u.newAge.1.setS d v).occupy n).lateAs s d l

theorem OnlyControl.afterLoad (u s : State) (d : BitVec 5) (v : Word) (n : Nat) (l : Option Reload) :
    OnlyControl u (u.afterLoad s d v n l) :=
  (((OnlyControl.newAge u).trans (.setS ..)).trans (.occupy ..)).trans (.lateAs ..)

theorem Machine.State.ctx_afterLoad (u s : State) (d : BitVec 5) (v : Word) (n : Nat) (l : Option Reload) :
    ∃ y, (u.afterLoad s d v n l).ctx = { u.ctx with ctl := { u.ctx.ctl.setS d v with
      nextAge := u.ctx.ctl.nextAge + 1, due := u.dcc.toNat + n, late := y } } := by
  refine ⟨some ⟨d, s.getS d, (u.ctx.ctl.setS d v).getS d, l⟩, ?_⟩
  rw [State.afterLoad, State.lateAs, State.ctx_ctl, State.ctx_occupy, State.ctx_setS, State.newAge, State.ctx_ctl, Ctrl.setS_of_nextAge]
  rfl

section
variable {s : State} {n : Nat} {sx : Bool} {d : BitVec 5} {h : BitVec 6} {o : Int} {r : Handle}
  (ha : Accessible s h rRD o n r) (hheld : scalarHeld s r o.toNat n false = false)
include ha hheld

/-- A load that passes R30 and that nothing holds writes what it reads through its handle. -/
theorem scalarLoad_ok {u : State} {v : Nat} (hl : s.load 6 r o.toNat n (offW o) = .ok (u, v)) :
    scalarLoad n sx d h o s = .ok (u.afterLoad s d (extend n sx v) (s.pathCycles r [8, 30, 52, 128] 380)
      (some (s.reloadOf r n sx o.toNat))) := by
  simp only [scalarLoad, checkR30_of_accessible ha, hheld, Bool.false_eq_true, if_false, hl]
  rfl

/-- What stops its read stops a load. -/
theorem scalarLoad_stop {e : Stop} (hl : s.load 6 r o.toNat n (offW o) = .error e) : scalarLoad n sx d h o s = .error e := by
  simp only [scalarLoad, checkR30_of_accessible ha, hheld, Bool.false_eq_true, if_false, hl]

end

section
variable {s u : State} {src : Nat} {h : Handle} {o n : Nat} {ti : Word} {runs : List (Nat × Nat)}
  (hr : s.resolve h o n false = .ok u runs) (hb : u.badRun runs = none)
include hr hb

/-- A read whose bytes have come gives them as the source's own writes left them (R76, R139). -/
theorem Machine.State.load_ok (ha : s.asked src (s.ageFor src) runs = none) :
    s.load src h o n ti = .ok (u, readRuns (u.ctx.view src u.mem) runs) := by
  simp only [State.load, hr, hb, ha]

/-- A read of host memory whose bytes have not come asks for them and waits (R478). -/
theorem Machine.State.load_asked {v : State} (ha : s.asked src (s.ageFor src) runs = some v) :
    s.load src h o n ti = .error (.hold v) := by
  simp only [State.load, hr, hb, ha]

end

/-- Nothing changed but the energy account of the moving context (R386). -/
def OnlyCharged (s t : State) : Prop := t = { s with ctxs := t.ctxs } ∧ t.ctx = { s.ctx with en := t.ctx.en }

theorem OnlyCharged.refl (s : State) : OnlyCharged s s := ⟨rfl, rfl⟩

theorem OnlyCharged.trans {s t u : State} (h : OnlyCharged s t) (g : OnlyCharged t u) : OnlyCharged s u := by
  refine ⟨?_, ?_⟩
  · rw [g.1]; conv_lhs => rw [h.1]
  · rw [g.2]; conv_lhs => rw [h.2]

theorem OnlyCharged.charge (s : State) (cls n : Nat) : OnlyCharged s (s.charge s.cur cls n) := by
  refine ⟨rfl, ?_⟩
  rw [State.charge, ← State.setCtx, State.ctx_setCtx]; rfl

theorem OnlyCharged.cur {s t : State} (h : OnlyCharged s t) : t.cur = s.cur := by rw [h.1]

theorem OnlyCharged.chargeRuns (s : State) (l : List (Nat × Nat)) : OnlyCharged s (s.chargeRuns s.cur l) := by
  have step : ∀ (t : State) (r : Nat × Nat), OnlyCharged s t → OnlyCharged s
      (if r.1 < Config.hbmTop then t.charge s.cur 5 (linesOf r.1 r.2).length
        else if r.1 < Config.imemBase then t.charge s.cur 4 (linesOf r.1 r.2).length else t) := by
    intro t r ht
    rw [← ht.cur]
    split
    · exact ht.trans (.charge ..)
    · split
      · exact ht.trans (.charge ..)
      · exact ht
  exact List.foldlRecOn l _ (OnlyCharged.refl s) (fun t ht r _ => step t r ht)

/-- The bytes of an unswizzled cistern handle are one run (R233, R238). -/
theorem Machine.Handle.cistRuns_unswizzled {h : Handle} (hsw : h.geo0.toNat / 2 ^ 62 = 0) (ci fuel o n : Nat) (hn : 0 < n) :
    h.cistRuns ci (fuel + 1) o n = [(Config.cisternBase + ci * 2 ^ 23 + (h.base.toNat % 2 ^ 23 + o), n)] := by
  simp only [Handle.cistRuns, Handle.cist, if_neg (Nat.ne_of_gt hn), if_pos hsw]

/-- An access to a partition of its world reaches the cistern that the record names (R233, R236). -/
theorem Machine.State.resolve_cistern {s : State} {h : Handle} {o n ci : Nat} (write : Bool) (h0 : h.level = 0)
    (hc : coreIdx h.core = some ci) (hn : 0 < n) (hp : s.inPartition h o n = true) :
    s.resolve h o n write = .ok (s.chargeRuns s.cur (h.cistRuns ci (n / 64 + 2) o n)) (h.cistRuns ci (n / 64 + 2) o n) := by
  simp only [State.resolve, State.resolveAt, if_neg (Nat.ne_of_gt hn), if_pos h0, hc, hp, if_true]

/-- Settles O8: a load goes the way of its read, and an unswizzled cistern record resolves to one run. -/
theorem loadsAndTheBytesOfACistern : Obligations.LoadsAndTheBytesOfACistern := by
  unfold Obligations.LoadsAndTheBytesOfACistern
  refine ⟨fun i s d h o n sx r u runs hi ha hheld hr hb => ⟨fun hcome => ?loaded, fun v hask => ?asked⟩, ?cistern⟩
  case loaded =>
    rw [exec_of_loadOf hi, scalarLoad_ok ha hheld (State.load_ok hr hb hcome)]
    obtain ⟨y, hc⟩ := u.ctx_afterLoad s d (extend n sx (readRuns (u.ctx.view 6 u.mem) runs))
      (s.pathCycles r [8, 30, 52, 128] 380) (some (s.reloadOf r n sx o.toNat))
    obtain ⟨t, ht, hm, hs, ho, -⟩ := controlOp_scalarWritten (.afterLoad ..) hc
    exact ⟨t, ht, hm, hs, ho, hm.mem⟩
  case asked =>
    rw [exec_of_loadOf hi, scalarLoad_stop ha hheld (State.load_asked hr hb hask)]
    rfl
  case cistern =>
    intro s r o n ci write h0 hsw hc hn hp
    obtain ⟨hkept, hctx⟩ := OnlyCharged.chargeRuns s (r.cistRuns ci (n / 64 + 2) o n)
    have hx := State.resolve_cistern write h0 hc hn hp
    rw [Handle.cistRuns_unswizzled hsw ci _ o n hn] at *
    exact ⟨_, hx, by rw [hkept], hkept, hctx⟩

end Sys2Proof

/-! PROOFS. Events of the control stream, its writes, the engines' queues and the service calls: waits and trap entry (O33), posted
writes and increments (O34), queues and markers (O35), service calls (O36). -/

namespace Sys2Proof

open Sys2Proof.Machine Sys2Proof.Claim

/-! ## Waits and the entry of engine traps (O33) -/

theorem ofNat_half (p : BitVec 8) : BitVec.ofNat 7 (p.toNat / 2) = p.extractLsb' 1 7 := by
  apply BitVec.eq_of_toNat_eq
  rw [BitVec.toNat_ofNat, BitVec.extractLsb'_toNat, Nat.shiftRight_eq_div_pow]

/-- Where a handler can be entered, trap entry stands in it (R34, R89). -/
theorem inHandler_enterTrap {s : State} (h : CanTrap s) (code : BitVec 8) (ti : Word) (line lane : Nat) (t : Teng) :
    InHandler s (s.enterTrap code ti line lane t) code ti line lane t := by
  obtain ⟨hm, hc⟩ := s.enterTrap_handler code ti line lane t h.1 h.2
  rw [ofNat_half] at hc
  exact ⟨hm, hc⟩

theorem meets_iff {e t : BitVec 32} : meets e t = true ↔ (e - t).toNat < 2 ^ 31 := by rw [meets, decide_eq_true_iff]

section
variable {s : State} {n : BitVec 6} {th : BitVec 32} {acq : Bool} (hh : s.ctx.ctl.hold = .evwait n th acq)
  (hp : s.ctx.phase = .running)
include hh hp

/-- A wait whose counter meets its threshold goes on (R272). -/
theorem execEvwaitMet_met (hm : meets (s.ctx.ctl.getE n) th = true) :
    execEvwaitMet s = .next (if acq then s.acquire n.toNat else s).advance := by
  simp [execEvwaitMet, hh, hp, hm]

/-- A wait that has lasted its limit raises WAITLIMIT (R272). -/
theorem execWaitlimit_unmet (hm : meets (s.ctx.ctl.getE n) th = false) (h0 : s.ctx.csr.evstall.toNat ≠ 0)
    (hl : s.ctx.csr.evstall.toNat ≤ s.ctx.ctl.held) :
    execWaitlimit s = .next (s.controlTrap tWAITLIMIT (word ((s.ctx.ctl.getE n).toNat * 2 ^ 32 + n.toNat))) := by
  simp [execWaitlimit, hh, hp, hm, hl, h0]

end

/-- A wait for a cycle that has come goes on, and the next instruction is processed in the same cycle (R92). -/
theorem execDccwaitExpiry_due {s : State} {c : Word} (hh : s.ctx.ctl.hold = .dccwait c) (hp : s.ctx.phase = .running)
    (hc : c.toNat ≤ s.dcc.toNat) : execDccwaitExpiry s = .next (s.advance.moveFirst (.fetch s.cur)) := by
  simp [execDccwaitExpiry, hh, hp, hc]

section
variable {s : State} {e : Engine} {p : Pend} (he : s.ctx.pending = some (e, p)) (hp : s.ctx.phase = .running)
  (hf : s.ctx.ctl.fetch ≠ .stopped) (hi : s.ctx.csr.intrap = false)
include he hp hf hi

/-- A pending trap that is due is entered (R365). -/
theorem execTrapEntry_due (hh : s.ctx.ctl.hold.abandoned = true) (hd : s.ctx.ctl.due ≤ s.dcc.toNat)
    (ha : p.at_.toNat + 2 ≤ s.dcc.toNat) : execTrapEntry s = .next (s.enterPending e p) := by
  simp [execTrapEntry, he, hp, hf, hi, hh, hd, ha]

/-- Without a handler a pending trap is entered at once. -/
theorem execTrapEntry_unhandled (hv : s.ctx.csr.tvecEn = false) : execTrapEntry s = .next (s.enterPending e p) := by
  simp [execTrapEntry, he, hp, hf, hi, hv]

end

/-- Settles O33: each event is the branch of its hypotheses, and trap entry is read off `enterTrap_handler` and `enterTrap_stop`. -/
theorem waitsEndAndTrapsEnter : Obligations.WaitsEndAndTrapsEnter := by
  unfold Obligations.WaitsEndAndTrapsEnter
  refine ⟨fun s n th acq hh hp => ⟨fun hm => ?met, fun hm h0 hl ht => ?limit⟩, ?cycle, ?entry, ?unhandled⟩
  case met =>
    rw [exec_evwaitMet, execEvwaitMet_met hh hp (meets_iff.2 hm)]
    cases acq with
    | false =>
      obtain ⟨hm, hr⟩ := s.advance_self
      exact ⟨_, rfl, hm, hr.1⟩
    | true =>
      obtain ⟨t, ht, hm, hr⟩ := controlOp_ctl s (fun c => { c with acquired := SMap.set 0 c.acquired n.toNat s.dcc.toNat }) rfl rfl rfl
      exact ⟨t, ht, hm, by rw [hr.1, State.ctx_ctl]⟩
  case limit =>
    have hu : meets (s.ctx.ctl.getE n) th = false := by
      rw [Bool.eq_false_iff, ne_eq, meets_iff]; omega
    exact ⟨_, execWaitlimit_unmet hh hp hu h0 hl, inHandler_enterTrap ht ..⟩
  case cycle =>
    intro s c hh hp hc
    obtain ⟨hm, hr⟩ := s.advance_self
    exact ⟨_, _, execDccwaitExpiry_due hh hp hc, by rw [State.moveFirst, show s.advance.agenda = s.agenda by rw [hm.1.1.1]], hm, hr.1⟩
  case entry =>
    intro s e p he hp hf hh hd ha ht
    refine ⟨_, execTrapEntry_due he hp hf ht.1 hh hd ha, ?_⟩
    exact inHandler_enterTrap (by simpa [CanTrap] using ht) ..
  case unhandled =>
    intro s e p he hp hf hi hv
    refine (execTrapEntry_unhandled he hp hf hi hv).trans ?_
    rw [State.enterPending, State.enterTrap_stop _ _ _ _ _ _ (.inr (by simpa using hv))]
    simp only [State.setCtx_cur, State.ctx_setCtx, Ctx.setEng_csr, hi, Bool.false_eq_true, if_false]
    rfl

/-! ## Posted writes and increments (O34) -/

/-- A ripe write is the one that its event finds (R76, R98, R139). -/
theorem Claim.Ripe.ripe {s : State} {src age : Nat} {f : Flight} (h : Ripe s src age f) :
    s.ctx.ripe s.dcc.toNat src age = some f := by
  obtain ⟨hf, hd, hw, ho⟩ := h
  have hold : (s.ctx.fl.takeWhile (fun f => !(f.src = src && f.age = age))).any
      (fun o => o.src = src ∧ (!o.wait.isEmpty ∨ segsOver o.segs f.segs)) = false := by
    refine List.any_eq_false.2 (fun o hmem => ?_)
    have := ho o hmem
    simp only [decide_eq_true_eq]
    rintro ⟨hsrc, hbad⟩
    obtain ⟨hwait, hover⟩ := this hsrc
    simp [hwait, hover] at hbad
  simp only [Ctx.ripe, hf, hd, hw, hold]
  rfl

theorem lands_land (s : State) (f : Flight) : Lands s (s.land f) f := by
  obtain ⟨o, b, w, h⟩ := (s.setCtx { s.ctx with fl := s.ctx.fl.erase f }).storeSegs_spec (keepBits s.mem f.keep f.segs)
  rw [State.land, h]
  refine ⟨rfl, fun k hk => ?_, ?_, rfl⟩
  · exact (OnlyMoving.setCtx s { s.ctx with fl := s.ctx.fl.erase f }).2 k hk
  · exact State.ctx_setCtx s { s.ctx with fl := s.ctx.fl.erase f }

/-- A ripe store of the control stream is made (R75). -/
theorem execScalarStoreWritten_ripe {s : State} {age : Nat} {f : Flight} (h : Ripe s 6 age f) :
    execScalarStoreWritten age s = .next (s.land f) := by
  simp only [execScalarStoreWritten, h.ripe]

/-- A ripe write of an engine other than the halo and the fabric engine is made (R137). -/
theorem execEngineCommandComplete_ripe {s : State} {e : Engine} {age : Nat} {f : Flight} (h : Ripe s (Config.engIdx e) age f)
    (hh : e ≠ .halo) (hx : e ≠ .fabric) : execEngineCommandComplete e age s = .next (s.land f) := by
  simp [execEngineCommandComplete, h.ripe, hh, hx]

section
variable {s : State} {x : Incr} (hx : x ∈ s.incrs) (hd : x.due ≤ s.dcc.toNat)
include hx hd

/-- An increment that has arrived is added to its counter (R270, R271). -/
theorem execCounterIncrementArrival_found {k : Nat} (hk : s.keyOf x.gang x.strand = some k) (hp : (s.ctxAt k).phase ≠ .loading) :
    execCounterIncrementArrival x s = .next (({ s with incrs := s.incrs.erase x } : State).setAt k { s.ctxAt k with
      ctl := (s.ctxAt k).ctl.setE x.ctr ((s.ctxAt k).ctl.getE x.ctr + x.amt) }) := by
  have hd : ¬ s.dcc.toNat < x.due := by omega
  simp [execCounterIncrementArrival, hx, hd, hk, hp]

/-- One whose strand is gone is discarded. -/
theorem execCounterIncrementArrival_lost (hk : s.keyOf x.gang x.strand = none) :
    execCounterIncrementArrival x s = .next { s with incrs := s.incrs.erase x } := by
  have hd : ¬ s.dcc.toNat < x.due := by omega
  simp [execCounterIncrementArrival, hx, hd, hk]

end

/-- Settles O34: a ripe write is the one that lands, and an increment changes one counter of the context of its strand. -/
theorem writesLandAndIncrementsArrive : Obligations.WritesLandAndIncrementsArrive := by
  unfold Obligations.WritesLandAndIncrementsArrive
  refine ⟨?scalar, ?engine, ?found, ?lost⟩
  case scalar =>
    intro s age f h
    exact ⟨_, execScalarStoreWritten_ripe h, lands_land s f⟩
  case engine =>
    intro s e age f h hh hx
    exact ⟨_, execEngineCommandComplete_ripe h hh hx, lands_land s f⟩
  case found =>
    intro s x k hx hd hk hp
    refine ⟨_, execCounterIncrementArrival_found hx hd hk hp, rfl, fun j hj => ?_, ?_, ?_, fun n => ?_⟩
    · rw [State.ctxAt_setAt, if_neg hj]; rfl
    · rw [State.ctxAt_setAt, if_pos rfl]
    · rw [State.ctxAt_setAt, if_pos rfl]; rfl
    · rw [State.ctxAt_setAt, if_pos rfl, Ctrl.getE_setE]
      by_cases hn : n = x.ctr
      · rw [if_pos hn, if_pos hn, hn]
      · simp [hn]
  case lost =>
    intro s x hx hd hk
    exact execCounterIncrementArrival_lost hx hd hk

/-! ## Engine queues (O35) -/

section
variable {s t u : State} {e : Engine} {ms : List Move}

theorem Claim.OnlyEng.refl (s : State) (e : Engine) : OnlyEng s s e [] := ⟨rfl, fun _ _ => rfl, rfl, fun _ _ => rfl⟩

theorem Claim.OnlyEng.cur (h : OnlyEng s t e ms) : t.cur = s.cur := by rw [h.1]

theorem Claim.OnlyEng.trans (h : OnlyEng s u e []) (g : OnlyEng u t e ms) : OnlyEng s t e ms := by
  refine ⟨?_, fun k hk => ?_, ?_, fun x hx => (g.2.2.2 x hx).trans (h.2.2.2 x hx)⟩
  · rw [g.1]; conv_lhs => rw [h.1]
    rfl
  · exact (g.2.1 k (by rw [h.cur]; exact hk)).trans (h.2.1 k hk)
  · rw [g.2.2.1]; conv_lhs => rw [h.2.2.1]

end

/-- The issuing instruction of the state is a matter of its head alone. -/
theorem Claim.OnlyEng.issuing (s : State) (e : Engine) (c : Cap) : OnlyEng s { s with iss := c } e [] :=
  ⟨rfl, fun _ _ => rfl, rfl, fun _ _ => rfl⟩

theorem Claim.OnlyEng.moveFirst (s : State) (e : Engine) (m : Move) : OnlyEng s (s.moveFirst m) e [m] :=
  ⟨rfl, fun _ _ => rfl, rfl, fun _ _ => rfl⟩

theorem Claim.OnlyEng.onEng (s : State) (e : Engine) (f : Eng → Eng) : OnlyEng s (s.onEng e f) e [] := by
  refine ⟨rfl, (OnlyMoving.setCtx s _).2, ?_, fun x hx => s.onEng_engAt_ne e x f hx⟩
  rw [State.ctx_onEng]; rfl

theorem Claim.OnlyEng.onVec (s : State) (e : Engine) (f : Vec → Vec) : OnlyEng s (s.onVec f) e [] := by
  refine ⟨rfl, (OnlyMoving.setCtx s _).2, ?_, fun x _ => ?_⟩
  · rw [State.onVec, State.ctx_setCtx]
  · rw [State.onVec, State.eng, State.ctx_setCtx]; rfl

@[simp] theorem Machine.State.vec_onEng (s : State) (e : Engine) (f : Eng → Eng) : (s.onEng e f).ctx.vec = s.ctx.vec := by
  rw [State.ctx_onEng, Ctx.setEng_vec]

@[simp] theorem Machine.State.vec_onVec (s : State) (f : Vec → Vec) : (s.onVec f).ctx.vec = f s.ctx.vec := by
  rw [State.onVec, State.ctx_setCtx]

@[simp] theorem Machine.State.eng_onEng (s : State) (e : Engine) (f : Eng → Eng) : (s.onEng e f).eng e = f (s.eng e) :=
  s.onEng_engAt e f

@[simp] theorem Machine.State.eng_onVec (s : State) (e : Engine) (f : Vec → Vec) : (s.onVec f).eng e = s.eng e := by
  rw [State.onVec, State.eng, State.ctx_setCtx]; rfl

/-- Leaving forgets the pushes made and the stall. -/
theorem Machine.Eng.leave_of_pushed (x : Eng) (n : Nat) : ({ x with made := n, stall := .none, stalled := 0 } : Eng).leave = x.leave := rfl

/-- The state after the last push of an instruction, which leaves (R132, R142). -/
def Machine.State.lastPushed (s : State) (e : Engine) (p : Push) : State :=
  ((s.onVec (fun v => v.push p.q p.v p.f)).onEng e (fun x => { x with made := x.made + 1, stall := .none, stalled := 0 })).onEng e Eng.leave

theorem Machine.State.pushAll_last {s : State} {p : Push} (e : Engine) (h : s.ctx.vec.qcount p.q < 4) (ha : p.acc = none) :
    State.pushAll e [p] s = s.lastPushed e p := by
  rw [State.pushAll_room e p [] s h, State.pushAll_nil, State.pushOne, ha]; rfl

theorem Claim.OnlyEng.lastPushed (s : State) (e : Engine) (p : Push) : OnlyEng s (s.lastPushed e p) e [] :=
  ((OnlyEng.onVec s e _).trans (.onEng ..)).trans (.onEng ..)

/-- Where no remote read waits for its push, none ends with one (R455). -/
theorem Machine.State.placed_of_no_read {s : State} (h : ∀ y ∈ s.ctx.fab.cmds, y.what = .load → y.sent ≠ 1) : s.placed = s := by
  have hf : s.ctx.fab.cmds.find? (fun x => x.what = .load ∧ x.sent = 1) = none := by
    refine List.find?_eq_none.2 (fun y hy => ?_)
    simpa using h y hy
  simp only [State.placed, hf, ite_self]

/-- A push with room that no remote read waits for is made, and the instruction leaves (R132, R135). -/
theorem execQueuePush_last {s : State} {e : Engine} {p : Push} (hp : (s.eng e).pushes = [p]) (hr : s.ctx.phase = .running)
    (hf : (s.eng e).frozen = false) (hq : s.ctx.vec.qcount p.q < 4) (ha : p.acc = none)
    (hl : ∀ y ∈ s.ctx.fab.cmds, y.what = .load → y.sent ≠ 1) : execQueuePush e s = .next (s.lastPushed e p) := by
  have hfab : (s.lastPushed e p).ctx.fab = s.ctx.fab := by rw [(OnlyEng.lastPushed s e p).2.2.1]
  have hplaced : (s.lastPushed e p).placed = s.lastPushed e p := State.placed_of_no_read (by rw [hfab]; exact hl)
  simp [execQueuePush, hp, hr, hf, hq, State.pushAll_last e hq ha, hplaced]

theorem Machine.State.issuing_head {s : State} {e : Engine} {c : Cap} {b : Bool} (h : (s.eng e).head = some (c, b)) :
    s.issuing e = some { s with iss := c } := by
  simp only [State.issuing, h]

/-- A map holds at each key of a list what a function of the key gives. -/
theorem Machine.SMap.get_foldl_set {α β : Type} [DecidableEq α] (d : α) (f : Nat → α) (l : List (Nat × β)) (m : SMap α) (k : Nat) :
    SMap.get d (l.foldl (fun m x => SMap.set d m x.1 (f x.1)) m) k = if k ∈ l.map (·.1) then f k else SMap.get d m k := by
  induction l generalizing m with
  | nil => simp
  | cons x l ih =>
    simp only [List.foldl_cons, ih, SMap.get_set, List.map_cons, List.mem_cons]
    by_cases hl : k ∈ l.map (·.1)
    · simp [hl]
    · by_cases hk : k = x.1 <;> simp [hl, hk]

/-- The read step changes the queues read and the engine that has read them (R133). -/
theorem Claim.OnlyEng.readAll (s : State) (e : Engine) (l : List (Nat × Bool)) : OnlyEng s (s.readAll e l) e [] := by
  simp only [State.readAll]
  exact (OnlyEng.onVec s e _).trans (.onEng ..)

/-- An engine that has read holds the front entry of every queue read, and its stall is over (R133). -/
theorem Machine.State.eng_readAll (s : State) (e : Engine) (l : List (Nat × Bool)) :
    ∃ m, (s.readAll e l).eng e = { s.eng e with latch := m, latched := true, stall := .none, stalled := 0 } ∧
      ∀ x ∈ l, SMap.get none m x.1 = some (s.ctx.vec.front x.1) := by
  refine ⟨_, by simp only [State.readAll, State.eng_onEng, State.eng_onVec]; rfl, fun x hx => ?_⟩
  rw [SMap.get_foldl_set none (fun k => some (s.ctx.vec.front k)), if_pos (List.mem_map_of_mem hx)]

theorem Machine.State.vec_readAll (s : State) (e : Engine) (l : List (Nat × Bool)) :
    (s.readAll e l).ctx.vec = l.foldl (fun v x => if x.2 then v.pop x.1 else v) s.ctx.vec := by
  simp only [State.readAll, State.vec_onEng, State.vec_onVec]

/-- A stalled read whose queues hold entries reads them, and the head goes on (R133). -/
theorem execQueueReadStep_reads {s : State} {e : Engine} {q : Nat} {c : Cap} {b : Bool} (hh : (s.eng e).head = some (c, b))
    (hs : (s.eng e).stall = .read q) (hr : s.ctx.phase = .running) (hf : (s.eng e).frozen = false) (hq : s.ctx.vec.qcount q ≠ 0)
    (he : s.ctx.vec.firstEmpty (queueReads c.instr) = none) (hl : queueReads c.instr ≠ []) :
    execQueueReadStep e s = .next ((({ s with iss := c } : State).readAll e (queueReads c.instr)).moveFirst (.issue s.cur e)) := by
  simp [execQueueReadStep, State.issuing_head hh, hs, hr, hf, hq, he, hl]

section
variable {s : State} {e : Engine} {q : Nat} {c : Cap} {b : Bool} (hh : (s.eng e).head = some (c, b))
  (hr : s.ctx.phase = .running) (hf : (s.eng e).frozen = false) (h0 : s.ctx.csr.qstall.toNat ≠ 0)
  (hl : s.ctx.csr.qstall.toNat ≤ (s.eng e).stalled) (hp : (s.eng e).pend = none)
include hh hr hf h0 hl hp

/-- A stalled read at the limit freezes with QUNDER, naming the first empty queue (R135). -/
theorem execQstallLimit_read (hs : (s.eng e).stall = .read q) (he : s.ctx.vec.firstEmpty (queueReads c.instr) = some q) :
    execQstallLimit e s = .next (({ s with iss := c } : State).freeze e tQUNDER (stallInfo 0 e q)) := by
  have hl : ¬ (s.eng e).stalled < s.ctx.csr.qstall.toNat := by omega
  simp [execQstallLimit, State.issuing_head hh, hs, hr, hf, hp, h0, hl, he]

/-- A stalled push at the limit freezes with QOVER, and an instruction that has made a push keeps the others (R135). -/
theorem execQstallLimit_push (hs : (s.eng e).stall = .push q) (hm : (s.eng e).made ≠ 0) :
    execQstallLimit e s = .next (({ s with iss := c } : State).freeze e tQOVER (stallInfo (s.eng e).made e q)) := by
  have hl : ¬ (s.eng e).stalled < s.ctx.csr.qstall.toNat := by omega
  simp [execQstallLimit, State.issuing_head hh, hs, hr, hf, hp, h0, hl, keepsPushes, hm]

end

theorem Claim.OnlyEng.freeze (s : State) (e : Engine) (code : BitVec 8) (ti : Word) : OnlyEng s (s.freeze e code ti) e [] := by
  simp only [State.freeze]
  exact .onEng ..

/-- Freezing an engine without a pending trap (R364). -/
theorem Machine.State.eng_freeze {s : State} {e : Engine} (code : BitVec 8) (ti : Word) (hp : (s.eng e).pend = none) :
    (s.freeze e code ti).eng e = { s.eng e with frozen := true, stall := .none, stalled := 0
                                                pend := some ⟨false, code, ti, s.iss.line, s.iss.lane, s.dcc, false⟩ } := by
  obtain ⟨-, -, h⟩ := s.freeze_spec e code ti
  rw [State.eng, h, if_neg (by rw [show (s.ctx.engAt e).pend = none from hp]; simp)]
  rfl

/-- A loop's marker leaves once its skew has passed (R88). -/
theorem execLoopSkewEnd_over {s : State} {e : Engine} {age n skew : Nat} {r : List QItem}
    (hq : (s.eng e).q = .loopMark age n skew :: r) (hl : (s.eng e).loop = none) (hr : s.ctx.phase = .running)
    (hs : skew ≤ (s.eng e).stalled) :
    execLoopSkewEnd e s = .next (s.onEng e (fun x => { x with q := r, stalled := 0, loop := some ⟨n, age, [], 0, 0, 0⟩ })) := by
  simp [execLoopSkewEnd, hq, hl, hr, hs]

section
variable {s : State} {e : Engine} {age : Nat} {r : List QItem} {l : LoopRun} (hq : (s.eng e).q = .endMark age :: r)
  (hl : (s.eng e).loop = some l) (hr : s.ctx.phase = .running)
include hq hl hr

/-- After its last execution a loop's body is discarded (R88). -/
theorem execLoopEndMarker_last (h : (l.exec = 0 ∧ (l.n ≤ 1 ∨ l.body = [])) ∨ (l.exec ≠ 0 ∧ l.n ≤ l.exec)) :
    execLoopEndMarker e s = .next (s.onEng e (fun x => { x with q := r, loop := none })) := by
  simp only [execLoopEndMarker, hq, hl, hr, List.isEmpty_iff]
  rw [if_neg (by simp), if_pos h]

/-- After the first of several executions the kept body is to be executed again (R88). -/
theorem execLoopEndMarker_first (h0 : l.exec = 0) (h1 : 1 < l.n) (hb : l.body ≠ []) :
    execLoopEndMarker e s = .next (s.onEng e (fun x => { x with loop := some { l with exec := 1, pos := 0, endAge := age } })) := by
  have h1 : ¬ l.n ≤ 1 := by omega
  simp [execLoopEndMarker, hq, hl, hr, h0, h1, hb]

end

/-- A fence's marker leaves; the others are waited for, then for `fence` the strand's writes, and `fencem` goes on (R274, R275). -/
theorem execFenceMarkerHead_held {s : State} {e : Engine} {age : Nat} {r : List QItem} {todo left : BitVec 6} {f : Bool}
    (hq : (s.eng e).q = .fenceMark age :: r) (hr : s.ctx.phase = .running) (hf : (s.eng e).frozen = false)
    (hh : s.ctx.ctl.hold = .marks todo left age f) :
    execFenceMarkerHead e s = .next (
      let u := s.onEng e (fun x => { x with q := r })
      if todo ≠ 0 ∨ dropBit left e ≠ 0 then u.ctl (fun c => { c with hold := .marks todo (dropBit left e) age f })
      else if f then u.ctl (fun c => { c with hold := .writes })
      else u.advance) := by
  simp [execFenceMarkerHead, hq, hr, hf, hh]

/-- Settles O35: each event is the branch of its hypotheses, built of changes of one engine and of the vector registers. -/
theorem engineQueuesGoOn : Obligations.EngineQueuesGoOn := by
  unfold Obligations.EngineQueuesGoOn
  refine ⟨?push, ?read, ?limit, ?skew, ?endMark, ?fence⟩
  case push =>
    intro s e p hp hr hf hq ha hl
    refine ⟨_, execQueuePush_last hp hr hf hq ha hl, .lastPushed .., ?_, ?_⟩
    · simp [State.lastPushed]
    · simp [Leaves, State.lastPushed, Eng.leave_of_pushed]
  case read =>
    intro s e q c b hh hs hr hf hq he hl
    obtain ⟨m, heng, hm⟩ := State.eng_readAll { s with iss := c } e (queueReads c.instr)
    refine ⟨_, execQueueReadStep_reads hh hs hr hf hq he hl,
      ((OnlyEng.issuing s e c).trans (.readAll ..)).trans (.moveFirst ..), ?_, ?_, ?_, fun x hx => ?_⟩
    · exact congrArg Eng.latched heng
    · exact congrArg Eng.stall heng
    · exact State.vec_readAll { s with iss := c } e (queueReads c.instr)
    · exact (congrArg (fun y : Eng => SMap.get none y.latch x.1) heng).trans (hm x hx)
  case limit =>
    intro s e q c b hh hr hf h0 hl hp
    refine ⟨fun hs he => ?empty, fun hs hm => ?full⟩
    case empty =>
      have heng := State.eng_freeze (s := { s with iss := c }) tQUNDER (stallInfo 0 e q) hp
      refine ⟨_, execQstallLimit_read hh hr hf h0 hl hp hs he, (OnlyEng.issuing s e c).trans (.freeze ..), ?_, ?_, ?_⟩
      · exact (State.freeze_spec { s with iss := c } e _ _).2.1
      · rw [heng]
      · rw [heng]; simp [stallInfo]
    case full =>
      have heng := State.eng_freeze (s := { s with iss := c }) tQOVER (stallInfo (s.eng e).made e q) hp
      refine ⟨_, execQstallLimit_push hh hr hf h0 hl hp hs hm, (OnlyEng.issuing s e c).trans (.freeze ..), ?_, ?_, ?_, ?_⟩
      · exact (State.freeze_spec { s with iss := c } e _ _).2.1
      · rw [heng]
      · rw [heng]; rfl
      · rw [heng]; rfl
  case skew =>
    intro s e age n skew r hq hl hr hs
    exact ⟨_, execLoopSkewEnd_over hq hl hr hs, .onEng .., State.vec_onEng .., State.eng_onEng ..⟩
  case endMark =>
    intro s e age r l hq hl hr
    refine ⟨fun h0 h1 hb => ?_, fun h => ?_⟩
    · exact ⟨_, execLoopEndMarker_first hq hl hr h0 h1 hb, .onEng .., State.vec_onEng .., State.eng_onEng ..⟩
    · exact ⟨_, execLoopEndMarker_last hq hl hr h, .onEng .., State.vec_onEng .., State.eng_onEng ..⟩
  case fence =>
    intro s e age r todo left f hq hr hf hh
    refine ⟨_, _, execFenceMarkerHead_held hq hr hf hh, rfl, ?_⟩
    simp only
    split
    · rfl
    · split
      · rfl
      · exact (State.advance_self _).1

/-! ## Service calls (O36) -/

/-- A call that the scheduler core may serve is the one that it serves (R93, R487). -/
theorem Claim.Calls.call {s : State} {n : Nat} (h : Calls s n) : s.call = some n := by
  obtain ⟨⟨c, l, hh, rfl⟩, hs⟩ := h
  simp only [State.call, hh]
  exact if_neg (by simpa using fun hd => hs.resolve_left (not_not_intro hd))

/-- An answer puts the reply on its way and changes nothing else of the context. -/
theorem answered_answer (s : State) (st r : Word) : Answered s (s.answer st r) st r := by
  refine ⟨?_, (OnlyMoving.setCtx s _).2, rfl, rfl⟩
  exact State.ctx_ctl s (fun c => { c with hold := .reply st r })

section
variable {s : State}

theorem execSvcVersionQuery_call (h : Calls s 0) : execSvcVersionQuery s = .next s.serveVersion := by
  rw [execSvcVersionQuery, if_pos h.call, State.serveCall, h.call]; rfl

theorem execSvcSubmitLaunch_call (h : Calls s 1) : execSvcSubmitLaunch s = .next s.serveSubmit := by
  rw [execSvcSubmitLaunch, if_pos h.call, State.serveCall, h.call]; rfl

theorem execSvcGangState_call (h : Calls s 2) : execSvcGangState s = .next s.serveGangState := by
  rw [execSvcGangState, if_pos h.call, State.serveCall, h.call]; rfl

/-- A call of an undefined code is answered with status −1 (R484). -/
theorem execSvcUndefined_call {n : Nat} (hn : 3 ≤ n) (h : Calls s n) :
    execSvcUndefined s = .next (s.answer 0xFFFFFFFFFFFFFFFF 0) := by
  have hserve : s.serveCall = s.answer 0xFFFFFFFFFFFFFFFF 0 := by
    rw [State.serveCall, h.call]
    match n, hn with
    | n + 3, _ => rfl
  rw [execSvcUndefined, h.call, hserve]
  simp [hn]

/-- A launch with an address or a tag too large is answered with status 2. -/
theorem Machine.State.serveSubmit_illegal (h : 2 ^ 57 ≤ (s.svcArg 2).toNat ∨ 2 ^ 16 ≤ (s.svcArg 3).toNat) :
    s.serveSubmit = s.answer 2 0 := by
  rw [State.serveSubmit, if_pos h]

end

/-- The queue that a launch call names: that of the priority of its record, or queue 0 where the record cannot be read (R484). -/
def callQueue (v : Option Nat) : Nat := match v with | some v => fieldAt v 0 36 35 | none => 0

section
variable {s u : State} {v : Option Nat} (hva : (s.svcArg 2).toNat < 2 ^ 57) (htag : (s.svcArg 3).toNat < 2 ^ 16)
  (hread : s.readVa s.bind.world.toNat (s.svcArg 2).toNat 8 = (u, v))
include hva htag hread

/-- A launch for a queue that is off or full is answered with status 1. -/
theorem Machine.State.serveSubmit_closed {q : Subq} (hq : q = SMap.get Subq.reset (u.world s.bind.world.toNat).sq (callQueue v))
    (h : q.log < 4 ∨ 16 < q.log ∨ q.after q.tail = q.head) : s.serveSubmit = u.answer 1 0 := by
  have hlegal : ¬ (2 ^ 57 ≤ (s.svcArg 2).toNat ∨ 2 ^ 16 ≤ (s.svcArg 3).toNat) := by omega
  have hclosed : (!q.on) = true ∨ q.after q.tail = q.head := by
    obtain h | h | h := h
    · exact .inl (by simp only [Subq.on, Bool.not_eq_true', decide_eq_false_iff_not]; omega)
    · exact .inl (by simp only [Subq.on, Bool.not_eq_true', decide_eq_false_iff_not]; omega)
    · exact .inr h
  rw [State.serveSubmit, if_neg hlegal, hread]
  subst hq
  exact if_pos hclosed

/-- A launch for a queue with room is put at its tail, or answered with status 1 where its entry cannot be written. -/
theorem Machine.State.serveSubmit_open {r : State} {q : Subq} {ok : Bool}
    (hq : q = SMap.get Subq.reset (u.world s.bind.world.toNat).sq (callQueue v))
    (h4 : 4 ≤ q.log) (h16 : q.log ≤ 16) (hroom : q.after q.tail ≠ q.head)
    (hw : u.writeVa s.bind.world.toNat (q.va + 16 * q.tail.toNat) 16 ((s.svcArg 2).toNat + (s.svcArg 3).toNat * 2 ^ 64) = (r, ok)) :
    s.serveSubmit = if ok then
        ((r.setWorld s.bind.world.toNat { r.world s.bind.world.toNat with
          sq := SMap.set Subq.reset (u.world s.bind.world.toNat).sq (callQueue v) { q with tail := q.after q.tail } }).readQueue
            s.bind.world.toNat (callQueue v)).answer 0 (q.tail.setWidth 64)
      else r.answer 1 0 := by
  have hlegal : ¬ (2 ^ 57 ≤ (s.svcArg 2).toNat ∨ 2 ^ 16 ≤ (s.svcArg 3).toNat) := by omega
  have hopen : ¬ ((!q.on) = true ∨ q.after q.tail = q.head) := by simp [Subq.on, h4, h16, hroom]
  rw [State.serveSubmit, if_neg hlegal, hread]
  subst hq
  refine (if_neg hopen).trans ?_
  cases v with
  | none =>
    simp only [callQueue] at hw ⊢
    rw [hw]; cases ok <;> rfl
  | some v =>
    simp only [callQueue] at hw ⊢
    rw [hw]; cases ok <;> rfl

end

/-- The state of a gang whose launch waits (R484). -/
theorem Machine.State.gangState_pending {s : State} {w id : Nat}
    (h : s.launches.any (fun l => l.gang.toNat = id ∧ l.world = w) = true) : s.gangState w id = 0 := by
  rw [State.gangState, if_pos h]

theorem Machine.State.gangState_unknown {s : State} {w id : Nat}
    (h : s.launches.any (fun l => l.gang.toNat = id ∧ l.world = w) = false) (hg : s.gang id = none) : s.gangState w id = 3 := by
  rw [State.gangState, if_neg (Bool.eq_false_iff.1 h), hg]

/-- That of a gang that has been bound: of another world, running, pre-empted or not yet started (R484). -/
theorem Machine.State.gangState_bound {s : State} {w id : Nat} {g : Gang}
    (h : s.launches.any (fun l => l.gang.toNat = id ∧ l.world = w) = false) (hg : s.gang id = some g) :
    s.gangState w id = if g.world ≠ w then 3 else if g.running then 1 else if g.preempted then 2 else 0 := by
  rw [State.gangState, if_neg (Bool.eq_false_iff.1 h), hg]

/-- Once the cycles of the call are over its reply sets s1 and s2 (R93, R98). -/
theorem execSvcReply_due {s : State} {st r : Word} (hh : s.ctx.ctl.hold = .reply st r) (hp : s.ctx.phase = .running)
    (hd : s.ctx.ctl.due ≤ s.dcc.toNat) : execSvcReply s = .next ((s.setS 1 st).setS 2 r).advance := by
  simp [execSvcReply, hh, hp, hd]

/-- Settles O36: each call is served by its code, and an answer changes the hold alone. -/
theorem serviceCallsAreAnswered : Obligations.ServiceCallsAreAnswered := by
  unfold Obligations.ServiceCallsAreAnswered
  refine ⟨?version, ?illegal, ?submit, ?gang, ?undefined, ?reply⟩
  case version =>
    intro s h
    exact ⟨_, execSvcVersionQuery_call h, answered_answer ..⟩
  case illegal =>
    intro s h hbad
    exact ⟨_, (execSvcSubmitLaunch_call h).trans (congrArg _ (State.serveSubmit_illegal hbad)), answered_answer ..⟩
  case submit =>
    intro s u r v ok h hva htag w k q hread
    refine ⟨fun hc => ?_, fun h4 h16 hroom hw => ?_⟩
    · exact ⟨_, (execSvcSubmitLaunch_call h).trans (congrArg _ (State.serveSubmit_closed hva htag hread rfl hc)), answered_answer ..⟩
    · refine ⟨_, (execSvcSubmitLaunch_call h).trans (congrArg _ (State.serveSubmit_open hva htag hread rfl h4 h16 hroom hw)), ?_⟩
      cases ok <;> exact answered_answer ..
  case gang =>
    intro s h
    refine ⟨_, _, execSvcGangState_call h, answered_answer .., fun hl => ?_, fun hl => ⟨fun hg => ?_, fun g hg => ?_⟩⟩
    · rw [State.gangState_pending hl]; rfl
    · rw [State.gangState_unknown hl hg]; rfl
    · rw [State.gangState_bound hl hg]
      split
      · rfl
      · split
        · rfl
        · split <;> rfl
  case undefined =>
    intro s n hn h
    exact ⟨_, execSvcUndefined_call hn h, answered_answer ..⟩
  case reply =>
    intro s st r hh hp hd
    have hctx : ((s.setS 1 st).setS 2 r).ctx = { s.ctx with ctl := { s.ctx.ctl with s := ((s.setS 1 st).setS 2 r).ctx.ctl.s } } := by
      rw [State.ctx_setS, State.ctx_setS]; rfl
    obtain ⟨t, ht, hm, hr⟩ := controlOp_ok_spec s ((s.setS 1 st).setS 2 r) ((OnlyControl.setS ..).trans (.setS ..))
      (by rw [hctx]) (by rw [hctx]) (by rw [hctx]) (by rw [hctx]) (by rw [hctx])
    refine ⟨t, (execSvcReply_due hh hp hd).trans ht, hm, ?_, ?_, fun x h1 h2 => ?_⟩
    · rw [hr.getS, State.getS_setS, if_neg (by decide), State.getS_setS, if_pos (by decide)]
    · rw [hr.getS, State.getS_setS, if_pos (by decide)]
    · rw [hr.getS, State.getS_setS, if_neg (fun h => h2 h.1), State.getS_setS, if_neg (fun h => h1 h.1)]

end Sys2Proof

/-! PROOFS. What the read step, the result and the tiles of an engine instruction are (R105, R117, R131 to R135, R142, R153, R185), and
O13, O14 and O19. -/

namespace Sys2Proof

open Sys2Proof.Machine Sys2Proof.Claim

/-! ## Changes of the issuing engine -/

section
variable {s t u : State} {e : Engine}

theorem Claim.OnlyIssue.refl (s : State) (e : Engine) : OnlyIssue s s e := ⟨.refl s, rfl, fun _ _ => rfl⟩

theorem Claim.OnlyIssue.trans (h : OnlyIssue s t e) (g : OnlyIssue t u e) : OnlyIssue s u e := by
  obtain ⟨hm, hc, he⟩ := h
  obtain ⟨gm, gc, ge⟩ := g
  refine ⟨hm.trans gm, ?_, fun x hx => (ge x hx).trans (he x hx)⟩
  rw [gc]; conv_lhs => rw [hc]

/-- A change of the engine and of the vector registers, but not of the matrix engine's. -/
theorem Claim.OnlyIssue.of_onlyEngine (h : OnlyEngine s t e) (hm : t.ctx.mat = s.ctx.mat) : OnlyIssue s t e := by
  obtain ⟨ho, hc, he⟩ := h
  refine ⟨ho, ?_, he⟩
  rw [hc, hm]

theorem Claim.OnlyIssue.onEng (s : State) (e : Engine) (f : Eng → Eng) : OnlyIssue s (s.onEng e f) e :=
  .of_onlyEngine (.onEng ..) (by rw [State.ctx_onEng, Ctx.setEng_mat])

theorem Claim.OnlyIssue.onVec (s : State) (e : Engine) (f : Vec → Vec) : OnlyIssue s (s.onVec f) e :=
  .of_onlyEngine (.onVec ..) (by rw [State.onVec, State.ctx_setCtx])

@[simp] theorem Machine.State.ctx_charge (s : State) (cls n : Nat) :
    (s.charge s.cur cls n).ctx = { s.ctx with en := s.ctx.en.add (n * s.weight cls) } := by
  rw [State.charge, ← State.setCtx, State.ctx_setCtx]; rfl

@[simp] theorem Machine.State.eng_charge (s : State) (cls n : Nat) (e : Engine) : (s.charge s.cur cls n).eng e = s.eng e := by
  rw [State.eng, State.ctx_charge]; rfl

theorem Claim.OnlyIssue.charge (s : State) (e : Engine) (cls n : Nat) : OnlyIssue s (s.charge s.cur cls n) e :=
  ⟨.setCtx .., by rw [State.ctx_charge], fun x _ => s.eng_charge cls n x⟩

theorem Claim.OnlyMatrix.trans (h : OnlyMatrix s t) (g : OnlyMatrix t u) : OnlyMatrix s u := by
  obtain ⟨hm, hc, he⟩ := h
  obtain ⟨gm, gc, ge⟩ := g
  refine ⟨hm.trans gm, ?_, fun x hx => (ge x hx).trans (he x hx)⟩
  rw [gc]; conv_lhs => rw [hc]

theorem Claim.OnlyMatrix.of_onlyEngine (h : OnlyEngine s t .matrix) : OnlyMatrix s t := by
  obtain ⟨ho, hc, he⟩ := h
  refine ⟨ho, ?_, he⟩
  rw [hc]

theorem Claim.OnlyMatrix.of_onlyIssue (h : OnlyIssue s t .matrix) : OnlyMatrix s t := by
  obtain ⟨ho, hc, he⟩ := h
  refine ⟨ho, ?_, he⟩
  rw [hc]

end

/-! ## The read step (R131, R133) -/

/-- Nothing but the heads and counts of queue registers, and the entries put back ahead of them, differs. -/
def QueuesOnly (v w : Vec) : Prop := w = { v with head := w.head, count := w.count, excess := w.excess }

theorem QueuesOnly.trans {v w x : Vec} (h : QueuesOnly v w) (g : QueuesOnly w x) : QueuesOnly v x := by
  unfold QueuesOnly at *
  rw [g, h]

theorem QueuesOnly.pop (v : Vec) (q : Nat) : QueuesOnly v (v.pop q) := by
  unfold Vec.pop
  split <;> rfl

theorem QueuesOnly.popped (s : State) (i : Instr) : QueuesOnly s.ctx.vec (popped s i) :=
  List.foldlRecOn (queueReads i) _ (motive := QueuesOnly s.ctx.vec) rfl (fun w hw x _ => by
    split
    · exact hw.trans (.pop ..)
    · exact hw)

@[simp] theorem popped_slot (s : State) (i : Instr) (n : Nat) : (popped s i).slot n = s.ctx.vec.slot n := by
  rw [QueuesOnly.popped s i]; rfl
@[simp] theorem popped_active (s : State) (i : Instr) (k : BitVec 3) (j : Nat) :
    (popped s i).active k j = s.ctx.vec.active k j := by
  rw [QueuesOnly.popped s i]; rfl
@[simp] theorem popped_mode (s : State) (i : Instr) : (popped s i).mode = s.ctx.vec.mode := by rw [QueuesOnly.popped s i]
@[simp] theorem popped_tile (s : State) (i : Instr) (b x y : Nat) : (popped s i).tile b x y = s.ctx.vec.tile b x y := by
  rw [QueuesOnly.popped s i]; rfl
@[simp] theorem popped_accBase (s : State) (i : Instr) (a : Nat) : (popped s i).accBase a = s.ctx.vec.accBase a := by
  rw [QueuesOnly.popped s i]; rfl

section
variable {s : State} {e : Engine} {i : Instr}

theorem Claim.Issues.readStep (h : Issues s e i) : s.readStep e = (afterRead s e i, true) := by
  obtain ⟨hi, -, hl, -, hq⟩ := h
  simp only [State.readStep, afterRead, hi, hl, hq, Bool.false_eq_true, if_false]
  split <;> rfl

/-- An instruction with nothing in its way does what its body does after the read step. -/
theorem engineOp_of_issues {body : Body} {u : State} {l : List Push} (h : Issues s e i)
    (hb : body (afterRead s e i) = .ok (u, l)) : engineOp e body s = .next (State.pushAll e l u) := by
  have hr := h.readStep
  obtain ⟨hi, hp, hl, hbank, -⟩ := h
  exact engineOp_ok e body s _ u l hp (by rw [hi]; exact hbank) hr hl hb

theorem afterRead_of_no_reads (h : queueReads i = []) : afterRead s e i = s := by simp [afterRead, h]

theorem Claim.OnlyIssue.afterRead (s : State) (e : Engine) (i : Instr) : OnlyIssue s (afterRead s e i) e := by
  unfold Claim.afterRead
  split
  · exact .refl s e
  · simp only [State.readAll]
    exact (OnlyIssue.onVec s e _).trans (.onEng ..)

@[simp] theorem vec_afterRead (s : State) (e : Engine) (i : Instr) : (afterRead s e i).ctx.vec = popped s i := by
  unfold Claim.afterRead
  split
  next h => rw [popped, List.isEmpty_iff.1 h]; rfl
  next => exact s.vec_readAll e _

@[simp] theorem mat_afterRead (s : State) (e : Engine) (i : Instr) : (afterRead s e i).ctx.mat = s.ctx.mat := by
  rw [(OnlyIssue.afterRead s e i).2.1]

@[simp] theorem tagmode_afterRead (s : State) (e : Engine) (i : Instr) : (afterRead s e i).ctx.tagmode = s.ctx.tagmode := by
  rw [(OnlyIssue.afterRead s e i).2.1]

/-- The latch of the read step goes with the instruction (R142). -/
@[simp] theorem leave_afterRead (s : State) (e : Engine) (i : Instr) : ((afterRead s e i).eng e).leave = (s.eng e).leave := by
  unfold Claim.afterRead
  split
  · rfl
  · obtain ⟨m, hm, -⟩ := s.eng_readAll e (queueReads i)
    rw [hm]; rfl

/-- A source field that the instruction reads in its read step: mldwq pops its entries one at a time (R133, R193). -/
def ReadFirst (i : Instr) (x : VR) : Prop := x ∈ (uses i).rd ∧ ∀ f q dp, i ≠ .mldwq f q dp

theorem ReadFirst.queue {x : VR} {q : Nat} {b : Bool} (h : ReadFirst i x) (hq : VR.queue x = some (q, b)) :
    ∃ c, (q, c) ∈ queueReads i := by
  obtain ⟨hx, hi⟩ := h
  unfold queueReads
  split
  · exact (hi _ _ _ rfl).elim
  · have hmem : (q, b) ∈ (uses i).rd.filterMap VR.queue := List.mem_filterMap.2 ⟨x, hx, hq⟩
    exact ⟨_, List.mem_map.2 ⟨q, List.mem_eraseDups.2 (List.mem_map_of_mem hmem), rfl⟩⟩

/-- The read step latches the front entry of a queue register that a source names (R133). -/
theorem latch_afterRead {x : VR} {q : Nat} {b : Bool} (h : ReadFirst i x) (hq : VR.queue x = some (q, b)) :
    SMap.get none ((afterRead s e i).eng e).latch q = some (s.ctx.vec.front q) := by
  obtain ⟨c, hc⟩ := h.queue hq
  obtain ⟨m, hm, hl⟩ := s.eng_readAll e (queueReads i)
  rw [Claim.afterRead, if_neg (by simpa using List.ne_nil_of_mem hc), hm]
  exact hl _ hc

/-- After the read step an operand is the register or the front entry that its field names (R131). -/
theorem opnd_afterRead {x : VR} (h : ReadFirst i x) : (afterRead s e i).opnd e x = source s x := by
  cases x with
  | v n => simp [State.opnd, source]
  | q n | pk n => simp only [State.opnd, source, latch_afterRead h rfl, Option.getD_some]

/-- An operand that the tag check accepts is read as the elements of its source (R117). -/
theorem readOp_of_tagCheck {x : VReg × Fmt} {f : Fmt} {m : RMode} {sat : Bool} {g : Nat → Nat} (n : Nat)
    (h : (tagCheck s.ctx.tagmode x.2 f).map (fun c j => readAs c f m sat (vget x.1 (fbytes f) j)) = some g) :
    s.readOp x n f m sat = .ok g := by
  obtain ⟨c, hc, rfl⟩ := Option.map_eq_some_iff.1 h
  simp only [State.readOp, hc]

theorem readOp_of_elems {x : VR} {f : Fmt} {m : RMode} {sat : Bool} {g : Nat → Nat} (n : Nat)
    (h : elems s x f m sat = some g) : (afterRead s e i).readOp (source s x) n f m sat = .ok g :=
  readOp_of_tagCheck n (by rw [tagmode_afterRead]; exact h)

theorem keepTyped_of_kept {d : VR} {k : BitVec 3} {f : Fmt} {m : RMode} {sat : Bool} {g : Nat → Nat}
    (h : kept s d k f m sat = some g) : (afterRead s e i).keepTyped d k f m sat = .ok g := by
  cases d with
  | v n =>
    simp only [kept] at h
    simp only [State.keepTyped]
    split at h
    next hk => rw [if_pos hk, Option.some.inj h]
    next hk =>
      rw [if_neg hk]
      refine readOp_of_tagCheck 3 ?_
      rw [tagmode_afterRead, vec_afterRead, popped_slot]
      exact h
  | q n | pk n => exact congrArg _ (Option.some.inj h)

theorem modeOf_afterRead (o : VOp) : (afterRead s e i).modeOf o = o.rm.getD s.ctx.vec.mode := by
  rw [State.modeOf, vec_afterRead, popped_mode]

theorem putTyped_afterRead (d : VR) (k : BitVec 3) (f : Fmt) (keep fn : Nat → Nat) :
    (afterRead s e i).putTyped d k f keep fn = (afterRead s e i).result d (merged s k f fn keep) f := by
  simp only [State.putTyped, vec_afterRead, popped_active, merged]

end

/-! ## Results (R131, R132, R142) -/

/-- The one push of an instruction, made or waiting for room, concerns the engine and its queue alone. -/
theorem Claim.OnlyIssue.pushAll_single (u : State) (e : Engine) {p : Push} (ha : p.acc = none) :
    OnlyIssue u (State.pushAll e [p] u) e := by
  refine .of_onlyEngine (State.pushAll_spec e [p] u) ?_
  by_cases hq : u.ctx.vec.qcount p.q < 4
  · simp [State.pushAll_last e hq ha, State.lastPushed, State.onVec]
  · simp [State.pushAll_full e p [] u hq, State.stall]

/-- What one push does to its queue and its engine, with room and without (R132, R135). -/
theorem receives_pushAll {s u : State} {e : Engine} {n : BitVec 5} {x : VReg} {f : Fmt} (hl : (u.eng e).leave = (s.eng e).leave) :
    Receives u.ctx.vec s (State.pushAll e [⟨n.toNat, x, f, none⟩] u) e (.q n) x f := by
  simp only [Receives]
  split
  next hq =>
    rw [State.pushAll_last e hq rfl, State.lastPushed]
    refine ⟨by simp, ?_⟩
    rw [Leaves, State.eng_onEng, State.eng_onEng, State.eng_onVec, Eng.leave_of_pushed, hl]
  next hq =>
    rw [State.pushAll_full e _ [] u hq]
    obtain ⟨-, hv, he⟩ := (u.onEng e (fun y => { y with pushes := [⟨n.toNat, x, f, none⟩] })).stall_spec e (.push n.toNat)
    refine ⟨by rw [hv, State.vec_onEng], ?_, by rw [State.eng, he]⟩
    rw [State.eng, he, State.onEng_engAt]

/-- A vector instruction whose body gives D a result after the read step: D receives it, and nothing else of the registers changes. -/
theorem vecOp_receives {s : State} {i : Instr} {occ : Nat} {body : Body} {d : VR} {x : VReg} {f : Fmt} (h : Issues s .vector i)
    (hb : body (afterRead s .vector i) = .ok ((afterRead s .vector i).result d x f)) :
    ∃ t, vecOp occ body s = .next t ∧ OnlyIssue s t .vector ∧ Receives (popped s i) s t .vector d x f := by
  have hr := OnlyIssue.afterRead s .vector i
  generalize hw : afterRead s .vector i = r at hb hr
  have hv : r.ctx.vec = popped s i := by rw [← hw, vec_afterRead]
  have hl : (r.eng .vector).leave = (s.eng .vector).leave := by rw [← hw, leave_afterRead]
  have hop {u : State} {l : List Push} (hu : r.result d x f = (u, l)) :
      vecOp occ body s = .next (State.pushAll .vector l (u.charge u.cur 3 occ)) :=
    engineOp_of_issues h (by simp only [hw, hb, hu])
  have hpush {n : BitVec 5} (hu : r.result d x f = (r, [⟨n.toNat, x, f, none⟩])) :
      ∃ t, vecOp occ body s = .next t ∧ OnlyIssue s t .vector ∧ Receives (popped s i) s t .vector (.q n) x f := by
    refine ⟨_, hop hu, (hr.trans (.charge ..)).trans (.pushAll_single _ _ rfl), ?_⟩
    have hc : (r.charge r.cur 3 occ).ctx.vec = popped s i := by rw [State.ctx_charge, hv]
    rw [← hc]
    exact receives_pushAll (by rw [State.eng_charge, hl])
  cases d with
  | v n =>
    refine ⟨_, hop rfl, ((hr.trans (.onVec ..)).trans (.charge ..)).trans (.onEng ..), ?_, ?_⟩
    · rw [State.pushAll_nil, State.vec_onEng, State.ctx_charge, State.vec_onVec, hv]
    · rw [Leaves, State.pushAll_nil, State.eng_onEng, State.eng_charge, State.eng_onVec, hl]
  | q n | pk n => exact hpush rfl

/-! ## Elementwise arithmetic (R158, R166, R169) -/

theorem readFirst_of_useV {i : Instr} {o : VOp} {src : List VR} {b : Bool} {x : VR} (hu : uses i = useV o src b) (hx : x ∈ src) :
    ReadFirst i x := by
  refine ⟨by rw [hu]; exact List.mem_append_left _ hx, fun f q dp hi => ?_⟩
  have hw := congrArg Uses.wr hu
  rw [hi] at hw
  cases hw

section
variable {s : State} {i : Instr} {o : VOp} {f : Fmt} {b : Bool} {x y z keep : Nat → Nat}
  (hk : kept s o.d o.k f (o.rm.getD s.ctx.vec.mode) o.sat = some keep)
  (hx : elems s o.a f (o.rm.getD s.ctx.vec.mode) o.sat = some x)
include hk hx

/-- The body of an instruction of one source gives the merge of its elements. -/
theorem elem1_of_elems (fn : RMode → Bool → Nat → Nat) (hu : uses i = useV o [o.a] b) :
    elem1 o f fn (afterRead s .vector i) = .ok ((afterRead s .vector i).result o.d
      (merged s o.k f (fun j => fn (o.rm.getD s.ctx.vec.mode) o.sat (x j)) keep) f) := by
  have ha : ReadFirst i o.a := readFirst_of_useV hu (by simp)
  simp only [elem1, State.vsrc, modeOf_afterRead, opnd_afterRead ha, readOp_of_elems 0 hx, keepTyped_of_kept hk, putTyped_afterRead]

/-- The body of an instruction of two sources. -/
theorem elem2_of_elems (fn : RMode → Bool → Nat → Nat → Nat) (hu : uses i = useV o [o.a, o.b] b)
    (hy : elems s o.b f (o.rm.getD s.ctx.vec.mode) o.sat = some y) :
    elem2 o f fn (afterRead s .vector i) = .ok ((afterRead s .vector i).result o.d
      (merged s o.k f (fun j => fn (o.rm.getD s.ctx.vec.mode) o.sat (x j) (y j)) keep) f) := by
  have ha : ReadFirst i o.a := readFirst_of_useV hu (by simp)
  have hb : ReadFirst i o.b := readFirst_of_useV hu (by simp)
  simp only [elem2, State.vsrc, modeOf_afterRead, opnd_afterRead ha, opnd_afterRead hb, readOp_of_elems 0 hx, readOp_of_elems 1 hy,
    keepTyped_of_kept hk, putTyped_afterRead]

/-- The body of an instruction of three sources. -/
theorem elem3_of_elems (fn : RMode → Bool → Nat → Nat → Nat → Nat) (hu : uses i = useV o [o.a, o.b, o.c] b)
    (hy : elems s o.b f (o.rm.getD s.ctx.vec.mode) o.sat = some y)
    (hz : elems s o.c f (o.rm.getD s.ctx.vec.mode) o.sat = some z) :
    elem3 o f fn (afterRead s .vector i) = .ok ((afterRead s .vector i).result o.d
      (merged s o.k f (fun j => fn (o.rm.getD s.ctx.vec.mode) o.sat (x j) (y j) (z j)) keep) f) := by
  have ha : ReadFirst i o.a := readFirst_of_useV hu (by simp)
  have hb : ReadFirst i o.b := readFirst_of_useV hu (by simp)
  have hc : ReadFirst i o.c := readFirst_of_useV hu (by simp)
  simp only [elem3, State.vsrc, modeOf_afterRead, opnd_afterRead ha, opnd_afterRead hb, opnd_afterRead hc,
    readOp_of_elems 0 hx, readOp_of_elems 1 hy, readOp_of_elems 2 hz, keepTyped_of_kept hk, putTyped_afterRead]

end

section
variable {i : Instr} {f : Fmt} {o : VOp} {m : RMode} (hi : arithOf i = some (f, o))
include hi

/-- An instruction of one source is `elem1` of its element function. -/
theorem exec_of_elem1Of {g : Nat → Nat} (hg : elem1Of f m o.sat i = some g) (s : State) :
    ∃ occ fn, exec i s = vecOp occ (elem1 o f fn) s ∧ fn m o.sat = g ∧ uses i = useV o [o.a] true := by
  unfold elem1Of at hg
  split at hg
  -- no instruction of one source
  case h_10 => cases hg
  all_goals cases hi; cases hg; exact ⟨_, _, rfl, rfl, rfl⟩

/-- An instruction of two sources is `elem2` of its element function. -/
theorem exec_of_elem2Of {g : Nat → Nat → Nat} (hg : elem2Of f m o.sat i = some g) (s : State) :
    ∃ occ fn, exec i s = vecOp occ (elem2 o f fn) s ∧ fn m o.sat = g ∧ uses i = useV o [o.a, o.b] true := by
  unfold elem2Of at hg
  split at hg
  -- no instruction of two sources
  case h_7 => cases hg
  all_goals cases hi; cases hg; exact ⟨_, _, rfl, rfl, rfl⟩

/-- An instruction of three sources is `elem3` of its element function. -/
theorem exec_of_elem3Of {g : Nat → Nat → Nat → Nat} (hg : elem3Of f m o.sat i = some g) (s : State) :
    ∃ occ fn, exec i s = vecOp occ (elem3 o f fn) s ∧ fn m o.sat = g ∧ uses i = useV o [o.a, o.b, o.c] true := by
  unfold elem3Of at hg
  split at hg
  -- no instruction of three sources
  case h_3 => cases hg
  all_goals cases hi; cases hg; exact ⟨_, _, rfl, rfl, rfl⟩

end

/-- Vector arithmetic is a body that gives D its merged elements after the read step. -/
theorem exec_of_arithElems {i : Instr} {s : State} {f : Fmt} {o : VOp} {r keep : Nat → Nat} (hi : arithOf i = some (f, o))
    (hr : arithElems s i f o = some r) (hk : kept s o.d o.k f (o.rm.getD s.ctx.vec.mode) o.sat = some keep) :
    ∃ occ body, exec i s = vecOp occ body s ∧
      body (afterRead s .vector i) = .ok ((afterRead s .vector i).result o.d (merged s o.k f r keep) f) := by
  simp only [arithElems] at hr
  split at hr
  next hg =>
    obtain ⟨x, hx, rfl⟩ := Option.map_eq_some_iff.1 hr
    obtain ⟨occ, fn, he, rfl, hu⟩ := exec_of_elem1Of hi hg s
    exact ⟨occ, _, he, elem1_of_elems hk hx fn hu⟩
  next hg _ =>
    obtain ⟨x, hx, hr⟩ := Option.bind_eq_some_iff.1 hr
    obtain ⟨y, hy, rfl⟩ := Option.map_eq_some_iff.1 hr
    obtain ⟨occ, fn, he, rfl, hu⟩ := exec_of_elem2Of hi hg s
    exact ⟨occ, _, he, elem2_of_elems hk hx fn hu hy⟩
  next hg _ _ =>
    obtain ⟨x, hx, hr⟩ := Option.bind_eq_some_iff.1 hr
    obtain ⟨y, hy, hr⟩ := Option.bind_eq_some_iff.1 hr
    obtain ⟨z, hz, rfl⟩ := Option.map_eq_some_iff.1 hr
    obtain ⟨occ, fn, he, rfl, hu⟩ := exec_of_elem3Of hi hg s
    exact ⟨occ, _, he, elem3_of_elems hk hx fn hu hy hz⟩
  next => cases hr

/-- Settles O13: each instruction is the body of its sources (`exec_of_arithElems`), whose result D receives (`vecOp_receives`). -/
theorem vectorArithmeticGivesItsElements : Obligations.VectorArithmeticGivesItsElements := by
  unfold Obligations.VectorArithmeticGivesItsElements
  intro i s f o r keep hi hs hr hk
  obtain ⟨occ, body, he, hb⟩ := exec_of_arithElems hi hr hk
  rw [he]
  exact vecOp_receives hs hb

/-! ## Reductions, scans and plane-nested data (R122, R123, R170, R171, R178 to R180) -/

theorem leavesOf_popped (s : State) (i : Instr) (k : BitVec 3) (w : Nat) (a : Nat → Nat) :
    leavesOf (popped s i) k w a = leaves s k w a := by
  simp only [leavesOf, leaves, popped_active]

/-- The body of a reduction gives D the root of the tree over its active elements. -/
theorem vred_of_elems {s : State} {i : Instr} {f : Fmt} {o : VOp} {b : Bool} {a : Nat → Nat} (r : Red)
    (ha : elems s o.a f (o.rm.getD s.ctx.vec.mode) o.sat = some a) (hu : uses i = useV o [o.a] b) :
    vred r f o (afterRead s .vector i) = .ok ((afterRead s .vector i).result o.d
      (BitVec.ofNat 65536 (reduce r f (o.rm.getD s.ctx.vec.mode) o.sat (if fbytes f = 2 then 12 else 11)
        (leaves s o.k (fbytes f) a) % 2 ^ (8 * fbytes f))) f) := by
  have hr : ReadFirst i o.a := readFirst_of_useV hu (by simp)
  simp only [vred, State.vsrc, modeOf_afterRead, opnd_afterRead hr, readOp_of_elems 0 ha, vec_afterRead, leavesOf_popped]

/-- A reduction or a scan is a body that gives D its result after the read step. -/
theorem exec_of_reduceResult {i : Instr} {s : State} {d : VR} {x : VReg} {f : Fmt} (h : reduceResult s i = some (d, x, f)) :
    ∃ occ body, exec i s = vecOp occ body s ∧ body (afterRead s .vector i) = .ok ((afterRead s .vector i).result d x f) := by
  simp only [reduceResult] at h
  split at h
  -- neither a reduction nor a scan
  case h_5 => cases h
  all_goals
    obtain ⟨a, ha, he⟩ := Option.map_eq_some_iff.1 h
    simp only [Prod.mk.injEq] at he
    obtain ⟨rfl, rfl, rfl⟩ := he
  -- vscan
  case h_4 f o =>
    refine ⟨_, _, rfl, ?_⟩
    have hr : ReadFirst (.vscan f o) o.a := readFirst_of_useV rfl (List.mem_singleton_self _)
    simp only [State.vsrc, modeOf_afterRead, opnd_afterRead hr, readOp_of_elems 0 ha, vec_afterRead, leavesOf_popped]
    rfl
  all_goals exact ⟨_, _, rfl, vred_of_elems _ ha rfl⟩

/-- A plane instruction is a body that gives D its result after the read step. -/
theorem exec_of_planeResult {i : Instr} {s : State} {d : VR} {x : VReg} {f : Fmt} (h : planeResult s i = some (d, x, f)) :
    ∃ occ body, exec i s = vecOp occ body s ∧ body (afterRead s .vector i) = .ok ((afterRead s .vector i).result d x f) := by
  simp only [planeResult] at h
  split at h
  -- vpsplit
  case h_1 pc o =>
    obtain ⟨a, ha, h⟩ := Option.bind_eq_some_iff.1 h
    obtain ⟨keep, hk, he⟩ := Option.map_eq_some_iff.1 h
    simp only [Prod.mk.injEq] at he
    obtain ⟨rfl, rfl, rfl⟩ := he
    refine ⟨_, _, rfl, ?_⟩
    have hr : ReadFirst (.vpsplit pc o) o.a := readFirst_of_useV rfl (by simp)
    simp only [State.vsrc, State.keepPl, modeOf_afterRead, opnd_afterRead hr, readOp_of_elems 0 ha, keepTyped_of_kept hk,
      vec_afterRead, popped_active]
  -- vpmerge
  case h_2 pc o =>
    split at h
    next => cases h
    next hp =>
      obtain ⟨q, hq, h⟩ := Option.bind_eq_some_iff.1 h
      obtain ⟨keep, hk, he⟩ := Option.map_eq_some_iff.1 h
      simp only [Prod.mk.injEq] at he
      obtain ⟨rfl, rfl, rfl⟩ := he
      refine ⟨_, _, rfl, ?_⟩
      have hr : ReadFirst (.vpmerge pc o) o.a := readFirst_of_useV rfl (by simp)
      simp only [State.vsrc, modeOf_afterRead, opnd_afterRead hr, readOp_of_elems 0 hq, if_neg hp, keepTyped_of_kept hk,
        putTyped_afterRead]
  -- vbscale
  case h_3 g pc o =>
    obtain ⟨a, ha, h⟩ := Option.bind_eq_some_iff.1 h
    obtain ⟨keep, hk, he⟩ := Option.map_eq_some_iff.1 h
    refine ⟨_, _, rfl, ?_⟩
    have hra : ReadFirst (.vbscale g pc o) o.a := readFirst_of_useV rfl (by simp)
    have hrb : ReadFirst (.vbscale g pc o) o.b := readFirst_of_useV rfl (by simp)
    simp only [State.vsrc, modeOf_afterRead, opnd_afterRead hra, opnd_afterRead hrb, readOp_of_elems 0 ha,
      keepTyped_of_kept hk, vec_afterRead, popped_active]
    split at he
    all_goals
      next hf =>
        simp only [Prod.mk.injEq] at he
        obtain ⟨rfl, rfl, rfl⟩ := he
        simp only [hf, if_true, if_false]
  -- no plane instruction
  case h_4 => cases h

/-- Settles O14: each instruction is the body of its source (`exec_of_reduceResult`, `exec_of_planeResult`), whose result D receives. -/
theorem vectorReductionsAndPlanesGiveTheirResult : Obligations.VectorReductionsAndPlanesGiveTheirResult := by
  unfold Obligations.VectorReductionsAndPlanesGiveTheirResult
  refine ⟨fun i s d x f h hs => ?reduce, fun i s d x f h hs => ?plane⟩
  case reduce =>
    obtain ⟨occ, body, he, hb⟩ := exec_of_reduceResult h
    rw [he]
    exact vecOp_receives hs hb
  case plane =>
    obtain ⟨occ, body, he, hb⟩ := exec_of_planeResult h
    rw [he]
    exact vecOp_receives hs hb

/-! ## Elements in registers, and tiles of eight registers (R105, R185) -/

theorem packElems_lt (w : Nat) (g : Nat → Nat) (n : Nat) : packElems w n g < 2 ^ (8 * w * n) := by
  induction n with
  | zero => simp [packElems]
  | succ n ih =>
    have hg : g n % 2 ^ (8 * w) ≤ 2 ^ (8 * w) - 1 := Nat.le_pred_of_lt (Nat.mod_lt _ (by positivity))
    calc packElems w n g + g n % 2 ^ (8 * w) * 2 ^ (8 * w * n)
        < 2 ^ (8 * w * n) + (2 ^ (8 * w) - 1) * 2 ^ (8 * w * n) := Nat.add_lt_add_of_lt_of_le ih (Nat.mul_le_mul_right _ hg)
      _ = 2 ^ (8 * w * (n + 1)) := by
        have h1 : 1 ≤ 2 ^ (8 * w) := Nat.one_le_two_pow
        rw [Nat.add_comm, ← Nat.succ_mul, Nat.succ_eq_add_one, Nat.sub_add_cancel h1, Nat.mul_succ, Nat.pow_add, Nat.mul_comm]

/-- Element i of n packed elements. -/
theorem packElems_get (w : Nat) (g : Nat → Nat) {n i : Nat} (h : i < n) :
    packElems w n g / 2 ^ (8 * w * i) % 2 ^ (8 * w) = g i % 2 ^ (8 * w) := by
  induction n with
  | zero => omega
  | succ n ih =>
    rw [packElems]
    obtain hi | rfl := Nat.lt_succ_iff_lt_or_eq.1 h
    · -- the element above lies a whole element or more beyond element i
      obtain ⟨m, rfl⟩ : ∃ m, n = i + 1 + m := ⟨n - (i + 1), by omega⟩
      have hp : 2 ^ (8 * w * (i + 1 + m)) = 2 ^ (8 * w * m) * 2 ^ (8 * w) * 2 ^ (8 * w * i) := by
        rw [← Nat.pow_add, ← Nat.pow_add]; congr 1; ring
      rw [hp, ← Nat.mul_assoc, Nat.add_mul_div_right _ _ (by positivity), ← Nat.mul_assoc, Nat.add_mul_mod_self_right]
      exact ih hi
    · rw [Nat.add_mul_div_right _ _ (by positivity), Nat.div_eq_of_lt (packElems_lt w g i), Nat.zero_add, Nat.mod_mod]

/-- Elements that fit into a word are kept by it. -/
theorem toNat_packElems {w n m : Nat} (g : Nat → Nat) (h : 8 * w * n ≤ m) :
    (BitVec.ofNat m (packElems w n g)).toNat = packElems w n g := by
  rw [BitVec.toNat_ofNat, Nat.mod_eq_of_lt ((packElems_lt w g n).trans_le (Nat.pow_le_pow_right Nat.two_pos h))]

/-- Element i of a register of elements. -/
theorem vget_vreg {w n i : Nat} (g : Nat → Nat) (hn : 8 * w * n ≤ 65536) (h : i < n) :
    vget (vreg w n g) w i = g i % 2 ^ (8 * w) := by
  rw [vget, vreg, toNat_packElems g hn, packElems_get w g h]

/-- A map with n keys in a row from a base on set. -/
theorem Machine.SMap.get_foldl_range {α : Type} [DecidableEq α] (d : α) (f : Nat → α) (base n : Nat) (m : SMap α) (k : Nat) :
    SMap.get d ((List.range n).foldl (fun m t => SMap.set d m (base + t) (f t)) m) k =
      if base ≤ k ∧ k < base + n then f (k - base) else SMap.get d m k := by
  induction n with
  | zero => rw [if_neg (by omega)]; rfl
  | succ n ih =>
    rw [List.range_succ, List.foldl_append, List.foldl_cons, List.foldl_nil, SMap.get_set, ih]
    by_cases hk : k = base + n
    · rw [if_pos hk, if_pos (by omega), hk, Nat.add_sub_cancel_left]
    · rw [if_neg hk]
      exact if_congr (by omega) rfl rfl

/-- Register k of the eight that hold a tile from a base on. -/
theorem Machine.Vec.setTile_get (v : Vec) (base : Nat) (g : Nat → Nat → Nat) (k : Nat) :
    SMap.get 0 (v.setTile base g).r k =
      if base ≤ k ∧ k < base + 8 then vreg 4 2048 (fun n => g (16 * (k - base) + n / 128) (n % 128)) else SMap.get 0 v.r k := by
  have h := SMap.get_foldl_range 0 (fun t => vreg 4 2048 (fun n => g (16 * t + n / 128) (n % 128))) base 8 v.r k
  rw [Vec.setTile, h]

/-- A tile that is set holds its elements, and no other register differs. -/
theorem tileSet_setTile (v : Vec) (base : Nat) (g : Nat → Nat → Nat) : TileSet v (v.setTile base g) base g := by
  refine ⟨fun i j hi hj => ?_, fun n hn => ?_, by rw [Vec.setTile]⟩
  · have hin : base ≤ base + i / 16 ∧ base + i / 16 < base + 8 := by omega
    have hlt : i % 16 * 128 + j < 2048 := by omega
    have hrow : 16 * (i / 16) + (i % 16 * 128 + j) / 128 = i := by omega
    have hcol : (i % 16 * 128 + j) % 128 = j := by omega
    rw [Vec.tile, Vec.setTile_get, if_pos hin, vget_vreg _ (by decide) hlt, Nat.add_sub_cancel_left, hrow, hcol]
  · rw [Vec.setTile_get, if_neg (by omega)]

/-! ## Passes (R121, R190, R195, R196, R211) -/

/-- A matrix instruction with nothing in its way leaves with the state that its body gives after the read step. -/
theorem matOp_of_issues {s u : State} {i : Instr} {b : State → Res' State} (h : Issues s .matrix i)
    (hb : b (afterRead s .matrix i) = .ok u) : matOp (noPush b) s = .next (u.onEng .matrix Eng.leave) :=
  engineOp_of_issues (body := noPush b) (u := u) (l := []) h (by simp only [noPush, hb])

/-- An operand that is read through all checks has passed those of R189. -/
theorem matCheck_of_matRead {s u : State} {o : MHOp} {op opnd : Nat} {f : Fmt} {nr ne : Nat} {x : Nat → Nat → Nat}
    (h : matRead s o op opnd f nr ne = .ok (u, x)) : ∃ c, matCheck s o opnd f nr ne = .ok c := by
  unfold matRead at h
  split at h
  next => cases h
  next hc => exact ⟨_, hc⟩

/-- The sum of R121 over the elements of a row and a column given as lists. -/
theorem passSum_map (m : RMode) (acc n : Nat) (a b : Nat → FVal) :
    passSum m acc ((List.range n).map a) ((List.range n).map b) = pass m acc n a b := by
  rw [passSum, products, List.zip_map', List.map_map]
  rfl

/-- Inside the tile, the row and the column that a pass takes from its lists are those of their functions. -/
theorem passSum_of_tile (m : RMode) (acc rest tk n tn i j : Nat) (a : Nat → Nat → FVal) (v : Vec) :
    (if i < n ∧ j < tn then
      passSum m acc (((List.range n).map (fun t => (List.range tk).map (a t))).getD i []) ((v.columns tk tn).getD j [])
    else rest) =
      if i < n ∧ j < tn then pass m acc tk (a i) (fun k => decodeF .fp32 (v.weight k j)) else rest := by
  split
  next h =>
    have hrow : ((List.range n).map (fun t => (List.range tk).map (a t))).getD i [] = (List.range tk).map (a i) := by
      simp [List.getD, h.1]
    have hcol : (v.columns tk tn).getD j [] = (List.range tk).map (fun k => decodeF .fp32 (v.weight k j)) := by
      simp [Vec.columns, List.getD, h.2]
    rw [hrow, hcol, passSum_map]
  next => rfl

@[simp] theorem Machine.State.vec_onMat (s : State) (f : Mat → Mat) : (s.onMat f).ctx.vec = s.ctx.vec := by
  rw [State.onMat, State.ctx_setCtx]
@[simp] theorem Machine.State.mat_onMat (s : State) (f : Mat → Mat) : (s.onMat f).ctx.mat = f s.ctx.mat := by
  rw [State.onMat, State.ctx_setCtx]
@[simp] theorem Machine.State.mat_onVec (s : State) (f : Vec → Vec) : (s.onVec f).ctx.mat = s.ctx.mat := by
  rw [State.onVec, State.ctx_setCtx]
@[simp] theorem Machine.State.mat_onEng (s : State) (e : Engine) (f : Eng → Eng) : (s.onEng e f).ctx.mat = s.ctx.mat := by
  rw [State.ctx_onEng, Ctx.setEng_mat]
@[simp] theorem Machine.State.eng_onMat (s : State) (f : Mat → Mat) (e : Engine) : (s.onMat f).eng e = s.eng e := by
  rw [State.eng, State.onMat, State.ctx_setCtx]; rfl

/-- Nothing but the energy account of the moving context changed, and no other context. -/
def OnlyEnergy (s t : State) : Prop := OnlyMoving s t ∧ t.ctx = { s.ctx with en := t.ctx.en }

theorem OnlyEnergy.refl (s : State) : OnlyEnergy s s := ⟨.refl s, rfl⟩

theorem OnlyEnergy.charge (s : State) (cls n : Nat) : OnlyEnergy s (s.charge s.cur cls n) :=
  ⟨.setCtx .., by rw [State.ctx_charge]⟩

theorem OnlyEnergy.eng {s t : State} (h : OnlyEnergy s t) (e : Engine) : t.eng e = s.eng e := by
  rw [State.eng, h.2]; rfl

section
variable {u w : State} {fv : Vec → Vec} {fm : Mat → Mat} (h : OnlyEnergy ((u.onVec fv).onMat fm) w)
include h

theorem OnlyEnergy.eng_left : Leaves u (w.onEng .matrix Eng.leave) .matrix := by
  rw [Leaves, State.eng_onEng, h.eng, State.eng_onMat, State.eng_onVec]

theorem OnlyEnergy.vec_left : (w.onEng .matrix Eng.leave).ctx.vec = fv u.ctx.vec := by
  rw [State.vec_onEng, h.2, State.vec_onMat, State.vec_onVec]

theorem OnlyEnergy.mat_left : (w.onEng .matrix Eng.leave).ctx.mat = fm u.ctx.mat := by
  rw [State.mat_onEng, h.2, State.mat_onMat, State.mat_onVec]

theorem OnlyEnergy.onlyMatrix_left : OnlyMatrix u (w.onEng .matrix Eng.leave) := by
  have hw : OnlyIssue ((u.onVec fv).onMat fm) w .matrix := ⟨h.1, by rw [h.2], fun x _ => h.eng x⟩
  exact (OnlyMatrix.of_onlyEngine ((OnlyEngine.onVec u .matrix fv).trans (.onMat ..))).trans (.of_onlyIssue (hw.trans (.onEng ..)))

end

/-- An instruction that writes an accumulator and leaves changes the matrix engine alone, and sets the accumulator (R186). -/
theorem accSet_left {u w : State} {a : BitVec 4} {g : Vec → Nat → Nat → Nat} (h : OnlyEnergy (u.writeAcc a g) w) :
    OnlyMatrix u (w.onEng .matrix Eng.leave) ∧ Leaves u (w.onEng .matrix Eng.leave) .matrix ∧
      AccSet u.ctx.vec u (w.onEng .matrix Eng.leave) a (g u.ctx.vec) := by
  refine ⟨h.onlyMatrix_left, h.eng_left, ?_, h.mat_left⟩
  rw [h.vec_left]
  exact tileSet_setTile ..

/-- A pass whose operand is read and whose formats pair sets the accumulator to its sums (R195). -/
theorem execMmul_of_read {s u : State} {f : Fmt} {a : BitVec 4} {o : MHOp} {x : Nat → Nat → Nat} (hs : Issues s .matrix (.mmul f a o))
    (hx : matRead s o (32 + Config.fmtCode f) 0 f s.ctx.mat.tm s.ctx.mat.tk = .ok (u, x)) (hp : pairOk f s.ctx.mat.wfmt = true) :
    ∃ w, OnlyEnergy (u.writeAcc a (fun v i j =>
      if i < s.ctx.mat.tm ∧ j < s.ctx.mat.tn then
        pass s.ctx.mat.mode (if o.ac then v.acc a.toNat i j else 0) s.ctx.mat.tk
          (fun k => elemVal f (o.pc.toNat + 1) (x i k)) (fun k => weightVal u k j)
      else v.acc a.toNat i j)) w ∧ execMmul f a o s = .next (w.onEng .matrix Eng.leave) := by
  refine ⟨_, .charge _ (rowClass f (o.pc.toNat + 1)) s.ctx.mat.tm, ?_⟩
  rw [execMmul]
  refine matOp_of_issues hs ?_
  obtain ⟨c, hc⟩ := matCheck_of_matRead hx
  rw [afterRead_of_no_reads rfl]
  simp only [hc, pairCheck, hp, if_true, hx, passSum_of_tile, weightVal]
  rfl

/-- Element (i, j) of an accumulator after a pass over the rows of an entry, from IN on (R196). -/
def entryPass (s : State) (f : Fmt) (a : BitVec 4) (rd : Nat → Nat) (v : Vec) (i j : Nat) : Nat :=
  let p := (i + 128 - SMap.get 0 s.ctx.mat.inn a.toNat) % 128
  if p < Nat.min s.ctx.mat.tm (rowsPerEntry f) ∧ j < s.ctx.mat.tn then
    pass s.ctx.mat.mode (v.acc a.toNat i j) s.ctx.mat.tk (fun k => decodeF f (rd (p * 128 + k))) (fun k => weightVal s k j)
  else v.acc a.toNat i j

theorem entryPass_popped (s : State) (f : Fmt) (a : BitVec 4) (rd : Nat → Nat) (i : Instr) :
    entryPass s f a rd (popped s i) = entryPass s f a rd s.ctx.vec := by
  funext x y
  simp only [entryPass, Vec.acc, popped_accBase, popped_tile]

/-- A pass over an entry that is accepted sets the accumulator to its sums, and IN goes on (R196). -/
theorem execMmulq_of_elems {s : State} {f : Fmt} {a : BitVec 4} {q : BitVec 5} {pk : Bool} {dp : BitVec 3} {rd : Nat → Nat}
    (hs : Issues s .matrix (.mmulq f a q pk dp)) (he : elems s (if pk then .pk q else .q q) f s.ctx.mat.mode false = some rd)
    (hp : pairOk f s.ctx.mat.wfmt = true) :
    ∃ w, OnlyEnergy (((afterRead s .matrix (.mmulq f a q pk dp)).onVec (fun v => v.setAcc a.toNat (entryPass s f a rd v))).onMat
        (fun m => { m with
          inn := SMap.set 0 m.inn a.toNat ((SMap.get 0 s.ctx.mat.inn a.toNat + Nat.min s.ctx.mat.tm (rowsPerEntry f)) % 128)
          out := SMap.set 0 m.out a.toNat 0 })) w ∧
      execMmulq f a q pk dp s = .next (w.onEng .matrix Eng.leave) := by
  refine ⟨_, .charge _ (rowClass f 8) (Nat.min s.ctx.mat.tm (rowsPerEntry f)), ?_⟩
  rw [execMmulq]
  refine matOp_of_issues hs ?_
  have hr : ReadFirst (.mmulq f a q pk dp) (if pk then .pk q else .q q) := ⟨List.mem_singleton_self _, nofun⟩
  simp only [mat_afterRead, vec_afterRead, opnd_afterRead hr, readOp_of_elems 0 he, pairCheck, hp, if_true, passSum_of_tile,
    Vec.weight, popped_tile]
  unfold entryPass weightVal
  rfl

/-- A load of an accumulator whose operand is read sets or adds its elements (R211). -/
theorem execMldacc_of_read {s u : State} {a : BitVec 4} {o : MHOp} {x : Nat → Nat → Nat} (hs : Issues s .matrix (.mldacc a o))
    (hx : matRead s o 48 0 .fp32 s.ctx.mat.tm s.ctx.mat.tn = .ok (u, x)) :
    execMldacc a o s = .next ((u.writeAcc a (fun v i j =>
      if i < s.ctx.mat.tm ∧ j < s.ctx.mat.tn then
        (if o.ac then addE .fp32 s.ctx.mat.mode false (v.acc a.toNat i j) (x i j) else x i j)
      else v.acc a.toNat i j)).onEng .matrix Eng.leave) := by
  refine matOp_of_issues hs ?_
  rw [afterRead_of_no_reads rfl]
  simp only [hx]

/-- Settles O19: each instruction writes its accumulator and leaves (`execMmul_of_read`, `execMmulq_of_elems`, `execMldacc_of_read`). -/
theorem passesSumTheirProductsOnce : Obligations.PassesSumTheirProductsOnce := by
  unfold Obligations.PassesSumTheirProductsOnce
  refine ⟨?mmul, ?mmulq, ?mldacc⟩
  case mmul =>
    intro s u f a o x hs hx hp
    obtain ⟨w, hw, he⟩ := execMmul_of_read hs hx hp
    exact ⟨_, he, accSet_left hw⟩
  case mmulq =>
    intro s f a q pk dp rd i n r0 hs he hp
    obtain ⟨w, hw, hx⟩ := execMmulq_of_elems hs he hp
    refine ⟨_, hx, (OnlyMatrix.of_onlyIssue (.afterRead s _ i)).trans hw.onlyMatrix_left, ?_, ?_, ?_⟩
    · rw [Leaves, hw.eng_left, leave_afterRead]
    · rw [hw.vec_left, vec_afterRead, Vec.setAcc, popped_accBase, entryPass_popped]
      exact tileSet_setTile ..
    · rw [hw.mat_left, mat_afterRead]
  case mldacc =>
    intro s u a o x hs hx
    exact ⟨_, execMldacc_of_read hs hx, accSet_left (.refl _)⟩

end Sys2Proof

/-! PROOFS. Banks, team barriers, service calls, halt and nop (O12), and engine traps (O21). -/

namespace Sys2Proof

open Sys2Proof.Machine Sys2Proof.Claim

/-! ## Banks, barriers, calls and ends (O12) -/

/-- A lend that no trap refuses is recorded, in four cycles (R144). -/
theorem banklend_ok {s : State} {b : BitVec 2} {g : BitVec 1} (h : controlFault s (.banklend b g) = none) :
    banklend b g s = .ok ((s.setCtx { s.ctx with vec := s.ctx.vec.setLend g (some b) }).occupy 4) := by
  have hg : (if g = 0 then s.ctx.vec.g0 else s.ctx.vec.g1) = s.ctx.vec.lend g := rfl
  simp only [controlFault, hg] at h
  split at h
  · cases h
  next hlent =>
  split at h
  · cases h
  next hgroup =>
  split at h
  · cases h
  next huse =>
  have hgroup : ¬ (s.ctx.vec.lend g).isSome = true := by
    rw [Option.isSome_iff_ne_none]; exact hgroup
  simp only [banklend, if_neg hlent, if_neg hgroup, if_neg huse]

/-- The vector registers after a bank's return: the lend has ended, and the bank's registers have the tag FP32 (R145). -/
def returned (v : Vec) (g : BitVec 1) (b : BitVec 2) : Vec :=
  { v.setLend g none with
    f := (List.range 32).foldl (fun f i => SMap.set .untyped f (32 * b.toNat + i) .fp32) v.f }

/-- A return that no trap refuses ends the lend, in four cycles (R145). -/
theorem bankret_ok {s : State} {b : BitVec 2} {g : BitVec 1} (h : controlFault s (.bankret g) = none)
    (hb : s.ctx.vec.lend g = some b) :
    bankret g s = .ok ((s.setCtx { s.ctx with vec := returned s.ctx.vec g b }).occupy 4) := by
  have hb' : (if g = 0 then s.ctx.vec.g0 else s.ctx.vec.g1) = some b := hb
  simp only [controlFault, hb'] at h
  split at h
  · cases h
  next huse => simp only [bankret, hb, if_neg huse, returned]

theorem returned_tag (v : Vec) (g : BitVec 1) (b : BitVec 2) (n : Nat) :
    SMap.get .untyped (returned v g b).f n =
      if 32 * b.toNat ≤ n ∧ n < 32 * b.toNat + 32 then .fp32 else SMap.get .untyped v.f n := by
  have h := SMap.get_foldl_range .untyped (fun _ => .fp32) (32 * b.toNat) 32 v.f n
  rw [returned, h]

theorem returned_lend (v : Vec) (g : BitVec 1) (b : BitVec 2) : (returned v g b).lend g = none := by
  unfold returned Vec.lend Vec.setLend
  split <;> rfl

theorem returned_kept (v : Vec) (g : BitVec 1) (b : BitVec 2) :
    (returned v g b).r = v.r ∧ (returned v g b).k = v.k ∧ (returned v g b).count = v.count := by
  unfold returned Vec.setLend
  split <;> exact ⟨rfl, rfl, rfl⟩

/-- An instruction that changes the vector registers in n cycles goes on from the state with them changed. -/
theorem controlOp_vec (s : State) (v : Vec) (n : Nat) :
    ∃ t, controlOp (.ok ((s.setCtx { s.ctx with vec := v }).occupy n)) = .next t ∧ MovesOn (s.setCtx { s.ctx with vec := v }) t ∧
      t.ctx.ctl.s = s.ctx.ctl.s ∧ OthersKept s t ∧ t.ctx.ctl.due = s.dcc.toNat + n := by
  generalize hw : s.setCtx { s.ctx with vec := v } = w
  have hc : w.ctx = { s.ctx with vec := v } := by rw [← hw, State.ctx_setCtx]
  have hd : w.dcc = s.dcc := by rw [← hw]; rfl
  obtain ⟨t, ht, hm, hr⟩ := controlOp_ok_spec w (w.occupy n) (.occupy ..) (by simp) (by simp) (by simp) (by simp) (by simp)
  obtain ⟨hp, hh, he⟩ := hr.others
  refine ⟨t, ht, hm, ?_, ⟨?_, ?_, ?_⟩, ?_⟩
  · rw [hr.1, State.ctx_occupy, hc]
  · rw [hp, State.ctx_occupy, hc]
  · rw [hh, State.ctx_occupy, hc]
  · rw [he, State.ctx_occupy, hc]
  · rw [hr.due, State.ctx_occupy, hd]

/-- A barrier that is met only fixes its leaving cycle: every barrier keeps its arrivals, and the other barriers stay (R226). -/
theorem Machine.State.barrierMet_spec {s : State} {gid : Nat} {g : Gang} (t : BitVec 8) (hg : s.gang gid = some g) :
    ∃ g', s.barrierMet gid t = { s with gangs := (s.barrierMet gid t).gangs } ∧ (s.barrierMet gid t).gang gid = some g' ∧
      (SMap.get Bar.reset g'.bars t.toNat).arrived = (SMap.get Bar.reset g.bars t.toNat).arrived ∧
      ∀ k, k ≠ t.toNat → SMap.get Bar.reset g'.bars k = SMap.get Bar.reset g.bars k := by
  unfold State.barrierMet
  simp only [hg]
  split
  · exact ⟨g, rfl, hg, rfl, fun _ _ => rfl⟩
  · split
    · exact ⟨_, rfl, by rw [State.gang_setGang, if_pos rfl], by rw [SMap.get_set_self], fun k hk => SMap.get_set_ne _ _ _ _ _ hk⟩
    · exact ⟨g, rfl, hg, rfl, fun _ _ => rfl⟩

/-- A context that holds keeps its registers and its place. -/
theorem Machine.State.ctl_holdAs (s : State) (h : Hold) :
    ∃ n, (s.holdAs h).ctx.ctl = { s.ctx.ctl with hold := h, held := n } := by
  rw [State.holdAs, State.ctx_ctl]
  split
  next hs => exact ⟨s.ctx.ctl.held, by rw [← hs]⟩
  next => exact ⟨0, rfl⟩

/-- The gang of a strand's barrier with the strand arrived (R226). -/
def arrival (s : State) (g : Gang) (t : BitVec 8) : Gang :=
  let b := SMap.get Bar.reset g.bars t.toNat
  { g with bars := SMap.set Bar.reset g.bars t.toNat { b with arrived := b.arrived ++ [s.bind.strand.toNat] } }

/-- A member of a team arrives and holds (R226). -/
theorem execTbar_member {s : State} {t : BitVec 8} {a : BitVec 5} {g : Gang} {tm : Team} (hg : s.gang s.bind.gang.toNat = some g)
    (ht : g.team t = some tm) (hm : tm.has s.bind.stage = true) :
    execTbar t a s = .next
      (((s.setGang s.bind.gang.toNat (some (arrival s g t))).barrierMet s.bind.gang.toNat t).holdAs
        (.tbar t (SMap.get Bar.reset g.bars t.toNat).gen a)) := by
  simp only [execTbar, tbar, hg, ht, hm, Bool.not_true, Bool.false_eq_true, if_false, controlOp, arrival]

/-- A call that arrives changes the firmware's doorbells alone, and these only while it drains (R487). -/
theorem Machine.State.callArrives_eq (s : State) : s.callArrives = { s with
    dev := if s.dev.fw.state = 2 then { s.dev with fw := { s.dev.fw with bells := s.dev.fw.bells ++ [.call s.cur] } } else s.dev } := by
  unfold State.callArrives
  split <;> rfl

/-- A delivery that closes is open no longer. -/
theorem Machine.State.closeLoop_closed (s : State) : s.closeLoop.ctx.lp.open_ = false := by
  obtain ⟨-, hl, -⟩ := s.closeLoop_spec
  cases ho : s.ctx.lp.open_
  · rw [(hl.1 ho).1, ho]
  · exact (hl.2 ho).1

theorem Machine.State.pushOwedN_susp (n : Nat) (s : State) : (State.pushOwedN n s).ctx.lp.susp = s.ctx.lp.susp := by
  obtain ⟨-, hc, -⟩ := State.pushOwedN_spec n s
  rw [hc]

/-- Closing delivery leaves its suspension as it is. -/
theorem Machine.State.closeLoop_susp (s : State) : s.closeLoop.ctx.lp.susp = s.ctx.lp.susp := by
  unfold State.closeLoop
  split
  · simp [State.pushOwedN_susp, State.newAge]
  · rfl

/-- Settles O12: each instruction is the branch of the model that its premises leave. -/
theorem banksBarriersCallsAndEnds : Obligations.BanksBarriersCallsAndEnds := by
  unfold Obligations.BanksBarriersCallsAndEnds
  refine ⟨⟨?lend, ?ret⟩, ?tbar, ?svc, ?halt, ?nop⟩
  case lend =>
    intro s b g h
    obtain ⟨t, ht, hm, hs, ho, hd⟩ := controlOp_vec s (s.ctx.vec.setLend g (some b)) 4
    exact ⟨t, _, by rw [exec_banklend, execBanklend, banklend_ok h, ht], rfl, hm, hs, ho, hd⟩
  case ret =>
    intro s b g h hb
    obtain ⟨t, ht, ⟨⟨hmov, hctx⟩, -, hctl⟩, hs, ho, hd⟩ := controlOp_vec s (returned s.ctx.vec g b) 4
    have hv : t.ctx.vec = returned s.ctx.vec g b := by rw [hctx, State.ctx_setCtx]
    obtain ⟨hr, hk, hc⟩ := returned_kept s.ctx.vec g b
    refine ⟨t, by rw [exec_bankret, execBankret, bankret_ok h hb, ht], (OnlyMoving.setCtx _ _).trans hmov, ?_, ?_, ?_, ?_, fun n => ?_,
      hs, ho, ?_, hd⟩
    · rw [hv]; exact returned_lend ..
    · rw [hv, hr]
    · rw [hv, hk]
    · rw [hv, hc]
    · rw [hv]; exact returned_tag ..
    · rw [hctl, State.ctx_setCtx]
  case tbar =>
    intro s t a g tm hg ht hm
    obtain ⟨g', hmet, hg', harr, hbars⟩ := State.barrierMet_spec (s := s.setGang s.bind.gang.toNat (some (arrival s g t))) t
      (by rw [State.gang_setGang, if_pos rfl])
    generalize hu : (s.setGang s.bind.gang.toNat (some (arrival s g t))).barrierMet s.bind.gang.toNat t = u at hmet hg'
    obtain ⟨n, hctl⟩ := u.ctl_holdAs (.tbar t (SMap.get Bar.reset g.bars t.toNat).gen a)
    have huc : u.ctx = s.ctx := by rw [hmet]; rfl
    rw [huc] at hctl
    refine ⟨u.holdAs _, by rw [exec_tbar, execTbar_member hg ht hm, hu], ?_, by rw [hctl], by rw [hctl],
      ⟨by rw [hctl], by rw [hctl], by rw [hctl]⟩, by rw [hctl], g', hg', ?_, fun k hk => ?_⟩
    · rw [State.holdAs, State.ctl, State.setCtx_mem, hmet]; rfl
    · rw [harr, arrival, SMap.get_set_self]
    · rw [hbars k hk, arrival, SMap.get_set_ne _ _ _ _ _ hk]
  case svc =>
    intro s code hn
    have hc : ((s.holdAs (.svc code s.svcArgs)).occupy svcCycles).ctx = { s.ctx with ctl := { s.ctx.ctl with
        hold := .svc code s.svcArgs, held := 0, due := s.dcc.toNat + svcCycles, late := none } } := by
      rw [State.ctx_occupy, State.ctx_holdAs_new hn]; rfl
    generalize hu : (s.holdAs (.svc code s.svcArgs)).occupy svcCycles = u at hc
    have hm : OnlyMoving s u := by rw [← hu]; exact ((OnlyControl.ctl s _).trans (.occupy ..)).1
    refine ⟨u.callArrives, by rw [exec_svc, execSvc, hu]; rfl, ?_, fun k hk => ?_, ?_, ?_⟩
    · rw [State.callArrives_eq, hm.1]
    · rw [State.callArrives_eq]; exact hm.2 k hk
    · rw [State.callArrives_eq]; exact hc
    · rw [State.callArrives_eq, hm.1]
  case halt =>
    intro s
    generalize hu : s.setCtx { s.ctx with
      ctl := { s.ctx.ctl with fetch := .halted }
      lp := { s.ctx.lp with open_ := s.ctx.lp.open_ || s.ctx.lp.susp, susp := false } } = u
    have hc : u.ctx = { s.ctx with
        ctl := { s.ctx.ctl with fetch := .halted }
        lp := { s.ctx.lp with open_ := s.ctx.lp.open_ || s.ctx.lp.susp, susp := false } } := by rw [← hu, State.ctx_setCtx]
    have hou : OnlyControl s u := ⟨by rw [← hu]; exact .setCtx .., by rw [hc]⟩
    obtain ⟨hoc, -, hctl⟩ := u.closeLoop_spec
    rw [hc] at hctl
    refine ⟨u.closeLoop, by rw [exec_halt, execHalt, hu], hou.trans hoc, by rw [hctl], u.closeLoop_closed, ?_, by rw [hctl], by rw [hctl],
      by rw [hctl], ⟨by rw [hctl], by rw [hctl], by rw [hctl]⟩⟩
    rw [u.closeLoop_susp, hc]
  case nop =>
    intro s
    obtain ⟨t, ht, hm, hr⟩ := controlOp_ok s
    exact ⟨t, ht, hm, hr.1, hr.others, hr.due⟩

/-! ## Engine traps (O21) -/

/-- The head of the fabric engine: a remote read into queue register 0. -/
def queueRead : Cap :=
  { instr := .xld .fp32 ⟨.q 0, 0, 0, 0, 0, 0, 0⟩ 0, lanes := [], line := 0, lane := 0, age := 0, s := [], h := [] }

/-- Its command: the response has come, and the command ends once its push is made (R455). -/
def answeredRead : XCmd :=
  { cap := queueRead, what := .load, first := 0, txns := [], ei := 0, started := true, wait := false, page := (0, 0), inv := false
    failed := false, binds := [], tile := none, data := some 0, tag := .untyped, msgs := [], got := [], sent := 1 }

/-- The push has waited for room up to the limit (QOVER), and the handler has set DISP, so that its return discards the read (R135,
R368). Bank 0 is lent. -/
def discardingRead : State :=
  State.reset.setCtx { Ctx.reset.setEng .fabric
      { Eng.reset with q := [.instr queueRead true], pushes := [⟨0, 0, .fp32, none⟩], frozen := true } with
    csr := { Csr.reset with
      intrap := true, teng := { v := true, asy := false, eng := 5, disp := true, lost := false, line := 0, lane := 0 } }
    vec := { Vec.reset with count := [(0, 4)], g0 := some 0 }
    fab := { Fab.reset with cmds := [answeredRead] } }

/-- A remote read into register 0, which lies in bank 0. -/
def readIntoBank : Instr := .xld .fp32 ⟨.v 0, 0, 0, 0, 0, 0, 0⟩ 0

/-- After the handler's return the engine issues the second read. -/
def issuingIntoBank : State := { discardingRead.doTret with iss := { queueRead with instr := readIntoBank, age := 2 ^ 40 } }

/-- The return frees the engine but leaves the discarded read's command. -/
theorem issuingIntoBank_free :
    (issuingIntoBank.eng .fabric).pushes = [] ∧ issuingIntoBank.ctx.fab.cmds = [answeredRead] := by decide

theorem bankCheck_issuingIntoBank : issuingIntoBank.ctx.vec.bankCheck readIntoBank = some (bankInfo 0 0 4) := by decide

/-- The second read raises BANKBUSY, and all the same ends the first one's command: `xld` looks for one to end after whatever it
has done. -/
theorem exec_readIntoBank : ∃ t, exec readIntoBank issuingIntoBank = .next t ∧ t.ctx.fab.cmds = [] := ⟨_, rfl, by decide⟩

/-- Refutes O21: by its first clause an instruction refused with BANKBUSY does no more than freeze its engine, but an `xld` that names a
register of a lent bank also ends the command of an earlier read, which stays behind when a return from QOVER discards that read with
its push. The clause lacks the premise that no such command is left. -/
theorem not_engineTrapsAndEmptyQueues : ¬ Obligations.EngineTrapsAndEmptyQueues := by
  unfold Obligations.EngineTrapsAndEmptyQueues
  rintro ⟨⟨hbank, -⟩, -⟩
  obtain ⟨hpushes, hcmds⟩ := issuingIntoBank_free
  obtain ⟨t, ht, -, hctx, -⟩ := hbank readIntoBank .fabric issuingIntoBank _ rfl rfl hpushes bankCheck_issuingIntoBank
  obtain ⟨u, hu, hends⟩ := exec_readIntoBank
  rw [ht] at hu
  cases hu
  have hkept : t.ctx.fab = issuingIntoBank.ctx.fab := by rw [hctx]
  rw [hkept, hcmds] at hends
  cases hends

end Sys2Proof

/-! PROOFS. Vector loads and stores: what a result, a read and a posted write of the vector engine give (R174, R178, R181), and O16. -/

namespace Sys2Proof

open Sys2Proof.Machine Sys2Proof.Claim

/-! ## Bytes as elements (R105) -/

/-- A field of a number's low m bits is that field of the number. -/
theorem field_ofNat {m a b : Nat} (x : Nat) (h : a + b ≤ m) :
    (BitVec.ofNat m x).toNat / 2 ^ a % 2 ^ b = x / 2 ^ a % 2 ^ b := by
  obtain ⟨c, rfl⟩ := Nat.exists_eq_add_of_le h
  rw [BitVec.toNat_ofNat, Nat.add_assoc, Nat.pow_add, Nat.mod_mul_right_div_self,
    Nat.mod_mod_of_dvd _ (pow_dvd_pow 2 (Nat.le_add_right b c))]

/-- Element j of bytes read into a register. -/
theorem vget_ofNat {w j : Nat} (x : Nat) (h : j < 8192 / w) :
    vget (BitVec.ofNat 65536 x) w j = x / 2 ^ (8 * w * j) % 2 ^ (8 * w) := by
  refine field_ofNat x ?_
  calc 8 * w * j + 8 * w = 8 * (w * (j + 1)) := by ring
    _ ≤ 8 * (w * (8192 / w)) := Nat.mul_le_mul_left 8 (Nat.mul_le_mul_left w h)
    _ ≤ 65536 := Nat.mul_le_mul_left 8 (Nat.mul_div_le 8192 w)

theorem packElems_congr {w n : Nat} {f g : Nat → Nat} (h : ∀ j, j < n → f j = g j) : packElems w n f = packElems w n g := by
  induction n with
  | zero => rfl
  | succ n ih => rw [packElems, packElems, ih (fun j hj => h j (Nat.lt_succ_of_lt hj)), h n (Nat.lt_succ_self n)]

/-- A merge depends on its elements inside the register alone. -/
theorem merged_congr {s : State} {k : BitVec 3} {f : Fmt} {r r' keep : Nat → Nat} (h : ∀ j, j < 8192 / fbytes f → r j = r' j) :
    merged s k f r keep = merged s k f r' keep := by
  simp only [merged, vreg]
  exact congrArg _ (packElems_congr (fun j hj => by rw [h j hj]))

/-! ## Results and ends of vector instructions (R131, R132, R142) -/

section
variable {s u w : State} {i : Instr} {occ : Nat} {d : VR} {x : VReg} {f : Fmt}

/-- A result given from a state, and charged: D receives it, and nothing else of the registers changes. -/
theorem receives_result (u : State) (occ : Nat) (d : VR) (x : VReg) (f : Fmt) :
    OnlyIssue u (State.pushAll .vector (u.result d x f).2 ((u.result d x f).1.charge (u.result d x f).1.cur 3 occ)) .vector ∧
      Receives u.ctx.vec u (State.pushAll .vector (u.result d x f).2 ((u.result d x f).1.charge (u.result d x f).1.cur 3 occ))
        .vector d x f := by
  have hpush (n : BitVec 5) :
      OnlyIssue u (State.pushAll .vector [⟨n.toNat, x, f, none⟩] (u.charge u.cur 3 occ)) .vector ∧
        Receives u.ctx.vec u (State.pushAll .vector [⟨n.toNat, x, f, none⟩] (u.charge u.cur 3 occ)) .vector (.q n) x f := by
    have hv : (u.charge u.cur 3 occ).ctx.vec = u.ctx.vec := by rw [State.ctx_charge]
    refine ⟨(OnlyIssue.charge ..).trans (.pushAll_single _ _ rfl), ?_⟩
    rw [← hv]
    exact receives_pushAll (by rw [State.eng_charge])
  cases d with
  | v n =>
    refine ⟨((OnlyIssue.onVec ..).trans (.charge ..)).trans (.onEng ..), ?_, ?_⟩
    · rw [State.result, State.pushAll_nil, State.vec_onEng, State.ctx_charge, State.vec_onVec]
    · rw [Leaves, State.result, State.pushAll_nil, State.eng_onEng, State.eng_charge, State.eng_onVec]
  | q n | pk n => exact hpush n

theorem OnlyEnergy.vec (h : OnlyEnergy u w) : w.ctx.vec = u.ctx.vec := by rw [h.2]

theorem OnlyEnergy.onlyIssue (h : OnlyEnergy u w) (e : Engine) : OnlyIssue u w e := ⟨h.1, by rw [h.2], fun x _ => h.eng x⟩

/-- What the energy account holds is nothing to D. -/
theorem OnlyEnergy.receives {t : State} {v : Vec} {e : Engine} (h : OnlyEnergy u w) (hr : Receives v w t e d x f) :
    Receives v u t e d x f := by
  cases d with
  | v n | q n | pk n => simpa only [Receives, Leaves, h.eng] using hr

/-- A vector instruction with nothing in its way does what its body does after the read step, and its work is charged. -/
theorem vecOp_of_issues {body : Body} {l : List Push} (hs : Issues s .vector i) (hb : body (afterRead s .vector i) = .ok (u, l)) :
    vecOp occ body s = .next (State.pushAll .vector l (u.charge u.cur 3 occ)) :=
  engineOp_of_issues hs (by simp only [hb])

/-- A vector instruction whose body gives D a result from a state that it reached. -/
theorem vecOp_result {body : Body} (hs : Issues s .vector i) (hu : OnlyEnergy u w)
    (hb : body (afterRead s .vector i) = .ok (w.result d x f)) :
    ∃ t, vecOp occ body s = .next t ∧ OnlyIssue u t .vector ∧ Receives u.ctx.vec u t .vector d x f := by
  obtain ⟨hi, hr⟩ := receives_result w occ d x f
  rw [hu.vec] at hr
  exact ⟨_, vecOp_of_issues hs hb, (hu.onlyIssue _).trans hi, hu.receives hr⟩

/-- A vector instruction without a result leaves with the state that its body gives. -/
theorem vecOp_noPush {b : State → Res' State} (hs : Issues s .vector i) (hb : b (afterRead s .vector i) = .ok u) :
    ∃ t, vecOp occ (noPush b) s = .next t ∧ OnlyIssue u t .vector ∧ t.ctx.vec = u.ctx.vec ∧ Leaves u t .vector ∧
      t.mem = u.mem := by
  refine ⟨_, vecOp_of_issues (l := []) hs (by simp only [noPush, hb]), (OnlyIssue.charge ..).trans (.onEng ..), ?_, ?_, rfl⟩
  · rw [State.pushAll_nil, State.vec_onEng, State.ctx_charge]
  · rw [Leaves, State.pushAll_nil, State.eng_onEng, State.eng_charge]

end

/-! ## What the read step leaves of the issuing instruction (R44, R133) -/

@[simp] theorem iss_afterRead (s : State) (e : Engine) (i : Instr) : (afterRead s e i).iss = s.iss := by
  rw [(OnlyIssue.afterRead s e i).1.1]

@[simp] theorem sc_afterRead (s : State) (e : Engine) (i : Instr) (r : BitVec 5) : (afterRead s e i).sc r = s.sc r := by
  rw [State.sc, State.sc, iss_afterRead]

@[simp] theorem popped_runs (s : State) (i : Instr) (k : BitVec 3) : (popped s i).runs k = s.ctx.vec.runs k := by
  rw [QueuesOnly.popped s i]; rfl

/-- A load reads no queue register: of the registers, it reads its plain destination alone (R153). -/
theorem queueReads_vld (f : Fmt) (o : MOp) : queueReads (.vld f o) = [] := by
  have h : (useLd o.x o.k [o.a] o.h o.dp).rd.filterMap VR.queue = [] := by
    unfold useLd
    split
    · cases o.x <;> rfl
    · rfl
  simp only [queueReads, uses, h, List.map_nil, List.eraseDups_nil]

theorem readFirst_vst (f : Fmt) (o : MOp) : ReadFirst (.vst f o) o.x := ⟨List.mem_singleton_self _, nofun⟩

theorem readFirst_vscatter (w : Width) (o : GOp) : ReadFirst (.vscatter w o) o.x := ⟨List.mem_cons_self, nofun⟩

/-! ## Reads (R174, R178, R181) -/

section
variable {s u : State} {src : Nat} {h : Handle}

/-- A translation changes no register of the moving context. -/
theorem Translated.vec (ht : Translated s u) : u.ctx.vec = s.ctx.vec := by
  rw [State.ctx, ht.cur, ht.2.1]; rfl

theorem Machine.State.load_translated {o n v : Nat} {ti : Word} (hl : s.load src h o n ti = .ok (u, v)) : Translated s u := by
  unfold State.load at hl
  split at hl
  case h_4 hr =>
    split at hl
    · cases hl
    · split at hl
      · cases hl
      · cases hl; exact State.resolve_spec hr
  all_goals cases hl

theorem Machine.State.loadMany_translated {l : List (Nat × Nat)} {ti : Word} {vs : List Nat} (hl : s.loadMany src h l ti = .ok (u, vs)) :
    Translated s u := by
  unfold State.loadMany at hl
  split at hl
  case h_5 hr =>
    split at hl
    · cases hl
    · split at hl
      · cases hl
      · cases hl; exact State.resolveMany_spec hr
  all_goals cases hl

/-- What a read gives does not depend on the TINFO of the trap that it does not raise. -/
theorem Machine.State.loadMany_tinfo {l : List (Nat × Nat)} {ti : Word} {vs : List Nat} (ti' : Word)
    (hl : s.loadMany src h l ti = .ok (u, vs)) : s.loadMany src h l ti' = .ok (u, vs) := by
  unfold State.loadMany at hl ⊢
  split at hl
  case h_5 hr => exact hl
  all_goals cases hl

theorem Machine.State.loadLanes_translated {off : Int} {l : List (Nat × Nat)} {raw : Nat} (hl : s.loadLanes src h off l = .ok (u, raw)) :
    Translated s u := by
  unfold State.loadLanes at hl
  split at hl
  · cases hl
  next hm => cases hl; exact State.loadMany_translated hm

theorem Machine.State.loadElems_translated {w : Nat} {l : List (Nat × Nat)} {ti : Word} {m : SMap Nat}
    (hl : s.loadElems h w l ti = .ok (u, m)) : Translated s u := by
  unfold State.loadElems at hl
  split at hl
  · cases hl
  next hm => cases hl; exact State.loadMany_translated hm

theorem Machine.State.loadElems_tinfo {w : Nat} {l : List (Nat × Nat)} {ti : Word} {m : SMap Nat} (ti' : Word)
    (hl : s.loadElems h w l ti = .ok (u, m)) : s.loadElems h w l ti' = .ok (u, m) := by
  unfold State.loadElems at hl ⊢
  split at hl
  · cases hl
  next hm => cases hl; rw [State.loadMany_tinfo ti' hm]

/-- A load in a format whose lanes are read gives X its active elements in that format (R174). -/
theorem loadReg_of_lanes {m : RMode} {x : VR} {c : Option Fmt} {f : Fmt} {k : BitVec 3} {off : Int} {keep : Nat → Nat} {raw : Nat}
    (hk : s.keepTyped x k f m false = .ok keep) (hp : s.readParked h (laneBytes off (s.ctx.vec.runs k)) = false)
    (hl : s.loadLanes src h off (s.ctx.vec.runs k) = .ok (u, raw)) :
    loadReg src m x h c f k off s = .ok (u.result x
      (merged s k f (fun j => readAs c f m false (raw / 2 ^ (8 * fbytes f * j) % 2 ^ (8 * fbytes f))) keep) f) := by
  have hm : merged s k f (fun j => readAs c f m false (vget (BitVec.ofNat 65536 raw) (fbytes f) j)) keep =
      merged s k f (fun j => readAs c f m false (raw / 2 ^ (8 * fbytes f * j) % 2 ^ (8 * fbytes f))) keep :=
    merged_congr (fun j hj => by rw [vget_ofNat raw hj])
  rw [← hm]
  simp only [loadReg, hk, hp, hl, Bool.false_eq_true, if_false, State.putTyped, (State.loadLanes_translated hl).vec, merged]

/-- A load of PL whose bytes are read gives X its active integers, its scales and its planes (R178). -/
theorem loadPl_of_bytes {x : VR} {k : BitVec 3} {off : Int} {keep : Nat → Nat} {raw : Nat}
    (hk : s.keepTyped x k .pl s.ctx.vec.mode false = .ok keep) (hp : s.readParked h [(off.toNat, 64 + 256 * (h.pc.toNat + 1))] = false)
    (hl : s.load src h off.toNat (64 + 256 * (h.pc.toNat + 1)) (offW off) = .ok (u, raw)) :
    loadPl src x h k off s = .ok (u.result x
      (plReg (fun j => if s.ctx.vec.active k j then plElem raw 2048 (h.pc.toNat + 1) j else keep j) (plScaleAt raw) (h.pc.toNat + 1))
      .pl) := by
  simp only [loadPl, State.keepPl, hk, vspan, if_true, hp, hl, Bool.false_eq_true, if_false, (State.load_translated hl).vec]

end

/-! ## Posted writes (R137, R174, R178, R181) -/

section
variable {s u : State} {e : Engine} {h : Handle} {keep : Nat} {ti : Word}

/-- Pieces that resolve, with nothing that holds or parks them, are in flight. -/
theorem postPieces_of_posts {pieces : List Seg} (hne : pieces ≠ []) (hp : Posts s u e h pieces keep ti) :
    s.postPieces e h pieces keep ti = .ok u := by
  obtain ⟨hpark, hplaced, w, rs, hr, rfl⟩ := hp
  have hany : pieces.any (fun p => s.unplaced h p.a p.n) = false :=
    List.any_eq_false.2 (fun p hm => by rw [hplaced p hm]; exact Bool.false_ne_true)
  rw [State.postPieces, if_neg (by simpa using hne)]
  simp only [State.post, if_neg (not_parked_behind hpark), hany, hr, Bool.false_eq_true, if_false]
  rfl

/-- A store of a PL register writes its scales and the plane bits of its active elements, and leaves the bits of the others (R178). -/
theorem storePl_of_elems {r r' : State} {x : VR} {k : BitVec 3} {off : Int} {q : Nat → Nat} {old : Nat}
    (hq : r.readOp (r.opnd .vector x) 0 .pl r.ctx.vec.mode false = .ok q) (hp : h.pc.toNat + 1 ≤ vget (r.opnd .vector x).1 1 2080)
    (hl : if k = 0 then r' = r else r.load 0 h off.toNat (64 + 256 * (h.pc.toNat + 1)) (offW off) = .ok (r', old)) :
    storePl .vector x h k off r = .ok (r', [⟨off.toNat, 64 + 256 * (h.pc.toNat + 1),
      plTensor 2048 (fun j => if r.ctx.vec.active k j then q j else plElem old 2048 (h.pc.toNat + 1) j)
        (fun g => vget (r.opnd .vector x).1 1 (2048 + g)) (h.pc.toNat + 1)⟩],
      if k = 0 then 0 else plTensor 2048 (fun j => if r.ctx.vec.active k j then 0 else 255) (fun _ => 0) (h.pc.toNat + 1)) := by
  simp only [storePl, hq, if_neg (Nat.not_lt.2 hp), vspan, if_true]
  by_cases hk : k = 0
  · rw [if_pos hk] at hl
    subst hl
    simp [hk, Vec.active]
  · rw [if_neg hk] at hl
    have hl' : r.load (Config.engIdx .vector) h off.toNat (64 + 256 * (h.pc.toNat + 1)) (offW off) = .ok (r', old) := hl
    simp only [if_neg hk, hl', (State.load_translated hl).vec]

end

/-! ## The instructions -/

section
variable {s u : State} {h : Handle}

theorem keepTyped_vld (f : Fmt) (o : MOp) {d : VR} {k : BitVec 3} {g : Fmt} {m : RMode} {sat : Bool} {keep : Nat → Nat}
    (hk : kept s d k g m sat = some keep) : s.keepTyped d k g m sat = .ok keep := by
  have hr := keepTyped_of_kept (e := .vector) (i := .vld f o) hk
  rwa [afterRead_of_no_reads (queueReads_vld f o)] at hr

/-- A vector load in a format whose lanes are read (R174). -/
theorem execVld_of_lanes {f : Fmt} {o : MOp} {c : Option Fmt} {keep : Nat → Nat} {raw : Nat} (hs : Issues s .vector (.vld f o))
    (hf : f ≠ .pl) (hc : lsCheck s (s.hrec o.h) rRD f o.k ((s.sc o.a).toInt + o.i.toInt) true o.tag = .ok (h, c))
    (hk : kept s o.x o.k f s.ctx.vec.mode false = some keep)
    (hp : s.readParked h (laneBytes ((s.sc o.a).toInt + o.i.toInt) (s.ctx.vec.runs o.k)) = false)
    (hl : s.loadLanes 0 h ((s.sc o.a).toInt + o.i.toInt) (s.ctx.vec.runs o.k) = .ok (u, raw)) :
    ∃ t, execVld f o s = .next t ∧ OnlyIssue u t .vector ∧ Receives u.ctx.vec u t .vector o.x
      (merged s o.k f (fun j => readAs c f s.ctx.vec.mode false (raw / 2 ^ (8 * fbytes f * j) % 2 ^ (8 * fbytes f))) keep) f := by
  rw [execVld]
  refine vecOp_result hs (.refl u) ?_
  rw [afterRead_of_no_reads (queueReads_vld f o)]
  simp only [hc, if_neg hf]
  exact loadReg_of_lanes (keepTyped_vld f o hk) hp hl

/-- A vector load of PL whose bytes are read (R178). -/
theorem execVld_of_planes {o : MOp} {c : Option Fmt} {keep : Nat → Nat} {raw : Nat} (hs : Issues s .vector (.vld .pl o))
    (hc : lsCheck s (s.hrec o.h) rRD .pl o.k ((s.sc o.a).toInt + o.i.toInt) true o.tag = .ok (h, c))
    (hk : kept s o.x o.k .pl s.ctx.vec.mode false = some keep)
    (hp : s.readParked h [(((s.sc o.a).toInt + o.i.toInt).toNat, 64 + 256 * (h.pc.toNat + 1))] = false)
    (hl : s.load 0 h ((s.sc o.a).toInt + o.i.toInt).toNat (64 + 256 * (h.pc.toNat + 1)) (offW ((s.sc o.a).toInt + o.i.toInt)) =
      .ok (u, raw)) :
    ∃ t, execVld .pl o s = .next t ∧ OnlyIssue u t .vector ∧ Receives u.ctx.vec u t .vector o.x
      (plReg (fun j => if s.ctx.vec.active o.k j then plElem raw 2048 (h.pc.toNat + 1) j else keep j) (plScaleAt raw)
        (h.pc.toNat + 1)) .pl := by
  rw [execVld]
  refine vecOp_result hs (.refl u) ?_
  rw [afterRead_of_no_reads (queueReads_vld .pl o)]
  simp only [hc, if_true]
  exact loadPl_of_bytes (keepTyped_vld .pl o hk) hp hl

theorem keepRaw_eq_oldElem {t : State} (ht : ∀ n, t.ctx.vec.slot n = s.ctx.vec.slot n) (d : VR) (w : Nat) :
    t.keepRaw d w = oldElem s d w := by
  funext j
  cases d with
  | v n => rw [State.keepRaw, ht, oldElem]
  | q n | pk n => rfl

/-- A gather whose elements are read (R181). -/
theorem execVgather_of_elems {w : Width} {o : GOp} {l : List (Nat × Nat)} {m : SMap Nat} {ti : Word}
    (hs : Issues s .vector (.vgather w o))
    (hc : ixCheck (afterRead s .vector (.vgather w o)) rRD (widthBytes w) o = .ok (h, l)) (hw : widthOk h.fmt (widthBytes w) = true)
    (ht : (afterRead s .vector (.vgather w o)).tileCheck h (l.map (fun e => (e.2, widthBytes w))) true none = none)
    (hp : (afterRead s .vector (.vgather w o)).readParked h (l.map (fun e => (e.2, widthBytes w))) = false)
    (hl : (afterRead s .vector (.vgather w o)).loadElems h (widthBytes w) l ti = .ok (u, m)) :
    ∃ t, execVgather w o s = .next t ∧ OnlyIssue u t .vector ∧ Receives u.ctx.vec u t .vector o.x
      (BitVec.ofNat 65536 (mixElems (widthBytes w) (oldElem s o.x (widthBytes w)) 2048 0 m)) h.fmt := by
  have hcharge := OnlyEnergy.charge u 3 (bankLoad h l - 4)
  have hslot (n : Nat) : (u.charge u.cur 3 (bankLoad h l - 4)).ctx.vec.slot n = s.ctx.vec.slot n := by
    rw [hcharge.vec, (State.loadElems_translated hl).vec, vec_afterRead, popped_slot]
  rw [execVgather]
  refine vecOp_result hs hcharge ?_
  simp only [hc, hw, ht, hp, State.loadElems_tinfo _ hl, Bool.not_true, Bool.false_eq_true, if_false, ← keepRaw_eq_oldElem hslot]

/-- A vector store in a format posts the bytes of its active lanes (R174). -/
theorem execVst_of_elems {f : Fmt} {o : MOp} {c : Option Fmt} {rd : Nat → Nat} (hs : Issues s .vector (.vst f o)) (hf : f ≠ .pl)
    (hc : lsCheck (afterRead s .vector (.vst f o)) ((afterRead s .vector (.vst f o)).hrec o.h) rWR f o.k
      ((s.sc o.a).toInt + o.i.toInt) false o.tag = .ok (h, c))
    (hx : elems s o.x f s.ctx.vec.mode false = some rd)
    (hne : storePieces rd c f s.ctx.vec.mode ((s.sc o.a).toInt + o.i.toInt) (s.ctx.vec.runs o.k) ≠ [])
    (hp : Posts (afterRead s .vector (.vst f o)) u .vector h
      (storePieces rd c f s.ctx.vec.mode ((s.sc o.a).toInt + o.i.toInt) (s.ctx.vec.runs o.k)) 0
      (offW ((s.sc o.a).toInt + o.i.toInt))) :
    ∃ t, execVst f o s = .next t ∧ OnlyIssue u t .vector ∧ t.ctx.vec = u.ctx.vec ∧ Leaves u t .vector ∧ t.mem = u.mem := by
  rw [execVst]
  refine vecOp_noPush hs ?_
  simp only [sc_afterRead, hc, if_neg hf, storeReg, opnd_afterRead (readFirst_vst f o), vec_afterRead, popped_mode, popped_runs,
    readOp_of_elems 0 hx]
  exact postPieces_of_posts hne hp

/-- A vector store of PL posts its scales and the plane bits of its active elements (R178). -/
theorem execVst_of_planes {r' : State} {o : MOp} {c : Option Fmt} {q : Nat → Nat} {old : Nat} (hs : Issues s .vector (.vst .pl o))
    (hc : lsCheck (afterRead s .vector (.vst .pl o)) ((afterRead s .vector (.vst .pl o)).hrec o.h) rWR .pl o.k
      ((s.sc o.a).toInt + o.i.toInt) false o.tag = .ok (h, c))
    (hq : elems s o.x .pl s.ctx.vec.mode false = some q) (hpc : h.pc.toNat + 1 ≤ vget (source s o.x).1 1 2080)
    (hl : if o.k = 0 then r' = afterRead s .vector (.vst .pl o)
      else (afterRead s .vector (.vst .pl o)).load 0 h ((s.sc o.a).toInt + o.i.toInt).toNat (64 + 256 * (h.pc.toNat + 1))
        (offW ((s.sc o.a).toInt + o.i.toInt)) = .ok (r', old))
    (hp : Posts r' u .vector h [⟨((s.sc o.a).toInt + o.i.toInt).toNat, 64 + 256 * (h.pc.toNat + 1),
        plTensor 2048 (fun j => if s.ctx.vec.active o.k j then q j else plElem old 2048 (h.pc.toNat + 1) j)
          (fun g => vget (source s o.x).1 1 (2048 + g)) (h.pc.toNat + 1)⟩]
      (if o.k = 0 then 0 else plTensor 2048 (fun j => if s.ctx.vec.active o.k j then 0 else 255) (fun _ => 0) (h.pc.toNat + 1))
      (offW ((s.sc o.a).toInt + o.i.toInt))) :
    ∃ t, execVst .pl o s = .next t ∧ OnlyIssue u t .vector ∧ t.ctx.vec = u.ctx.vec ∧ Leaves u t .vector ∧ t.mem = u.mem := by
  have ho := opnd_afterRead (s := s) (e := .vector) (readFirst_vst .pl o)
  have hst := storePl_of_elems (x := o.x) (by rw [ho, vec_afterRead, popped_mode]; exact readOp_of_elems 0 hq) (by rw [ho]; exact hpc) hl
  rw [execVst]
  refine vecOp_noPush hs ?_
  simp only [sc_afterRead, hc, if_true, hst, ho, vec_afterRead, popped_active]
  exact postPieces_of_posts (List.cons_ne_nil _ _) hp

/-- A scatter posts its active elements (R181). -/
theorem execVscatter_of_elems {w : Width} {o : GOp} {l : List (Nat × Nat)} (hs : Issues s .vector (.vscatter w o))
    (hc : ixCheck (afterRead s .vector (.vscatter w o)) rWR (widthBytes w) o = .ok (h, l))
    (hw : widthOk (source s o.x).2 (widthBytes w) = true)
    (hne : l.map (fun e => (⟨e.2, widthBytes w, vget (source s o.x).1 (widthBytes w) e.1⟩ : Seg)) ≠ [])
    (hp : Posts ((afterRead s .vector (.vscatter w o)).charge (afterRead s .vector (.vscatter w o)).cur 3 (bankLoad h l - 4)) u
      .vector h (l.map (fun e => ⟨e.2, widthBytes w, vget (source s o.x).1 (widthBytes w) e.1⟩)) 0 (offW (s.sc o.a).toInt)) :
    ∃ t, execVscatter w o s = .next t ∧ OnlyIssue u t .vector ∧ t.ctx.vec = u.ctx.vec ∧ Leaves u t .vector ∧ t.mem = u.mem := by
  rw [execVscatter]
  refine vecOp_noPush hs ?_
  simp only [hc, State.vsrc, opnd_afterRead (readFirst_vscatter w o), hw, Bool.not_true, Bool.false_eq_true, if_false, sc_afterRead]
  exact postPieces_of_posts hne hp

end

/-- Settles O16: a load is a body that gives X its result after the read (`vecOp_result`), and a store one that posts its pieces
(`postPieces_of_posts`, `vecOp_noPush`). -/
theorem vectorLoadsAndStores : Obligations.VectorLoadsAndStores := by
  unfold Obligations.VectorLoadsAndStores
  refine ⟨⟨?vld, ?vldPl, ?vgather⟩, ?vst, ?vstPl, ?vscatter⟩
  case vld => exact fun _ _ _ _ _ _ _ _ hs hf hc hk hp hl => execVld_of_lanes hs hf hc hk hp hl
  case vldPl => exact fun _ _ _ _ _ _ _ hs hc hk hp hl => execVld_of_planes hs hc hk hp hl
  case vgather => exact fun _ _ _ _ _ _ _ _ hs hc hw ht hp hl => execVgather_of_elems hs hc hw ht hp hl
  case vst => exact fun _ _ _ _ _ _ _ hs hf hc hx hne hp => execVst_of_elems hs hf hc hx hne hp
  case vstPl => exact fun _ _ _ _ _ _ _ _ hs hc hq hpc hl hp => execVst_of_planes hs hc hq hpc hl hp
  case vscatter => exact fun _ _ _ _ _ _ hs hc hw hne hp => execVscatter_of_elems hs hc hw hne hp

end Sys2Proof

/-! PROOFS. The matrix engine's accumulators, weights and drains: what an instruction without pushes leaves, what pops and pushes of a
queue register give (R131, R132, R186, R191 to R193, R199 to R205, R212), and O17, O18 and O20. -/

namespace Sys2Proof

open Sys2Proof.Machine Sys2Proof.Claim

/-! ## Instructions that leave their engine (R142, R185) -/

theorem Claim.Leaves.onEng (s : State) (e : Engine) : Leaves s (s.onEng e Eng.leave) e := s.eng_onEng e _

theorem Claim.OnlyMatrix.refl (s : State) : OnlyMatrix s s := .of_onlyEngine (.refl ..)

theorem Claim.OnlyMatrix.onEng (s : State) (f : Eng → Eng) : OnlyMatrix s (s.onEng .matrix f) := .of_onlyEngine (.onEng ..)

theorem Claim.OnlyMatrix.onMat (s : State) (f : Mat → Mat) : OnlyMatrix s (s.onMat f) := .of_onlyEngine (.onMat ..)

theorem Claim.OnlyMatrix.onVec (s : State) (f : Vec → Vec) : OnlyMatrix s (s.onVec f) := .of_onlyEngine (.onVec ..)

theorem Claim.OnlyMatrix.writeAcc (s : State) (a : BitVec 4) (g : Vec → Nat → Nat → Nat) : OnlyMatrix s (s.writeAcc a g) :=
  (OnlyMatrix.onVec ..).trans (.onMat ..)

@[simp] theorem Machine.State.vec_writeAcc (s : State) (a : BitVec 4) (g : Vec → Nat → Nat → Nat) :
    (s.writeAcc a g).ctx.vec = s.ctx.vec.setAcc a.toNat (g s.ctx.vec) := by
  rw [State.writeAcc, State.vec_onMat, State.vec_onVec]

@[simp] theorem Machine.State.mat_writeAcc (s : State) (a : BitVec 4) (g : Vec → Nat → Nat → Nat) :
    (s.writeAcc a g).ctx.mat = s.ctx.mat.written a.toNat := by
  rw [State.writeAcc, State.mat_onMat, State.mat_onVec]

@[simp] theorem Machine.State.eng_writeAcc (s : State) (a : BitVec 4) (g : Vec → Nat → Nat → Nat) (e : Engine) :
    (s.writeAcc a g).eng e = s.eng e := by
  rw [State.writeAcc, State.eng_onMat, State.eng_onVec]

/-- A matrix instruction that only changes the matrix engine's registers and leaves (R205). -/
theorem onMat_left (u : State) (fm : Mat → Mat) :
    OnlyMatrix u ((u.onMat fm).onEng .matrix Eng.leave) ∧ Leaves u ((u.onMat fm).onEng .matrix Eng.leave) .matrix ∧
      ((u.onMat fm).onEng .matrix Eng.leave).ctx.vec = u.ctx.vec ∧
      ((u.onMat fm).onEng .matrix Eng.leave).ctx.mat = fm u.ctx.mat := by
  refine ⟨(OnlyMatrix.onMat ..).trans (.onEng ..), ?_, by rw [State.vec_onEng, State.vec_onMat],
    by rw [State.mat_onEng, State.mat_onMat]⟩
  rw [Leaves, State.eng_onEng, State.eng_onMat]

/-! ## Accumulators (R185, R186, R204) -/

/-- The body of an operation by columns writes the accumulator, each column by its element of X (R204). -/
theorem columnOp_of_elems {s : State} {i : Instr} {x : VR} {e : Nat → Nat} (fn : RMode → FVal → FVal → FVal) (a : BitVec 4)
    (hr : ReadFirst i x) (he : elems s x .fp32 s.ctx.mat.mode false = some e) :
    columnOp fn a x (afterRead s .matrix i) = .ok ((afterRead s .matrix i).writeAcc a (fun v r c =>
      roundF .fp32 s.ctx.mat.mode false (fn s.ctx.mat.mode (decodeF .fp32 (v.acc a.toNat r c)) (decodeF .fp32 (e c))))) := by
  simp only [columnOp, mat_afterRead, opnd_afterRead hr, readOp_of_elems 0 he]

/-- An instruction of R204 on one accumulator writes it after the read step, by a rule that the pops do not touch. -/
theorem exec_of_accResult {s : State} {i : Instr} {a : BitVec 4} {r : Nat → Nat → Nat} (h : accResult s i = some (a, r))
    (hs : Issues s .matrix i) :
    ∃ g, exec i s = .next (((afterRead s .matrix i).writeAcc a g).onEng .matrix Eng.leave) ∧ g (popped s i) = r := by
  unfold accResult at h
  split at h
  -- mzero
  case h_1 =>
    cases h
    exact ⟨_, matOp_of_issues hs rfl, rfl⟩
  -- maccmov
  case h_2 =>
    cases h
    refine ⟨_, matOp_of_issues hs rfl, ?_⟩
    simp only [Vec.acc, popped_accBase, popped_tile]
  -- mscale, mbias
  case h_3 x dp | h_4 x dp =>
    obtain ⟨e, he, hi⟩ := Option.map_eq_some_iff.1 h
    cases hi
    refine ⟨_, matOp_of_issues hs (columnOp_of_elems _ a ⟨List.mem_singleton_self x, nofun⟩ he), ?_⟩
    simp only [Vec.acc, popped_accBase, popped_tile]
  -- no instruction on one accumulator
  case h_5 => cases h

/-- An accumulator begins at a multiple of its eight slots. -/
theorem accBase_dvd (v : Vec) (a : Nat) : 8 ∣ v.accBase a := by
  unfold Vec.accBase
  split
  · omega
  · split <;> omega

theorem lend_setTile (v : Vec) (b : Nat) (g : Nat → Nat → Nat) (x : BitVec 1) : (v.setTile b g).lend x = v.lend x := by
  rw [Vec.setTile, Vec.lend, Vec.lend]

/-- Which slots an accumulator has does not depend on what the slots hold (R144). -/
theorem accBase_setTile (v : Vec) (b c : Nat) (g : Nat → Nat → Nat) : (v.setTile b g).accBase c = v.accBase c := by
  rw [Vec.accBase, Vec.accBase, lend_setTile]

theorem accBase_setAcc (v : Vec) (a c : Nat) (g : Nat → Nat → Nat) : (v.setAcc a g).accBase c = v.accBase c :=
  accBase_setTile ..

/-- An accumulator that was set holds its elements. -/
theorem acc_setAcc_self {v : Vec} {a i j : Nat} (g : Nat → Nat → Nat) (hi : i < 128) (hj : j < 128) :
    (v.setAcc a g).acc a i j = g i j % 2 ^ 32 := by
  rw [Vec.acc, accBase_setAcc]
  exact (tileSet_setTile v (v.accBase a) g).1 i j hi hj

/-- Accumulators that begin at different slots do not overlap. -/
theorem acc_setAcc_ne {v : Vec} {a c i j : Nat} (g : Nat → Nat → Nat) (h : v.accBase a ≠ v.accBase c) (hi : i < 128) :
    (v.setAcc a g).acc c i j = v.acc c i j := by
  have ha := accBase_dvd v a
  have hc := accBase_dvd v c
  rw [Vec.acc, Vec.acc, accBase_setAcc, Vec.tile, Vec.tile, Vec.setAcc, Vec.setTile_get, if_neg (by omega)]

/-- An element of an accumulator has 32 bits. -/
theorem acc_mod (v : Vec) (a i j : Nat) : v.acc a i j % 2 ^ 32 = v.acc a i j := by
  rw [Vec.acc, Vec.tile, vget]
  exact Nat.mod_mod _ _

/-- Two accumulators set one after the other: each holds the other's elements, where they do not overlap or are one (R204). -/
theorem acc_swapped {v : Vec} {a b i j : Nat} (h : a = b ∨ v.accBase a ≠ v.accBase b) (hi : i < 128) (hj : j < 128) :
    ((v.setAcc a (v.acc b)).setAcc b (v.acc a)).acc a i j = v.acc b i j ∧
      ((v.setAcc a (v.acc b)).setAcc b (v.acc a)).acc b i j = v.acc a i j := by
  have hb : ((v.setAcc a (v.acc b)).setAcc b (v.acc a)).acc b i j = v.acc a i j := by
    rw [acc_setAcc_self _ hi hj, acc_mod]
  refine ⟨?_, hb⟩
  obtain rfl | hne := h
  · exact hb
  · have hne' : (v.setAcc a (v.acc b)).accBase b ≠ (v.setAcc a (v.acc b)).accBase a := by
      rw [accBase_setAcc, accBase_setAcc]
      exact hne.symm
    rw [acc_setAcc_ne _ hne' hi, acc_setAcc_self _ hi hj, acc_mod]

/-- MPRE whose checks pass changes nothing (R212). -/
theorem execMpre_of_checks {s : State} {o : MHOp} {h : Handle} (hs : Issues s .matrix (.mpre o)) (hh : s.hrec o.h = some h)
    (hr : h.has rRD = true) (hl : s.levelFound h true = none) (h0 : 0 ≤ s.mhOff o) (h1 : s.mhOff o < (h.len.toNat : Int))
    (ha : s.mhOff o % 64 = 0)
    (hp : h.level = 0 → s.inPartition h (s.mhOff o).toNat (Nat.min 65536 (h.len.toNat - (s.mhOff o).toNat)) = true) :
    execMpre o s = .next (s.onEng .matrix Eng.leave) := by
  have hm : matHandle s (s.hrec o.h) rRD 0 true (s.mhOff o) = .ok h := by simp [matHandle, hh, hr, hl]
  have hb : ¬ (s.mhOff o < 0 ∨ (h.len.toNat : Int) ≤ s.mhOff o) := by omega
  have hq : ¬ (h.level = 0 ∧
      (!s.inPartition h (s.mhOff o).toNat (Nat.min 65536 (h.len.toNat - (s.mhOff o).toNat))) = true) := by
    rintro ⟨hz, hf⟩
    rw [hp hz] at hf
    cases hf
  refine matOp_of_issues hs ?_
  rw [afterRead_of_no_reads rfl]
  simp only [hm, if_neg hb, ha, ne_eq, not_true_eq_false, if_false, if_neg hq]

/-- Settles O17: an instruction of one accumulator writes it after the read step (`exec_of_accResult`), mswap writes two that do not
overlap (`acc_swapped`), and the others leave with their registers changed (`onMat_left`). -/
theorem accumulatorsAndConfiguration : Obligations.AccumulatorsAndConfiguration := by
  unfold Obligations.AccumulatorsAndConfiguration
  refine ⟨?acc, ?swap, ?cfg, ?rnd, ?pre⟩
  case acc =>
    intro i s a r h hs
    obtain ⟨g, he, hg⟩ := exec_of_accResult h hs
    obtain ⟨hm, hl, ha⟩ := accSet_left (.refl ((afterRead s .matrix i).writeAcc a g))
    refine ⟨_, he, (OnlyMatrix.of_onlyIssue (.afterRead s _ i)).trans hm, ?_, ?_⟩
    · rwa [AccSet, vec_afterRead, hg, mat_afterRead] at ha
    · rw [Leaves, hl, leave_afterRead]
  case swap =>
    intro s a b dp hs hab
    refine ⟨_, matOp_of_issues hs rfl, ((OnlyMatrix.writeAcc ..).trans (.writeAcc ..)).trans (.onEng ..), ?_, ?_, ?_⟩
    · rw [Leaves, State.eng_onEng, State.eng_writeAcc, State.eng_writeAcc, leave_afterRead]
    all_goals
      rw [afterRead_of_no_reads rfl, State.vec_onEng, State.vec_writeAcc, State.vec_writeAcc]
    · intro i j hi hj
      refine acc_swapped ?_ hi hj
      rcases hab with rfl | hab
      · exact .inl rfl
      · exact .inr hab
    · rw [State.mat_onEng, State.mat_writeAcc, State.mat_writeAcc]
      refine ⟨rfl, rfl, rfl, ?_⟩
      rw [Vec.setAcc, Vec.setAcc, Vec.setTile, Vec.setTile]
  case cfg =>
    intro s m k n dp hs
    refine ⟨_, matOp_of_issues hs rfl, ?_⟩
    rw [afterRead_of_no_reads rfl]
    exact onMat_left ..
  case rnd =>
    intro s m dp hs
    refine ⟨_, matOp_of_issues hs rfl, ?_⟩
    rw [afterRead_of_no_reads rfl]
    exact onMat_left ..
  case pre =>
    intro s o h hs hh hr hl h0 h1 ha hp
    exact ⟨_, execMpre_of_checks hs hh hr hl h0 h1 ha hp, .onEng .., .onEng .., State.vec_onEng .., State.mat_onEng ..⟩

/-! ## Weights from memory (R191, R192) -/

/-- An instruction that sets the weights and leaves. -/
theorem setWeights_left (u : State) (val : Nat → Nat → FVal) (f : Fmt) (pc : BitVec 3) :
    OnlyMatrix u ((u.setWeights val f pc).onEng .matrix Eng.leave) ∧
      Leaves u ((u.setWeights val f pc).onEng .matrix Eng.leave) .matrix ∧
      TileSet u.ctx.vec ((u.setWeights val f pc).onEng .matrix Eng.leave).ctx.vec 320 (fun k j =>
        if k < u.ctx.mat.tk ∧ j < u.ctx.mat.tn then roundF .fp32 u.ctx.mat.mode false (val k j) else 0) ∧
      ((u.setWeights val f pc).onEng .matrix Eng.leave).ctx.mat = { u.ctx.mat with wfmt := f, wpc := pc } := by
  have h : OnlyEnergy (u.setWeights val f pc) (u.setWeights val f pc) := .refl _
  refine ⟨h.onlyMatrix_left, h.eng_left, ?_, h.mat_left⟩
  rw [h.vec_left]
  exact tileSet_setTile ..

/-- A weight load whose operand is read sets the weights to its values (R191). -/
theorem execMldw_of_read {s u : State} {f : Fmt} {o : MHOp} {x : Nat → Nat → Nat} (hs : Issues s .matrix (.mldw f o))
    (hx : matRead s o (Config.fmtCode f) 1 f s.ctx.mat.tk s.ctx.mat.tn = .ok (u, x)) :
    execMldw f o s = .next ((u.setWeights (fun k j => elemVal f (o.pc.toNat + 1) (x k j)) f (if f = .pl then o.pc else 0)).onEng
      .matrix Eng.leave) := by
  refine matOp_of_issues hs ?_
  rw [afterRead_of_no_reads rfl]
  simp only [hx]

/-- A gradient load whose operand is read sets the weights to its values rounded to BF16 (R192). -/
theorem execMldg_of_read {s u : State} {o : MHOp} {x : Nat → Nat → Nat} (hs : Issues s .matrix (.mldg o))
    (hx : matRead s o 16 1 .fp32 s.ctx.mat.tk s.ctx.mat.tn = .ok (u, x)) :
    execMldg o s = .next ((u.setWeights (fun k j =>
      decodeF .bf16 (convert .fp32 .bf16 u.ctx.mat.mode false (x k j))) .bf16 0).onEng .matrix Eng.leave) := by
  refine matOp_of_issues hs ?_
  rw [afterRead_of_no_reads rfl]
  simp only [hx]

/-! ## Entries of a queue register in their order (R130, R135) -/

/-- Entry e of a queue register, counted from the head: those put back stand ahead of the slots. -/
def Machine.Vec.entry (v : Vec) (q e : Nat) : VReg × Fmt :=
  (v.ahead q).getD e (v.slot (qSlot q (v.qhead q + (e - (v.ahead q).length))))

theorem Machine.Vec.front_eq_entry (v : Vec) (q : Nat) : v.front q = v.entry q 0 := by
  cases h : v.ahead q <;> simp [Vec.front, Vec.entry, h]

theorem Machine.Vec.pop_of_ahead_nil {v : Vec} {q : Nat} (h : v.ahead q = []) :
    v.pop q = { v with
      head := SMap.set 0 v.head q ((v.qhead q + 1) % 4), count := SMap.set 0 v.count q (SMap.get 0 v.count q - 1) } := by
  rw [Vec.pop, h]

theorem Machine.Vec.pop_of_ahead_cons {v : Vec} {q : Nat} {x : VReg × Fmt} {l : List (VReg × Fmt)} (h : v.ahead q = x :: l) :
    v.pop q = { v with excess := SMap.set [] v.excess q l } := by
  rw [Vec.pop, h]

/-- A pop takes the first entry: the others move up (R131). -/
theorem Machine.Vec.entry_pop (v : Vec) (q e : Nat) : (v.pop q).entry q e = v.entry q (e + 1) := by
  cases h : v.ahead q with
  | nil =>
    have hs : qSlot q ((v.qhead q + 1) % 4 + e) = qSlot q (v.qhead q + (e + 1)) := by
      simp only [qSlot]; omega
    have ha : (v.pop q).ahead q = [] := by rw [Vec.pop_of_ahead_nil h]; exact h
    have hh : (v.pop q).qhead q = (v.qhead q + 1) % 4 := by rw [Vec.pop_of_ahead_nil h]; exact SMap.get_set_self ..
    have hv : (v.pop q).slot = v.slot := by rw [Vec.pop_of_ahead_nil h]; rfl
    simp [Vec.entry, h, ha, hh, hs, hv]
  | cons x l =>
    have ha : (v.pop q).ahead q = l := by rw [Vec.pop_of_ahead_cons h]; exact SMap.get_set_self ..
    have hh : (v.pop q).qhead q = v.qhead q := by rw [Vec.pop_of_ahead_cons h]; rfl
    have hv : (v.pop q).slot = v.slot := by rw [Vec.pop_of_ahead_cons h]; rfl
    simp [Vec.entry, h, ha, hh, hv]

theorem Machine.Vec.qcount_pop (v : Vec) (q : Nat) : (v.pop q).qcount q = v.qcount q - 1 := by
  cases h : v.ahead q with
  | nil =>
    have ha : (v.pop q).ahead q = [] := by rw [Vec.pop_of_ahead_nil h]; exact h
    rw [Vec.qcount, Vec.qcount, ha, h, Vec.pop_of_ahead_nil h]
    exact SMap.get_set_self ..
  | cons x l =>
    have ha : (v.pop q).ahead q = l := by rw [Vec.pop_of_ahead_cons h]; exact SMap.get_set_self ..
    rw [Vec.qcount, Vec.qcount, ha, h, Vec.pop_of_ahead_cons h]
    rfl

theorem ahead_setTile (v : Vec) (b q : Nat) (g : Nat → Nat → Nat) : (v.setTile b g).ahead q = v.ahead q := by
  rw [Vec.setTile, Vec.ahead, Vec.ahead]

theorem qhead_setTile (v : Vec) (b q : Nat) (g : Nat → Nat → Nat) : (v.setTile b g).qhead q = v.qhead q := by
  rw [Vec.setTile, Vec.qhead, Vec.qhead]

theorem qcount_setTile (v : Vec) (b q : Nat) (g : Nat → Nat → Nat) : (v.setTile b g).qcount q = v.qcount q := by
  rw [Vec.qcount, Vec.qcount, ahead_setTile, Vec.setTile]

theorem slot_setTile {v : Vec} {b n : Nat} (g : Nat → Nat → Nat) (h : n < b) : (v.setTile b g).slot n = v.slot n := by
  rw [Vec.slot, Vec.slot, Vec.setTile_get, if_neg (by omega), Vec.setTile]

/-- The weight buffer lies beyond the slots of the queue registers (R130, R185). -/
theorem entry_setWeightTile (v : Vec) {q : Nat} (e : Nat) (g : Nat → Nat → Nat) (hq : q < 32) :
    (v.setTile 320 g).entry q e = v.entry q e := by
  have hlt (n : Nat) : qSlot q n < 320 := by simp only [qSlot]; omega
  simp only [Vec.entry, ahead_setTile, qhead_setTile, slot_setTile g (hlt _)]

theorem weight_pop (v : Vec) (q k j : Nat) : (v.pop q).weight k j = v.weight k j := by
  rw [QueuesOnly.pop v q]; rfl

theorem weight_setTile {v : Vec} {k j : Nat} (g : Nat → Nat → Nat) (hk : k < 128) (hj : j < 128) :
    (v.setTile 320 g).weight k j = g k j % 2 ^ 32 := by
  rw [Vec.weight]
  exact (tileSet_setTile v 320 g).1 k j hk hj

theorem weight_mod (v : Vec) (k j : Nat) : v.weight k j % 2 ^ 32 = v.weight k j := by
  rw [Vec.weight, Vec.tile, vget]
  exact Nat.mod_mod _ _

/-! ## Weights from a queue register (R193) -/

theorem rowsPerEntry_pos (f : Fmt) : 0 < rowsPerEntry f := by cases f <;> decide

/-- Nothing of the matrix engine's registers differs but what MLDWQ remembers of its pops (R119). -/
def MemoOnly (m m' : Mat) : Prop := m' = { m with before := m'.before, popped := m'.popped }

theorem MemoOnly.trans {m m' m'' : Mat} (h : MemoOnly m m') (g : MemoOnly m' m'') : MemoOnly m m'' := by
  unfold MemoOnly at *
  rw [g]; conv_lhs => rw [h]

theorem MemoOnly.took (m : Mat) (old : List VReg) (e : Nat) (x : VReg × Fmt) : MemoOnly m (m.took old e x) := by
  unfold Mat.took
  split <;> rfl

/-- Weight (k, j) as the entry that holds row k gives it, in a sequence of entries read as `rd` (R193). -/
def entryWeight (f : Fmt) (mode : RMode) (rd : Nat → Nat → Nat) (k j : Nat) : Nat :=
  roundF .fp32 mode false (decodeF f (rd (k / rowsPerEntry f) ((k - k / rowsPerEntry f * rowsPerEntry f) * 128 + j)))

/-- The elements of an entry, where the tag check of R117 accepts it. -/
def entryElems (tagmode : Bool) (x : VReg × Fmt) (f : Fmt) (mode : RMode) : Option (Nat → Nat) :=
  (tagCheck tagmode x.2 f).map (fun c j => readAs c f mode false (vget x.1 (fbytes f) j))

/-- n pops of MLDWQ: the engine counts them, the entries left move up, and the rows of those popped have their weights as `rd` gives
them by the number of the entry (R193). -/
structure PopsEntries (f : Fmt) (q : Nat) (rd : Nat → Nat → Nat) (n : Nat) (s t : State) : Prop where
  only : OnlyMatrix s t
  made : (t.eng .matrix).made = (s.eng .matrix).made + n
  leave : (t.eng .matrix).leave = (s.eng .matrix).leave
  mat : MemoOnly s.ctx.mat t.ctx.mat
  count : t.ctx.vec.qcount q = s.ctx.vec.qcount q - n
  entry : ∀ e, t.ctx.vec.entry q e = s.ctx.vec.entry q (e + n)
  weight : ∀ k j, k < 128 → j < 128 → t.ctx.vec.weight k j =
    if (s.eng .matrix).made ≤ k / rowsPerEntry f ∧ k / rowsPerEntry f < (s.eng .matrix).made + n ∧ k < s.ctx.mat.tk ∧
      j < s.ctx.mat.tn
    then entryWeight f s.ctx.mat.mode rd k j % 2 ^ 32 else s.ctx.vec.weight k j

section
variable {f : Fmt} {q n m : Nat} {rd : Nat → Nat → Nat} {s t u : State}

theorem PopsEntries.refl (s : State) : PopsEntries f q rd 0 s s := by
  refine ⟨.refl s, rfl, rfl, rfl, rfl, fun e => rfl, fun k j _ _ => ?_⟩
  rw [if_neg (by omega)]

theorem PopsEntries.trans (h : PopsEntries f q rd n s t) (g : PopsEntries f q rd m t u) : PopsEntries f q rd (n + m) s u := by
  refine ⟨h.only.trans g.only, ?_, g.leave.trans h.leave, h.mat.trans g.mat, ?_, fun e => ?_, fun k j hk hj => ?_⟩
  · rw [g.made, h.made, Nat.add_assoc]
  · rw [g.count, h.count, Nat.sub_sub]
  · rw [g.entry, h.entry, Nat.add_assoc, Nat.add_comm m n]
  · rw [g.weight k j hk hj, h.weight k j hk hj, h.made, h.mat, ← ite_or]
    dsimp only
    exact if_congr (by omega) rfl rfl

/-- The state after a pop of MLDWQ whose entry is read as `rd` (R193). -/
def Machine.State.popWeights (f : Fmt) (q : Nat) (rd : Nat → Nat) (s : State) : State :=
  ((s.onMat (fun m => m.took s.ctx.vec.weights (s.eng .matrix).made (s.ctx.vec.front q))).onVec (fun v =>
    (v.setTile 320 (fun k j =>
      if (s.eng .matrix).made * rowsPerEntry f ≤ k ∧ k < ((s.eng .matrix).made + 1) * rowsPerEntry f ∧ k < s.ctx.mat.tk ∧
        j < s.ctx.mat.tn
      then roundF .fp32 s.ctx.mat.mode false (decodeF f (rd ((k - (s.eng .matrix).made * rowsPerEntry f) * 128 + j)))
      else v.weight k j)).pop q)).onEng .matrix (fun x => { x with made := x.made + 1, stall := .none, stalled := 0 })

/-- A pop that finds an entry that it accepts goes on with the next one. -/
theorem mldwqPops_succ {rd : Nat → Nat} (hc : s.ctx.vec.qcount q ≠ 0)
    (hr : entryElems s.ctx.tagmode (s.ctx.vec.front q) f s.ctx.mat.mode = some rd) :
    mldwqPops f q (n + 1) s = mldwqPops f q n (s.popWeights f q rd) := by
  simp only [mldwqPops, hc, if_false, readOp_of_tagCheck 0 hr]
  rfl

/-- Row k lies in entry e: the rows of an entry follow those of the one before (R193). -/
theorem row_in_entry (f : Fmt) (e k : Nat) :
    e * rowsPerEntry f ≤ k ∧ k < (e + 1) * rowsPerEntry f ↔ k / rowsPerEntry f = e := by
  have hp := rowsPerEntry_pos f
  rw [Nat.div_eq_iff hp, Nat.succ_mul]
  omega

theorem popsEntries_popWeights (rd : Nat → Nat → Nat) (s : State) (hq : q < 32) :
    PopsEntries f q rd 1 s (s.popWeights f q (rd (s.eng .matrix).made)) := by
  have heng : (s.popWeights f q (rd (s.eng .matrix).made)).eng .matrix =
      { s.eng .matrix with made := (s.eng .matrix).made + 1, stall := .none, stalled := 0 } := by
    rw [State.popWeights, State.eng_onEng, State.eng_onVec, State.eng_onMat]
  refine ⟨((OnlyMatrix.onMat ..).trans (.onVec ..)).trans (.onEng ..), by rw [heng], by rw [heng]; exact Eng.leave_of_pushed .., ?_, ?_,
    fun e => ?_, fun k j hk hj => ?_⟩
  · rw [State.popWeights, State.mat_onEng, State.mat_onVec, State.mat_onMat]
    exact .took ..
  all_goals rw [State.popWeights, State.vec_onEng, State.vec_onVec, State.vec_onMat]
  · rw [Vec.qcount_pop, qcount_setTile]
  · rw [Vec.entry_pop, entry_setWeightTile _ _ _ hq]
  · have hrow := row_in_entry f (s.eng .matrix).made k
    rw [weight_pop, weight_setTile _ hk hj]
    split
    next h =>
      obtain ⟨hlo, hhi, ht⟩ := h
      have he := hrow.1 ⟨hlo, hhi⟩
      rw [if_pos ⟨he.ge, by omega, ht⟩, entryWeight, he]
    next h =>
      rw [weight_mod, if_neg]
      rintro ⟨hlo, hhi, ht⟩
      obtain ⟨h0, h1⟩ := hrow.2 (by omega)
      exact h ⟨h0, h1, ht⟩

/-- MLDWQ pops entries that are present and accepted one after the other (R193). -/
theorem mldwqPops_of_entries (hq : q < 32) (hn : n ≤ s.ctx.vec.qcount q)
    (hr : ∀ e, e < n → entryElems s.ctx.tagmode (s.ctx.vec.entry q e) f s.ctx.mat.mode = some (rd ((s.eng .matrix).made + e))) :
    ∃ t, mldwqPops f q n s = .ok t ∧ PopsEntries f q rd n s t := by
  induction n generalizing s with
  | zero => exact ⟨s, rfl, .refl s⟩
  | succ n ih =>
    have h := popsEntries_popWeights (f := f) rd s hq
    have htag : (s.popWeights f q (rd (s.eng .matrix).made)).ctx.tagmode = s.ctx.tagmode := by rw [h.only.2.1]
    have hmode : (s.popWeights f q (rd (s.eng .matrix).made)).ctx.mat.mode = s.ctx.mat.mode := by rw [h.mat]
    obtain ⟨t, ht, hp⟩ := ih (s := s.popWeights f q (rd (s.eng .matrix).made)) (by rw [h.count]; omega) (fun e he => by
      rw [htag, hmode, h.entry, h.made, Nat.add_assoc, Nat.add_comm 1 e]
      exact hr (e + 1) (by omega))
    have hfront : entryElems s.ctx.tagmode (s.ctx.vec.front q) f s.ctx.mat.mode = some (rd (s.eng .matrix).made) := by
      rw [Vec.front_eq_entry]
      exact hr 0 (by omega)
    rw [Nat.add_comm n 1]
    exact ⟨t, by rw [Nat.add_comm, mldwqPops_succ (by omega) hfront, ht], h.trans hp⟩

end

/-- Row k of a tile lies in one of the entries that hold its rows. -/
theorem div_rowsPerEntry_lt {f : Fmt} {k tk : Nat} (h : k < tk) : k / rowsPerEntry f < (tk + rowsPerEntry f - 1) / rowsPerEntry f := by
  have hp := rowsPerEntry_pos f
  have hk := Nat.div_mul_le_self k (rowsPerEntry f)
  rw [← Nat.succ_le_iff, Nat.le_div_iff_mul_le hp, Nat.succ_mul]
  omega

/-- The state that MLDWQ leaves its engine with, from the state after its pops. -/
def Machine.State.mldwqEnd (f : Fmt) (t : State) : State :=
  (t.setWeights (fun k j => decodeF .fp32 (t.ctx.vec.weight k j)) f 0).onMat (fun m => { m with before := [], popped := [] })

/-- MLDWQ from its first entry on, all of whose entries are present and accepted (R193). -/
theorem execMldwq_of_entries {s : State} {f : Fmt} {q : BitVec 5} {dp : BitVec 3} {rd : Nat → Nat → Nat}
    (hs : Issues s .matrix (.mldwq f q dp)) (hm : (s.eng .matrix).made = 0)
    (hn : (s.ctx.mat.tk + rowsPerEntry f - 1) / rowsPerEntry f ≤ s.ctx.vec.qcount q.toNat)
    (hr : ∀ e, e < (s.ctx.mat.tk + rowsPerEntry f - 1) / rowsPerEntry f →
      entryElems s.ctx.tagmode (s.ctx.vec.entry q.toNat e) f s.ctx.mat.mode = some (rd e)) :
    ∃ t, PopsEntries f q.toNat rd ((s.ctx.mat.tk + rowsPerEntry f - 1) / rowsPerEntry f) s t ∧
      execMldwq f q dp s = .next ((t.mldwqEnd f).onEng .matrix Eng.leave) := by
  obtain ⟨t, ht, hp⟩ := mldwqPops_of_entries (f := f) (rd := rd) q.isLt hn (fun e he => by rw [hm, Nat.zero_add]; exact hr e he)
  refine ⟨t, hp, ?_⟩
  rw [execMldwq]
  refine matOp_of_issues hs ?_
  rw [afterRead_of_no_reads rfl]
  simp only [hm, Nat.sub_zero, ceilDiv, ht, State.mldwqEnd]

theorem mldwqEnd_left (f : Fmt) (t : State) :
    OnlyMatrix t ((t.mldwqEnd f).onEng .matrix Eng.leave) ∧ Leaves t ((t.mldwqEnd f).onEng .matrix Eng.leave) .matrix := by
  rw [State.mldwqEnd, State.setWeights]
  refine ⟨(((OnlyMatrix.onVec ..).trans (.onMat ..)).trans (.onMat ..)).trans (.onEng ..), ?_⟩
  rw [Leaves, State.eng_onEng, State.eng_onMat, State.eng_onMat, State.eng_onVec]

theorem vec_mldwqEnd (f : Fmt) (t : State) :
    (t.mldwqEnd f).ctx.vec = t.ctx.vec.setTile 320 (fun k j =>
      if k < t.ctx.mat.tk ∧ j < t.ctx.mat.tn then roundF .fp32 t.ctx.mat.mode false (decodeF .fp32 (t.ctx.vec.weight k j)) else 0) := by
  rw [State.mldwqEnd, State.vec_onMat, State.setWeights, State.vec_onMat, State.vec_onVec]

theorem mat_mldwqEnd (f : Fmt) (t : State) :
    (t.mldwqEnd f).ctx.mat = { t.ctx.mat with wfmt := f, wpc := 0, before := [], popped := [] } := by
  rw [State.mldwqEnd, State.mat_onMat, State.setWeights, State.mat_onMat, State.mat_onVec]

/-- After its pops from the first entry on, MLDWQ leaves the weights of the tile as its entries give them, and +0 elsewhere (R193). -/
theorem weight_mldwqEnd {f : Fmt} {q k j : Nat} {rd : Nat → Nat → Nat} {s t : State} (hm : (s.eng .matrix).made = 0)
    (hp : PopsEntries f q rd ((s.ctx.mat.tk + rowsPerEntry f - 1) / rowsPerEntry f) s t) (hk : k < 128) (hj : j < 128) :
    (t.mldwqEnd f).ctx.vec.weight k j = (if k < s.ctx.mat.tk ∧ j < s.ctx.mat.tn then
      roundF .fp32 s.ctx.mat.mode false (decodeF .fp32 (entryWeight f s.ctx.mat.mode rd k j % 2 ^ 32)) else 0) % 2 ^ 32 := by
  rw [vec_mldwqEnd, weight_setTile _ hk hj, hp.weight k j hk hj, hp.mat, hm]
  dsimp only
  by_cases h : k < s.ctx.mat.tk ∧ j < s.ctx.mat.tn
  · have hlt := div_rowsPerEntry_lt (f := f) h.1
    rw [if_pos h, if_pos ⟨Nat.zero_le _, by omega, h⟩, if_pos h]
  · rw [if_neg h, if_neg h]

/-- Settles O18: a weight load sets the weights and leaves (`setWeights_left`), and one from a queue register does so after its pops
(`mldwqPops_of_entries`), each of which sets the rows of its entry. -/
theorem weightsAreLoaded : Obligations.WeightsAreLoaded := by
  unfold Obligations.WeightsAreLoaded
  refine ⟨⟨?mldw, ?mldg⟩, ?mldwq⟩
  case mldw => exact fun s u f o x hs hx => ⟨_, execMldw_of_read hs hx, setWeights_left ..⟩
  case mldg => exact fun s u o x hs hx => ⟨_, execMldg_of_read hs hx, setWeights_left ..⟩
  case mldwq =>
    intro s f q dp rd m rpe n ahead entry hs hm hn hr
    obtain ⟨t, hp, he⟩ := execMldwq_of_entries hs hm hn hr
    obtain ⟨ho, hl⟩ := mldwqEnd_left f t
    refine ⟨_, he, hp.only.trans ho, ?_, fun k j hk hj => ?_, ?_, ?_⟩
    · rw [Leaves, hl, hp.leave]
    · rw [State.vec_onEng, weight_mldwqEnd hm hp hk hj]
      rfl
    · rw [State.vec_onEng, vec_mldwqEnd, qcount_setTile, hp.count]
    · rw [State.mat_onEng, mat_mldwqEnd, hp.mat]

/-! ## Pushes onto one queue register (R132, R135, R200) -/

theorem Machine.SMap.erase_insert {α : Type} (m : SMap α) (k : Nat) (v : α) : SMap.erase (SMap.insert m k v) k = SMap.erase m k := by
  induction m with
  | nil => simp [SMap.insert, SMap.erase]
  | cons x m ih =>
    obtain ⟨a, b⟩ := x
    simp only [SMap.erase] at ih ⊢
    rw [SMap.insert]
    split
    · simp
    · rw [List.filter_cons, List.filter_cons, ih]

theorem Machine.SMap.erase_erase {α : Type} (m : SMap α) (k : Nat) : SMap.erase (SMap.erase m k) k = SMap.erase m k := by
  simp [SMap.erase]

/-- Of two values set at a key the last one stays, and nothing else tells of the first. -/
theorem Machine.SMap.set_set {α : Type} [DecidableEq α] (d : α) (m : SMap α) (k : Nat) (v w : α) :
    SMap.set d (SMap.set d m k v) k w = SMap.set d m k w := by
  have h : SMap.erase (SMap.set d m k v) k = SMap.erase m k := by
    unfold SMap.set
    split
    · exact SMap.erase_erase ..
    · rw [SMap.erase_insert, SMap.erase_erase]
  rw [SMap.set, h]; rfl

theorem Machine.Vec.qcount_push (v : Vec) (q : Nat) (x : VReg) (f : Fmt) : (v.push q x f).qcount q = v.qcount q + 1 := by
  have hc : SMap.get 0 (v.push q x f).count q = SMap.get 0 v.count q + 1 :=
    SMap.get_set_self 0 v.count q (SMap.get 0 v.count q + 1)
  have ha : (v.push q x f).ahead q = v.ahead q := rfl
  rw [Vec.qcount, Vec.qcount, hc, ha, Nat.add_right_comm]

/-- The vector registers after a push. -/
def Machine.Vec.pushed (v : Vec) (p : Push) : Vec := v.push p.q p.v p.f

/-- The row positions after a push (R200). -/
def Machine.Mat.pushed (m : Mat) (p : Push) : Mat :=
  match p.acc with
  | some (a, o) => { m with out := SMap.set 0 m.out a o }
  | none => m

/-- The state after a push that is not the last: its engine has counted it. -/
def Machine.State.pushCounted (s : State) (e : Engine) (p : Push) : State :=
  (s.pushOne p).onEng e (fun x => { x with made := x.made + 1, stall := .none, stalled := 0 })

theorem vec_pushCounted (s : State) (e : Engine) (p : Push) : (s.pushCounted e p).ctx.vec = s.ctx.vec.pushed p := by
  rw [State.pushCounted, State.vec_onEng, (s.pushOne_spec e p).2.1, Vec.pushed]

theorem mat_pushCounted (s : State) (e : Engine) (p : Push) : (s.pushCounted e p).ctx.mat = s.ctx.mat.pushed p := by
  rw [State.pushCounted, State.mat_onEng, State.pushOne, Mat.pushed]
  cases p.acc with
  | none => exact State.mat_onVec ..
  | some x => rw [State.mat_onMat, State.mat_onVec]

theorem leave_pushCounted (s : State) (e : Engine) (p : Push) : ((s.pushCounted e p).eng e).leave = (s.eng e).leave := by
  rw [State.pushCounted, State.eng_onEng, Eng.leave_of_pushed, State.eng, Ctx.engAt, (s.pushOne_spec e p).2.2]
  rfl

/-- Pushes onto one queue register are made in their order while it has room, and the instruction leaves or waits with the rest. -/
theorem pushAll_queue (e : Engine) (q : Nat) (l : List Push) (s : State) (hq : ∀ p ∈ l, p.q = q) :
    (State.pushAll e l s).ctx.vec = (l.take (4 - s.ctx.vec.qcount q)).foldl Vec.pushed s.ctx.vec ∧
    (State.pushAll e l s).ctx.mat = (l.take (4 - s.ctx.vec.qcount q)).foldl Mat.pushed s.ctx.mat ∧
    (l.length ≤ 4 - s.ctx.vec.qcount q → (State.pushAll e l s).eng e = (s.eng e).leave) ∧
    (4 - s.ctx.vec.qcount q < l.length → ((State.pushAll e l s).eng e).stall = .push q ∧
      ((State.pushAll e l s).eng e).pushes.length = l.length - (4 - s.ctx.vec.qcount q)) := by
  induction l generalizing s with
  | nil =>
    rw [State.pushAll_nil, List.take_nil]
    exact ⟨State.vec_onEng .., State.mat_onEng .., fun _ => State.eng_onEng .., nofun⟩
  | cons p l ih =>
    obtain ⟨rfl, hl⟩ := List.forall_mem_cons.1 hq
    by_cases hc : s.ctx.vec.qcount p.q < 4
    · -- a push with room is made, and one less finds room
      have hroom : 4 - s.ctx.vec.qcount p.q = 4 - (s.pushCounted e p).ctx.vec.qcount p.q + 1 := by
        rw [vec_pushCounted, Vec.pushed, Vec.qcount_push]; omega
      obtain ⟨hv, hm, hfit, hwait⟩ := ih (s.pushCounted e p) hl
      rw [State.pushAll_room e p l s hc, hroom, List.take_succ_cons, List.foldl_cons, List.foldl_cons, List.length_cons,
        ← vec_pushCounted s e, ← mat_pushCounted s e, ← leave_pushCounted s e p]
      refine ⟨hv, hm, fun h => hfit (Nat.le_of_succ_le_succ h), fun h => ?_⟩
      obtain ⟨hstall, hlen⟩ := hwait (Nat.lt_of_succ_lt_succ h)
      exact ⟨hstall, by rw [Nat.add_sub_add_right]; exact hlen⟩
    · -- without room all wait
      have hroom : 4 - s.ctx.vec.qcount p.q = 0 := by omega
      obtain ⟨-, hv, he⟩ := (s.onEng e (fun x => { x with pushes := p :: l })).stall_spec e (.push p.q)
      rw [State.pushAll_full e p l s hc, hroom, List.take_zero]
      refine ⟨by rw [hv, State.vec_onEng]; rfl, ?_, nofun, fun _ => ?_⟩
      · rw [State.stall, State.mat_onEng, State.mat_onEng]; rfl
      · rw [State.eng, he, State.onEng_engAt]
        exact ⟨rfl, rfl⟩

/-- Of pushes that all set OUT of one accumulator the last one stays (R200). -/
theorem foldl_pushed_out {a : Nat} {p : Push} {o : Nat} (hp : p.acc = some (a, o)) (l : List Push) (m : Mat)
    (hl : ∀ x ∈ l, ∃ o, x.acc = some (a, o)) : (l.foldl Mat.pushed m).pushed p = { m with out := SMap.set 0 m.out a o } := by
  induction l generalizing m with
  | nil => rw [List.foldl_nil, Mat.pushed, hp]
  | cons x l ih =>
    obtain ⟨⟨c, hx⟩, hl⟩ := List.forall_mem_cons.1 hl
    rw [List.foldl_cons, ih _ hl, Mat.pushed, hx]
    simp only [SMap.set_set]

/-! ## Drains (R199 to R202) -/

theorem drainRows_eq_rowsOf (r : BitVec 8) : drainRows r = rowsOf r := rfl

theorem rowsOf_pos (r : BitVec 8) : 0 < rowsOf r := by
  unfold rowsOf
  split
  · decide
  next h => exact Nat.pos_of_ne_zero (fun h0 => h (BitVec.eq_of_toNat_eq h0))

/-- The push of entry e of a drain of n rows (R200). -/
def drainPush (s : State) (f : Fmt) (a : BitVec 4) (q : BitVec 5) (n e : Nat) : Push where
  q := q.toNat
  v := vreg (fbytes f) (8192 / fbytes f) (fun j =>
    if e * rowsPerEntry f + j / 128 < n then drainElem s a f s.ctx.mat.mode false (e * rowsPerEntry f + j / 128) (j % 128) else 0)
  f := f
  acc := some (a.toNat, (SMap.get 0 s.ctx.mat.out a.toNat + Nat.min n ((e + 1) * rowsPerEntry f)) % 128)

/-- A drain into a queue register pushes its entries in their order (R200). -/
theorem execMdrain_pushes {s : State} {f : Fmt} {a : BitVec 4} {q : BitVec 5} {rows : BitVec 8} {dp : BitVec 3}
    (hs : Issues s .matrix (.mdrain f a q rows dp)) :
    execMdrain f a q rows dp s = .next (State.pushAll .matrix
      ((List.range ((rowsOf rows + rowsPerEntry f - 1) / rowsPerEntry f)).map (drainPush s f a q (rowsOf rows))) s) := by
  rw [execMdrain]
  refine engineOp_of_issues hs ?_
  rw [afterRead_of_no_reads rfl]
  rfl

/-- The entries of n rows hold all of them. -/
theorem le_entries_mul (f : Fmt) (n : Nat) : n ≤ (n + rowsPerEntry f - 1) / rowsPerEntry f * rowsPerEntry f := by
  have hp := rowsPerEntry_pos f
  have hlt := Nat.lt_div_mul_add (a := n + rowsPerEntry f - 1) hp
  omega

/-- All entries of a drain pushed: OUT goes on by the rows drained (R199, R200). -/
theorem foldl_drainPush (s : State) (f : Fmt) (a : BitVec 4) (q : BitVec 5) {n : Nat} (hn : 0 < n) :
    ((List.range ((n + rowsPerEntry f - 1) / rowsPerEntry f)).map (drainPush s f a q n)).foldl Mat.pushed s.ctx.mat =
      { s.ctx.mat with out := SMap.set 0 s.ctx.mat.out a.toNat ((SMap.get 0 s.ctx.mat.out a.toNat + n) % 128) } := by
  have hall := le_entries_mul f n
  generalize (n + rowsPerEntry f - 1) / rowsPerEntry f = cnt at hall ⊢
  cases cnt with
  | zero => omega
  | succ c =>
    rw [List.range_succ, List.map_append, List.foldl_append, List.map_singleton, List.foldl_cons, List.foldl_nil,
      foldl_pushed_out (p := drainPush s f a q n c) rfl _ _ (List.forall_mem_map.2 (fun e _ => ⟨_, rfl⟩))]
    rw [show Nat.min n ((c + 1) * rowsPerEntry f) = n from Nat.min_eq_left hall]

/-- A drain to memory that has posted its pieces leaves, and OUT goes on by its rows (R199). -/
theorem drained_left (u : State) (a : BitVec 4) (n : Nat) :
    OnlyMatrix u ((u.onMat (fun m => m.drainedPast a.toNat n)).onEng .matrix Eng.leave) ∧
      Leaves u ((u.onMat (fun m => m.drainedPast a.toNat n)).onEng .matrix Eng.leave) .matrix ∧
      DrainedBy u ((u.onMat (fun m => m.drainedPast a.toNat n)).onEng .matrix Eng.leave) a n ∧
      ((u.onMat (fun m => m.drainedPast a.toNat n)).onEng .matrix Eng.leave).ctx.vec = u.ctx.vec := by
  obtain ⟨ho, hl, hv, hm⟩ := onMat_left u (fun m => m.drainedPast a.toNat n)
  exact ⟨ho, hl, hm, hv⟩

/-- Pieces that resolve are in flight, whichever instruction posts them (R137). -/
theorem post_of_posts {s u : State} {e : Engine} {h : Handle} {pieces : List Seg} {keep : Nat} {ti : Word} (hne : pieces ≠ [])
    (hp : Posts s u e h pieces keep ti) :
    s.post (Config.engIdx e) s.iss.age h (s.ranges s.iss) pieces ti keep s.dcc.toNat = .ok u := by
  rw [← postPieces_of_posts hne hp, State.postPieces, if_neg (by simpa using hne)]

/-- The rows of a drain as they are posted: converted to the instruction's format and then to the handle's, at its pitch (R201). -/
def drainedRows (s : State) (f : Fmt) (a : BitVec 4) (o : MDOp) (h : Handle) (c : Option Fmt) : List Seg :=
  (List.range (rowsOf o.rows)).map (fun q =>
    ⟨(s.mdOff o).toNat + q * h.pitch (s.ctx.mat.tn * fbytes f), s.ctx.mat.tn * fbytes f, packElems (fbytes f) s.ctx.mat.tn (fun j =>
      let x := drainElem s a f (o.rm.getD s.ctx.mat.mode) o.sat q j
      match c with
      | some d => convert f d (o.rm.getD s.ctx.mat.mode) false x
      | none => x)⟩)

theorem drainedRows_ne_nil (s : State) (f : Fmt) (a : BitVec 4) (o : MDOp) (h : Handle) (c : Option Fmt) :
    drainedRows s f a o h c ≠ [] := by
  rw [drainedRows, Ne, List.map_eq_nil_iff, List.range_eq_nil]
  exact (rowsOf_pos _).ne'

/-- A drain to memory that posts its rows (R201). -/
theorem execMdrainc_of_posts {s u : State} {f : Fmt} {a : BitVec 4} {o : MDOp} {h : Handle} {c : Option Fmt}
    (hs : Issues s .matrix (.mdrainc f a o)) (hh : matHandle s (s.hrec o.h) rWR 2 false (s.mdOff o) = .ok h)
    (hc : matSpan s h (s.mdOff o)
      (⟨rowsOf o.rows, s.ctx.mat.tn * fbytes f, h.pitch (s.ctx.mat.tn * fbytes f)⟩ : Geo).span f = .ok c)
    (hp : Posts s u .matrix h (drainedRows s f a o h c) 0 (offW (s.mdOff o))) :
    execMdrainc f a o s = .next ((u.onMat (fun m => m.drainedPast a.toNat (rowsOf o.rows))).onEng .matrix Eng.leave) := by
  have hpost := post_of_posts (drainedRows_ne_nil s f a o h c) hp
  refine matOp_of_issues hs ?_
  rw [afterRead_of_no_reads rfl]
  simp only [hh, drainRows_eq_rowsOf, hc]
  change (match s.post (Config.engIdx .matrix) s.iss.age h (s.ranges s.iss) (drainedRows s f a o h c) (offW (s.mdOff o)) 0 s.dcc.toNat with
    | .error e => Except.error e
    | .ok t => Except.ok (t.onMat (fun m => m.drainedPast a.toNat (rowsOf o.rows)))) = _
  rw [hpost]

/-- The rows of a drain as a PL tensor of p planes (R202). -/
def drainedTensor (s : State) (a : BitVec 4) (m : RMode) (n p : Nat) : Nat :=
  let groups := (List.range (2 * n)).map (fun g => plGroup m ((List.range 64).map (fun j =>
    decodeF .fp32 (drainElem s a .fp32 m false (g / 2) (g % 2 * 64 + j)))))
  let qs := packList 1 (groups.flatMap (fun e => e.2.map (plKeep p)))
  plTensor (128 * n) (fun j => qs / 2 ^ (8 * j)) (fun g => (groups.map (·.1)).getD g 0) p

theorem drainedPl_eq_drainedTensor (s : State) (a : BitVec 4) (m : RMode) (n p : Nat) :
    drainedPl s.ctx.vec s.ctx.mat a.toNat m n p = drainedTensor s a m n p := rfl

/-- A drain to memory that posts a PL tensor (R202). -/
theorem execMdrainp_of_posts {s u : State} {a : BitVec 4} {o : MDOp} {h : Handle} {c : Option Fmt}
    (hs : Issues s .matrix (.mdrainp a o)) (hh : matHandle s (s.hrec o.h) rWR 2 false (s.mdOff o) = .ok h)
    (hc : matSpan s h (s.mdOff o) (plArea (128 * rowsOf o.rows) + (h.pc.toNat + 1) * (16 * rowsOf o.rows)) .pl = .ok c)
    (hf : h.fmt = .pl)
    (hp : Posts s u .matrix h [⟨(s.mdOff o).toNat, plArea (128 * rowsOf o.rows) + (h.pc.toNat + 1) * (16 * rowsOf o.rows),
      drainedTensor s a (o.rm.getD s.ctx.mat.mode) (rowsOf o.rows) (h.pc.toNat + 1)⟩] 0 (offW (s.mdOff o))) :
    execMdrainp a o s = .next ((u.onMat (fun m => m.drainedPast a.toNat (rowsOf o.rows))).onEng .matrix Eng.leave) := by
  have hpost : s.post 1 _ _ _ _ _ _ _ = _ := post_of_posts (List.cons_ne_nil _ _) hp
  refine matOp_of_issues hs ?_
  rw [afterRead_of_no_reads rfl]
  simp only [hh, drainRows_eq_rowsOf, hc, hf, drainedPl_eq_drainedTensor, hpost, ne_eq, not_true_eq_false, if_false]

/-- Settles O20: mdrain pushes its entries (`execMdrain_pushes`) as pushes onto one queue register go (`pushAll_queue`), and the drains
to memory leave once their pieces are posted (`drained_left`). -/
theorem drainsConvertTheirRows : Obligations.DrainsConvertTheirRows := by
  unfold Obligations.DrainsConvertTheirRows
  refine ⟨?mdrain, ?mdrainc, ?mdrainp⟩
  case mdrain =>
    intro s f a q rows dp i n rpe cnt entry room hs
    have hq : ∀ p ∈ (List.range cnt).map (drainPush s f a q n), p.q = q.toNat := List.forall_mem_map.2 (fun _ _ => rfl)
    obtain ⟨hv, hm, hfit, hwait⟩ := pushAll_queue .matrix q.toNat _ s hq
    rw [List.length_map, List.length_range] at hfit hwait
    refine ⟨_, execMdrain_pushes hs, .of_onlyEngine (State.pushAll_spec ..), ?_, fun h => ⟨hfit h, ?_⟩, hwait⟩
    · rw [← List.map_take, List.take_range, List.foldl_map, Nat.min_comm] at hv
      exact hv
    · rw [List.take_of_length_le (by rw [List.length_map, List.length_range]; exact h)] at hm
      exact hm.trans (foldl_drainPush s f a q (rowsOf_pos rows))
  case mdrainc =>
    intro s u f a o h c i m w g hs hh hc hp
    exact ⟨_, execMdrainc_of_posts hs hh hc hp, drained_left ..⟩
  case mdrainp =>
    intro s u a o h c i m n p groups qs hs hh hc hf hp
    exact ⟨_, execMdrainp_of_posts hs hh hc hf hp, drained_left ..⟩

end Sys2Proof

/-! PROOFS. Gangs, from submission to start (R213 to R227): O37. -/

namespace Sys2Proof

open Sys2Proof.Machine

/-! ## Dispatch over memory that lists an address twice (O37) -/

/-- One page of world 0: the first 512 KiB of its virtual addresses, at the first of HBM. -/
def codePage : Tlb := { va := 0, size := 2 ^ 19, pa := 0, wb := false, host := false, ac := false, cnt := 0, ent := 0, at_ := [] }

/-- A world with translation on, that page cached and its memory granted. -/
def codeWorld : World :=
  { World.reset with
    x := { Xlat.reset with en := true, cache := [codePage] }
    g := { Guard.reset with er := [(0, ⟨0, 2 ^ 19, 0⟩)] } }

/-- A code record of one byte, at virtual address 0 of world 0. -/
def codeByte : Handle :=
  { level := 1, base := 0, len := 1, gen := 1, sync := none, pc := 0, fmt := .untyped, world := 0, rights := 0b100
    geo0 := 0, geo1 := 0, w5 := 0, w6 := 0, mac := 0 }

/-- The device as it loads that byte into slot 0 of core 0, over memory that is not canonical: address 0 is listed twice, with 0xFF
both times, and a byte read there is the sum of the two. -/
def loadingDoubled : State :=
  { State.reset with
    dcc := 2048, mem := [(0, 0xFF), (0, 0xFF)], worlds := [(0, codeWorld)]
    ctxs := [(0, { Ctx.reset with phase := .loading, ctl := { Ctrl.reset with h := [(0, some codeByte)] } })] }

/-- The code's page translates and its line passes, and the byte of code reads as more than a byte holds. -/
theorem resolveVa_loadingDoubled :
    ∃ u, loadingDoubled.resolveVa 0 0 0 1 false = .ok u [(0, 1)] ∧ u.badRun [(0, 1)] = none ∧
      readRuns u.mem [(0, 1)] = 0xFF + 0xFF := ⟨_, rfl, by decide, by decide⟩

/-- Dispatch writes one byte of it into the instruction memory. -/
theorem dispatchReady_loadingDoubled :
    ∃ t, exec .dispatchReady loadingDoubled = .next t ∧ t.mem.read Config.imemBase (2 ^ 18) = 0xFE := ⟨_, rfl, by decide⟩

/-- Refutes O37: its clause on DISPATCH_READY says of every state that the instruction memory then reads as the code did, and asks
nothing of memory. Where memory lists an address twice, a byte of code reads as the sum of the two cells, which no byte of the
instruction memory can hold. The clause lacks the premise that memory is canonical (log 3), which O56 says of every step that it keeps. -/
theorem not_gangsAreSubmittedBoundAndStarted : ¬ Obligations.GangsAreSubmittedBoundAndStarted := by
  unfold Obligations.GangsAreSubmittedBoundAndStarted
  rintro ⟨-, -, -, -, -, hdispatch, -⟩
  obtain ⟨u, hresolve, hlines, hcode⟩ := resolveVa_loadingDoubled
  obtain ⟨t, ht, -, hloaded, -⟩ := hdispatch loadingDoubled u codeByte [(0, 1)] rfl (by decide) (by decide) rfl hresolve hlines
    (by decide) rfl (by decide) rfl (by decide)
  obtain ⟨v, hv, hbyte⟩ := dispatchReady_loadingDoubled
  rw [ht] at hv
  cases hv
  have himem : t.mem.read Config.imemBase (2 ^ 18) = readRuns u.mem [(0, 1)] := hloaded
  rw [hbyte, hcode] at himem
  exact absurd himem (by decide)

end Sys2Proof

/-! PROOFS. Ordering: counter increments and waits (O10), fences and the opening of loop delivery (O11), and atomics (O6). -/

namespace Sys2Proof

open Sys2Proof.Machine Sys2Proof.Claim

/-! ## Increments and waits (O10) -/

/-- The delay by the class of a path is the one that the distance of two cores gives (R271). -/
theorem incrDelay_pathClass (own other : Nat) : incrDelay (pathClass own other) = incrCycles own other := by
  unfold pathClass incrCycles
  split
  · rfl
  · split
    · rfl
    · split <;> rfl

/-- The cycles that an increment of the moving strand takes to a strand: those to its core, or the longest where it has none (R271). -/
def cyclesTo (s : State) (g j : Nat) : Nat :=
  match coreOfStrand s g j with
  | some c => incrCycles (coreId (coreOf s.cur)) c
  | none => 64

/-- An increment of the moving strand is put in flight for its cycles, and nothing else changes (R271). -/
theorem Machine.State.sendIncr_cur (s : State) (g j : Nat) (e : BitVec 6) (amt : BitVec 32) :
    s.sendIncr s.cur g j e amt = { s with incrs := s.incrs ++ [⟨g, j, e, amt, s.dcc.toNat + cyclesTo s g j⟩] } := by
  unfold State.sendIncr cyclesTo coreOfStrand
  cases s.keyOf g j with
  | none => rfl
  | some k => simp only [incrDelay_pathClass, Option.map_some]

/-- An increment is that of its counter, target and amount. -/
theorem exec_of_evincOf {i : Instr} {s : State} {e : BitVec 6} {a : Word} {rel : Bool} {amt : BitVec 32}
    (h : evincOf s i = some (e, a, rel, amt)) : exec i s = controlOp (evInc e a rel amt s) := by
  unfold evincOf at h
  split at h
  case h_1 => cases h; rfl
  case h_2 => cases h; rfl
  case h_3 => cases h

/-- An increment whose target is a strand, and that no release holds, is sent (R271). -/
theorem evInc_sent {s : State} {e : BitVec 6} {a : Word} {rel : Bool} {amt : BitVec 32} {g j : Nat}
    (ht : s.target a = some (g, j)) (hr : rel = true → s.releaseReady s.ageNow (some e) = true) :
    evInc e a rel amt s = .ok (s.sendIncr s.cur g j e amt) := by
  have hrel : ¬ (rel = true ∧ (!s.releaseReady s.ageNow (some e)) = true) := fun ⟨h, hn⟩ => by simp [hr h] at hn
  simp only [evInc, ht, if_neg hrel]

/-- A wait is that of its counter and threshold. -/
theorem exec_of_evwaitOf {i : Instr} {s : State} {e : BitVec 6} {acq : Bool} {th : BitVec 32}
    (h : evwaitOf s i = some (e, acq, th)) : exec i s = controlOp (evWait e acq th s) := by
  unfold evwaitOf at h
  split at h
  case h_1 => cases h; rfl
  case h_2 => cases h; rfl
  case h_3 => cases h

theorem SameRegs.acquired {u t : State} (h : SameRegs u t) : t.ctx.ctl.acquired = u.ctx.ctl.acquired := by
  obtain ⟨-, -, -, -, -, ha⟩ := h
  exact ha

/-- The state with an acquire recorded where one is asked for (R257, R259). -/
def Machine.State.acquireIf (s : State) (acq : Bool) (n : Nat) : State := if acq then s.acquire n else s

@[simp] theorem Machine.State.dcc_acquireIf (s : State) (acq : Bool) (n : Nat) : (s.acquireIf acq n).dcc = s.dcc := by
  cases acq <;> rfl

theorem OnlyControl.acquireIf (s : State) (acq : Bool) (n : Nat) : OnlyControl s (s.acquireIf acq n) := by
  cases acq with
  | false => exact .refl s
  | true => rw [State.acquireIf, if_pos rfl]; exact .ctl ..

theorem Machine.State.ctx_acquireIf (s : State) (acq : Bool) (n : Nat) : (s.acquireIf acq n).ctx = { s.ctx with
    ctl := { s.ctx.ctl with acquired := if acq then SMap.set 0 s.ctx.ctl.acquired n s.dcc.toNat else s.ctx.ctl.acquired } } := by
  cases acq with
  | false => rfl
  | true => rw [State.acquireIf, if_pos rfl, State.acquire, State.ctx_ctl]; rfl

/-- A met wait goes on, with its acquire recorded (R257, R272). -/
theorem controlOp_acquireIf (s : State) (acq : Bool) (n : Nat) :
    ∃ t, controlOp (.ok (s.acquireIf acq n)) = .next t ∧ MovesOn s t ∧ t.ctx.ctl.s = s.ctx.ctl.s ∧ OthersKept s t := by
  have hc := s.ctx_acquireIf acq n
  obtain ⟨t, ht, hm, hr⟩ := controlOp_ok_spec s _ (.acquireIf s acq n) (by rw [hc]) (by rw [hc]) (by rw [hc]) (by rw [hc]) (by rw [hc])
  obtain ⟨hp, hh, he⟩ := hr.others
  rw [hc] at hp hh he
  exact ⟨t, ht, hm, by rw [hr.1, hc], hp, hh, he⟩

/-- Settles O10: an increment goes on from the state with it in flight, and each wait is the branch of its counter or cycle. -/
theorem countersAndWaits : Obligations.CountersAndWaits := by
  unfold Obligations.CountersAndWaits
  refine ⟨?increment, ?counter, ?cycle⟩
  case increment =>
    intro i s e a rel amt g j hi ht hrel
    obtain ⟨t, hx, hm, hr⟩ := controlOp_ok (s.sendIncr s.cur g j e amt)
    exact ⟨t, _, by rw [exec_of_evincOf hi, evInc_sent ht hrel, hx], s.sendIncr_cur g j e amt, hm, hr.1, hr.others⟩
  case counter =>
    intro i s e acq th hi
    rw [exec_of_evwaitOf hi]
    refine ⟨fun hmet => ?_, fun hunmet => ?_⟩
    · rw [evWait, if_pos (meets_iff.2 hmet)]
      exact controlOp_acquireIf ..
    · rw [evWait, if_neg (by rw [meets_iff]; omega)]
      rfl
  case cycle =>
    intro s r
    refine ⟨fun hdue => ?_, fun hlater => ?_⟩
    · obtain ⟨t, ht, hm, hr⟩ := controlOp_ok s
      exact ⟨t, by rw [exec_dccwait, execDccwait, if_pos hdue, ht], hm, hr.1, hr.others⟩
    · rw [exec_dccwait, execDccwait, if_neg (by omega)]
      rfl

/-! ## Masks of engines (O11) -/

theorem Machine.mem_enginesOf {m : BitVec 6} {e : Engine} : e ∈ enginesOf m ↔ m.getLsbD (Config.engIdx e) = true := by
  have he : e ∈ Config.engines := by cases e <;> decide
  simp [enginesOf, he]

theorem Machine.nodup_enginesOf (m : BitVec 6) : (enginesOf m).Nodup :=
  List.Nodup.filter _ (by decide : Config.engines.Nodup)

theorem Machine.length_enginesOf_le (m : BitVec 6) : (enginesOf m).length ≤ 6 := List.length_filter_le ..

theorem Machine.lowestOf_eq_head? (m : BitVec 6) : lowestOf m = (enginesOf m).head? := List.head?_filter.symm

/-- A mask that names no engine has no bits. -/
theorem Machine.eq_zero_of_enginesOf_nil {m : BitVec 6} (h : enginesOf m = []) : m = 0 := by
  revert m; decide

theorem Machine.getLsbD_dropBit (m : BitVec 6) (e x : Engine) :
    (dropBit m e).getLsbD (Config.engIdx x) = (m.getLsbD (Config.engIdx x) && decide (x ≠ e)) := by
  have hx : Config.engIdx x < 6 := by cases x <;> decide
  simp [dropBit, hx, engIdx_inj]

/-- Without its lowest engine a mask names the others. -/
theorem Machine.enginesOf_dropBit {m : BitVec 6} {e : Engine} {l : List Engine} (h : enginesOf m = e :: l) :
    enginesOf (dropBit m e) = l := by
  have he : e ∉ l := (List.nodup_cons.1 (h ▸ nodup_enginesOf m)).1
  calc enginesOf (dropBit m e) = (enginesOf m).filter (· ≠ e) := by
        simp only [enginesOf, List.filter_filter, getLsbD_dropBit, Bool.and_comm]
    _ = l.filter (· ≠ e) := by rw [h, List.filter_cons_of_neg (by simp)]
    _ = l := List.filter_eq_self.2 (fun x hx => by simpa using ne_of_mem_of_not_mem hx he)

/-! ## Items pushed into the queues of several engines -/

/-- A context with one item put at the tail of each engine's queue. -/
def Machine.Ctx.pushEach (c : Ctx) (f : Engine → QItem) (l : List Engine) : Ctx := l.foldl (fun c e => c.push e (f e)) c

theorem Machine.Ctx.pushEach_eq (c : Ctx) (f : Engine → QItem) (l : List Engine) :
    c.pushEach f l = { c with eng := (c.pushEach f l).eng } := by
  induction l generalizing c with
  | nil => rfl
  | cons e l ih => exact ih (c.push e (f e))

/-- Each engine's queue receives its item, once. -/
theorem Machine.Ctx.engAt_pushEach {l : List Engine} (hl : l.Nodup) (c : Ctx) (f : Engine → QItem) (x : Engine) :
    (c.pushEach f l).engAt x = { c.engAt x with q := (c.engAt x).q ++ if x ∈ l then [f x] else [] } := by
  induction l generalizing c with
  | nil => simp [Ctx.pushEach]
  | cons e l ih =>
    obtain ⟨he, hl⟩ := List.nodup_cons.1 hl
    have hpush := Ctx.engAt_of_pushed (d := c.push e (f e)) rfl x
    have hrest := ih hl (c.push e (f e))
    rw [hpush] at hrest
    refine hrest.trans ?_
    by_cases hx : x = e
    · subst hx; simp [he]
    · simp [hx]

theorem Machine.Ctx.pushEach_eng_congr {c d : Ctx} (f : Engine → QItem) (l : List Engine) (h : d.eng = c.eng) :
    (d.pushEach f l).eng = (c.pushEach f l).eng := by
  induction l generalizing c d with
  | nil => exact h
  | cons e l ih => exact ih (Ctx.push_eng_congr e (f e) h)

/-- Of a context that takes an age and pushes items only the age counter and the engines change. -/
theorem Machine.State.pushEach_newAge (s : State) (f : Engine → QItem) (l : List Engine) :
    s.newAge.1.ctx.pushEach f l = { s.ctx with
      ctl := { s.ctx.ctl with nextAge := s.ctx.ctl.nextAge + 1 }, eng := (s.ctx.pushEach f l).eng } := by
  have hage : s.newAge.1.ctx = { s.ctx with ctl := { s.ctx.ctl with nextAge := s.ctx.ctl.nextAge + 1 } } := State.ctx_ctl ..
  rw [Ctx.pushEach_eq, Ctx.pushEach_eng_congr f l (show s.newAge.1.ctx.eng = s.ctx.eng by rw [hage]), hage]

/-- A push takes no room of another engine. -/
theorem Machine.Ctx.room_push {c : Ctx} {e x : Engine} (i : QItem) (h : x ≠ e) : (c.push e i).room x = c.room x := by
  simp [Ctx.room, Ctx.push, h]

/-! ## Fences -/

/-- A fence's markers, one for each engine of the mask, all find room; then none is left to be pushed (R274). -/
theorem Machine.State.pushMarks_room {n : Nat} {todo : BitVec 6} {s : State} (left : BitVec 6) (age : Nat) (f : Bool)
    (hn : (enginesOf todo).length ≤ n) (hr : ∀ e ∈ enginesOf todo, s.ctx.room e = true) :
    ∃ u, State.pushMarks n todo left age f s = u.holdAs (.marks 0 left age f) ∧ OnlyMoving s u ∧
      u.ctx = s.ctx.pushEach (fun _ => .fenceMark age) (enginesOf todo) := by
  induction n generalizing todo s with
  | zero =>
    have hnil := List.eq_nil_of_length_eq_zero (Nat.le_zero.1 hn)
    exact ⟨s, by rw [State.pushMarks, eq_zero_of_enginesOf_nil hnil], .refl s, by rw [hnil]; rfl⟩
  | succ n ih =>
    cases hl : enginesOf todo with
    | nil => exact ⟨s, by rw [State.pushMarks, lowestOf_eq_head?, hl, eq_zero_of_enginesOf_nil hl]; rfl, .refl s, rfl⟩
    | cons e l =>
      have hrest := enginesOf_dropBit hl
      have hroom : s.ctx.room e = true := hr e (by simp [hl])
      have hne : e ∉ l := (List.nodup_cons.1 (hl ▸ nodup_enginesOf todo)).1
      obtain ⟨u, hu, hm, hc⟩ := ih (todo := dropBit todo e) (s := s.setCtx (s.ctx.push e (.fenceMark age)))
        (by rw [hrest]; simpa [hl] using hn)
        (fun x hx => by
          rw [hrest] at hx
          rw [State.ctx_setCtx, Ctx.room_push _ (ne_of_mem_of_not_mem hx hne)]
          exact hr x (by simp [hl, hx]))
      refine ⟨u, ?_, (OnlyMoving.setCtx ..).trans hm, ?_⟩
      · simp only [State.pushMarks, lowestOf_eq_head?, hl, List.head?_cons, hroom, if_true, hu]
      · rw [hc, State.ctx_setCtx, hrest]; rfl

/-- A fence outside any loop, with nothing pushed yet, pushes its markers and holds (R274, R275). -/
theorem exec_of_fenceOf {i : Instr} {s : State} {m : BitVec 6} {f : Bool} (hi : fenceOf i = some (m, f))
    (hl : s.inLoop = false) (hh : s.ctx.ctl.hold = .none) :
    exec i s = .next (State.pushMarks 6 m m s.ageNow f s.newAge.1) := by
  have hstart : ∀ m f, startFence m f s = .error (.hold (State.pushMarks 6 m m s.ageNow f s.newAge.1)) := fun m f => by
    rw [startFence, if_neg (by simp [hl])]
  unfold fenceOf at hi
  split at hi
  case h_1 => cases hi; rw [exec_fencem, execFencem, hstart]; rfl
  case h_2 => cases hi; rw [exec_fence, execFence, if_neg (by simp [hh]), hstart]; rfl
  case h_3 => cases hi

/-- A context that holds keeps all else. -/
theorem Machine.State.ctx_holdAs (s : State) (h : Hold) :
    ∃ n, (s.holdAs h).ctx = { s.ctx with ctl := { s.ctx.ctl with hold := h, held := n } } := by
  obtain ⟨n, hn⟩ := s.ctl_holdAs h
  exact ⟨n, by rw [← hn, State.holdAs, State.ctx_ctl]⟩

theorem Machine.State.room_newAge (s : State) (e : Engine) : s.newAge.1.ctx.room e = s.ctx.room e := by
  rw [State.newAge, State.ctx_ctl]; rfl

theorem Machine.State.not_inLoop {s : State} (ho : s.ctx.lp.open_ = false) (hs : s.ctx.lp.susp = false) : s.inLoop = false := by
  rw [State.inLoop, ho, hs]; rfl

/-! ## Loop delivery -/

/-- With no end marker owed, none is pushed. -/
theorem Machine.State.pushOwedN_of_none (n : Nat) {s : State} (h : lowestOf s.ctx.lp.owed = none) : State.pushOwedN n s = s := by
  have hone : s.pushOwed = s := by simp only [State.pushOwed, h]
  induction n with
  | zero => rfl
  | succ n ih => rw [State.pushOwedN, hone, ih]

/-- A loop waits for no queue where no end marker is owed and every masked engine has room (R25, R86). -/
theorem Machine.State.loopbWaits_none {s : State} {m : BitVec 6} (h : lowestOf s.ctx.lp.owed = none)
    (hr : ∀ e ∈ enginesOf m, s.ctx.room e = true) : s.loopbWaits m = none := by
  rw [State.loopbWaits, h, Option.none_or, List.find?_eq_none]
  exact fun e he => by simp [hr e he]

/-- Delivery open over the lines after a loop's own (R86). -/
def Machine.State.loopDelivery (s : State) (m : BitVec 6) (lm1 : BitVec 5) (nm1 : BitVec 16) (k : Skews) : LoopDel :=
  { open_ := true, susp := false, first := s.ctx.ctl.line + 32, last := s.ctx.ctl.line + 32 + 32 * lm1.toNat, mask := m
    owed := s.ctx.lp.owed, n := nm1.toNat + 1, endAge := s.ctx.lp.endAge
    skews := Config.engines.foldl (fun m e => SMap.set 0 m (Config.engIdx e) (Skews.of k e)) [], counts := [] }

/-- The context with a loop's markers pushed and its delivery open (R86). -/
def Machine.State.loopOpened (s : State) (m : BitVec 6) (lm1 : BitVec 5) (nm1 : BitVec 16) (k : Skews) : Ctx :=
  { s.ctx with
    ctl := { s.ctx.ctl with nextAge := s.ctx.ctl.nextAge + 1 }, lp := s.loopDelivery m lm1 nm1 k
    eng := (s.ctx.pushEach (fun e => .loopMark s.ageNow (nm1.toNat + 1) (Skews.of k e)) (enginesOf m)).eng }

section
variable {s : State} (m : BitVec 6) (lm1 : BitVec 5) (nm1 : BitVec 16) (k : Skews)
  (ho : s.ctx.lp.open_ = false) (hs : s.ctx.lp.susp = false)
include ho hs

/-- A loop that waits for no queue pushes its markers and opens delivery (R86). -/
theorem loopb_opens (h : lowestOf s.ctx.lp.owed = none) (hr : ∀ e ∈ enginesOf m, s.ctx.room e = true) :
    loopb m lm1 nm1 k s = .ok (s.newAge.1.setCtx (s.loopOpened m lm1 nm1 k)) := by
  have hpush := s.pushEach_newAge (fun e => .loopMark s.ageNow (nm1.toNat + 1) (Skews.of k e)) (enginesOf m)
  rw [Ctx.pushEach] at hpush
  simp only [loopb, State.not_inLoop ho hs, Bool.false_eq_true, if_false, State.pushOwedN_of_none 6 h, State.loopbWaits_none h hr, hpush]
  simp only [State.newAge, State.ctx_ctl]
  rfl

/-- A loop whose predecessor's end marker is still owed to a queue waits for that queue (R86, R89). -/
theorem loopb_waits {e : Engine} (h : lowestOf (State.pushOwedN 6 s).ctx.lp.owed = some e) :
    loopb m lm1 nm1 k s = .error (.hold ((State.pushOwedN 6 s).holdAs (.queue e))) := by
  have hw : (State.pushOwedN 6 s).loopbWaits m = some e := by rw [State.loopbWaits, h, Option.some_or]
  simp only [loopb, State.not_inLoop ho hs, Bool.false_eq_true, if_false, hw]

end

/-- Settles O11: a fence's markers are pushed each into its queue; a loop's too, and going on from it does not leave its lines. -/
theorem fencesAndLoops : Obligations.FencesAndLoops := by
  unfold Obligations.FencesAndLoops
  refine ⟨⟨?fence, ?writes⟩, ?loop, ?owed⟩
  case fence =>
    intro i s m f hi ho hs hh hr
    obtain ⟨u, hu, hm, hc⟩ := State.pushMarks_room (s := s.newAge.1) m s.ageNow f (length_enginesOf_le m)
      (fun e he => (s.room_newAge e).trans (hr e (mem_enginesOf.1 he)))
    obtain ⟨n, hctx⟩ := u.ctx_holdAs (.marks 0 m s.ageNow f)
    rw [hc, State.pushEach_newAge] at hctx
    have hmove : OnlyMoving s (u.holdAs (.marks 0 m s.ageNow f)) := ((OnlyControl.newAge s).1.trans hm).trans (.setCtx ..)
    refine ⟨_, (exec_of_fenceOf hi (State.not_inLoop ho hs) hh).trans (congrArg _ hu), ⟨hmove, by rw [hctx]⟩, by rw [hctx],
      by rw [hctx], by rw [hctx], by rw [hctx], fun e => ?_⟩
    rw [hctx]
    refine (Ctx.engAt_pushEach (nodup_enginesOf m) ..).trans ?_
    simp only [mem_enginesOf]
  case writes =>
    intro s sc hh
    refine ⟨fun hdone => ?_, fun hopen => ?_⟩
    · obtain ⟨t, ht, hm, hr⟩ := controlOp_ok s
      exact ⟨t, by rw [exec_fence, execFence, if_pos hh, if_pos hdone, ht], hm, hr.1, hr.others⟩
    · rw [exec_fence, execFence, if_pos hh, if_neg (by simp [hopen])]
      rfl
  case loop =>
    intro s m lm1 nm1 k ho hs hw hr hn
    have hu := loopb_opens m lm1 nm1 k ho hs hw (fun e he => hr e (mem_enginesOf.1 he))
    generalize hv : s.newAge.1.setCtx (s.loopOpened m lm1 nm1 k) = u at hu
    have hc : u.ctx = s.loopOpened m lm1 nm1 k := by rw [← hv, State.ctx_setCtx]
    have hou : OnlyControl s u := ⟨by rw [← hv]; exact (OnlyControl.newAge s).1.trans (.setCtx ..), by rw [hc]; rfl⟩
    have hlast : (s.loopOpened m lm1 nm1 k).lp.last = s.ctx.ctl.line + 32 * (lm1.toNat + 1) := by
      simp only [State.loopOpened, State.loopDelivery]; omega
    have hstay : leavesLoop u u.ctx.ctl.nline = false := by
      rw [leavesLoop, hc, Bool.and_eq_false_iff, decide_eq_false_iff_not]
      exact .inr (by rw [hlast]; simp only [State.loopOpened]; omega)
    obtain ⟨⟨hmove, hloop, hplace⟩, hregs⟩ := u.advance_self
    obtain ⟨hlp, heng⟩ := hloop.1 hstay
    obtain ⟨hp, hh, he⟩ := hregs.others
    have hsreg := hregs.1
    rw [hc] at hplace hlp heng hp hh he hsreg
    refine ⟨_, (exec_loopb ..).trans (congrArg controlOp hu), hou.trans hmove, by rw [hplace]; rfl, by rw [hplace]; rfl, by rw [hplace],
      hsreg, ⟨hp, hh, he⟩, by rw [hlp]; rfl, by rw [hlp]; rfl, by rw [hlp, hlast], by rw [hlp]; rfl, by rw [hlp]; rfl, fun e => ?_⟩
    rw [Ctx.engAt_congr heng]
    refine (Ctx.engAt_pushEach (nodup_enginesOf m) ..).trans ?_
    simp only [mem_enginesOf]
  case owed =>
    intro s m lm1 nm1 k e ho hs hw
    rw [exec_loopb, execLoopb, loopb_waits m lm1 nm1 k ho hs hw]
    rfl

/-! ## What an atomic writes (O6) -/

theorem signedOf_mod (n x : Nat) : signedOf n (x % 2 ^ n) = signedOf n x := by simp only [signedOf, Nat.mod_mod]

/-- The model writes what the operation makes of the old value (R277). -/
theorem Claim.atomWrites_eq (x : Atom) (old : Nat) : atomWrites x old = x.result old := by
  simp only [atomWrites, Atom.result]
  by_cases hcas : x.cas = true
  · rw [if_pos hcas, if_pos hcas]
  · rw [if_neg hcas, if_neg hcas]
    cases x.op <;> simp only [amoNew, signedOf_mod, Nat.add_mod_mod]

/-- A store leaves the control stream to be changed before or after it. -/
theorem Machine.State.store_ctl (s : State) (f : Ctrl → Ctrl) (a n v : Nat) : (s.ctl f).store a n v = (s.store a n v).ctl f := by
  unfold State.store
  split <;> rfl

theorem Machine.State.storeSegs_ctl (s : State) (f : Ctrl → Ctrl) (l : List Seg) :
    (s.ctl f).storeSegs l = (s.storeSegs l).ctl f := by
  induction l generalizing s with
  | nil => rfl
  | cons g l ih => exact (congrArg (State.storeSegs · l) (s.store_ctl f g.a g.n g.v)).trans (ih _)

/-- The state with an atomic's bytes written, if it writes any (R277). -/
def Machine.State.atomWritten (u : State) (x : Atom) (runs : List (Nat × Nat)) : State :=
  match atomWrites x (readRuns u.mem runs) with
  | some v => u.storeSegs (cutRuns runs v)
  | none => u

theorem OnlyStored.atomWritten (u : State) (x : Atom) (runs : List (Nat × Nat)) : OnlyStored u (u.atomWritten x runs) := by
  unfold State.atomWritten
  split
  · exact .storeSegs ..
  · exact .refl u

/-- The state that an atomic leaves once its bytes are written: an age taken, the old value in its scalar, an acquire recorded, its
cycles taken and its result known (R97, R98, R259, R277). -/
def Machine.State.afterAtom (w s : State) (x : Atom) (v : Word) (n : Nat) : State :=
  (((w.newAge.1.setS x.d v).acquireIf x.acq acqAtomic).occupy n).lateAs s x.d none

/-- An atomic is its write, and then a change of the control stream. -/
theorem Machine.State.doAtom_newAge (u s : State) (x : Atom) (runs : List (Nat × Nat)) (n : Nat) :
    ((u.newAge.1.doAtom x runs).occupy n).lateAs s x.d none =
      (u.atomWritten x runs).afterAtom s x (Machine.extend x.width (!x.dw) (readRuns u.mem runs)) n := by
  have hage : ∀ l, u.newAge.1.storeSegs l = (u.storeSegs l).newAge.1 :=
    fun l => u.storeSegs_ctl (fun c => { c with nextAge := c.nextAge + 1 }) l
  have hmem : u.newAge.1.mem = u.mem := rfl
  simp only [State.afterAtom, State.acquireIf, State.atomWritten, State.doAtom, atomWrites_eq, hmem]
  cases x.result (readRuns u.mem runs) with
  | none => rfl
  | some v => simp only [hage]

theorem OnlyControl.afterAtom (w s : State) (x : Atom) (v : Word) (n : Nat) : OnlyControl w (w.afterAtom s x v n) :=
  ((((OnlyControl.newAge w).trans (.setS ..)).trans (.acquireIf ..)).trans (.occupy ..)).trans (.lateAs ..)

/-- Of the context an atomic changes its scalar, the ages, the acquires and the cycles. -/
theorem Machine.State.ctx_afterAtom (w s : State) (x : Atom) (v : Word) (n : Nat) :
    ∃ y, (w.afterAtom s x v n).ctx = { w.ctx with ctl := { w.ctx.ctl.setS x.d v with
      nextAge := w.ctx.ctl.nextAge + 1, due := w.dcc.toNat + n, late := y
      acquired := if x.acq then SMap.set 0 w.ctx.ctl.acquired acqAtomic w.dcc.toNat else w.ctx.ctl.acquired } } := by
  refine ⟨some ⟨x.d, s.getS x.d, (w.ctx.ctl.setS x.d v).getS x.d, none⟩, ?_⟩
  rw [State.afterAtom, State.lateAs, State.ctx_ctl, State.ctx_occupy, State.ctx_acquireIf, State.ctx_setS, State.newAge, State.ctx_ctl,
    Ctrl.setS_of_nextAge, State.dcc_acquireIf]
  rw [← Ctrl.setS_acquired w.ctx.ctl x.d v]
  rfl

/-! ## The branch of an atomic that completes -/

theorem releases_iff {ord : Ord} : ord.releases = true ↔ ord = .release ∨ ord = .acqrel := by cases ord <;> simp [Ord.releases]

theorem acquires_iff {ord : Ord} : ord.acquires = true ↔ ord = .acquire ∨ ord = .acqrel := by cases ord <;> simp [Ord.acquires]

/-- An atomic that passes R30, that nothing holds and whose bytes resolve does its work (R277). -/
theorem atomic_ok {s u : State} {x : Atom} {h : BitVec 6} {o : Int} {ord : Ord} {r : Handle} {runs : List (Nat × Nat)}
    (ha : Accessible s h rAT o x.width r) (h2 : r.level ≠ 2) (h0 : r.level = 0 → s.inPartition r o.toNat x.width = true)
    (hrel : ord = .release ∨ ord = .acqrel → s.releaseReady s.ageNow r.sync = true)
    (hheld : scalarHeld s r o.toNat x.width true = false)
    (hpark : r.level = 0 ∨ s.ctx.pageParked r.world [⟨r.base.toNat + o.toNat, x.width, 0⟩] = false)
    (hr : s.resolve r o.toNat x.width true = .ok u runs) (hover : u.ctx.storeOver runs = false) (hbad : u.badRun runs = none) :
    atomic x h o ord s = .ok ((u.atomWritten x runs).afterAtom s x (Machine.extend x.width (!x.dw) (readRuns u.mem runs))
      (s.pathCycles r [10, 34, 56, 132] 400)) := by
  have hpart : ¬ (r.level = 0 ∧ (!s.inPartition r o.toNat x.width) = true) := fun ⟨hl, hn⟩ => by simp [h0 hl] at hn
  have hready : ¬ (ord.releases = true ∧ (!s.releaseReady s.ageNow r.sync) = true) := fun ⟨ho, hn⟩ => by
    simp [hrel (releases_iff.1 ho)] at hn
  have hpark := not_parked_behind hpark
  simp only [atomic, checkR30_of_accessible ha, if_neg h2, if_neg hpart, if_neg hready, hheld, if_neg hpark, hr, hover, hbad,
    Bool.false_eq_true, if_false, State.doAtom_newAge]

/-- An ordering that acquires makes its atomic an acquire (R259). -/
theorem acq_of_atomOf {i : Instr} {s : State} {x : Atom} {h : BitVec 6} {o : Int} {ord : Ord} (hi : atomOf s i = some (x, h, o, ord)) :
    x.acq = ord.acquires := by
  unfold atomOf at hi
  split at hi <;> cases hi <;> rfl

/-- Settles O6: an atomic goes on from the state with its bytes written, of which it changes its scalar and its acquire. -/
theorem atomicsReadAndWriteOnce : Obligations.AtomicsReadAndWriteOnce := by
  unfold Obligations.AtomicsReadAndWriteOnce
  intro i s x h o ord r u runs hi ha h2 h0 hrel hheld hpark hr hover hbad
  have hx := (exec_of_atomOf hi).trans (congrArg controlOp (atomic_ok ha h2 h0 hrel hheld hpark hr hover hbad))
  generalize hw : u.atomWritten x runs = w at hx
  have hdcc : w.dcc = s.dcc := by
    rw [← hw, OnlyStored.atomWritten u x runs, (State.resolve_spec hr).1]
  obtain ⟨y, hc⟩ := w.ctx_afterAtom s x (Machine.extend x.width (!x.dw) (readRuns u.mem runs)) (s.pathCycles r [10, 34, 56, 132] 400)
  obtain ⟨t, ht, hm, hregs⟩ :=
    controlOp_ok_spec w _ (.afterAtom ..) (by rw [hc]) (by rw [hc]) (by simp [hc]) (by simp [hc]) (by simp [hc])
  obtain ⟨hp, hh, he⟩ := hregs.others
  have hacq := hregs.acquired
  rw [hc] at hp hh he hacq
  refine ⟨t, w, hx.trans ht, hw.symm, hm, fun q => ?_, ⟨?_, ?_, ?_⟩, hm.mem, fun hord => ?_⟩
  · rw [hregs.getS, ← State.getS_setS]
    simp only [State.getS, hc, State.ctx_setS, Ctrl.getS]
  · rw [hp]; exact Ctrl.setS_p ..
  · rw [hh]; exact Ctrl.setS_h ..
  · rw [he]; exact Ctrl.setS_e ..
  · have htrue : x.acq = true := (acq_of_atomOf hi).trans (acquires_iff.2 hord)
    rw [hacq, htrue, hdcc, if_pos rfl, SMap.get_set_self]

end Sys2Proof

/-! PROOFS. The pump: what changes of it leave alone, tiles, commands as they enter the buffer (O22), tables, cancellations and
flushes (O23), and starts, write windows and ends (O40). -/

namespace Sys2Proof

open Sys2Proof.Machine Sys2Proof.Claim

/-! ## The pump of the moving context -/

@[simp] theorem Machine.State.ctx_onPump (s : State) (f : Pump → Pump) :
    (s.onPump f).ctx = { s.ctx with pump := f s.ctx.pump } := State.ctx_setCtx ..

@[simp] theorem Machine.State.eng_onPump (s : State) (f : Pump → Pump) (e : Engine) : (s.onPump f).eng e = s.eng e := by
  rw [State.eng, State.ctx_onPump]; rfl

@[simp] theorem Machine.State.tile_onPump (s : State) (f : Pump → Pump) (k : Nat) : (s.onPump f).tile k = s.tile k := rfl
@[simp] theorem Machine.State.tile_onEng (s : State) (e : Engine) (f : Eng → Eng) (k : Nat) : (s.onEng e f).tile k = s.tile k := rfl

/-- Of two changes of the pump nothing stays of the state between them. -/
theorem Machine.State.onPump_onPump (s : State) (f g : Pump → Pump) : (s.onPump f).onPump g = s.onPump (fun p => g (f p)) := by
  have h (c d : Ctx) : (s.setCtx c).setCtx d = s.setCtx d := by simp only [State.setCtx, State.setAt, SMap.set_set]
  rw [State.onPump, State.ctx_onPump, State.onPump, h]; rfl

/-- The pump with a command taken out of the buffer before it starts, which counts for the range checker up to a cycle (R412). -/
def Machine.Pump.takeOut (p : Pump) (age last : Nat) : Pump :=
  { p with
    buf := p.buf.filter (fun x => x.cap.age ≠ age)
    ended := p.ended ++ (p.buf.filter (fun x => x.cap.age = age)).map (fun x => (x, last)) }

/-- The pump with a command in flight ended, which counts for the range checker up to a cycle (R412). -/
def Machine.Pump.landed (p : Pump) (age last : Nat) : Pump :=
  { p with
    fly := p.fly.filter (fun x => x.cap.age ≠ age)
    ended := p.ended ++ (p.fly.filter (fun x => x.cap.age = age)).map (fun x => (x, last)) }

theorem Machine.State.removed_eq (s : State) (age : Nat) : s.removed age = s.onPump (fun p => p.takeOut age s.dcc.toNat) := by
  rw [State.removed, State.unbuffer, State.onPump_onPump]; rfl

theorem Machine.State.endFly_eq (s : State) (age last : Nat) : s.endFly age last = s.onPump (fun p => p.landed age last) := by
  rw [State.endFly, State.unfly, State.onPump_onPump]; rfl

/-! ## Tiles -/

/-- The state with the tiles of a list changed, one after the other. -/
def Machine.State.overTiles (f : Tile → Tile) (l : List Nat) (s : State) : State :=
  l.foldl (fun s k => s.setTile k (f (s.tile k))) s

theorem Machine.State.overTiles_eq (f : Tile → Tile) (l : List Nat) (s : State) :
    s.overTiles f l = { s with tiles := (s.overTiles f l).tiles } := by
  induction l generalizing s with
  | nil => rfl
  | cons k l ih => exact ih (s.setTile k (f (s.tile k)))

theorem Machine.State.ctx_overTiles (s : State) (f : Tile → Tile) (l : List Nat) : (s.overTiles f l).ctx = s.ctx := by
  rw [State.overTiles_eq]; rfl
theorem Machine.State.mem_overTiles (s : State) (f : Tile → Tile) (l : List Nat) : (s.overTiles f l).mem = s.mem := by
  rw [State.overTiles_eq]

theorem Machine.State.tile_setTile (s : State) (k j : Nat) (t : Tile) :
    (s.setTile k t).tile j = if j = k then t else s.tile j := SMap.get_set ..

theorem Machine.State.tile_overTiles (f : Tile → Tile) {l : List Nat} (h : l.Nodup) (s : State) (k : Nat) :
    (s.overTiles f l).tile k = if l.contains k then f (s.tile k) else s.tile k := by
  induction l generalizing s with
  | nil => rfl
  | cons j l ih =>
    obtain ⟨hj, hl⟩ := List.nodup_cons.1 h
    have hstep : s.overTiles f (j :: l) = (s.setTile j (f (s.tile j))).overTiles f l := rfl
    rw [hstep, ih hl, State.tile_setTile]
    by_cases hk : k = j
    · subst hk; simp [hj]
    · simp [hk]

theorem Machine.State.setTags_eq (s : State) (l : List Nat) (x : BitVec 16) :
    s.setTags l x = s.overTiles (fun t => { t with tag := x }) l := rfl

theorem Machine.State.estimate_eq (s : State) (c : Cap) (l : List Nat) (e : Word) :
    s.estimate c l e = s.overTiles (fun t => { t with ests := t.ests ++ [(estId s.cur c.age, e)] }) l := by
  induction l generalizing s with
  | nil => rfl
  | cons k l ih => exact ih _

theorem Machine.State.replaceReady_eq (s : State) (c : Cap) (l : List Nat) (e : Word) :
    s.replaceReady c l e = s.overTiles (fun t =>
      { base := if t.base.toNat < e.toNat then e else t.base, tag := t.tag
        ests := t.ests.filter (fun x => x.1 ≠ estId s.cur c.age) }) l := by
  induction l generalizing s with
  | nil => rfl
  | cons k l ih => exact ih _

theorem Machine.State.settle_eq (s : State) (k : Nat) (ages : List Nat) :
    s.settle k ages = { s with tiles := (s.settle k ages).tiles } := by
  unfold State.settle
  split <;> rfl

theorem Machine.State.tiles_settle_congr {s t : State} (h : t.tiles = s.tiles) (k : Nat) (ages : List Nat) :
    (t.settle k ages).tiles = (s.settle k ages).tiles := by
  simp only [State.settle]
  split
  · exact h
  · rw [h]

theorem mem_of_mem_insertNat {x y : Nat} {l : List Nat} (h : y ∈ insertNat x l) : y = x ∨ y ∈ l := by
  induction l with
  | nil => exact .inl (List.mem_singleton.1 h)
  | cons z l ih =>
    rw [insertNat] at h
    split at h
    · exact List.mem_cons.1 h
    · split at h
      · exact .inr h
      · rcases List.mem_cons.1 h with rfl | h
        · exact .inr List.mem_cons_self
        · exact (ih h).imp_right (List.mem_cons_of_mem z)

/-- A rising list stays rising. -/
theorem pairwise_insertNat (x : Nat) {l : List Nat} (h : l.Pairwise (· < ·)) : (insertNat x l).Pairwise (· < ·) := by
  induction l with
  | nil => exact List.pairwise_singleton ..
  | cons z l ih =>
    obtain ⟨hz, hl⟩ := List.pairwise_cons.1 h
    rw [insertNat]
    split
    next hx =>
      refine List.pairwise_cons.2 ⟨fun y hy => ?_, h⟩
      rcases List.mem_cons.1 hy with rfl | hy
      · exact hx
      · exact hx.trans (hz y hy)
    next hx =>
      split
      · exact h
      next hne =>
        refine List.pairwise_cons.2 ⟨fun y hy => ?_, ih hl⟩
        rcases mem_of_mem_insertNat hy with rfl | hy
        · omega
        · exact hz y hy

theorem pairwise_tilesOfRuns (l : List (Nat × Nat)) : (tilesOfRuns l).Pairwise (· < ·) := by
  refine List.foldlRecOn l _ (motive := List.Pairwise (· < ·)) .nil (fun acc hacc r _ => ?_)
  split
  · exact hacc
  · exact List.foldlRecOn _ _ hacc (fun a ha i _ => pairwise_insertNat _ ha)

/-- Each tile of a command counts once. -/
theorem Machine.PGeo.nodup_tiles (g : PGeo) : g.tiles.Nodup := by
  have hh (h : Handle) (l : List (Nat × Nat)) : (h.tiles l).Nodup := by
    unfold Handle.tiles
    split
    · split
      · exact (pairwise_tilesOfRuns _).imp Nat.ne_of_lt
      · exact .nil
    · exact .nil
  unfold PGeo.tiles
  split
  · split
    · exact hh ..
    · exact .nil
  · exact .nil

/-! ## Changes of the pump alone -/

section
variable {s t u : State}

theorem Claim.OnlyPump.cur (h : OnlyPump s t) : t.cur = s.cur := by rw [h.1]
theorem Claim.OnlyPump.mem (h : OnlyPump s t) : t.mem = s.mem := by rw [h.1]

theorem Claim.OnlyPump.trans (h : OnlyPump s t) (g : OnlyPump t u) : OnlyPump s u := by
  have hcur := h.cur
  obtain ⟨hs, hk, hc, he⟩ := h
  obtain ⟨gs, gk, gc, ge⟩ := g
  refine ⟨?_, fun k hn => (gk k (by rw [hcur]; exact hn)).trans (hk k hn), ?_, fun x hx => (ge x hx).trans (he x hx)⟩
  · rw [gs]; conv_lhs => rw [hs]
  · rw [gc]; conv_lhs => rw [hc]

theorem Claim.OnlyPump.onPump (s : State) (f : Pump → Pump) : OnlyPump s (s.onPump f) :=
  ⟨rfl, (OnlyMoving.setCtx s _).2, by rw [State.ctx_onPump], fun x _ => s.eng_onPump f x⟩

theorem Claim.OnlyPump.onEng (s : State) (f : Eng → Eng) : OnlyPump s (s.onEng .pump f) :=
  ⟨rfl, (OnlyMoving.setCtx s _).2, by rw [State.ctx_onEng]; rfl, fun x hx => s.onEng_engAt_ne .pump x f hx⟩

/-- A change of tiles alone. -/
theorem Claim.OnlyPump.of_tiles (h : t = { s with tiles := t.tiles }) : OnlyPump s t := by
  rw [h]; exact ⟨rfl, fun _ _ => rfl, rfl, fun _ _ => rfl⟩

theorem Claim.OnlyPump.settle (s : State) (k : Nat) (ages : List Nat) : OnlyPump s (s.settle k ages) := .of_tiles (s.settle_eq k ages)

theorem Claim.OnlyPump.estimate (s : State) (c : Cap) (l : List Nat) (e : Word) : OnlyPump s (s.estimate c l e) := by
  rw [State.estimate_eq]; exact .of_tiles (s.overTiles_eq _ l)

theorem Claim.OnlyPump.removed (s : State) (age : Nat) : OnlyPump s (s.removed age) := by
  rw [State.removed_eq]; exact .onPump ..

theorem Claim.OnlyPump.endFly (s : State) (age last : Nat) : OnlyPump s (s.endFly age last) := by
  rw [State.endFly_eq]; exact .onPump ..

end

@[simp] theorem Machine.State.ctx_settle (s : State) (k : Nat) (ages : List Nat) : (s.settle k ages).ctx = s.ctx := by
  rw [State.settle_eq]; rfl

/-! ## Issue (R285, R294, R299 to R305, R311) -/

/-- A pump instruction with room in the buffer does what its body says and leaves (R142, R285). -/
theorem pumpOp_ok {s u : State} {i : Instr} {body : State → Res' State} (h : Issues s .pump i) (hq : queueReads i = [])
    (hr : s.ctx.pump.buf.length < 32) (hb : body s = .ok u) : pumpOp body s = .next (u.onEng .pump Eng.leave) := by
  refine engineOp_of_issues h (l := []) ?_
  rw [afterRead_of_no_reads hq, noPush, if_neg (by omega), hb]

theorem leaves_of_eng_eq {s u : State} {e : Engine} (h : u.eng e = s.eng e) : Leaves s (u.onEng e Eng.leave) e := by
  rw [Leaves, State.eng_onEng, h]

@[simp] theorem Machine.State.pump_onEng (s : State) (e : Engine) (f : Eng → Eng) : (s.onEng e f).ctx.pump = s.ctx.pump := by
  rw [State.ctx_onEng]; rfl

theorem exec_of_pop {i : Instr} {o : POp} {rows : Nat} {be : Bool} (s : State) (h : pop? i = some (o, rows, be)) :
    exec i s = pumpOp (pumpIssue o) s := by
  unfold pop? at h
  split at h <;> cases h <;> rfl

theorem queueReads_of_pop {i : Instr} {o : POp} {rows : Nat} {be : Bool} (h : pop? i = some (o, rows, be)) : queueReads i = [] := by
  unfold pop? at h
  split at h <;> cases h <;> rfl

theorem pgeo_be_of_pop {c : Cap} {o : POp} {rows : Nat} {be : Bool} (live : Option Handle → Option Handle)
    (h : pop? c.instr = some (o, rows, be)) : (c.pgeo live).be = be := by
  rw [Cap.pgeo, h]

theorem pgeo_seq_of_pop {c : Cap} {o : POp} {rows : Nat} {be : Bool} (live : Option Handle → Option Handle)
    (h : pop? c.instr = some (o, rows, be)) : (c.pgeo live).seq = o.seq := by
  rw [Cap.pgeo, h]

theorem time_of_pop {c : Cap} {o : POp} {rows : Nat} {be : Bool} (h : pop? c.instr = some (o, rows, be)) : c.time = c.sc o.t := by
  rw [Cap.time, h]

section
variable {s u : State}

theorem Translated.ctx (h : Translated s u) : u.ctx = { s.ctx with en := u.ctx.en } := by
  have hc := h.2.1 s.cur
  rw [State.ctx, h.cur, hc]; rfl

theorem Translated.eng (h : Translated s u) (e : Engine) : u.eng e = s.eng e := by
  rw [State.eng, h.ctx]; rfl

theorem Translated.pump (h : Translated s u) : u.ctx.pump = s.ctx.pump := by rw [h.ctx]
theorem Translated.iss (h : Translated s u) : u.iss = s.iss := by rw [h.1]
theorem Translated.dcc (h : Translated s u) : u.dcc = s.dcc := by rw [h.1]
theorem Translated.chans (h : Translated s u) : u.chans = s.chans := by rw [h.1]
theorem Translated.tile (h : Translated s u) (k : Nat) : u.tile k = s.tile k := by rw [h.1]; rfl

theorem Machine.State.translates_translated {h : Option (Option Handle)} {o n : Nat} (e : s.translates h o n = .ok u) :
    Translated s u := by
  unfold State.translates at e
  split at e
  · split at e
    · split at e
      · cases e
      · cases e
      · cases e
        exact Translated.foldl _ (fun s e => (Translated.setWorld ..).trans (Translated.foldl _ (fun s c => .keepIn ..) _ _)) _ s
    · cases e; exact .refl s
  · cases e; exact .refl s

theorem ok_of_ite_error {c : Prop} [Decidable c] {e : Stop} {x : Res' State} (h : (if c then .error e else x) = .ok u) : x = .ok u := by
  split at h
  · cases h
  · exact h

/-- The checks of a command change nothing but what they translate (R299). -/
theorem pumpChecks_translated {c : Cap} {o : POp} {g : PGeo} (h : pumpChecks s c o g = .ok u) : Translated s u := by
  unfold pumpChecks at h
  split at h
  · cases h
  split at h
  · cases h
  replace h := ok_of_ite_error (ok_of_ite_error (ok_of_ite_error h))
  split at h
  · cases h
  rcases ite_eq_iff.1 h with ⟨-, h⟩ | ⟨-, h⟩
  · cases h; exact .refl s
  split at h
  · cases h
  next ht => exact (State.translates_translated ht).trans (State.translates_translated h)

theorem pclass_congr (h : u.cur = s.cur) (g : PGeo) : u.pclass g = s.pclass g := by
  have hp : u.pathOf = s.pathOf := funext (fun r => by rw [State.pathOf, State.pathOf, h])
  rw [State.pclass, State.pclass, hp]

theorem ptime_congr (h : u.cur = s.cur) (c : Cap) (g : PGeo) : u.ptime c g = s.ptime c g := by
  unfold State.ptime
  rw [pclass_congr h]

theorem channels_congr (h : u.cur = s.cur) (c : Cap) (g : PGeo) (n : Nat) : u.channels c g n = s.channels c g n := by
  unfold State.channels
  rw [pclass_congr h, ptime_congr h, h]

end

/-- A command enters the buffer of a state that differs from the issuing one in no field that it records (R285). -/
theorem Machine.State.buffer_eq {s v : State} (hi : v.iss = s.iss) (hd : v.dcc = s.dcc) (hp : v.ctx.pump = s.ctx.pump) :
    v.buffer s.iss = v.onPump (fun p => { p with buf := p.buf ++ [entered s] }) := by
  have he : entered v = entered s := by rw [entered, entered, hi, hd, hp]
  rw [← hi, ← he]; rfl

/-- READY of the tiles of a command with its estimate (R294). -/
theorem Machine.State.tile_estimate (s : State) (c : Cap) (g : PGeo) (e : Word) (k : Nat) :
    (s.estimate c g.tiles e).tile k = { s.tile k with
      ests := (s.tile k).ests ++ (if g.tiles.contains k then [(estId s.cur c.age, e)] else []) } := by
  rw [State.estimate_eq, State.tile_overTiles _ g.nodup_tiles]
  split
  · rfl
  · rw [List.append_nil]

/-- Settles O22. A command's issue translates, puts its estimate into READY of its tiles, and appends it to the buffer. -/
theorem pumpCommandsEnterTheBuffer : Obligations.PumpCommandsEnterTheBuffer := by
  unfold Obligations.PumpCommandsEnterTheBuffer
  refine ⟨?copy, ?event⟩
  case copy =>
    intro i o rows be s u hp hi hroom hlive hchk
    have hiss : pop? s.iss.instr = some (o, rows, be) := by rw [hi.1]; exact hp
    have hbe : (s.pgeo s.iss).be = be := pgeo_be_of_pop _ hiss
    have ht := pumpChecks_translated hchk
    generalize hw : (if be then 0xFFFFFFFFFFFFFFFF#64 else
      word (min (max (s.sc o.t).toNat (s.dcc.toNat + 1) + (s.ptime s.iss (s.pgeo s.iss)).2) (2 ^ 64 - 1))) = e
    have hbody : pumpIssue o s = .ok ((u.estimate s.iss (s.pgeo s.iss).tiles e).buffer s.iss) := by
      simp only [pumpIssue, hlive, hchk, hbe, time_of_pop hiss, ptime_congr ht.cur, Bool.false_eq_true, if_false, ← hw]
      rfl
    have htile := u.tile_estimate s.iss (s.pgeo s.iss) e
    have hov : OnlyPump u (u.estimate s.iss (s.pgeo s.iss).tiles e) := .estimate ..
    have hctx : (u.estimate s.iss (s.pgeo s.iss).tiles e).ctx = u.ctx := by
      rw [State.estimate_eq, State.overTiles_eq]; rfl
    generalize u.estimate s.iss (s.pgeo s.iss).tiles e = v at hbody htile hov hctx
    have hpump : v.ctx.pump = s.ctx.pump := by rw [hctx, ht.pump]
    have heng : v.eng .pump = s.eng .pump := by rw [State.eng, hctx]; exact ht.eng .pump
    rw [State.buffer_eq (by rw [hov.1, ht.iss]) (by rw [hov.1, ht.dcc]) hpump] at hbody
    refine ⟨_, (exec_of_pop s hp).trans (pumpOp_ok hi (queueReads_of_pop hp) hroom hbody), (hov.trans (.onPump ..)).trans (.onEng ..),
      leaves_of_eng_eq (by rw [State.eng_onPump, heng]), ?_, fun k => ?_⟩
    · rw [State.pump_onEng, State.ctx_onPump, hpump]
    · rw [State.tile_onEng, State.tile_onPump, htile, ht.tile, ht.cur]
      exact ⟨rfl, rfl, rfl⟩
  case event =>
    intro e a b dp x s hi hroom htgt
    have hx : exec (.pevent e a b dp) s = .next ((s.buffer s.iss).onEng .pump Eng.leave) :=
      pumpOp_ok hi rfl hroom (by rw [htgt])
    rw [State.buffer_eq rfl rfl rfl] at hx
    exact ⟨_, hx, (OnlyPump.onPump ..).trans (.onEng ..), leaves_of_eng_eq (s.eng_onPump ..), rfl,
      by rw [State.pump_onEng, State.ctx_onPump]⟩

/-! ## Tables, cancellations and flushes (R306, R307, R310, R412) -/

/-- Bytes left free change memory, what HBM lines carry and the draws alone (R306). -/
theorem Machine.State.undefine_spec (s : State) (wr : List (Nat × Nat)) :
    ∃ m o b w d, s.undefine wr = { s with mem := m, owner := o, badLines := b, told := w, dev := d } := by
  induction wr generalizing s with
  | nil => exact ⟨s.mem, s.owner, s.badLines, s.told, s.dev, rfl⟩
  | cons r l ih =>
    let v := packElems 1 r.2 (fun i => (Config.cancelledByte (s.dev.draws + i)).toNat)
    obtain ⟨o, b, w, h⟩ := s.store_spec r.1 r.2 v
    obtain ⟨m', o', b', w', d', h'⟩ := ih { s.store r.1 r.2 v with dev := { s.dev with draws := s.dev.draws + r.2 } }
    exact ⟨m', o', b', w', d', h'.trans (by rw [h])⟩

theorem Machine.State.read_undefine {wr : List (Nat × Nat)} {a : Nat} (s : State) (h : ∀ r ∈ wr, a < r.1 ∨ r.1 + r.2 ≤ a) :
    (s.undefine wr).mem.read a 1 = s.mem.read a 1 := by
  induction wr generalizing s with
  | nil => rfl
  | cons r l ih =>
    refine (ih _ (fun x hx => h x (List.mem_cons_of_mem r hx))).trans ?_
    rw [State.store_mem, Mem.read_write_ne _ _ _ _ _ _ (h r List.mem_cons_self)]

/-- A write window that a cancellation cuts short: one that is open, for a destination that does not wait (R306). -/
def Machine.State.cutShort (s : State) (x : PCmd) : State := if x.win ∧ !x.wait then s.undefine x.wr else s

theorem Machine.State.cutShort_spec (s : State) (x : PCmd) :
    ∃ m o b w d, s.cutShort x = { s with mem := m, owner := o, badLines := b, told := w, dev := d } := by
  unfold State.cutShort
  split
  · exact s.undefine_spec x.wr
  · exact ⟨s.mem, s.owner, s.badLines, s.told, s.dev, rfl⟩

@[simp] theorem Machine.State.ctx_cutShort (s : State) (x : PCmd) : (s.cutShort x).ctx = s.ctx := by
  obtain ⟨m, o, b, w, d, h⟩ := s.cutShort_spec x
  rw [h]; rfl
@[simp] theorem Machine.State.eng_cutShort (s : State) (x : PCmd) (e : Engine) : (s.cutShort x).eng e = s.eng e := by
  rw [State.eng, State.ctx_cutShort]; rfl
@[simp] theorem Machine.State.dcc_cutShort (s : State) (x : PCmd) : (s.cutShort x).dcc = s.dcc := by
  obtain ⟨m, o, b, w, d, h⟩ := s.cutShort_spec x
  rw [h]
@[simp] theorem Machine.State.tiles_cutShort (s : State) (x : PCmd) : (s.cutShort x).tiles = s.tiles := by
  obtain ⟨m, o, b, w, d, h⟩ := s.cutShort_spec x
  rw [h]

theorem Machine.State.cutShort_closed (s : State) {x : PCmd} (h : x.win = false) : s.cutShort x = s := by
  simp [State.cutShort, h]

theorem Machine.State.read_cutShort (s : State) {x : PCmd} {a : Nat} (h : ∀ r ∈ x.wr, a < r.1 ∨ r.1 + r.2 ≤ a) :
    (s.cutShort x).mem.read a 1 = s.mem.read a 1 := by
  unfold State.cutShort
  split
  · exact s.read_undefine h
  · rfl

/-- A cancellation noted, to be acknowledged four cycles later (R306). -/
def Machine.State.noteCancel (s : State) (c : BitVec 4) (hit : Bool) : State :=
  s.onPump (fun p => { p with cancels := p.cancels ++ [(c.toNat, s.dcc + 4, hit)] })

/-- A command that leaves before it starts has settled its estimates (R294, R306). -/
def Machine.State.withdrawn (s : State) (age : Nat) : State := (s.removed age).settle s.cur [age]

/-- A command that stops after it has started has settled its estimates (R294, R306). -/
def Machine.State.halted (s : State) (age last : Nat) : State := (s.endFly age last).settle s.cur [age]

section
variable (s : State) (age last : Nat) (c : BitVec 4) (hit : Bool)

@[simp] theorem Machine.State.ctx_noteCancel : (s.noteCancel c hit).ctx = { s.ctx with pump := { s.ctx.pump with
    cancels := s.ctx.pump.cancels ++ [(c.toNat, s.dcc + 4, hit)] } } := State.ctx_onPump ..
@[simp] theorem Machine.State.eng_noteCancel (e : Engine) : (s.noteCancel c hit).eng e = s.eng e := State.eng_onPump ..
@[simp] theorem Machine.State.tiles_noteCancel : (s.noteCancel c hit).tiles = s.tiles := rfl
@[simp] theorem Machine.State.mem_noteCancel : (s.noteCancel c hit).mem = s.mem := rfl

theorem Claim.OnlyPump.noteCancel : OnlyPump s (s.noteCancel c hit) := .onPump ..
theorem Claim.OnlyPump.withdrawn : OnlyPump s (s.withdrawn age) := (OnlyPump.removed ..).trans (.settle ..)
theorem Claim.OnlyPump.halted : OnlyPump s (s.halted age last) := (OnlyPump.endFly ..).trans (.settle ..)

@[simp] theorem Machine.State.dcc_withdrawn : (s.withdrawn age).dcc = s.dcc := by rw [(OnlyPump.withdrawn s age).1]
@[simp] theorem Machine.State.dcc_halted : (s.halted age last).dcc = s.dcc := by rw [(OnlyPump.halted s age last).1]

@[simp] theorem Machine.State.ctx_withdrawn :
    (s.withdrawn age).ctx = { s.ctx with pump := s.ctx.pump.takeOut age s.dcc.toNat } := by
  rw [State.withdrawn, State.ctx_settle, State.removed_eq, State.ctx_onPump]

@[simp] theorem Machine.State.ctx_halted : (s.halted age last).ctx = { s.ctx with pump := s.ctx.pump.landed age last } := by
  rw [State.halted, State.ctx_settle, State.endFly_eq, State.ctx_onPump]

@[simp] theorem Machine.State.eng_withdrawn (e : Engine) : (s.withdrawn age).eng e = s.eng e := by
  rw [State.eng, State.ctx_withdrawn]; rfl
@[simp] theorem Machine.State.eng_halted (e : Engine) : (s.halted age last).eng e = s.eng e := by
  rw [State.eng, State.ctx_halted]; rfl

theorem Machine.State.tiles_withdrawn : (s.withdrawn age).tiles = (s.settle s.cur [age]).tiles := by
  rw [State.withdrawn, State.removed_eq]
  exact State.tiles_settle_congr rfl ..

theorem Machine.State.tiles_halted : (s.halted age last).tiles = (s.settle s.cur [age]).tiles := by
  rw [State.halted, State.endFly_eq]
  exact State.tiles_settle_congr rfl ..

end

section
variable {s : State} {c : BitVec 4} {dp : BitVec 3} (hi : Issues s .pump (.pcancel c dp)) (hroom : s.ctx.pump.buf.length < 32)
include hi hroom

/-- PCANCEL of a command that waits in the buffer (R306). -/
theorem exec_pcancel_buffered {x : PCmd} (hb : s.ctx.pump.buf.find? (fun x => x.cid = c.toNat) = some x) :
    exec (.pcancel c dp) s = .next (((s.withdrawn x.cap.age).noteCancel c true).onEng .pump Eng.leave) :=
  pumpOp_ok hi rfl hroom (by simp only [hb]; rfl)

/-- PCANCEL of a command in flight (R306). -/
theorem exec_pcancel_flying {x : PCmd} (hb : s.ctx.pump.buf.find? (fun x => x.cid = c.toNat) = none)
    (hf : s.ctx.pump.fly.find? (fun x => x.cid = c.toNat) = some x) : exec (.pcancel c dp) s =
      .next ((((s.halted x.cap.age (s.dcc.toNat + 4)).cutShort x).noteCancel c true).onEng .pump Eng.leave) :=
  pumpOp_ok hi rfl hroom (by simp only [hb, hf]; rfl)

/-- PCANCEL of a handle that no command has (R306). -/
theorem exec_pcancel_idle (hb : s.ctx.pump.buf.find? (fun x => x.cid = c.toNat) = none)
    (hf : s.ctx.pump.fly.find? (fun x => x.cid = c.toNat) = none) :
    exec (.pcancel c dp) s = .next ((s.noteCancel c false).onEng .pump Eng.leave) :=
  pumpOp_ok hi rfl hroom (by simp only [hb, hf]; rfl)

end

/-- A mask with the cancel handles of commands added; handle 0 names none (R307). -/
def cancelHandles (m : BitVec 16) (l : List PCmd) : BitVec 16 :=
  l.foldl (fun m x => if x.cid = 0 then m else m ||| BitVec.twoPow 16 x.cid) m

theorem getLsbD_cancelHandles (l : List PCmd) (m : BitVec 16) {n : Nat} (hn : n < 16) :
    (cancelHandles m l).getLsbD n = (m.getLsbD n || l.any (fun x => x.cid = n ∧ n ≠ 0)) := by
  unfold cancelHandles
  induction l generalizing m with
  | nil => rw [List.any_nil, Bool.or_false]; rfl
  | cons x l ih =>
    rw [List.foldl_cons, ih, List.any_cons, ← Bool.or_assoc]
    congr 1
    by_cases hx : x.cid = 0
    · by_cases h0 : n = 0 <;> simp [hx, h0, eq_comm]
    · rw [if_neg hx, BitVec.getLsbD_or, BitVec.getLsbD_twoPow]
      by_cases hc : x.cid = n
      · subst hc; simp [hn, hx]
      · simp [hc]

/-- A code table's generation as its copy begins to load from a record (R310). -/
def loadingGen (s : State) (r : Handle) (data : Nat) : TabGen where
  present := true
  invalid := false
  loading := some (cycle (s.dcc.toNat + pathB (s.pathOf r) + ceilDiv 256 (pathW (s.pathOf r))))
  data := data
  line := s.iss.line
  lane := s.iss.lane
  src := some r

/-- A slot with its other generation replaced, to which later commands bind (R310). -/
def rebound (slot : Tab) (x : TabGen) : Tab := { slot.setGen (!slot.cur) x with cur := !slot.cur }

/-- PTAB that no command's use of the other generation holds, and whose record can be read (R310). -/
theorem exec_ptab_loads {s u : State} {h : BitVec 6} {n : BitVec 4} {dp : BitVec 3} {r : Handle} {data : Nat}
    (hi : Issues s .pump (.ptab h n dp)) (hroom : s.ctx.pump.buf.length < 32)
    (hfree : ((SMap.get Tab.reset s.ctx.pump.tabs n.toNat).gen (!(SMap.get Tab.reset s.ctx.pump.tabs n.toNat).cur)).present = false ∨
      s.ctx.pump.uses n.toNat (!(SMap.get Tab.reset s.ctx.pump.tabs n.toNat).cur) = false)
    (hr : s.hrec h = some r) (hrd : r.has rRD = true) (hlev : r.level ≠ 2) (hlen : 256 ≤ r.len.toNat)
    (hwait : s.readWaits r 0 256 = false) (hload : s.load 2 r 0 256 0 = .ok (u, data)) :
    exec (.ptab h n dp) s = .next ((u.onPump (fun p => { p with
      tabs := SMap.set Tab.reset p.tabs n.toNat (rebound (SMap.get Tab.reset s.ctx.pump.tabs n.toNat) (loadingGen u r data)) })).onEng
        .pump Eng.leave) := by
  refine pumpOp_ok hi rfl hroom ((if_neg ?_).trans ?_)
  · rintro ⟨hpresent, huses⟩
    rcases hfree with h | h
    · rw [hpresent] at h; cases h
    · rw [huses] at h; cases h
  · simp only [hr, hrd, Bool.not_true, Bool.false_eq_true, if_false, if_neg hlev, if_neg (Nat.not_lt.2 hlen), hwait, hload]
    rfl

/-- The state after PFLUSH: the buffer is empty, and its commands have settled their estimates and acknowledged their handles (R307). -/
def Machine.State.emptied (s : State) : State :=
  (s.settle s.cur (s.ctx.pump.buf.map (fun x => x.cap.age))).onPump (fun p => { p with
    buf := [], ended := p.ended ++ p.buf.map (fun x => (x, s.dcc.toNat)), ack := p.ack ||| cancelHandles 0 s.ctx.pump.buf
    hit := p.hit ||| cancelHandles 0 s.ctx.pump.buf })

theorem exec_pflush_empties {s : State} {dp : BitVec 3} (hi : Issues s .pump (.pflush dp)) (hroom : s.ctx.pump.buf.length < 32) :
    exec (.pflush dp) s = .next (s.emptied.onEng .pump Eng.leave) := pumpOp_ok hi rfl hroom rfl

theorem Claim.OnlyPump.emptied (s : State) : OnlyPump s s.emptied := (OnlyPump.settle ..).trans (.onPump ..)

theorem Machine.State.ctx_emptied (s : State) : s.emptied.ctx = { s.ctx with pump := { s.ctx.pump with
    buf := [], ended := s.ctx.pump.ended ++ s.ctx.pump.buf.map (fun x => (x, s.dcc.toNat))
    ack := s.ctx.pump.ack ||| cancelHandles 0 s.ctx.pump.buf, hit := s.ctx.pump.hit ||| cancelHandles 0 s.ctx.pump.buf } } := by
  rw [State.emptied, State.ctx_onPump, State.ctx_settle]

/-- Settles O23. The body of each of the three instructions is a change of the pump alone, but for the bytes that a cancelled copy
leaves free in its open window. -/
theorem pumpTablesCancelsAndFlushes : Obligations.PumpTablesCancelsAndFlushes := by
  unfold Obligations.PumpTablesCancelsAndFlushes
  refine ⟨?ptab, ?pcancel, ?pflush, rfl⟩
  case ptab =>
    intro h n dp r s u data slot g hi hroom hfree hr hrd hlev hlen hwait hload
    refine ⟨_, exec_ptab_loads hi hroom hfree hr hrd hlev hlen hwait hload, (OnlyPump.onPump ..).trans (.onEng ..),
      leaves_of_eng_eq (u.eng_onPump ..), ?_⟩
    rw [State.pump_onEng, State.ctx_onPump, loadingGen, (State.load_translated hload).iss]; rfl
  case pcancel =>
    intro c dp s hi hroom
    split
    next x hb =>
      refine ⟨_, exec_pcancel_buffered hi hroom hb, leaves_of_eng_eq ?_,
        ((OnlyPump.withdrawn ..).trans (.noteCancel ..)).trans (.onEng ..), ?_, ?_⟩
      · rw [State.eng_noteCancel, State.eng_withdrawn]
      · rw [State.onEng_tiles, State.tiles_noteCancel, State.tiles_withdrawn]
      · rw [State.pump_onEng, State.ctx_noteCancel, State.ctx_withdrawn, State.dcc_withdrawn]; rfl
    next x hb hf =>
      refine ⟨_, exec_pcancel_flying hi hroom hb hf, leaves_of_eng_eq ?_, fun hwin => ?_, ?_, fun a ha => ?_, ?_⟩
      · rw [State.eng_noteCancel, State.eng_cutShort, State.eng_halted]
      · rw [State.cutShort_closed _ hwin]
        exact ((OnlyPump.halted ..).trans (.noteCancel ..)).trans (.onEng ..)
      · rw [State.onEng_tiles, State.tiles_noteCancel, State.tiles_cutShort, State.tiles_halted]
      · rw [State.onEng_mem, State.mem_noteCancel, State.read_cutShort _ ha, (OnlyPump.halted ..).mem]
      · rw [State.pump_onEng, State.ctx_noteCancel, State.ctx_cutShort, State.dcc_cutShort, State.ctx_halted, State.dcc_halted]; rfl
    next hb hf =>
      refine ⟨_, exec_pcancel_idle hi hroom hb hf, leaves_of_eng_eq (s.eng_noteCancel ..),
        (OnlyPump.noteCancel ..).trans (.onEng ..), rfl, ?_⟩
      rw [State.pump_onEng, State.ctx_noteCancel]
  case pflush =>
    intro dp s hi hroom
    refine ⟨_, exec_pflush_empties hi hroom, (OnlyPump.emptied s).trans (.onEng ..), leaves_of_eng_eq ?_, rfl, ?_, fun n hn => ?_⟩
    · rw [State.eng, State.ctx_emptied]; rfl
    · rw [State.pump_onEng, State.ctx_emptied]
    · rw [State.pump_onEng, State.ctx_emptied]
      simp [getLsbD_cancelHandles _ _ hn]

/-! ## Starts (R286, R287, R290, R305, R313) -/

section
variable {s : State} {age : Nat} {x : PCmd} (h : Due s age x)
include h

theorem execPumpStart_event {e : BitVec 6} {a b : BitVec 5} {dp : BitVec 3} (hi : x.cap.instr = .pevent e a b dp) :
    execPumpStart age s = .next (s.pevent x) := by
  obtain ⟨hfind, hrun, hmay⟩ := h
  simp only [execPumpStart, hfind, hrun, hmay, hi, and_self, if_true]

theorem execPumpStart_begins (hi : ∀ e a b dp, x.cap.instr ≠ .pevent e a b dp) : execPumpStart age s = .next (s.pbegin x) := by
  obtain ⟨hfind, hrun, hmay⟩ := h
  simp only [execPumpStart, hfind, hrun, hmay, and_self, if_true]

end

theorem Machine.State.phase_onPump (s : State) (f : Pump → Pump) (k : Nat) : ((s.onPump f).ctxAt k).phase = (s.ctxAt k).phase := by
  rw [State.onPump, State.ctxAt_setCtx]
  split
  next hk => subst hk; rfl
  next => rfl

/-- Which strand has a counter does not rest on the pump. -/
theorem Machine.State.keyOf_onPump (s : State) (f : Pump → Pump) (g n : Nat) : (s.onPump f).keyOf g n = s.keyOf g n := by
  simp only [State.keyOf, State.phase_onPump]; rfl

/-- An increment takes as long whatever its pump holds (R271). -/
theorem Machine.State.incrs_sendIncr_onPump (s : State) (f : Pump → Pump) (k g n : Nat) (e : BitVec 6) (amt : BitVec 32) :
    ((s.onPump f).sendIncr k g n e amt).incrs = (s.sendIncr k g n e amt).incrs := by
  simp only [State.sendIncr, State.keyOf_onPump]; rfl

/-- A dropped command leaves the buffer, and the drop is recorded (R313). -/
theorem Machine.State.pbegin_dropped {s : State} {x : PCmd} (h : s.anyRevoked x.cap = true) :
    s.pbegin x = (s.withdrawn x.cap.age).onPump Pump.recordDrop := if_pos h

theorem Machine.State.resolveRowsAt_translated {s u : State} {h : Handle} {o pitch n rows : Nat} {write : Bool} {l : List (Nat × Nat)}
    (e : s.resolveRowsAt h o pitch n write rows = .ok u l) : Translated s u := by
  induction rows generalizing u l with
  | zero => cases e; exact .refl s
  | succ rows ih =>
    rw [State.resolveRowsAt] at e
    split at e
    next ht =>
      split at e
      next hu => cases e; exact (ih ht).trans (State.resolve_spec hu)
      next hne => exact (hne _ _ e).elim
    next hne => exact (hne _ _ e).elim

/-- The pump with a command moved from the buffer into flight, late or not (R286, R287). -/
def Machine.Pump.launched (p : Pump) (y : PCmd) (late : Bool) : Pump :=
  let q := { p with buf := p.buf.filter (fun z => z.cap.age ≠ y.cap.age), fly := p.fly ++ [y] }
  if late then q.recordLate else q

/-- A command as it goes into flight, to end after its duration (R284, R286). -/
def Machine.State.flown (s : State) (x : PCmd) (g : PGeo) (rd wr : List (Nat × Nat)) : PCmd :=
  { x with
    start := s.dcc, fin := cycle (s.dcc.toNat + (s.ptime x.cap g).2), wait := false, page := (0, 0), inv := false
    rd := rd, wr := wr, data := (s.pdata x.cap x g rd).1, bad := (s.pdata x.cap x g rd).2 }

/-- Channels reserved (R290). -/
def Machine.State.takeChans (s : State) (l : List Chan) : State := { s with chans := s.chans ++ l }

/-- A reserved command that reads no host memory starts: it goes into flight, READY of its tiles gets its end, and its channels are
taken (R286, R290, R294). -/
theorem Machine.State.pstart_reserved (s : State) (x : PCmd) {g : PGeo} {rd : List (Nat × Nat)} (wr : List (Nat × Nat))
    (hg : g.be = false) (hrd : (hostRuns rd).isEmpty = true) : s.pstart x g rd wr none =
      ((s.onPump (fun p => p.launched (s.flown x g rd wr)
        (decide (x.cap.time ≠ 0 ∧ x.cap.time.toNat < s.dcc.toNat)))).replaceReady x.cap g.tiles
          (cycle (s.dcc.toNat + (s.ptime x.cap g).2))).takeChans ((s.channels x.cap g s.dcc.toNat).map (·.2)) := by
  unfold State.pstart
  simp only [hg, hrd, Bool.false_eq_true, if_false, if_true, State.unbuffer, State.onPump_onPump, Bool.not_false, Bool.true_and,
    Bool.decide_and]
  rfl

/-- What the start of such a command does to memory, the pump and the channels (R284, R286, R290). -/
theorem Machine.State.pstart_spec (s : State) (x : PCmd) {g : PGeo} {rd : List (Nat × Nat)} (wr : List (Nat × Nat))
    (hg : g.be = false) (hrd : (hostRuns rd).isEmpty = true) :
    (s.pstart x g rd wr none).mem = s.mem ∧
    (s.pstart x g rd wr none).ctx.pump =
      s.ctx.pump.launched (s.flown x g rd wr) (decide (x.cap.time ≠ 0 ∧ x.cap.time.toNat < s.dcc.toNat)) ∧
    (s.pstart x g rd wr none).chans = s.chans ++ (s.channels x.cap g s.dcc.toNat).map (·.2) := by
  rw [s.pstart_reserved x wr hg hrd, State.replaceReady_eq]
  generalize hv : (s.onPump _).overTiles _ _ = v
  have hmem : v.mem = s.mem := by rw [← hv, State.mem_overTiles]; rfl
  have hpump : v.ctx.pump = s.ctx.pump.launched (s.flown x g rd wr)
      (decide (x.cap.time ≠ 0 ∧ x.cap.time.toNat < s.dcc.toNat)) := by rw [← hv, State.ctx_overTiles, State.ctx_onPump]
  have hchans : v.chans = s.chans := by rw [← hv, State.overTiles_eq]; rfl
  exact ⟨hmem, hpump, congrArg (· ++ _) hchans⟩

theorem pgeo_pfill {c : Cap} {o : POp} (live : Option Handle → Option Handle) (h : c.instr = .pfill o) :
    (c.pgeo live).hs = none ∧ (c.pgeo live).rows = 1 ∧ (c.pgeo live).be = false := by
  simp only [Cap.pgeo, h, pop?, Bool.false_eq_true, if_false, and_self]

/-- A fill that nothing holds starts with the runs of its destination (R302). -/
theorem Machine.State.pbegin_pfill {s u : State} {x : PCmd} {o : POp} {h : Handle} {wr : List (Nat × Nat)}
    (hi : x.cap.instr = .pfill o) (hrev : s.anyRevoked x.cap = false) (hd : (s.pgeo x.cap).hd = some (some h))
    (hr : s.resolveRowsAt h (s.pgeo x.cap).od.toNat (s.pgeo x.cap).pd (s.pgeo x.cap).n true 1 = .ok u wr)
    (ho : s.ctx.pump.overlapped s.dcc.toNat [] wr = false)
    (hc : (s.channels x.cap (s.pgeo x.cap) s.dcc.toNat).all (fun e => chanFree s.chans e.1 e.2) = true) :
    s.pbegin x = u.pstart x (s.pgeo x.cap) [] wr none := by
  obtain ⟨hs, hrows, hbe⟩ := pgeo_pfill s.live hi
  change (s.pgeo x.cap).hs = none at hs
  change (s.pgeo x.cap).rows = 1 at hrows
  simp only [State.pbegin, hrev, hi, hs, State.pstartDst, State.pdest, hd, hrows, hr, State.ptry, ho, hc, Bool.false_eq_true,
    if_false, Bool.not_true, and_false]

/-! ## Write windows and ends (R284, R291, R296, R305, R310, R482) -/

theorem execWriteWindowStart_opens {s : State} {age : Nat} {x : PCmd} (hf : s.ctx.pump.fly.find? (fun y => y.cap.age = age) = some x)
    (hw : x.win = false) (hi : ∀ o, x.cap.instr ≠ .ptagset o ∧ x.cap.instr ≠ .ptagchk o)
    (hd : if (x.cap.pgeo id).be then x.start.toNat < s.dcc.toNat
      else x.fin.toNat ≤ s.dcc.toNat + (s.ptime x.cap (x.cap.pgeo id)).1) :
    execWriteWindowStart age s =
      .next ((s.onPump (fun p => p.setFly { x with win := true })).setTags (x.cap.pgeo id).tiles 0xFFFF) := by
  have hearly : ¬ (if (x.cap.pgeo id).be then s.dcc.toNat ≤ x.start.toNat
      else s.dcc.toNat + (s.ptime x.cap (x.cap.pgeo id)).1 < x.fin.toNat) := by
    split at hd
    next hbe => rw [if_pos hbe]; omega
    next hbe => rw [if_neg hbe]; omega
  have hset : ∀ o, x.cap.instr ≠ .ptagset o := fun o => (hi o).1
  have hchk : ∀ o, x.cap.instr ≠ .ptagchk o := fun o => (hi o).2
  simp only [execWriteWindowStart, hf, hw, Bool.false_eq_true, false_or, if_neg hearly]

/-- The runs of a command written and the tags of its tiles set (R284, R291). -/
def Machine.State.dataPlaced (s : State) (x : PCmd) (g : PGeo) : State := (s.storeSegs (cutRuns x.wr x.data)).setTags g.tiles g.seq

/-- Data put in place changes memory, tags and what HBM lines carry alone (R284, R291). -/
theorem Machine.State.dataPlaced_spec (s : State) (x : PCmd) (g : PGeo) :
    ∃ o b w, s.dataPlaced x g = { s with
      mem := (cutRuns x.wr x.data).foldl (fun m q => m.write q.a q.n q.v) s.mem, owner := o, badLines := b, told := w
      tiles := (s.dataPlaced x g).tiles } := by
  obtain ⟨o, b, w, h⟩ := s.storeSegs_spec (cutRuns x.wr x.data)
  refine ⟨o, b, w, ?_⟩
  rw [State.dataPlaced, State.setTags_eq, State.overTiles_eq, h]

theorem Machine.State.tile_dataPlaced (s : State) (x : PCmd) (g : PGeo) (k : Nat) :
    (s.dataPlaced x g).tile k = if g.tiles.contains k then { s.tile k with tag := g.seq } else s.tile k := by
  have h : (s.storeSegs (cutRuns x.wr x.data)).tile k = s.tile k := by
    rw [State.tile, (OnlyStored.storeSegs s _).tiles]; rfl
  rw [State.dataPlaced, State.setTags_eq, State.tile_overTiles _ g.nodup_tiles, h]

/-- The increment of an end changes the increments under way and the moves alone (R296). -/
theorem Machine.State.pincr_eq (s : State) (c : Cap) :
    s.pincr c = { s with incrs := (s.pincr c).incrs, agenda := (s.pincr c).agenda } := by
  unfold State.pincr
  split
  · split <;> rfl
  · rfl

theorem Machine.State.incrs_pincr {c : Cap} {o : POp} {rows : Nat} {be : Bool} (s : State) (h : pop? c.instr = some (o, rows, be)) :
    (s.pincr c).incrs = s.incrs ++ (if o.ei = 0 then [] else [⟨s.bind.gang.toNat, s.bind.strand.toNat, o.ei, 1, s.dcc.toNat⟩]) := by
  simp only [State.pincr, h]
  split
  · rw [List.append_nil]
  · rfl

@[simp] theorem Machine.State.mem_pincr (s : State) (c : Cap) : (s.pincr c).mem = s.mem := by rw [State.pincr_eq]
@[simp] theorem Machine.State.ctx_pincr (s : State) (c : Cap) : (s.pincr c).ctx = s.ctx := by rw [State.pincr_eq]; rfl
@[simp] theorem Machine.State.tile_pincr (s : State) (c : Cap) (k : Nat) : (s.pincr c).tile k = s.tile k := by
  rw [State.pincr_eq]; rfl

/-- The state in which a command has ended with its data in place (R284, R296). -/
def Machine.State.landed (s : State) (x : PCmd) (g : PGeo) : State := ((s.dataPlaced x g).endFly x.cap.age s.dcc.toNat).pincr x.cap

section
variable (s : State) (x : PCmd) (g : PGeo)

theorem Machine.State.mem_landed :
    (s.landed x g).mem = (cutRuns x.wr x.data).foldl (fun m q => m.write q.a q.n q.v) s.mem := by
  obtain ⟨o, b, w, h⟩ := s.dataPlaced_spec x g
  rw [State.landed, State.mem_pincr, (OnlyPump.endFly ..).mem, h]

theorem Machine.State.ctx_landed : (s.landed x g).ctx = { s.ctx with pump := s.ctx.pump.landed x.cap.age s.dcc.toNat } := by
  obtain ⟨o, b, w, h⟩ := s.dataPlaced_spec x g
  rw [State.landed, State.ctx_pincr, State.endFly_eq, State.ctx_onPump, h]; rfl

theorem Machine.State.tile_landed (k : Nat) :
    (s.landed x g).tile k = if g.tiles.contains k then { s.tile k with tag := g.seq } else s.tile k := by
  rw [State.landed, State.tile_pincr, State.endFly_eq, State.tile_onPump, State.tile_dataPlaced]

theorem Machine.State.incrs_landed {o : POp} {rows : Nat} {be : Bool} (hp : pop? x.cap.instr = some (o, rows, be)) :
    (s.landed x g).incrs =
      s.incrs ++ (if o.ei = 0 then [] else [⟨s.bind.gang.toNat, s.bind.strand.toNat, o.ei, 1, s.dcc.toNat⟩]) := by
  obtain ⟨r, b, w, h⟩ := s.dataPlaced_spec x g
  rw [State.landed, State.incrs_pincr _ hp, State.endFly_eq, h]; rfl

end

/-- A reserved command whose end has come, and that waits for no page, ends with its data in place (R284, R482). -/
theorem execPumpEnd_ends {s : State} {age : Nat} {x : PCmd} (hf : s.ctx.pump.fly.find? (fun y => y.cap.age = age) = some x)
    (hbe : (x.cap.pgeo id).be = false) (hi : ∀ q, x.cap.instr ≠ .ptagchk q)
    (hq : s.dev.reqs.any (fun r => r.key = some s.cur ∧ r.src = 2 ∧ r.age = age) = false) (hd : x.fin.toNat ≤ s.dcc.toNat)
    (hw : x.wait = false) (hb : x.bad = none) : execPumpEnd age s =
      .next (s.landed x (x.cap.pgeo id)) := by
  have hdue : ¬ s.dcc.toNat < s.pdue x (x.cap.pgeo id) := by
    simp only [State.pdue, hbe, hb, Bool.false_eq_true, if_false]; omega
  simp only [execPumpEnd, hf, hq, Bool.false_eq_true, if_false, if_neg hdue, hw, State.pfinish, hb, hbe]
  rfl

/-- A command whose read of host memory is outstanding waits for it (R482). -/
theorem execPumpEnd_waits {s : State} {age : Nat} {x : PCmd} (hf : s.ctx.pump.fly.find? (fun y => y.cap.age = age) = some x)
    (hi : ∀ q, x.cap.instr ≠ .ptagchk q)
    (hq : s.dev.reqs.any (fun r => r.key = some s.cur ∧ r.src = 2 ∧ r.age = age) = true) : execPumpEnd age s = .next s := by
  simp only [execPumpEnd, hf, hq, if_true]

/-! ## Code tables and cancellations (R306, R308, R310) -/

/-- A code table's generation whose load has ended, checked (R308, R310). -/
def checkedGen (x : TabGen) : TabGen := { x with loading := none, invalid := (tableBad (codeLens x.data)).isSome }

/-- The state in which the load of the generation not bound to has ended (R310). -/
def Machine.State.tabLoaded (s : State) (n : BitVec 4) : State :=
  let slot := SMap.get Tab.reset s.ctx.pump.tabs n.toNat
  s.onPump (fun p => { p with
    tabs := SMap.set Tab.reset s.ctx.pump.tabs n.toNat (slot.setGen (!slot.cur) (checkedGen (slot.gen (!slot.cur)))) })

theorem Machine.State.tabs_tabLoaded (s : State) (n : BitVec 4) :
    let slot := SMap.get Tab.reset s.ctx.pump.tabs n.toNat
    SMap.get Tab.reset (s.tabLoaded n).ctx.pump.tabs n.toNat = slot.setGen (!slot.cur) (checkedGen (slot.gen (!slot.cur))) := by
  rw [State.tabLoaded, State.ctx_onPump, SMap.get_set_self]

theorem Machine.State.eng_tabLoaded (s : State) (n : BitVec 4) (e : Engine) : (s.tabLoaded n).eng e = s.eng e := s.eng_onPump ..

/-- An A trap of the moving context leaves its pump as it is (R364). -/
theorem Machine.State.pump_raiseA (s : State) (e : Engine) (code : BitVec 8) (ti : Word) (line lane : Nat) :
    (s.raiseA s.cur e code ti line lane).ctx.pump = s.ctx.pump := by
  obtain ⟨-, -, -, hctx⟩ := s.raiseA_spec s.cur e code ti line lane
  have h := congrArg Ctx.pump hctx
  exact h

/-- The A trap of an engine with no trap pending is the one that is pending then (R364, R366). -/
theorem Machine.State.pend_raiseA {s : State} {e : Engine} (code : BitVec 8) (ti : Word) (line lane : Nat) (h : (s.eng e).pend = none) :
    ((s.raiseA s.cur e code ti line lane).eng e).pend = some ⟨true, code, ti, line, lane, s.dcc, false⟩ := by
  obtain ⟨-, -, heng, -⟩ := s.raiseA_spec s.cur e code ti line lane
  change (s.raiseA s.cur e code ti line lane).eng e = (s.eng e).raise _ at heng
  rw [heng, Eng.raise, h]

section
variable {s : State} {n : BitVec 4} {c : Word} (hres : s.ctx.resident = true)
  (hl : ((SMap.get Tab.reset s.ctx.pump.tabs n.toNat).gen (!(SMap.get Tab.reset s.ctx.pump.tabs n.toNat).cur)).loading = some c)
  (hc : c.toNat ≤ s.dcc.toNat)
include hres hl hc

/-- A valid table's load ends with its check (R308, R310). -/
theorem execPtabLoadEnd_valid (hb : tableBad (codeLens
      ((SMap.get Tab.reset s.ctx.pump.tabs n.toNat).gen (!(SMap.get Tab.reset s.ctx.pump.tabs n.toNat).cur)).data) = none) :
    execPtabLoadEnd n s = .next (s.tabLoaded n) := by
  simp only [execPtabLoadEnd, hres, hl, hc, hb, Bool.not_true, Bool.false_eq_true, if_false, decide_true, if_true,
    State.tabLoaded, checkedGen]
  rfl

/-- An invalid table's load ends with its check, which traps (R310). -/
theorem execPtabLoadEnd_invalid {i : Nat} (hb : tableBad (codeLens
      ((SMap.get Tab.reset s.ctx.pump.tabs n.toNat).gen (!(SMap.get Tab.reset s.ctx.pump.tabs n.toNat).cur)).data) = some i) :
    execPtabLoadEnd n s = .next ((s.tabLoaded n).raiseA (s.tabLoaded n).cur .pump tCODETAB (word i)
      ((SMap.get Tab.reset s.ctx.pump.tabs n.toNat).gen (!(SMap.get Tab.reset s.ctx.pump.tabs n.toNat).cur)).line
      ((SMap.get Tab.reset s.ctx.pump.tabs n.toNat).gen (!(SMap.get Tab.reset s.ctx.pump.tabs n.toNat).cur)).lane) := by
  simp only [execPtabLoadEnd, hres, hl, hc, hb, Bool.not_true, Bool.false_eq_true, if_false, decide_true, if_true,
    State.tabLoaded, checkedGen]
  rfl

end

theorem execCancelAck_found {s : State} {c : BitVec 4} {e : Nat × Word × Bool}
    (h : s.ctx.pump.cancels.find? (fun e => e.1 = c.toNat ∧ e.2.1.toNat ≤ s.dcc.toNat) = some e) : execCancelAck c s =
      .next (s.onPump (fun p => { p with
        cancels := p.cancels.erase e, ack := p.ack ||| BitVec.twoPow 16 c.toNat
        hit := if e.2.2 then p.hit ||| BitVec.twoPow 16 c.toNat else p.hit })) := by
  simp only [execCancelAck, h]

/-! ## The events of O40 -/

theorem Machine.Pump.launched_eq (p : Pump) (y : PCmd) (late : Prop) [Decidable late] : p.launched y (decide late) = { p with
    buf := p.buf.filter (fun z => z.cap.age ≠ y.cap.age), fly := p.fly ++ [y], late := p.late || decide late
    lcount := if late ∧ p.lcount ≠ 0xFFFF then p.lcount + 1 else p.lcount } := by
  unfold Pump.launched
  by_cases h : late
  · by_cases hc : p.lcount = 0xFFFF <;> simp [h, hc, Pump.recordLate]
  · simp [h]

/-- Settles O40. Each event does what its command, table or cancellation is due to. -/
theorem pumpCommandsStartAndEnd : Obligations.PumpCommandsStartAndEnd := by
  unfold Obligations.PumpCommandsStartAndEnd
  refine ⟨?event, ?fill, ?dropped, ?window, ?ends, ?waits, ?table, ?ack⟩
  case event =>
    intro s age x e a b dp g n hdue hi ht
    refine ⟨(s.unbuffer x.cap.age).sendIncr s.cur g n e 1, ?_, ?_, s.incrs_sendIncr_onPump _ _ g n e 1, rfl⟩
    · rw [exec_pumpStart, execPumpStart_event hdue hi]
      simp only [State.pevent, hi, ht]
    · exact s.ctx_onPump (fun p => { p with buf := p.buf.filter (fun y => y.cap.age ≠ x.cap.age) })
  case fill =>
    intro s u age x o h wr hdue hi hrev hd hr ho hc late
    have ht := State.resolveRowsAt_translated hr
    obtain ⟨-, -, hbe⟩ := pgeo_pfill s.live hi
    obtain ⟨hmem, hpump, hchans⟩ := u.pstart_spec x (g := s.pgeo x.cap) (rd := []) wr hbe rfl
    refine ⟨_, u.flown x (s.pgeo x.cap) [] wr, (execPumpStart_begins hdue (by rw [hi]; nofun)).trans
      (congrArg _ (State.pbegin_pfill hi hrev hd hr ho hc)), hmem, ?_, ?_, ?_⟩
    · simp only [State.flown, started, ht.dcc, ptime_congr ht.cur, State.pdata, hi]; rfl
    · rw [hpump, ht.dcc, Pump.launched_eq]; rfl
    · rw [hchans, ht.chans, channels_congr ht.cur, ht.dcc]
  case dropped =>
    intro s age x hdue hrev _ hi
    have hx : exec (.pumpStart age) s = .next ((s.withdrawn x.cap.age).onPump Pump.recordDrop) :=
      (execPumpStart_begins hdue hi).trans (congrArg _ (State.pbegin_dropped hrev))
    have ho : OnlyPump s ((s.withdrawn x.cap.age).onPump Pump.recordDrop) := (OnlyPump.withdrawn ..).trans (.onPump ..)
    refine ⟨_, hx, ho.mem, ?_⟩
    rw [State.ctx_onPump, State.ctx_withdrawn]
    exact ⟨rfl, rfl, rfl, rfl⟩
  case window =>
    intro s age x hf hw hi hd
    refine ⟨_, execWriteWindowStart_opens hf hw hi hd, ?_, ?_, fun k => ?_⟩
    · rw [State.setTags_eq, State.mem_overTiles]; rfl
    · rw [State.setTags_eq, State.ctx_overTiles, State.ctx_onPump]; rfl
    · rw [State.setTags_eq, State.tile_overTiles _ (PGeo.nodup_tiles _), State.tile_onPump]
  case ends =>
    intro s age x o rows hf hp hi hq hd hw hb
    refine ⟨_, execPumpEnd_ends hf (pgeo_be_of_pop id hp) hi hq hd hw hb, ?_⟩
    have htile := s.tile_landed x (x.cap.pgeo id)
    rw [pgeo_seq_of_pop id hp] at htile
    exact ⟨s.mem_landed .., by rw [State.ctx_landed]; rfl, htile, s.incrs_landed x _ hp⟩
  case waits =>
    intro s age x hf hi hq
    exact execPumpEnd_waits hf hi hq
  case table =>
    intro s n c slot x hres hl hc
    have htabs := s.tabs_tabLoaded n
    have hkept := s.eng_tabLoaded n .pump
    cases hb : tableBad (codeLens x.data) with
    | none =>
      refine ⟨_, execPtabLoadEnd_valid hres hl hc hb, htabs.trans (by rw [checkedGen, hb]), nofun, fun _ => ?_⟩
      rw [State.tabLoaded, State.ctx_onPump]
    | some i =>
      refine ⟨_, execPtabLoadEnd_invalid hres hl hc hb, ?_, fun j hj hpend => ?_, nofun⟩
      · rw [State.pump_raiseA, htabs, checkedGen, hb]
      · cases hj
        exact State.pend_raiseA _ _ _ _ (by rw [hkept, hpend])
  case ack =>
    intro s c e h
    exact ⟨_, execCancelAck_found h, .setCtx .., s.ctx_onPump _⟩

end Sys2Proof

/-! PROOFS. The halo engine: declarations of grids and the start of an exchange (O24), waits and accesses at a step (O25), and the layers
of an exchange (O41). -/

namespace Sys2Proof

open Sys2Proof.Machine Sys2Proof.Claim

/-! ## The grids of a context (R317, R380) -/

section
variable (s : State) (g : BitVec 4) (x : Option Grid) (e : Engine)

@[simp] theorem Machine.Ctx.grid_setGrid (c : Ctx) (m n : Nat) : (c.setGrid m x).grid n = if n = m then x else c.grid n := SMap.get_set ..

@[simp] theorem Machine.Ctx.engAt_setGrid (c : Ctx) (n : Nat) : (c.setGrid n x).engAt e = c.engAt e := rfl

@[simp] theorem Machine.State.ctx_setGrid : (s.setGrid g x).ctx = s.ctx.setGrid g.toNat x := State.ctx_setCtx ..

@[simp] theorem Machine.State.eng_setGrid : (s.setGrid g x).eng e = s.eng e := by rw [State.eng, State.ctx_setGrid]; rfl

@[simp] theorem Machine.State.grid_setGrid : (s.setGrid g x).grid g = x := by
  rw [State.grid, State.ctx_setGrid, Ctx.grid_setGrid, if_pos rfl]

@[simp] theorem Machine.State.grid_onEng (f : Eng → Eng) : (s.onEng e f).grid g = s.grid g := by
  rw [State.grid, State.ctx_onEng]; rfl

/-- A grid set by an instruction that then leaves the halo engine. -/
theorem onlyGrid_left : OnlyGrid s ((s.setGrid g x).onEng .halo Eng.leave) g := by
  refine ⟨(OnlyMoving.setCtx ..).trans (.setCtx ..), ?_, fun n hn => ?_, fun d hd => ?_⟩
  · rw [State.ctx_onEng, State.ctx_setGrid]; rfl
  · rw [State.ctx_onEng, State.ctx_setGrid]
    exact (Ctx.grid_setGrid x s.ctx g.toNat n).trans (if_neg hn)
  · exact (State.onEng_engAt_ne _ _ d _ hd).trans (s.eng_setGrid g x d)

end

/-! ## What a halo instruction does that nothing holds (R133, R142) -/

section
variable {s u : State} {i : Instr} {b : State → Res' State}

/-- A halo instruction that pushes nothing leaves with the state that its body gives. -/
theorem haloOp_ok (h : Issues s .halo i) (hb : b (afterRead s .halo i) = .ok u) :
    haloOp (noPush b) s = .next (u.onEng .halo Eng.leave) :=
  engineOp_of_issues h (l := []) (by rw [noPush, hb])

/-- A halo instruction that reads no queue register and whose body sets one grid. -/
theorem haloOp_setsGrid {g : BitVec 4} {x : Option Grid} (h : Issues s .halo i) (hq : queueReads i = [])
    (hb : b s = .ok (s.setGrid g x)) :
    ∃ t, haloOp (noPush b) s = .next t ∧ OnlyGrid s t g ∧ Leaves s t .halo ∧ t.grid g = x :=
  ⟨_, haloOp_ok h (by rw [afterRead_of_no_reads hq, hb]), onlyGrid_left .., leaves_of_eng_eq (State.eng_setGrid ..), by
    rw [State.grid_onEng, State.grid_setGrid]⟩

end

/-! ## Declarations (R317, R329, R331) -/

/-- A declared grid that is not active takes what a declaration gives. -/
theorem declare_ok {s : State} {g : BitVec 4} {r q : Grid} {f : Grid → Res' Grid} (hg : s.grid g = some r) (ha : r.active = false)
    (hf : f r = .ok q) : declare g s f = .ok (s.setGrid g (some q)) := by
  simp only [declare, hg, ha, hf, Bool.false_eq_true, if_false]

/-- A declaration sets its grid to what `declares` says, and leaves. -/
theorem exec_of_declares {i : Instr} {s : State} {g : BitVec 4} {r q : Grid} (h : declares s r i = some (g, q))
    (hi : Issues s .halo i) (hg : s.grid g = some r) (ha : r.active = false) :
    ∃ t, exec i s = .next t ∧ OnlyGrid s t g ∧ Leaves s t .halo ∧ t.grid g = some q := by
  unfold declares at h
  split at h
  case h_1 g' e dp => -- gbind
    cases h
    exact haloOp_setsGrid hi rfl (declare_ok hg ha rfl)
  case h_2 g' face rule dp => -- gbound
    cases h
    refine haloOp_setsGrid hi rfl (declare_ok hg ha (congrArg (fun x => Except.ok (r.setFace (faceNum face) x)) ?_))
    by_cases hp : rule = .periodic
    · subst hp; rfl
    · simp only [if_neg hp]
  case h_3 g' b a dp => -- gdepth
    dsimp only at h
    split at h
    next hn =>
      cases h
      exact haloOp_setsGrid hi rfl (declare_ok hg ha (if_neg (by omega)))
    next => cases h
  case h_4 g' face kind a dp => -- gface
    cases h
    refine haloOp_setsGrid hi rfl (declare_ok hg ha (congrArg (fun x => Except.ok (r.setFace (faceNum face) x)) ?_))
    by_cases hp : (r.face (faceNum face)).rule = some .periodic <;> simp [hp]
  case h_5 => cases h

/-- A grid declared from its record (R317, R329). -/
theorem exec_gdecl_declares {s : State} {g : BitVec 4} {h : BitVec 6} {dp : BitVec 3} {r : Handle}
    (hi : Issues s .halo (.gdecl g h dp)) (hg : s.grid g = none) (hr : s.hrec h = some r) (hrd : r.has rRD = true)
    (hwr : r.has rWR = true) (hown : s.isOwn r = true) (hx : r.nx ≠ 0) (hyz : r.nz = 0 ∨ r.ny ≠ 0)
    (hf : r.fmt = .fp32 ∨ r.fmt = .fp16 ∨ r.fmt = .bf16) :
    ∃ t, exec (.gdecl g h dp) s = .next t ∧ OnlyGrid s t g ∧ Leaves s t .halo ∧ t.grid g = some (Grid.declared r) := by
  refine haloOp_setsGrid hi rfl ?_
  have hgeo : ¬ (r.nx = 0 ∨ r.nz ≠ 0 ∧ r.ny = 0) := by omega
  have hfmt : ¬ (r.fmt ≠ .fp32 ∧ r.fmt ≠ .fp16 ∧ r.fmt ≠ .bf16) := by
    rintro ⟨h1, h2, h3⟩
    rcases hf with h | h | h <;> contradiction
  simp only [hg, hr, hrd, hwr, hown, hgeo, if_neg hfmt, Option.isSome_none, Bool.not_true, Bool.false_eq_true, or_self, if_false]

/-! ## Phases (R322, R323) -/

/-- A face as its phase starts: one whose rule is FIXED holds the step of the exchange at once (R323). -/
def Machine.FaceSt.begun (x : FaceSt) (n : BitVec 32) : FaceSt := if x.rule = some .fixed then { x with hstep := some n } else x

theorem Machine.FaceSt.begun_begun (x : FaceSt) (n : BitVec 32) : (x.begun n).begun n = x.begun n := by
  unfold FaceSt.begun
  by_cases h : x.rule = some .fixed
  · rw [if_pos h, if_pos h]
  · rw [if_neg h, if_neg h]

/-- A grid with one face as its phase starts: a FIXED face has nothing to send or to read (R323). -/
def Machine.Grid.beginFace (g : Grid) (f : Nat) : Grid :=
  if (g.face f).rule = some .fixed then
    { g.setFace f { g.face f with hstep := some g.tag } with
      sent := g.sent ||| BitVec.twoPow 6 f, read := g.read ||| BitVec.twoPow 6 f }
  else g

theorem Machine.Grid.startPhase_eq (g : Grid) (p : Nat) :
    g.startPhase p = (({ g with phase := p } : Grid).beginFace (2 * p - 2)).beginFace (2 * p - 1) := rfl

@[simp] theorem Machine.Grid.face_setFace (g : Grid) (f j : Nat) (x : FaceSt) : (g.setFace f x).face j = if j = f then x else g.face j :=
  SMap.get_set ..

/-- Of the grid, the start of a face changes its HSTEP and the faces sent and read alone. -/
theorem Machine.Grid.beginFace_spec (g : Grid) (f : Nat) :
    ∃ l a b, g.beginFace f = { g with faces := l, sent := a, read := b } := by
  unfold Grid.beginFace
  split
  · exact ⟨_, _, _, rfl⟩
  · exact ⟨g.faces, g.sent, g.read, rfl⟩

theorem Machine.Grid.tag_beginFace (g : Grid) (f : Nat) : (g.beginFace f).tag = g.tag := by
  obtain ⟨l, a, b, h⟩ := g.beginFace_spec f
  rw [h]; rfl

theorem Machine.Grid.face_beginFace (g : Grid) (f j : Nat) :
    (g.beginFace f).face j = if j = f then (g.face j).begun g.tag else g.face j := by
  unfold Grid.beginFace FaceSt.begun
  by_cases hr : (g.face f).rule = some .fixed
  · rw [if_pos hr]
    refine (g.face_setFace f j _).trans ?_
    split
    next hj => rw [hj, if_pos hr]
    next => rfl
  · rw [if_neg hr]
    split
    next hj => rw [hj, if_neg hr]
    next => rfl

/-- Of the grid, the start of a phase changes the phase, the HSTEP of faces and the faces sent and read alone (R322, R323). -/
theorem Machine.Grid.startPhase_spec (g : Grid) (p : Nat) :
    ∃ l a b, g.startPhase p = { g with phase := p, faces := l, sent := a, read := b } := by
  obtain ⟨l, a, b, h⟩ := ({ g with phase := p } : Grid).beginFace_spec (2 * p - 2)
  obtain ⟨l', a', b', h'⟩ := (({ g with phase := p } : Grid).beginFace (2 * p - 2)).beginFace_spec (2 * p - 1)
  exact ⟨l', a', b', by rw [Grid.startPhase_eq, h', h]⟩

/-- The two faces of a phase start it, and the others are as they were (R323). -/
theorem Machine.Grid.face_startPhase (g : Grid) (p j : Nat) :
    (g.startPhase p).face j = if j = 2 * p - 2 ∨ j = 2 * p - 1 then (g.face j).begun g.tag else g.face j := by
  have hface : ({ g with phase := p } : Grid).face j = g.face j := rfl
  have htag : ({ g with phase := p } : Grid).tag = g.tag := rfl
  rw [Grid.startPhase_eq]
  generalize ({ g with phase := p } : Grid) = k at hface htag
  rw [Grid.face_beginFace, Grid.face_beginFace, Grid.tag_beginFace, hface, htag]
  by_cases h2 : j = 2 * p - 2
  · rw [if_pos h2, if_pos (Or.inl h2), FaceSt.begun_begun, ite_self]
  · simp only [h2, false_or, if_false]

/-! ## The start of an exchange (R322, R326, R330, R332) -/

/-- A grid as its exchange starts, but for the first phase: active, for the step that STEP holds (R332). -/
def Machine.Grid.opened (r : Grid) (s : State) : Grid := { r with
  active := true, xstep := some r.step, sent := 0, read := 0, waiting := 0, incp := r.bind.isSome, failed := false
  issued := s.dcc, line := s.iss.line, lane := s.iss.lane, age := s.iss.age }

/-- The flight of an exchange: what the range checker holds until it completes (R326). -/
def Machine.State.exchangeFlight (s : State) (r : Grid) : Flight :=
  ⟨3, s.iss.age, none, r.hd.world, s.memRanges s.iss, 0, 0, 0, [], [], false, s.iss.line, s.iss.lane⟩

/-- The state in which an exchange of a grid is under way in its first phase (R322, R326). -/
def Machine.State.exchangeOpened (s : State) (g : BitVec 4) (r : Grid) : State :=
  let t := s.setGrid g (some ((r.opened s).startPhase 1))
  t.setCtx { t.ctx with fl := t.ctx.fl ++ [s.exchangeFlight r] }

theorem Machine.State.ctx_exchangeOpened (s : State) (g : BitVec 4) (r : Grid) : (s.exchangeOpened g r).ctx =
    { s.ctx.setGrid g.toNat (some ((r.opened s).startPhase 1)) with fl := s.ctx.fl ++ [s.exchangeFlight r] } := by
  rw [State.exchangeOpened, State.ctx_setCtx, State.ctx_setGrid]; rfl

theorem Machine.State.grid_exchangeOpened (s : State) (g : BitVec 4) (r : Grid) (n : Nat) :
    (s.exchangeOpened g r).ctx.grid n = if n = g.toNat then some ((r.opened s).startPhase 1) else s.ctx.grid n := by
  rw [State.ctx_exchangeOpened]
  exact Ctx.grid_setGrid (some ((r.opened s).startPhase 1)) s.ctx g.toNat n

/-- GXCHG of a grid whose checks pass opens its exchange (R330, R332). -/
theorem exec_gxchg_opens {s : State} {g : BitVec 4} {dp : BitVec 3} {r : Grid} (hi : Issues s .halo (.gxchg g dp))
    (hg : s.grid g = some r) (hp : r.phase = 0) (hl : s.live (some r.hd) = some r.hd)
    (hc : if r.active then (r.step - r.xstep.getD 0).toNat = r.depth else s.gridCheck r = none)
    (hpart : s.inPartition r.hd 0 r.size = true) :
    exec (.gxchg g dp) s = .next ((s.exchangeOpened g r).onEng .halo Eng.leave) := by
  have hcheck : (if r.active then (if (r.step - r.xstep.getD 0).toNat ≠ r.depth then some (6, 0) else none)
      else s.gridCheck r) = none := by
    split at hc
    next ha => rw [if_pos ha, if_neg (not_not.2 hc)]
    next ha => rw [if_neg ha, hc]
  refine haloOp_ok hi ?_
  rw [afterRead_of_no_reads rfl]
  simp only [hg, hp, hl, hcheck, hpart, ne_eq, not_true_eq_false, Option.isNone_some, Bool.not_true, Bool.false_eq_true, if_false]
  rfl

/-! ## Steps (R331, R332) -/

/-- A map whose values are all changed by a function that keeps the default. -/
theorem Machine.SMap.get_map {α : Type} {d : α} {f : α → α} (hd : f d = d) (m : SMap α) (k : Nat) :
    SMap.get d (m.map (fun e => (e.1, f e.2))) k = f (SMap.get d m k) := by
  induction m with
  | nil => exact hd.symm
  | cons e m ih =>
    obtain ⟨a, x⟩ := e
    simp only [List.map_cons, SMap.get]
    split
    · rfl
    · exact ih

/-- A grid at step 0 whose faces hold no step (R331). -/
def Machine.Grid.reset (r : Grid) : Grid :=
  { r with step := 0, xstep := none, active := false, faces := r.faces.map (fun e => (e.1, { e.2 with hstep := none })) }

theorem Machine.Grid.face_reset (r : Grid) (f : Nat) : r.reset.face f = { r.face f with hstep := none } :=
  SMap.get_map (d := FaceSt.none) (f := fun x => { x with hstep := none }) rfl r.faces f

/-- GRESET of a grid with no exchange in progress (R331). -/
theorem exec_greset_resets {s : State} {g : BitVec 4} {dp : BitVec 3} {r : Grid} (hi : Issues s .halo (.greset g dp))
    (hg : s.grid g = some r) (hp : r.phase = 0) :
    ∃ t, exec (.greset g dp) s = .next t ∧ OnlyGrid s t g ∧ Leaves s t .halo ∧ t.grid g = some r.reset := by
  refine haloOp_setsGrid hi rfl ?_
  simp only [hg, hp, ne_eq, not_true_eq_false, if_false, Grid.reset]

/-- Settles O24. Each instruction but gxchg sets its grid alone (`haloOp_setsGrid`), and gxchg opens its exchange. -/
theorem gridsAndExchangesAreSet : Obligations.GridsAndExchangesAreSet := by
  unfold Obligations.GridsAndExchangesAreSet
  refine ⟨⟨?declared, ?set, fun g dp r s hg => ⟨?step, ?reset, ?free⟩⟩, ?exchange⟩
  case declared =>
    intro g h dp r s hi hg hr hrd hwr hown hx hyz hf
    obtain ⟨t, ht, ho, hl, hq⟩ := exec_gdecl_declares hi hg hr hrd hwr hown hx hyz hf
    have hext (n : Nat) : (if n = 0 then 1 else n) = max 1 n := by split <;> omega
    refine ⟨t, _, ht, ho, hl, hq, rfl, rfl, rfl, hext r.ny, hext r.nz, ?_, rfl, rfl, rfl, rfl, rfl, rfl, rfl, rfl, fun _ => rfl⟩
    rcases hf with h | h | h <;> rw [Grid.declared, h] <;> rfl
  case set =>
    intro i g r q s h hi hg ha
    exact exec_of_declares h hi hg ha
  case step =>
    intro hi ha hd
    refine haloOp_setsGrid hi rfl ?_
    have hstep : ¬ (false = true ∨ r.depth < (r.step + 1 - r.xstep.getD 0).toNat) := by
      rintro (h | h)
      · cases h
      · omega
    simp only [hg, ha, Bool.not_true, if_neg hstep]
  case reset =>
    intro hi hp
    obtain ⟨t, ht, ho, hl, hq⟩ := exec_greset_resets hi hg hp
    exact ⟨t, _, ht, ho, hl, hq, rfl, r.face_reset⟩
  case free =>
    intro hi hp
    refine haloOp_setsGrid hi rfl ?_
    simp only [hg, hp, ne_eq, not_true_eq_false, if_false]
  case exchange =>
    intro g dp r s hi hg hp hlive hc hpart
    have hx := exec_gxchg_opens hi hg hp hlive hc hpart
    have hctx := s.ctx_exchangeOpened g r
    have hgrid := s.grid_exchangeOpened g r
    have hmov : OnlyMoving s (s.exchangeOpened g r) := (OnlyMoving.setCtx ..).trans (.setCtx ..)
    have hface (f : Nat) : ((r.opened s).startPhase 1).face f =
        if (f = 0 ∨ f = 1) ∧ (r.face f).rule = some .fixed then { r.face f with hstep := some r.step } else r.face f := by
      rw [Grid.face_startPhase, FaceSt.begun, ite_and]; rfl
    generalize s.exchangeOpened g r = u at hx hctx hgrid hmov
    obtain ⟨l, a, b, hq⟩ := (r.opened s).startPhase_spec 1
    rw [hq] at hgrid hface hctx
    refine ⟨_, _, hx, hmov.trans (.setCtx ..), ?_, fun n hn => ?_, leaves_of_eng_eq ?_,
      (State.grid_onEng ..).trans ((hgrid g.toNat).trans (if_pos rfl)), rfl, rfl, rfl, rfl, rfl, rfl, rfl, rfl, rfl, rfl, hface, ?_⟩
    · rw [State.ctx_onEng, hctx]; rfl
    · rw [State.ctx_onEng]
      exact (hgrid n).trans (if_neg hn)
    · rw [State.eng, hctx]; rfl
    · rw [State.ctx_onEng, hctx]; rfl

/-! ## Faces against a step (R333, R335) -/

/-- Every face of a list holds a step, the one needed or a later one, and no more than DEPTH beyond it. -/
theorem Machine.Grid.check_ready_iff (g : Grid) (n : BitVec 32) (l : List Nat) : g.check n l = .ready ↔
    ∀ f ∈ l, ∃ h, (g.face f).hstep = some h ∧ stepGe h n = true ∧ stepGt h (n + BitVec.ofNat 32 g.depth) = false := by
  induction l with
  | nil => simp [Grid.check]
  | cons f l ih =>
    rw [List.forall_mem_cons, ← ih, Grid.check]
    cases hh : (g.face f).hstep with
    | none => simp
    | some h =>
      cases ho : stepGt h (n + BitVec.ofNat 32 g.depth)
      · cases hn : stepGe h n <;> simp [ho, hn]
      · simp [ho]

/-- No face overruns where every one is ready. -/
theorem Machine.Grid.find_over_of_ready {g : Grid} {n : BitVec 32} {l : List Nat} (h : g.check n l = .ready) :
    l.find? (g.over n) = none := by
  refine List.find?_eq_none.2 (fun f hf => ?_)
  obtain ⟨x, hx, -, ho⟩ := (g.check_ready_iff n l).1 h f hf
  simp only [Grid.over, hx, ho, Bool.false_eq_true, not_false_eq_true]

/-- GWAIT whose faces are ready sends its increment and leaves (R333). -/
theorem exec_gwait_ready {s : State} {g : BitVec 4} {a : BitVec 5} {e : BitVec 6} {dp : BitVec 3} {r : Grid}
    (hi : Issues s .halo (.gwait g a e dp)) (hg : s.grid g = some r) (hc : r.check ((s.sc a).setWidth 32) r.used = .ready) :
    exec (.gwait g a e dp) s =
      .next ((s.sendIncr s.cur s.bind.gang.toNat s.bind.strand.toNat e 1).onEng .halo Eng.leave) := by
  refine haloOp_ok hi ?_
  rw [afterRead_of_no_reads rfl]
  simp only [hg, Grid.find_over_of_ready hc, faceWait, hc]

/-! ## Loads and stores at a step (R113, R327, R335) -/

/-- What an access that does not wait does is not put off (R335). -/
theorem afterHold_free {α : Type} {s : State} (k : State → Res' α) (h : ∀ a b, (s.eng .halo).stall ≠ .halo a b) :
    afterHold k s = k s := by
  unfold afterHold
  split
  next a b hs => exact absurd hs (h a b)
  next => rfl

/-- An access goes on where its grid is active, its bytes lie in the grid and its faces hold the step that it needs (R335). -/
theorem gridAccess_ready {α : Type} {s : State} {g : BitVec 4} {n : BitVec 32} {store : Bool} {h : Handle} {off : Int} {k : BitVec 3}
    {r : Grid} {l : List Nat} (go : Grid → List Nat → State → Res' α) (hg : s.grid g = some r) (ha : r.active = true)
    (hl : s.live (some r.hd) = some r.hd) (hb : gridBytes r h off s.ctx.vec k = some l)
    (hs : store = true → stepGt n (r.xstep.getD 0) = true ∧ stepGe (r.xstep.getD 0 + BitVec.ofNat 32 r.depth) n = true)
    (hc : r.check (if store then r.xstep.getD 0 else n) (touched r l) = .ready)
    (hst : ∀ a b, (s.eng .halo).stall ≠ .halo a b) : gridAccess s g n store h off k go = go r l s := by
  have hsteps : ¬ (store = true ∧
      (!(stepGt n (r.xstep.getD 0) && stepGe (r.xstep.getD 0 + BitVec.ofNat 32 r.depth) n)) = true) := by
    rintro ⟨h1, h2⟩
    obtain ⟨h3, h4⟩ := hs h1
    rw [h3, h4] at h2
    cases h2
  simp only [gridAccess, hg, ha, hl, hb, if_neg hsteps, faceWait, hc, Bool.not_true, Bool.false_eq_true, Option.isNone_some, if_false]
  exact afterHold_free _ hst

/-- A result given to D by an engine whose work is not charged: D receives it, and nothing else of the registers changes. -/
theorem receives_uncharged (u : State) (e : Engine) (d : VR) (x : VReg) (f : Fmt) :
    OnlyIssue u (State.pushAll e (u.result d x f).2 (u.result d x f).1) e ∧
      Receives u.ctx.vec u (State.pushAll e (u.result d x f).2 (u.result d x f).1) e d x f := by
  cases d with
  | v n =>
    refine ⟨(OnlyIssue.onVec ..).trans (.onEng ..), ?_, leaves_of_eng_eq ?_⟩
    · rw [State.result, State.pushAll_nil, State.vec_onEng, State.vec_onVec]
    · exact State.eng_onVec ..
  | q n | pk n => exact ⟨.pushAll_single _ _ rfl, receives_pushAll rfl⟩


/-- A load at a step reads no queue register, as a vector load (R153). -/
theorem queueReads_gld (f : Fmt) (o : GMOp) : queueReads (.gld f o) = [] := queueReads_vld f ⟨o.x, o.h, o.a, 0, o.k, o.dp, none⟩

theorem readFirst_gst (f : Fmt) (o : GMOp) : ReadFirst (.gst f o) o.x := ⟨List.mem_singleton_self _, nofun⟩

section
variable (s : State) (e : Engine) (i : Instr)

@[simp] theorem grid_afterRead (g : BitVec 4) : (afterRead s e i).grid g = s.grid g := by
  rw [State.grid, (OnlyIssue.afterRead s e i).2.1]; rfl

@[simp] theorem live_afterRead (h : Option Handle) : (afterRead s e i).live h = s.live h := by
  rw [(OnlyIssue.afterRead s e i).1.1]; rfl

/-- The bytes of the active lanes do not depend on the queue registers. -/
theorem gridBytes_popped (r : Grid) (h : Handle) (off : Int) (k : BitVec 3) :
    gridBytes r h off (popped s i) k = gridBytes r h off s.ctx.vec k := by rw [gridBytes, popped_runs, gridBytes]

end

/-- Settles O25. gwait sends its increment once `Grid.check` answers that its faces are ready; gld and gst go on where
`gridAccess_ready` lets them, as a vector load or store does. -/
theorem stepAccessesNeedTheirSteps : Obligations.StepAccessesNeedTheirSteps := by
  unfold Obligations.StepAccessesNeedTheirSteps
  refine ⟨?wait, ?load, ?store⟩
  case wait =>
    intro g a e dp r s hi hg hf
    refine ⟨_, exec_gwait_ready hi hg ((r.check_ready_iff _ _).2 hf), leaves_of_eng_eq rfl, rfl, rfl, ?_⟩
    rw [State.ctx_onEng]; rfl
  case load =>
    intro s u f o h c keep raw r l off hi _ hc hg ha hlive hb hcheck hk hp hst hl
    have hoff : (s.sc o.a).toInt + o.i.toInt * 64 = off := rfl
    have haccess := gridAccess_ready (store := false) (n := (s.sc o.st).setWidth 32)
      (fun _ _ s => loadReg 3 .rne o.x h c f o.k off s) hg ha hlive hb nofun hcheck hst
    have hkeep : s.keepTyped o.x o.k f .rne false = .ok keep := by
      have hr := keepTyped_of_kept (e := .halo) (i := .gld f o) hk
      rwa [afterRead_of_no_reads (queueReads_gld f o)] at hr
    rw [exec_gld, execGld]
    refine ⟨_, engineOp_of_issues hi ?_, receives_uncharged ..⟩
    rw [afterRead_of_no_reads (queueReads_gld f o)]
    simp only [hoff, hc, hkeep]
    exact haccess.trans (loadReg_of_lanes hkeep hp hl)
  case store =>
    intro s u f o h c rd r l i v off n pieces hi hc hg ha hlive hb hn hd hcheck hunread hst hx hne hpost
    have hoff : (s.sc o.a).toInt + o.i.toInt * 64 = off := rfl
    subst v i n
    have haccess := gridAccess_ready (s := afterRead s .halo (.gst f o)) (store := true) (n := (s.sc o.st).setWidth 32)
      (fun r bytes s => if r.unread bytes then .error (.hold (s.stall .halo .none)) else s.postPieces .halo h pieces 0 (offW off))
      ((grid_afterRead ..).trans hg) ha ((live_afterRead ..).trans hlive) (by rw [vec_afterRead, gridBytes_popped]; exact hb)
      (fun _ => ⟨hn, hd⟩) hcheck hst
    simp only [hunread, Bool.false_eq_true, if_false, postPieces_of_posts hne hpost] at haccess
    rw [exec_gst, execGst]
    refine ⟨_, haloOp_ok hi ?_, .onEng .., State.vec_onEng .., .onEng .., rfl⟩
    simp only [sc_afterRead, hoff, hc, storeReg, opnd_afterRead (readFirst_gst f o), vec_afterRead, popped_runs, readOp_of_elems 0 hx]
    exact haccess

/-! ## Layers on their way (R322 to R325) -/

/-- Energy is charged in contexts alone. -/
theorem Machine.State.chargeRuns_eq (s : State) (k : Nat) (l : List (Nat × Nat)) :
    s.chargeRuns k l = { s with ctxs := (s.chargeRuns k l).ctxs } :=
  List.foldlRecOn l _ (motive := fun t : State => t = { s with ctxs := t.ctxs }) rfl (fun t ht x _ => by
    split
    · rw [ht]; rfl
    · split
      · rw [ht]; rfl
      · exact ht)

/-- Flits are injected in ports alone. -/
theorem Machine.State.inject_eq (s : State) (core dst who : Nat) (l : List Flit) :
    s.inject core dst who l = { s with ports := (s.inject core dst who l).ports } := by
  unfold State.inject
  split <;> rfl

/-- What flits do to the ports is no matter of the contexts. -/
theorem Machine.State.ports_inject_ctxs (s : State) (c : SMap Ctx) (core dst who : Nat) (l : List Flit) :
    (({ s with ctxs := c } : State).inject core dst who l).ports = (s.inject core dst who l).ports := by
  unfold State.inject
  dsimp only
  split <;> rfl

/-- A layer put on its way stands among the layers or in the ports. -/
theorem Machine.State.sendLayer_eq (s : State) (l : LayerMsg) :
    s.sendLayer l = { s with layers := (s.sendLayer l).layers, ports := (s.sendLayer l).ports } := by
  unfold State.sendLayer
  split
  · rfl
  · rw [State.inject_eq]

/-- A grid whose layer of a face has been read and sent (R322). -/
def Machine.Grid.sentOn (r : Grid) (f : Nat) : Grid := { r with
  sent := r.sent ||| BitVec.twoPow 6 f, read := r.read ||| BitVec.twoPow 6 f, waiting := r.waiting &&& ~~~BitVec.twoPow 6 f }

/-- The state in which the layer of a face has been read and sent (R322). -/
def Machine.State.layerSent (s : State) (g : BitVec 4) (r : Grid) (f : Nat) (l : LayerMsg) : State :=
  ((s.chargeRuns s.cur (r.runs (r.rows (r.inner f)))).sendLayer l).setGrid g (some (r.sentOn f))

section
variable (s : State) (g : BitVec 4) (r : Grid) (f : Nat) (l : LayerMsg)

theorem Machine.State.mem_layerSent : (s.layerSent g r f l).mem = s.mem := by
  change ((s.chargeRuns s.cur _).sendLayer l).mem = s.mem
  rw [State.sendLayer_eq, State.chargeRuns_eq]

theorem Machine.State.grid_layerSent : (s.layerSent g r f l).grid g = some (r.sentOn f) := State.grid_setGrid ..

/-- A layer to a strand of this device goes over the lateral network (R325). -/
theorem Machine.State.layers_layerSent (h : l.dev = s.dev.num) : (s.layerSent g r f l).layers = s.layers ++ [l] := by
  change ((s.chargeRuns s.cur _).sendLayer l).layers = _
  rw [State.chargeRuns_eq, State.sendLayer, if_pos h]

/-- A layer to a strand of another device goes as flits of the strand's world (R325). -/
theorem Machine.State.layerSent_abroad (h : l.dev ≠ s.dev.num) : (s.layerSent g r f l).layers = s.layers ∧
    (s.layerSent g r f l).ports = (s.inject (coreId (coreOf s.cur)) l.dev.toNat (s.bind.gang.toNat * 65536 + s.bind.strand.toNat)
      ((gotOfLayer l).flits l.world l.dev.toNat)).ports := by
  change ((s.chargeRuns s.cur _).sendLayer l).layers = _ ∧ ((s.chargeRuns s.cur _).sendLayer l).ports = _
  rw [State.chargeRuns_eq, State.sendLayer, if_neg h]
  exact ⟨by rw [State.inject_eq], s.ports_inject_ctxs ..⟩

end

/-- The device of a partner is a device number (R323, R413). -/
theorem Machine.State.partner_dev_lt {s : State} {x : FaceSt} {d gang strand : Nat} (h : s.partner x = some (d, gang, strand)) :
    d < 2 ^ 9 := by
  have hown : s.dev.num.toNat < 2 ^ 9 := s.dev.num.isLt
  unfold State.partner at h
  split at h
  · split at h
    · cases h; exact hown
    · cases h
  · split at h
    · cases h; exact Nat.mod_lt _ (by decide)
    · cases h; exact hown

/-- A layer of a face that the exchange of a running strand has still to send (R322, R373). -/
def Unsent (s : State) (g : BitVec 4) (face : Face) (r : Grid) : Prop :=
  s.grid g = some r ∧ s.ctx.phase = .running ∧ r.phase = faceNum face / 2 + 1 ∧ faceNum face < 2 * r.dims ∧
  r.sent.getLsbD (faceNum face) = false ∧ r.issued.toNat + 2 ≤ s.dcc.toNat

/-- The layer of a face as it goes to the opposite face of a partner (R322, R323). -/
def Machine.State.awayLayer (s : State) (g : BitVec 4) (r : Grid) (f : Nat) (p : Nat × Nat × Nat) : LayerMsg :=
  s.layer g r (r.inner f) p (opposite f) false (s.readBox s.ctx r (r.inner f))
    (pathB (s.classTo p.2.1 p.2.2) + ceilDiv (r.bytes (r.inner f)) (pathW (s.classTo p.2.1 p.2.2)))

/-- The layer that a local rule makes for its own face (R323). -/
def Machine.State.ruledLayer (s : State) (g : BitVec 4) (r : Grid) (f : Nat) (rule : Rule) : LayerMsg :=
  s.layer g r (r.inner f) (s.dev.num.toNat, s.bind.gang.toNat, s.bind.strand.toNat) f true (s.ruledData s.ctx r f rule)
    (4 + ceilDiv (r.bytes (r.inner f)) 256)

section
variable {s : State} {g : BitVec 4} {face : Face} {r : Grid} (h : Unsent s g face r)
include h

/-- A connected or PERIODIC face whose partner accepts the layer sends it (R323, R324). -/
theorem execHaloLayerSend_accepted {p : Nat × Nat × Nat}
    (hr : (r.face (faceNum face)).rule = none ∨ (r.face (faceNum face)).rule = some .periodic)
    (hp : s.partner (r.face (faceNum face)) = some p) (ha : s.accepted p g r.tag = true) :
    execHaloLayerSend g face s = .next (s.layerSent g r (faceNum face) (s.awayLayer g r (faceNum face) p)) := by
  obtain ⟨hg, hrun, hph, hf, hs, hi⟩ := h
  rcases hr with hr | hr <;>
    (simp only [execHaloLayerSend, hg, hrun, ← hph, hf, hs, hi, hr, hp, ha, Bool.not_false, and_self, if_true]; rfl)

/-- One whose partner does not accept the layer yet waits (R324). -/
theorem execHaloLayerSend_waits {p : Nat × Nat × Nat}
    (hr : (r.face (faceNum face)).rule = none ∨ (r.face (faceNum face)).rule = some .periodic)
    (hp : s.partner (r.face (faceNum face)) = some p) (ha : s.accepted p g r.tag = false) :
    execHaloLayerSend g face s =
      .next (s.setGrid g (some { r with waiting := r.waiting ||| BitVec.twoPow 6 (faceNum face) })) := by
  obtain ⟨hg, hrun, hph, hf, hs, hi⟩ := h
  rcases hr with hr | hr <;>
    simp only [execHaloLayerSend, hg, hrun, ← hph, hf, hs, hi, hr, hp, ha, Bool.not_false, and_self, if_true,
      Bool.false_eq_true, if_false]

/-- A face that a local rule fills sends itself what the rule makes (R323). -/
theorem execHaloLayerSend_ruled {rule : Rule} (hr : (r.face (faceNum face)).rule = some rule) (hfix : rule ≠ .fixed)
    (hper : rule ≠ .periodic) :
    execHaloLayerSend g face s = .next (s.layerSent g r (faceNum face) (s.ruledLayer g r (faceNum face) rule)) := by
  obtain ⟨hg, hrun, hph, hf, hs, hi⟩ := h
  cases rule with
  | fixed => exact absurd rfl hfix
  | periodic => exact absurd rfl hper
  | _ => simp only [execHaloLayerSend, hg, hrun, ← hph, hf, hs, hi, hr, Bool.not_false, and_self, if_true]; rfl

end

/-! ## Layers at their receiver (R324, R325, R338, R389) -/

/-- The state without a layer that has come (R324). -/
def Machine.State.layerGone (s : State) (l : LayerMsg) : State :=
  { s with layers := s.layers.erase l, rx := s.rx.filter (fun x => !(x.op = opLAYER && layerOfGot s.dev.num x = l)) }

/-- The state in which a layer stands in the ghost layer of its face, which holds its step (R324). -/
def Machine.State.layerTaken (s : State) (k : Nat) (r : Grid) (l : LayerMsg) : State :=
  let f := faceNum l.face
  let runs := r.runs (r.rows (r.ghost f))
  let t := ((s.layerGone l).storeSegs (cutRuns runs l.data)).chargeRuns k runs
  t.setAt k ((t.ctxAt k).setGrid l.g.toNat (some (r.setFace f { r.face f with hstep := some l.step })))

/-- The state in which the receiver's exchange has failed by a layer that is discarded (R324). -/
def Machine.State.layerFailed (s : State) (k : Nat) (r : Grid) (l : LayerMsg) : State :=
  (s.layerGone l).setAt k ((s.ctxAt k).setGrid l.g.toNat (some { r with failed := true }))

/-- The state in which a layer that fails a check is discarded and reported against the exchange (R324, R337). -/
def Machine.State.layerRefused (s : State) (k : Nat) (r : Grid) (l : LayerMsg) : State :=
  (s.layerFailed k r l).raiseA k .halo tGRIDSTATE (gridInfo 7 (faceNum l.face) l.g) r.line r.lane

section
variable (s : State) (k : Nat) (r : Grid) (l : LayerMsg)

theorem Machine.State.mem_layerTaken : (s.layerTaken k r l).mem =
    (cutRuns (r.runs (r.rows (r.ghost (faceNum l.face)))) l.data).foldl (fun m g => m.write g.a g.n g.v) s.mem := by
  dsimp only [State.layerTaken]
  rw [State.setAt_mem, State.chargeRuns_eq, State.storeSegs_mem]; rfl

theorem Machine.State.layers_layerTaken : (s.layerTaken k r l).layers = s.layers.erase l := by
  dsimp only [State.layerTaken]
  obtain ⟨o, b, w, h⟩ := (s.layerGone l).storeSegs_spec (cutRuns (r.runs (r.rows (r.ghost (faceNum l.face)))) l.data)
  rw [State.setAt_layers, State.chargeRuns_eq, h]; rfl

theorem Machine.State.grid_layerTaken : ((s.layerTaken k r l).ctxAt k).grid l.g.toNat =
    some (r.setFace (faceNum l.face) { r.face (faceNum l.face) with hstep := some l.step }) := by
  dsimp only [State.layerTaken]
  rw [State.ctxAt_setAt, if_pos rfl, Ctx.grid_setGrid, if_pos rfl]

theorem Machine.State.ctxAt_layerFailed :
    (s.layerFailed k r l).ctxAt k = (s.ctxAt k).setGrid l.g.toNat (some { r with failed := true }) := by
  rw [State.layerFailed, State.ctxAt_setAt, if_pos rfl]

theorem Machine.State.grid_layerRefused :
    ((s.layerRefused k r l).ctxAt k).grid l.g.toNat = some { r with failed := true } := by
  obtain ⟨-, -, -, h⟩ := (s.layerFailed k r l).raiseA_spec k .halo tGRIDSTATE (gridInfo 7 (faceNum l.face) l.g) r.line r.lane
  rw [State.layerRefused, h, State.ctxAt_layerFailed]
  exact (Ctx.grid_setGrid (some { r with failed := true }) (s.ctxAt k) l.g.toNat l.g.toNat).trans (if_pos rfl)

/-- The report is pending on the halo engine of the receiver where no other trap of it is (R364, R366). -/
theorem Machine.State.pend_layerRefused (h : ((s.ctxAt k).engAt .halo).pend = none) : (((s.layerRefused k r l).ctxAt k).engAt .halo).pend =
    some ⟨true, tGRIDSTATE, gridInfo 7 (faceNum l.face) l.g, r.line, r.lane, s.dcc, false⟩ := by
  obtain ⟨-, -, he, -⟩ := (s.layerFailed k r l).raiseA_spec k .halo tGRIDSTATE (gridInfo 7 (faceNum l.face) l.g) r.line r.lane
  rw [State.layerRefused, he, State.ctxAt_layerFailed, Ctx.engAt_setGrid, Eng.raise, h]; rfl

end

/-- The checks of R324 and R338 in the order in which the receiver makes them all pass exactly where the layer agrees. -/
theorem not_agrees_iff (s : State) (k : Nat) (r : Grid) (l : LayerMsg) : ¬ Agrees s k r l ↔
    (s.layerRevoked l ∨ !s.takes k (r.face (faceNum l.face)) l ∨ 2 * r.dims ≤ faceNum l.face ∨ l.w ≠ r.w ∨ l.ew ≠ r.ew ∨
      l.ex ≠ (r.ghost (faceNum l.face)).x1 - (r.ghost (faceNum l.face)).x0 ∨
      l.ey ≠ (r.ghost (faceNum l.face)).y1 - (r.ghost (faceNum l.face)).y0 ∨
      l.ez ≠ (r.ghost (faceNum l.face)).z1 - (r.ghost (faceNum l.face)).z0) := by
  simp only [Agrees, not_and_or, Bool.not_eq_false, Bool.not_eq_true, Bool.not_eq_eq_eq_not, Bool.not_true, not_lt, ne_eq]

/-- A layer of this device has come once its cycle is reached; one of another device stands at the receiver (R325). -/
theorem layer_in_place {s : State} {l : LayerMsg} (h : l.srcDev = s.dev.num → l ∈ s.layers ∧ l.due ≤ s.dcc.toNat) :
    ¬ (l.srcDev = s.dev.num ∧ !(s.layers.contains l && decide (l.due ≤ s.dcc.toNat))) := by
  rintro ⟨hdev, hnot⟩
  obtain ⟨hm, hd⟩ := h hdev
  simp [hm, hd] at hnot

/-- A layer over a link that does not carry the world of the receiver's partition is dropped, with a record (R389). -/
theorem execHaloLayerArrival_otherWorld {s : State} {l : LayerMsg} {k : Nat} (hd : l.srcDev ≠ s.dev.num)
    (hk : s.keyOf l.gang l.strand = some k) (hw : l.world ≠ (s.bindAt k).world) :
    execHaloLayerArrival l s = .next ((s.layerGone l).logged logRefusal 0) := by
  rw [execHaloLayerArrival, if_neg (layer_in_place (fun h => absurd h hd))]
  simp only [hk, hd, hw, ne_eq, not_false_eq_true, and_self, if_true]; rfl

section
variable {s : State} {l : LayerMsg} {k : Nat} {r : Grid} (hin : l.srcDev = s.dev.num → l ∈ s.layers ∧ l.due ≤ s.dcc.toNat)
  (hk : s.keyOf l.gang l.strand = some k) (hw : l.srcDev ≠ s.dev.num → l.world = (s.bindAt k).world)
  (hg : (s.ctxAt k).grid l.g.toNat = some r) (hb : r.began l.step = true) (hl : s.live (some r.hd) = some r.hd)
include hin hk hw hg hb hl

/-- A layer whose receiver's exchange of its step has begun is written into its ghost layer where it agrees with the receiver's grid,
and discarded and reported where it does not (R324). -/
theorem execHaloLayerArrival_checked : (Agrees s k r l → execHaloLayerArrival l s = .next (s.layerTaken k r l)) ∧
    (¬ Agrees s k r l → execHaloLayerArrival l s = .next (s.layerRefused k r l)) := by
  have hworld : ¬ (l.srcDev ≠ s.dev.num ∧ l.world ≠ (s.bindAt k).world) := fun ⟨h1, h2⟩ => h2 (hw h1)
  rw [execHaloLayerArrival, if_neg (layer_in_place hin)]
  simp only [hk, if_neg hworld, hg, hb, hl, Bool.not_true, Bool.false_eq_true, if_false, Option.isNone_some]
  refine ⟨fun h => ?_, fun h => ?_⟩
  · rw [if_neg (fun hc => (not_agrees_iff s k r l).2 hc h)]; rfl
  · rw [if_pos ((not_agrees_iff s k r l).1 h)]; rfl

end

/-! ## Phases, ends and waits (R322, R326, R332, R333, R335) -/

/-- A phase begins when both faces of the last hold the step (R322). -/
theorem execHaloPhaseAdvance_advances {s : State} {g : BitVec 4} {r : Grid} (hg : s.grid g = some r) (hrun : s.ctx.phase = .running)
    (hp : r.phase ≠ 0) (hd : r.phase < r.dims) (h2 : r.holds (2 * r.phase - 2) = true) (h1 : r.holds (2 * r.phase - 1) = true) :
    execHaloPhaseAdvance g s = .next (s.setGrid g (some (r.startPhase (r.phase + 1)))) := by
  simp only [execHaloPhaseAdvance, hg, hrun, hp, hd, h2, h1, ne_eq, not_false_eq_true, and_self, if_true]

/-- The counter bound to a grid raised as its exchange ends (R326). -/
def Machine.State.boundRaised (s : State) (r : Grid) : State :=
  match r.incp, r.bind with
  | true, some e => s.sendIncr s.cur s.bind.gang.toNat s.bind.strand.toNat e 1
  | _, _ => s

theorem Machine.State.boundRaised_eq (s : State) (r : Grid) : s.boundRaised r = { s with incrs := (s.boundRaised r).incrs } := by
  unfold State.boundRaised
  split <;> rfl

/-- The state in which the exchange of a grid has ended and its bytes are released (R326). -/
def Machine.State.exchangeClosed (s : State) (g : BitVec 4) (r : Grid) : State :=
  let t := (s.boundRaised r).setGrid g (some { r with phase := 0, incp := false })
  t.setCtx { t.ctx with fl := t.ctx.fl.filter (fun f => !(f.src = 3 && f.age = r.age && f.segs.isEmpty)) }

theorem Machine.State.ctx_exchangeClosed (s : State) (g : BitVec 4) (r : Grid) : (s.exchangeClosed g r).ctx =
    { s.ctx.setGrid g.toNat (some { r with phase := 0, incp := false }) with
      fl := s.ctx.fl.filter (fun f => !(f.src = 3 && f.age = r.age && f.segs.isEmpty)) } := by
  dsimp only [State.exchangeClosed]
  rw [State.ctx_setCtx, State.ctx_setGrid, State.boundRaised_eq]; rfl

/-- An exchange ends when every face holds the step and has been read (R326, R332). -/
theorem execGxchgComplete_closes {s : State} {g : BitVec 4} {r : Grid} (hg : s.grid g = some r) (hrun : s.ctx.phase = .running)
    (hp : r.phase = r.dims) (h0 : r.phase ≠ 0) (hf : ∀ f ∈ r.used, r.holds f = true ∧ r.read.getLsbD f = true) :
    execGxchgComplete g s = .next (s.exchangeClosed g r) := by
  have hx : r.exchanged = true := by
    simp only [Grid.exchanged, Bool.and_eq_true, decide_eq_true_eq, List.all_eq_true]
    exact ⟨⟨hp, h0⟩, hf⟩
  simp only [execGxchgComplete, hg, hx, hrun, and_self, if_true]
  rfl

theorem Machine.State.haloHead_eq {s : State} {c : Cap} {b : Bool} (h : (s.eng .halo).head = some (c, b)) :
    s.haloHead = some { s with iss := c } := by
  simp only [State.haloHead, h]

/-- An engine that has latched nothing has nothing to put back (R119). -/
theorem Machine.State.unread_unlatched {s : State} {e : Engine} (h : (s.eng e).latched = false) : s.unread e = s := by
  simp only [State.unread, h, Bool.false_eq_true, if_false]

/-- Settles O41. Each event answers the state that its lemma names: a layer sent (`layerSent`), taken or refused (`layerTaken`,
`layerRefused`), a phase begun, an exchange closed, a wait met or at its limit. -/
theorem layersAreExchanged : Obligations.LayersAreExchanged := by
  unfold Obligations.LayersAreExchanged
  refine ⟨?sent, ?waits, ?ruled, ?otherWorld, ?checked, ?phase, ?closed, ?met, ?stale⟩
  case sent =>
    intro s g face r d gang strand f hg hrun hp hf hs hi hr hpart hacc
    have hdev : (BitVec.ofNat 9 d).toNat = d := Nat.mod_eq_of_lt (State.partner_dev_lt hpart)
    refine ⟨_, s.awayLayer g r f (d, gang, strand), execHaloLayerSend_accepted ⟨hg, hrun, hp, hf, hs, hi⟩ hr hpart hacc,
      State.mem_layerSent .., fun hd => State.layers_layerSent _ _ _ _ _ (BitVec.eq_of_toNat_eq (hdev.trans hd)), fun hd => ?_,
      rfl, rfl, rfl, rfl, rfl, rfl, rfl, rfl, State.grid_layerSent ..⟩
    have habroad := s.layerSent_abroad g r f (s.awayLayer g r f (d, gang, strand)) (fun h => hd (hdev.symm.trans (congrArg _ h)))
    rw [show (s.awayLayer g r f (d, gang, strand)).dev.toNat = d from hdev] at habroad
    exact habroad
  case waits =>
    intro s g face r p f hg hrun hp hf hs hi hr hpart hacc
    exact ⟨_, execHaloLayerSend_waits ⟨hg, hrun, hp, hf, hs, hi⟩ hr hpart hacc, .setCtx .., rfl, State.grid_setGrid ..⟩
  case ruled =>
    intro s g face r rule f hg hrun hp hf hs hi hr hfix hper
    exact ⟨_, s.ruledLayer g r f rule, execHaloLayerSend_ruled ⟨hg, hrun, hp, hf, hs, hi⟩ hr hfix hper, State.mem_layerSent ..,
      State.layers_layerSent _ _ _ _ _ (BitVec.ofNat_toNat ..), rfl, rfl, rfl, rfl, rfl, rfl, (Nat.add_assoc ..).symm,
      State.grid_layerSent ..⟩
  case otherWorld =>
    intro s l k hd hk hw
    exact ⟨_, execHaloLayerArrival_otherWorld hd hk hw, rfl, rfl, rfl⟩
  case checked =>
    intro s l k r hin hk hw hg hb hl
    obtain ⟨htaken, hrefused⟩ := execHaloLayerArrival_checked hin hk hw hg hb hl
    by_cases h : Agrees s k r l
    · exact ⟨_, htaken h, State.layers_layerTaken ..,
        fun _ => ⟨State.mem_layerTaken .., State.grid_layerTaken ..⟩, fun hn => absurd h hn⟩
    · exact ⟨_, hrefused h, rfl, fun ha => absurd ha h,
        fun _ => ⟨rfl, State.grid_layerRefused .., State.pend_layerRefused _ _ _ _⟩⟩
  case phase =>
    intro s g r hg hrun hp hd h2 h1
    obtain ⟨l, a, b, hq⟩ := r.startPhase_spec (r.phase + 1)
    refine ⟨_, r.startPhase (r.phase + 1), execHaloPhaseAdvance_advances hg hrun hp hd h2 h1, .setCtx .., State.grid_setGrid ..,
      by rw [hq], by rw [hq], by rw [hq], fun f hf2 hf1 => ?_⟩
    rw [Grid.face_startPhase, if_neg (by omega)]
  case closed =>
    intro s g r hg hrun hp h0 hf
    have hctx := s.ctx_exchangeClosed g r
    have hincrs : (s.exchangeClosed g r).incrs = (s.boundRaised r).incrs := rfl
    have hmem : (s.exchangeClosed g r).mem = (s.boundRaised r).mem := rfl
    refine ⟨_, execGxchgComplete_closes hg hrun hp h0 hf, ?_, by rw [hmem, State.boundRaised_eq], ?_, by rw [hctx]⟩
    · rw [State.grid, hctx]
      exact (Ctx.grid_setGrid (some { r with phase := 0, incp := false }) s.ctx g.toNat g.toNat).trans (if_pos rfl)
    · rw [hincrs, State.boundRaised]
      cases r.incp <;> cases r.bind <;> rfl
  case met =>
    intro s g a e dp c b r hh hi hfr hpu hg hc hbank hla
    have hiss : Issues { s with iss := c } .halo (.gwait g a e dp) := ⟨hi, hpu, hla, hi ▸ hbank, rfl⟩
    have hx : exec .gwaitMet s = exec (.gwait g a e dp) { s with iss := c } := by
      have hg' : ({ s with iss := c } : State).grid g = some r := hg
      have hc' : r.check ((({ s with iss := c } : State).sc a).setWidth 32) r.used = .ready := hc
      simp only [exec_gwaitMet, execGwaitMet, State.haloHead_eq hh, hi, hg', hc', hfr, and_self, if_true]; rfl
    exact ⟨_, hx.trans (exec_gwait_ready hiss hg hc), leaves_of_eng_eq rfl, rfl⟩
  case stale =>
    intro s g f a e dp c b r hh hi hst hg h0 hlim hla hpend
    have hx : exec .stalehalo s = .next (({ s with iss := c } : State).freeze .halo tSTALEHALO
        (haloInfo (r.face f).hstep ((c.sc a).setWidth 32) f g)) := by
      have hun : ({ s with iss := c } : State).unread .halo = { s with iss := c } := State.unread_unlatched hla
      simp only [exec_stalehalo, execStalehalo, hst, h0, hlim, State.haloHead_eq hh, hg, hi, hun, ne_eq, not_false_eq_true, and_self,
        if_true]
      rfl
    have heng := State.eng_freeze (s := { s with iss := c }) (e := .halo) tSTALEHALO
      (haloInfo (r.face f).hstep ((c.sc a).setWidth 32) f g) hpend
    exact ⟨_, hx, by rw [heng], rfl, by rw [heng]⟩

end Sys2Proof
